-- ==== Sys2Proof/Word.lean ====
section
/-! DEFINITION. The word types of the Limenus L9 and the sparse array type that holds registers and memories (R11, R14, R95). -/

namespace Sys2Proof

/-- The smallest unit of memory. -/
abbrev Byte := BitVec 8

/-- A scalar register, an address while it is computed, an instruction word (R11, R14, R158). -/
abbrev Word := BitVec 64

/-- One 32-bit element of a vector register, or a 32-lane predicate mask (R11). -/
abbrev Lane := BitVec 32

/-- A sparse array of `w`-bit values: pairs of a key and its value, keys strictly rising, no value zero.
An unlisted key reads as zero. -/
abbrev Cells (w : Nat) := List (Nat × BitVec w)

end Sys2Proof
end

