-- ==== Sys2Proof/Config.lean ====
section
/-! DEFINITION. What the specification leaves open: free values, of which nothing is known but what the specification bounds.
Each constant is opaque and has no body. -/

namespace Sys2Proof

/-- The approximate functions of R220. -/
inductive ApproxFn where
  | rcp | rsqrt | exp2 | log2 | sin | cos | tanh
  deriving DecidableEq, Repr

/-- The bits that a far core or quay unit returns for an approximate function of an F32 operand: a fixed function
of the operand that the specification does not state (R221). The machine confines it to the bounds of R220. -/
opaque Config.approxBits : ApproxFn → BitVec 32 → BitVec 32

/-- The SM3 hash of a byte string (R373 names the algorithm and gives no body). -/
opaque Config.sm3 : List Byte → BitVec 256

/-- The SM2 signature of the attestation report (R375 names the algorithm and gives no body). -/
opaque Config.sm2 : List Byte → List Byte

/-- The security version held in the device's fuses (R373). -/
opaque Config.fusedVersion : Nat

/-- The SM3 hash of the public key that is held in the device's fuses (R373). -/
opaque Config.fusedKey : BitVec 256

/-- Whether a public key verifies the SM2 signature, made over a digest, that an image carries (R373; the format is not stated). -/
opaque Config.imageSigned : (key : List Byte) → (digest : BitVec 256) → (image : List Byte) → Bool

/-- The security version that an image carries (R373; its place in the image is not stated). -/
opaque Config.imageVersion : List Byte → Nat

/-- The partition mode that an image sets (R304, R373; its place in the image is not stated). -/
opaque Config.imageMode : List Byte → BitVec 2

/-- The physical address at which the firmware of an image starts (R373; its place in the image is not stated). -/
opaque Config.imageEntry : List Byte → Nat

/-- Fresh unconstrained values, one for each value of the state's counter `fresh`. -/
opaque Config.freeValue : Nat → Word

end Sys2Proof
end

