-- ==== Sys2Proof/Machine/Bits.lean ====
section
/-! DEFINITION. Bit-field, byte-order and integer helpers shared by every part of the machine. -/

namespace Sys2Proof.Machine

/-- `true` is 1. -/
def b2n (b : Bool) : Nat := if b then 1 else 0

/-- Bits [lo + len - 1 : lo] of a number. -/
def bits (x lo len : Nat) : Nat := (x >>> lo) % 2 ^ len

/-- Bit `i` of a number. -/
def bitAt (x i : Nat) : Bool := (x >>> i) % 2 == 1

/-- A number's value as a `w`-bit two's complement integer (R70). -/
def toSigned (w x : Nat) : Int :=
  if x % 2 ^ w < 2 ^ (w - 1) then (x % 2 ^ w : Nat) else ((x % 2 ^ w : Nat) : Int) - (2 ^ w : Nat)

/-- An integer reduced modulo 2^w (R70). -/
def ofSigned (w : Nat) (x : Int) : Nat := (x % ((2 ^ w : Nat) : Int)).toNat

/-- Number of set bits among the low `w` bits. -/
def popCount : Nat → Nat → Nat
  | 0, _ => 0
  | w + 1, x => b2n (bitAt x w) + popCount w x

/-- Zero bits above the highest set bit at width `w` (R200). -/
def clzAt : Nat → Nat → Nat
  | 0, _ => 0
  | w + 1, x => if bitAt x w then 0 else clzAt w x + 1

/-- The lowest set bit among the low `w` bits. -/
def lowestSet (w x : Nat) : Option Nat := (List.range w).find? (bitAt x ·)

/-- The set bits among the low `w` bits, ascending. -/
def setBits (w x : Nat) : List Nat := (List.range w).filter (bitAt x ·)

/-- The number whose set bits are the members of the list. -/
def maskOf (l : List Nat) : Nat := l.foldl (fun m i => m ||| 2 ^ i) 0

/-- floor(log2(num / den)) of a positive fraction. -/
def floorLog2 (num den : Nat) : Int :=
  let k : Int := (num.log2 : Int) - (den.log2 : Int)
  if num * 2 ^ (-k).toNat < den * 2 ^ k.toNat then k - 1 else k

/-- The integer square root, decided one bit at a time from bit `n - 1` down. -/
def isqrtFrom : Nat → Nat → Nat → Nat
  | 0, _, r => r
  | n + 1, x, r => isqrtFrom n x (if (r + 2 ^ n) * (r + 2 ^ n) ≤ x then r + 2 ^ n else r)

/-- floor(sqrt x). -/
def isqrt (x : Nat) : Nat := isqrtFrom (x.log2 / 2 + 1) x 0

/-- A 32-bit rotation to the left. -/
def rotl32 (x n : Nat) : Nat := ((x <<< n) ||| (x >>> (32 - n))) % 2 ^ 32

/-- Little-endian bytes of a number (R4). -/
def toBytes (n x : Nat) : List Byte := (List.range n).map fun i => BitVec.ofNat 8 (x >>> (8 * i))

/-- The number whose little-endian bytes are given (R4). -/
def ofBytes : List Byte → Nat
  | [] => 0
  | b :: r => b.toNat + 256 * ofBytes r

/-- floor division rounding up. -/
def ceilDiv (a b : Nat) : Nat := (a + b - 1) / b

/-- Rounds down to a multiple. -/
def alignDown (a n : Nat) : Nat := a / n * n

/-- The first element of a list for which the function answers something. -/
def firstSome (f : α → Option β) : List α → Option β
  | [] => none
  | a :: r => match f a with
    | some b => some b
    | none => firstSome f r

/-- Replaces every element that the test selects. -/
def mapWhere (p : α → Bool) (f : α → α) (l : List α) : List α := l.map fun a => if p a then f a else a

/-- Puts an element in the place of the first that the test selects, else at the end. -/
def putWhere (p : α → Bool) (x : α) : List α → List α
  | [] => [x]
  | a :: r => if p a then x :: r else a :: putWhere p x r

/-- Appends an element unless the list holds it. -/
def addOnce [BEq α] (a : α) (l : List α) : List α := if l.contains a then l else l ++ [a]

end Sys2Proof.Machine
end

