-- ==== Sys2Proof/Syntax.lean ====
section
/-! DEFINITION. The instruction set of the L9 as syntax: one constructor of `Instr` per row of spec/opcode_table.json.
Rows 0 to 116 are instructions with a word (R158 to R170), rows 117 to 185 are the device's other steps. -/

namespace Sys2Proof

/-- The type codes of R166, in code order. -/
inductive Ty where
  | i8 | i16 | i32 | i64 | n8 | n16 | n32 | n64
  | b8 | b16 | b32 | b64 | b128 | f32 | bf16 | f16
  | e4m3 | e5m2 | e2m3 | e3m2 | e2m1 | cb4
  deriving DecidableEq, Repr

/-- The rounding codes of R167 (RT). -/
inductive Rm where
  | rne | rz | rd | ru | sr
  deriving DecidableEq, Repr

/-- The condition codes of R167 (CT). -/
inductive Cc where
  | eq | ne | lt | le | gt | ge | un
  deriving DecidableEq, Repr

/-- The special values of R163. -/
inductive Special where
  | lane | lanebit | slot | core | die | berth | crew | crewsz | cycle | bsw | ctx | scr
  deriving DecidableEq, Repr

/-- An operand byte other than 0xFF (R162): a vector, a scalar, a special value, an inline constant
0xE0 + n (R164) or a predicate. -/
inductive Opnd where
  | v (n : BitVec 7)
  | s (n : BitVec 6)
  | sp (x : Special)
  | k (n : BitVec 4)
  | p (n : BitVec 3)
  deriving DecidableEq, Repr

/-- The fields every word has (R158). -/
structure Ctl where
  pn : Bool
  pr : BitVec 3
  se : Bool
  ss : BitVec 3
  wm : BitVec 8
  deriving DecidableEq, Repr

/-- The scopes of R120. -/
inductive Scope where
  | core | pkg | sys
  deriving DecidableEq, Repr

/-- The order and scope of MO (R168). -/
inductive MemOrd where
  | plain
  | acq (sc : Scope)
  | rel (sc : Scope)
  | full (sc : Scope)
  deriving DecidableEq, Repr

/-- The order of a fence (R243). -/
inductive FenceKind where
  | acq | rel | full
  deriving DecidableEq, Repr

/-- Load and store types (R168, R236). -/
inductive LdTy where
  | b8 | b16 | b32 | b64 | b128 | i8 | i16 | i32 | f32 | bf16 | f16 | e4m3 | e5m2
  deriving DecidableEq, Repr

/-- Atomic types (R168, R240). -/
inductive AtTy where
  | b32 | b64 | i32 | i64 | n32 | n64 | f32
  deriving DecidableEq, Repr

/-- Full/empty types (R168, R244). -/
inductive FeTy where
  | b8 | b16 | b32 | b64 | b128 | f32 | bf16 | f16
  deriving DecidableEq, Repr

/-- The memory operand of format M (R33, R161): base scalar, index and OFS8. -/
structure MemArg where
  base : BitVec 6
  index : Option Opnd
  ofs : BitVec 8
  deriving DecidableEq, Repr

/-- The condition of `br` with the operand its CC takes (R169, R180). -/
inductive BrCond where
  | always
  | z (s : BitVec 6)
  | nz (s : BitVec 6)
  | ltz (s : BitVec 6)
  | gez (s : BitVec 6)
  | any (p : BitVec 3)
  | all (p : BitVec 3)
  | none (p : BitVec 3)
  deriving DecidableEq, Repr

/-- The modes of `perm` (R201). -/
inductive PermMode where
  | idx | bcast | rot | xor
  deriving DecidableEq, Repr

/-- The operations of `red` (R202). -/
inductive RedOp where
  | add | min | max | and | or | xor
  deriving DecidableEq, Repr

/-- How a host write reaches the device: through HDM (R366), as the loader's placing of one block of a B128 page with scale
0x7F (R282), through BAR0, or as the enabling (or not) of a physical function's MSI-X (R366). -/
inductive HostForm where
  | plain
  | loaderBlock (code : BitVec 4)
  | bar0
  | msixEnable (on : Bool)
  deriving DecidableEq, Repr

/-- How a host read reaches the device: through HDM, keeping a copy of the lines or not (R135), or through BAR0 (R366). -/
inductive HostRead where
  | plain | cached | bar0
  deriving DecidableEq, Repr

/-- A cycle of a berth (R311): does a claim of its quay unit reach it in this cycle? -/
structure BerthTurn where
  berth : Nat
  claim : Bool
  deriving DecidableEq, Repr

/-- The unit that is saved, and the physical address in the partition where its image goes (R359). -/
structure SavePlace where
  unit : Nat
  pa : Nat
  deriving DecidableEq, Repr

/-- A Juwin packet as the network port sees it (R371, R372): the partition and the context are its connection's. -/
structure Packet where
  conn : Nat
  seq : BitVec 32
  crcOk : Bool
  release : Bool
  addr : Word
  data : List Byte
  deriving DecidableEq, Repr

/-- One constructor per row of spec/opcode_table.json, in its order. -/
inductive Instr where
  -- control and scalar (R178 to R194)
  | nop (c : Ctl)
  | br (c : Ctl) (cond : BrCond) (off : BitVec 24)
  | call (c : Ctl) (link : BitVec 6) (off : BitVec 24)
  | lea (c : Ctl) (d : BitVec 6) (off : BitVec 24)
  | jr (c : Ctl) (a : BitVec 6)
  | jalr (c : Ctl) (d a : BitVec 6)
  | loop (c : Ctl) (lc1 : Bool) (count : Opnd) (off : BitVec 24)
  | li (c : Ctl) (d : Opnd) (imm : BitVec 32)
  | lih (c : Ctl) (d : BitVec 6) (imm : BitVec 32)
  | mulh (c : Ctl) (t : Ty) (d : BitVec 6) (a b : Opnd)
  | csel (c : Ctl) (d a b k : Opnd)
  -- integer (R193 to R204)
  | add (c : Ctl) (t : Ty) (d a b : Opnd)
  | addImm (c : Ctl) (t : Ty) (d a : Opnd) (imm : BitVec 16)
  | sub (c : Ctl) (t : Ty) (d a b : Opnd)
  | mul (c : Ctl) (t : Ty) (d a b : Opnd)
  | mulImm (c : Ctl) (t : Ty) (d a : Opnd) (imm : BitVec 16)
  | mad (c : Ctl) (t : Ty) (d a b x : Opnd)
  | mov (c : Ctl) (d a : Opnd)
  | and (c : Ctl) (t : Ty) (d a b : Opnd)
  | andImm (c : Ctl) (t : Ty) (d a : Opnd) (imm : BitVec 16)
  | or (c : Ctl) (t : Ty) (d a b : Opnd)
  | orImm (c : Ctl) (t : Ty) (d a : Opnd) (imm : BitVec 16)
  | xor (c : Ctl) (t : Ty) (d a b : Opnd)
  | xorImm (c : Ctl) (t : Ty) (d a : Opnd) (imm : BitVec 16)
  | not (c : Ctl) (t : Ty) (d a : Opnd)
  | shl (c : Ctl) (t : Ty) (d a b : Opnd)
  | shlImm (c : Ctl) (t : Ty) (d a : Opnd) (imm : BitVec 16)
  | lsr (c : Ctl) (t : Ty) (d a b : Opnd)
  | lsrImm (c : Ctl) (t : Ty) (d a : Opnd) (imm : BitVec 16)
  | asr (c : Ctl) (t : Ty) (d a b : Opnd)
  | asrImm (c : Ctl) (t : Ty) (d a : Opnd) (imm : BitVec 16)
  | min (c : Ctl) (t : Ty) (d a b : Opnd)
  | max (c : Ctl) (t : Ty) (d a b : Opnd)
  | cmp (c : Ctl) (cc : Cc) (t : Ty) (d a b : Opnd)
  | cmpImm (c : Ctl) (cc : Cc) (t : Ty) (d a : Opnd) (imm : BitVec 16)
  | bfx (c : Ctl) (t : Ty) (d a pos len : Opnd)
  | bfi (c : Ctl) (t : Ty) (d a pos len : Opnd)
  | popc (c : Ctl) (t : Ty) (d a : Opnd)
  | clz (c : Ctl) (t : Ty) (d a : Opnd)
  | perm (c : Ctl) (m : PermMode) (d a : BitVec 7) (b : Opnd)
  | red (c : Ctl) (op : RedOp) (t : Ty) (d : Opnd) (a : BitVec 7)
  | gaddr (c : Ctl) (d a b : Opnd) (x : Option Opnd)
  -- floating point, conversion, blocks, randomness (R206 to R231)
  | addFloat (c : Ctl) (t : Ty) (rm : Rm) (d : BitVec 7) (a b : Opnd) (g : Option Opnd)
  | subFloat (c : Ctl) (t : Ty) (rm : Rm) (d : BitVec 7) (a b : Opnd) (g : Option Opnd)
  | mulFloat (c : Ctl) (t : Ty) (rm : Rm) (d : BitVec 7) (a b : Opnd) (g : Option Opnd)
  | fma (c : Ctl) (t : Ty) (rm : Rm) (d : BitVec 7) (a b x : Opnd)
  | fms (c : Ctl) (t : Ty) (rm : Rm) (d : BitVec 7) (a b x : Opnd)
  | minFloat (c : Ctl) (t : Ty) (d : BitVec 7) (a b : Opnd)
  | maxFloat (c : Ctl) (t : Ty) (d : BitVec 7) (a b : Opnd)
  | abs (c : Ctl) (t : Ty) (d : BitVec 7) (a : Opnd)
  | neg (c : Ctl) (t : Ty) (d : BitVec 7) (a : Opnd)
  | div (c : Ctl) (t : Ty) (rm : Rm) (d : BitVec 7) (a b : Opnd) (g : Option Opnd)
  | sqrt (c : Ctl) (t : Ty) (rm : Rm) (d : BitVec 7) (a : Opnd) (g : Option Opnd)
  | rcp (c : Ctl) (t : Ty) (d : BitVec 7) (a : Opnd)
  | rsqrt (c : Ctl) (t : Ty) (d : BitVec 7) (a : Opnd)
  | exp2 (c : Ctl) (t : Ty) (d : BitVec 7) (a : Opnd)
  | log2 (c : Ctl) (t : Ty) (d : BitVec 7) (a : Opnd)
  | sin (c : Ctl) (t : Ty) (d : BitVec 7) (a : Opnd)
  | cos (c : Ctl) (t : Ty) (d : BitVec 7) (a : Opnd)
  | tanh (c : Ctl) (t : Ty) (d : BitVec 7) (a : Opnd)
  | cvt (c : Ctl) (dt st : Ty) (rm : Rm) (d : BitVec 7) (a : Opnd) (g : Option Opnd)
  | bq (c : Ctl) (t : Ty) (d a : BitVec 7)
  | bdq (c : Ctl) (t et : Ty) (rm : Rm) (d : BitVec 7) (a b : Opnd)
  | cbq (c : Ctl) (tab : BitVec 3) (d : BitVec 7) (a b : Opnd)
  | cbl (c : Ctl) (tab : BitVec 3) (d : BitVec 7) (a b : Opnd)
  | rnd128 (c : Ctl) (d a : BitVec 7) (b : BitVec 6)
  | flget (c : Ctl) (d : BitVec 6)
  | flclr (c : Ctl) (m : Opnd)
  | fclass (c : Ctl) (t : Ty) (d : BitVec 7) (a : Opnd)
  | frnd (c : Ctl) (t : Ty) (rm : Rm) (d : BitVec 7) (a : Opnd) (g : Option Opnd)
  -- memory, atomics, full/empty (R232 to R246)
  | ldG (c : Ctl) (t : LdTy) (o : MemOrd) (d : Opnd) (m : MemArg)
  | stG (c : Ctl) (t : LdTy) (o : MemOrd) (d : Opnd) (m : MemArg)
  | ldS (c : Ctl) (t : LdTy) (o : MemOrd) (d : Opnd) (m : MemArg)
  | stS (c : Ctl) (t : LdTy) (o : MemOrd) (d : Opnd) (m : MemArg)
  | pfG (c : Ctl) (m : MemArg)
  | atomAdd (c : Ctl) (scr : Bool) (t : AtTy) (o : MemOrd) (d : Opnd) (m : MemArg)
  | atomMin (c : Ctl) (scr : Bool) (t : AtTy) (o : MemOrd) (d : Opnd) (m : MemArg)
  | atomMax (c : Ctl) (scr : Bool) (t : AtTy) (o : MemOrd) (d : Opnd) (m : MemArg)
  | atomAnd (c : Ctl) (scr : Bool) (t : AtTy) (o : MemOrd) (d : Opnd) (m : MemArg)
  | atomOr (c : Ctl) (scr : Bool) (t : AtTy) (o : MemOrd) (d : Opnd) (m : MemArg)
  | atomXor (c : Ctl) (scr : Bool) (t : AtTy) (o : MemOrd) (d : Opnd) (m : MemArg)
  | atomXchg (c : Ctl) (scr : Bool) (t : AtTy) (o : MemOrd) (d : Opnd) (m : MemArg)
  | atomCas (c : Ctl) (scr : Bool) (t : AtTy) (o : MemOrd) (d : Opnd) (m : MemArg)
  | fence (c : Ctl) (k : FenceKind) (sc : Scope)
  | ldf (c : Ctl) (t : FeTy) (d : Opnd) (m : MemArg)
  | ldfc (c : Ctl) (t : FeTy) (d : Opnd) (m : MemArg)
  | stf (c : Ctl) (t : FeTy) (d : Opnd) (m : MemArg)
  | feset (c : Ctl) (a n : Opnd)
  | feclr (c : Ctl) (a n : Opnd)
  | discard (c : Ctl) (a : BitVec 6) (n : Opnd)
  -- transactions, tasks, events, launch (R247 to R253)
  | xbegin (c : Ctl) (off : BitVec 24)
  | xend (c : Ctl)
  | retry (c : Ctl)
  | otherwise (c : Ctl) (off : BitVec 24)
  | xabort (c : Ctl) (imm : BitVec 16)
  | xstat (c : Ctl) (d : BitVec 6)
  | spawn (c : Ctl) (d q : BitVec 6)
  | tret (c : Ctl)
  | progress (c : Ctl)
  | evset (c : Ctl) (e : Opnd)
  | evclr (c : Ctl) (e : Opnd)
  | launch (c : Ctl) (d a : BitVec 6)
  -- engines, code tables, charts (R254 to R275)
  | mxc (c : Ctl) (q : BitVec 6)
  | cpc (c : Ctl) (q : BitVec 6)
  | ctld (c : Ctl) (a : BitVec 6) (sorted : Bool) (n : BitVec 3)
  | ctswap (c : Ctl) (mask : BitVec 8)
  | chartld (c : Ctl) (a : BitVec 6) (n : BitVec 4)
  | accrd (c : Ctl) (d : BitVec 7) (index : Opnd) (bank : BitVec 2)
  | accwr (c : Ctl) (index : Opnd) (bank : BitVec 2) (data : Opnd)
  -- system (R290 to R301)
  | trap (c : Ctl) (imm : BitVec 16)
  | eret (c : Ctl)
  | srr (c : Ctl) (d : BitVec 6) (reg : BitVec 16)
  | srw (c : Ctl) (reg : BitVec 16) (a : BitVec 6)
  | tlbi (c : Ctl) (a b : BitVec 6)
  | tlbsync (c : Ctl)
  | sighost (c : Ctl) (a : BitVec 6)
  | halt (c : Ctl)
  -- a word that is no instruction (R173, R174)
  | illegal (w : Word)
  -- completions and waits of a wave
  | slotCompletion (gwn flight : Nat)
  | storePerformedAtHome (gwn flight line : Nat)
  | atomicAtHome (gwn flight line : Nat)
  | wakeRestart (gwn : Nat)
  | backoffExpiry (gwn : Nat)
  | feReexecute (gwn : Nat)
  | faultQueueEntryWrite (part : Nat)
  -- engines
  | matrixMma (core : Nat)
  | matrixMmaz (core : Nat)
  | matrixZero (core : Nat)
  | matrixKstep (core : Nat)
  | lighterStart (core cmd : Nat)
  | lighterTurn (core : Nat)
  | convNone (core cmd : Nat)
  | convElementwise (core cmd : Nat)
  | expandBf16 (core cmd : Nat)
  | expandF32 (core cmd : Nat)
  | packIn (core cmd : Nat)
  | packOut (core cmd : Nat)
  | quantBf16 (core cmd : Nat)
  | quantF32 (core cmd : Nat)
  | requantBf16 (core cmd : Nat)
  -- launches, berths, pilots, crews
  | launchCheck (part : Nat)
  | berthCycle (turn : BerthTurn)
  | statusLineRewrite (berth : Nat)
  | taskPriorityAge (berth record : Nat)
  | pilotSend (core : Nat)
  | remoteWaitExpiry (core : Nat)
  | crewStart (unit crew : Nat)
  | wavePriorityAge (gwn : Nat)
  | manifestWrite (ctx launch : Nat)
  | manifestRetry (ctx launch : Nat)
  | watchdogHang (gwn : Nat)
  | shadowCompare (berth record : Nat)
  -- pre-emption, restore, harbourmaster commands
  | preempt (ctx : Nat)
  | preemptImageWrite (ctx : Nat) (place : SavePlace)
  | restore (part slot image unit : Nat)
  | ctxload (part slot : Nat)
  | ctxset (part slot : Nat)
  | stealload (part core : Nat)
  | ctxunload (part slot : Nat)
  | resume (gwn : Nat)
  | fault (gwn : Nat) (cause : BitVec 8)
  | sysregWrite (reg : BitVec 16) (value : Word)
  -- migration, relayout, sweeping, injection
  | writeProtectCollapse (gwn frame table : Nat)
  | reReplicate (ctx va : Nat)
  | pinExpiry (ctx va : Nat)
  | migrationWindowReset (ctx va : Nat)
  | relayoutReencode (berth entry : Nat)
  | memorySweep (line : Nat)
  | l2Sweep (line : Nat)
  | errorInjection (part pa : Nat) (side : Word) (data : BitVec 512) (first second : Bool)
  -- host, network and management ports, boot
  | launchPageTake (ctx : Nat)
  | preemptRequest (ctx : Nat)
  | restoreRequest (ctx unit : Nat)
  | relayoutRequest (ctx : Nat)
  | hostWrite (part pa : Nat) (data : List Byte) (form : HostForm)
  | hostRead (part pa len : Nat) (how : HostRead)
  | juwinPacket (p : Packet)
  | linkRetrain (link : Nat) (ok : Bool)
  | reset
  | bootcmdGo (length : Word)
  | bootVerifyDone (key : List Byte)
  | attestation (nonce : BitVec 256)
  | throttle (sixteenths : BitVec 4)
  | thermalShutdown
  | msixVectorUnmask (fn : Nat) (vec : BitVec 11)
  | tlbEntryDrop (entry : Nat)
  deriving DecidableEq, Repr

end Sys2Proof
end

