-- ==== Sys2Proof/Machine/Fp.lean ====
section
/-! DEFINITION. Number formats, exact values and rounding (R70 to R87), and the float operations on one element
(R212 to R219). An encoding is a natural number; flags are five bits (R87). -/

namespace Sys2Proof.Machine

/-- The five sticky flags of R87: SAT, INV, OVF, UNF, INX from bit 4 down. -/
abbrev Flags := BitVec 5

/-- INX (R87). -/
def fINX : Flags := 1
/-- UNF (R87). -/
def fUNF : Flags := 2
/-- OVF (R87). -/
def fOVF : Flags := 4
/-- INV (R87). -/
def fINV : Flags := 8
/-- SAT (R87). -/
def fSAT : Flags := 16

/-- A floating-point format (R71): exponent and fraction widths, bias, the largest finite magnitude's encoding, the
magnitude of infinity and of the canonical NaN where the format has them, and emax. -/
structure Fmt where
  eb : Nat
  mb : Nat
  bias : Nat
  maxEnc : Nat
  inf : Option Nat
  nan : Option Nat
  emax : Int
  deriving DecidableEq, Repr

/-- F32 (R71). -/
def fmtF32 : Fmt := ⟨8, 23, 127, 0x7F7FFFFF, some 0x7F800000, some 0x7FC00000, 127⟩
/-- BF16 (R71). -/
def fmtBF16 : Fmt := ⟨8, 7, 127, 0x7F7F, some 0x7F80, some 0x7FC0, 127⟩
/-- F16 (R71). -/
def fmtF16 : Fmt := ⟨5, 10, 15, 0x7BFF, some 0x7C00, some 0x7E00, 15⟩
/-- E5M2 (R71). -/
def fmtE5M2 : Fmt := ⟨5, 2, 15, 0x7B, some 0x7C, some 0x7E, 15⟩
/-- E4M3 (R71). -/
def fmtE4M3 : Fmt := ⟨4, 3, 7, 0x7E, none, some 0x7F, 8⟩
/-- E3M2 (R71). -/
def fmtE3M2 : Fmt := ⟨3, 2, 3, 0x1F, none, none, 4⟩
/-- E2M3 (R71). -/
def fmtE2M3 : Fmt := ⟨2, 3, 1, 0x1F, none, none, 2⟩
/-- E2M1 (R71). -/
def fmtE2M1 : Fmt := ⟨2, 1, 1, 0x7, none, none, 2⟩

/-- The width of an encoding (R71). -/
def Fmt.width (f : Fmt) : Nat := 1 + f.eb + f.mb

/-- The sign bit's place value. -/
def Fmt.signBit (f : Fmt) : Nat := 2 ^ (f.eb + f.mb)

/-- The format that a type code names (R166), where it names one. -/
def Fmt.ofTy : Ty → Option Fmt
  | .f32 => some fmtF32
  | .bf16 => some fmtBF16
  | .f16 => some fmtF16
  | .e4m3 => some fmtE4M3
  | .e5m2 => some fmtE5M2
  | .e2m3 => some fmtE2M3
  | .e3m2 => some fmtE3M2
  | .e2m1 => some fmtE2M1
  | _ => none

/-- An exact value: NaN, an infinity, or (-1)^neg × m × 2^e; a zero keeps its sign (R72, R78). -/
inductive FVal where
  | nan
  | inf (neg : Bool)
  | num (neg : Bool) (m : Nat) (e : Int)
  deriving DecidableEq, Repr

/-- Is this magnitude a NaN encoding (R71)? -/
def Fmt.isNan (f : Fmt) (m : Nat) : Bool :=
  match f.inf, f.nan with
  | some i, _ => i < m
  | none, some n => m == n
  | none, none => false

/-- The exact value of an encoding (R72); bits above the width are ignored. -/
def Fmt.dec (f : Fmt) (x : Nat) : FVal :=
  let neg := bitAt x (f.eb + f.mb)
  let m := x % f.signBit
  if f.isNan m then .nan
  else if f.inf == some m then .inf neg
  else if m / 2 ^ f.mb = 0 then .num neg (m % 2 ^ f.mb) (1 - f.bias - f.mb)
  else .num neg (m % 2 ^ f.mb + 2 ^ f.mb) ((m / 2 ^ f.mb : Nat) - (f.bias : Int) - f.mb)

/-- The encoding with a sign and a magnitude. -/
def Fmt.withSign (f : Fmt) (neg : Bool) (m : Nat) : Nat := if neg then f.signBit + m else m

/-- The canonical NaN (R83), +0 where the format has none. -/
def Fmt.cnan (f : Fmt) : Nat := f.nan.getD 0

/-- Does rounding select a + q (R79, R84)? The quotient N / D is not a whole number; `a` is its floor, `g` the random
operand. -/
def roundsUp (rm : Rm) (neg : Bool) (g n d : Nat) : Bool :=
  match rm with
  | .rne => decide (d < 2 * (n % d)) || (decide (2 * (n % d) = d) && (n / d) % 2 == 1)
  | .rz => false
  | .rd => neg
  | .ru => !neg
  | .sr => decide (g < (n % d) * 65536 / d)

/-- Rounds n / d to a whole number under R79; the flag says whether the result is inexact. -/
def roundQuot (rm : Rm) (neg : Bool) (g n d : Nat) : Nat × Bool :=
  if n % d = 0 then (n / d, false) else (n / d + b2n (roundsUp rm neg g n d), true)

/-- The magnitude and the flags of an overflowed result (R80). `up` says that rounding selected a + q. -/
def Fmt.overflow (f : Fmt) (rm : Rm) (sat neg up : Bool) : Nat × Flags :=
  match f.inf, sat with
  | some i, false =>
    let toInf := match rm with
      | .rne => true
      | .rz => false
      | .rd => neg
      | .ru => !neg
      | .sr => up
    (if toInf then i else f.maxEnc, fOVF ||| fINX)
  | _, _ => (f.maxEnc, fOVF ||| fINX ||| fSAT)

/-- Rounds the positive value num / den × 2^e to the format: the encoding's magnitude and the flags (R79 to R81).
`sat` marks the operations that R80 calls saturating. -/
def Fmt.roundMag (f : Fmt) (rm : Rm) (sat neg : Bool) (g num den : Nat) (e : Int) : Nat × Flags :=
  let lg := floorLog2 num den + e
  let emin : Int := 1 - f.bias
  let ex := if lg < emin then emin else lg
  let sh := e - (ex - f.mb)
  let n := num * 2 ^ sh.toNat
  let d := den * 2 ^ (-sh).toNat
  let r := roundQuot rm neg g n d
  let enc := ((ex - emin) * (2 ^ f.mb : Nat)).toNat + r.1
  if f.maxEnc < enc then f.overflow rm sat neg (r.1 != n / d)
  else (enc, if r.2 then (if lg < emin then fINX ||| fUNF else fINX) else 0)

/-- Rounds an exact value to the format (R79 to R83). -/
def Fmt.round (f : Fmt) (rm : Rm) (sat : Bool) (g : Nat) : FVal → Nat × Flags
  | .nan => (f.cnan, if f.nan.isSome then 0 else fINV)
  | .inf neg => match f.inf with
    | some i => (f.withSign neg i, 0)
    | none => (f.withSign neg f.maxEnc, fSAT)
  | .num neg m e =>
    if m = 0 then (f.withSign neg 0, 0)
    else let r := f.roundMag rm sat neg g m 1 e; (f.withSign neg r.1, r.2)

/-- The value with the opposite sign. -/
def FVal.negate : FVal → FVal
  | .nan => .nan
  | .inf n => .inf !n
  | .num n m e => .num (!n) m e

/-- The value multiplied by 2^k. -/
def FVal.scale (k : Int) : FVal → FVal
  | .num n m e => .num n m (e + k)
  | v => v

/-- A signed mantissa at an exponent not above the value's own. -/
def alignTo (e0 : Int) (neg : Bool) (m : Nat) (e : Int) : Int :=
  let x : Int := (m * 2 ^ (e - e0).toNat : Nat)
  if neg then -x else x

/-- The exact sum (R78), its zero signed under R82, ∞ − ∞ invalid (R83). -/
def FVal.add (rm : Rm) (a b : FVal) : FVal × Flags :=
  match a, b with
  | .nan, _ => (.nan, 0)
  | _, .nan => (.nan, 0)
  | .inf s, .inf t => if s == t then (.inf s, 0) else (.nan, fINV)
  | .inf s, .num .. => (.inf s, 0)
  | .num .., .inf t => (.inf t, 0)
  | .num s m e, .num t n k =>
    let e0 := if e ≤ k then e else k
    let x := alignTo e0 s m e + alignTo e0 t n k
    if x = 0 then (.num (if s == t && m == 0 && n == 0 then s else rm == .rd) 0 0, 0)
    else (.num (decide (x < 0)) x.natAbs e0, 0)

/-- The exact product (R78), 0 × ∞ invalid (R83). -/
def FVal.mul (a b : FVal) : FVal × Flags :=
  match a, b with
  | .nan, _ => (.nan, 0)
  | _, .nan => (.nan, 0)
  | .inf s, .inf t => (.inf (s != t), 0)
  | .inf s, .num t m _ => if m = 0 then (.nan, fINV) else (.inf (s != t), 0)
  | .num s m _, .inf t => if m = 0 then (.nan, fINV) else (.inf (s != t), 0)
  | .num s m e, .num t n k => (.num (s != t) (m * n) (e + k), 0)

/-- Exact comparison in value, −0 equal to +0; none when an operand is NaN (R217). -/
def FVal.cmp (a b : FVal) : Option Ordering :=
  let side (neg : Bool) : Int := if neg then -1 else 1
  match a, b with
  | .nan, _ => none
  | _, .nan => none
  | .inf s, .inf t => some (compare (side s) (side t))
  | .inf s, .num .. => some (compare (side s) 0)
  | .num .., .inf t => some (compare 0 (side t))
  | .num s m e, .num t n k =>
    let e0 := if e ≤ k then e else k
    some (compare (alignTo e0 s m e) (alignTo e0 t n k))

/-- A binary operation of R212: exact, then rounded once. -/
def Fmt.binary (f : Fmt) (rm : Rm) (g : Nat) (op : FVal → FVal → FVal × Flags) (a b : Nat) : Nat × Flags :=
  let x := op (f.dec a) (f.dec b)
  let r := f.round rm false g x.1
  (r.1, x.2 ||| r.2)

/-- `add` (R212). -/
def Fmt.fadd (f : Fmt) (rm : Rm) (g a b : Nat) : Nat × Flags := f.binary rm g (FVal.add rm) a b

/-- `sub` (R212). -/
def Fmt.fsub (f : Fmt) (rm : Rm) (g a b : Nat) : Nat × Flags := f.binary rm g (fun x y => FVal.add rm x y.negate) a b

/-- `mul` (R212). -/
def Fmt.fmul (f : Fmt) (rm : Rm) (g a b : Nat) : Nat × Flags := f.binary rm g FVal.mul a b

/-- `fma`, and `fms` when `minus` (R213): a product of 0 and ∞ sets INV even when c is NaN. -/
def Fmt.fma (f : Fmt) (rm : Rm) (minus : Bool) (a b c : Nat) : Nat × Flags :=
  let p := FVal.mul (f.dec a) (f.dec b)
  let z := if minus then (f.dec c).negate else f.dec c
  let x := FVal.add rm p.1 z
  let r := f.round rm false 0 x.1
  (r.1, p.2 ||| x.2 ||| r.2)

/-- `div` (R214): correctly rounded, no divide-by-zero flag. -/
def Fmt.fdiv (f : Fmt) (rm : Rm) (g a b : Nat) : Nat × Flags :=
  match f.dec a, f.dec b with
  | .nan, _ => (f.cnan, 0)
  | _, .nan => (f.cnan, 0)
  | .inf _, .inf _ => (f.cnan, fINV)
  | .inf s, .num t _ _ => f.round rm false g (.inf (s != t))
  | .num s _ _, .inf t => (f.withSign (s != t) 0, 0)
  | .num s m e, .num t n k =>
    if m = 0 then (if n = 0 then (f.cnan, fINV) else (f.withSign (s != t) 0, 0))
    else if n = 0 then f.round rm false g (.inf (s != t))
    else let r := f.roundMag rm false (s != t) g m n (e - k); (f.withSign (s != t) r.1, r.2)

/-- A dyadic value that rounds as the square root of m × 2^e does in every mode: 64 extra bits and a sticky bit. -/
def sqrtDyadic (m : Nat) (e : Int) : Nat × Int :=
  let m' := if e % 2 = 0 then m else 2 * m
  let e' := if e % 2 = 0 then e else e - 1
  let n := m' * 2 ^ 128
  let r := isqrt n
  (2 * r + b2n (r * r != n), e' / 2 - 65)

/-- `sqrt` (R214): correctly rounded. -/
def Fmt.fsqrt (f : Fmt) (rm : Rm) (g a : Nat) : Nat × Flags :=
  match f.dec a with
  | .nan => (f.cnan, 0)
  | .inf s => if s then (f.cnan, fINV) else f.round rm false g (.inf false)
  | .num s m e =>
    if m = 0 then (f.withSign s 0, 0)
    else if s then (f.cnan, fINV)
    else let x := sqrtDyadic m e; let r := f.roundMag rm false false g x.1 1 x.2; (f.withSign false r.1, r.2)

/-- A key that orders the encodings of numbers by value, with −0 below +0 (R215). -/
def Fmt.key (f : Fmt) (x : Nat) : Int :=
  let m : Int := (x % f.signBit : Nat)
  if bitAt x (f.eb + f.mb) then -m - 1 else m

/-- `min` and `max` (R215): one operand unchanged, no flag. -/
def Fmt.minMax (f : Fmt) (wantMax : Bool) (a b : Nat) : Nat :=
  let a := a % 2 ^ f.width
  let b := b % 2 ^ f.width
  if f.dec a = .nan then (if f.dec b = .nan then f.cnan else b)
  else if f.dec b = .nan then a
  else if (f.key a < f.key b) != wantMax then a else b

/-- `abs` and `neg` (R216). -/
def Fmt.absNeg (f : Fmt) (isNeg : Bool) (a : Nat) : Nat :=
  let a := a % 2 ^ f.width
  if f.dec a = .nan then f.cnan
  else f.withSign (isNeg && !bitAt a (f.eb + f.mb)) (a % f.signBit)

/-- A float condition (R217). -/
def ccFloat (cc : Cc) (o : Option Ordering) : Bool :=
  match cc, o with
  | .ne, none => true
  | .un, none => true
  | _, none => false
  | .eq, some o => o == .eq
  | .ne, some o => o != .eq
  | .lt, some o => o == .lt
  | .le, some o => o != .gt
  | .gt, some o => o == .gt
  | .ge, some o => o != .lt
  | .un, some _ => false

/-- `cmp` of two encodings under a float type (R217). -/
def Fmt.compareCc (f : Fmt) (cc : Cc) (a b : Nat) : Bool := ccFloat cc ((f.dec a).cmp (f.dec b))

/-- The class mask of R218. -/
def Fmt.classMask (f : Fmt) (a : Nat) : Nat :=
  match f.dec a with
  | .nan => 256
  | .inf true => 1
  | .inf false => 128
  | .num s m _ =>
    if m = 0 then (if s then 8 else 16)
    else if a % f.signBit < 2 ^ f.mb then (if s then 4 else 32)
    else if s then 2 else 64

/-- `frnd` (R219): the quantum is 1, the sign of a is kept, INX alone. -/
def Fmt.frnd (f : Fmt) (rm : Rm) (g a : Nat) : Nat × Flags :=
  match f.dec a with
  | .nan => (f.cnan, 0)
  | .inf _ => (a % 2 ^ f.width, 0)
  | .num s m e =>
    let r := roundQuot rm s g (m * 2 ^ e.toNat) (2 ^ (-e).toNat)
    if r.2 then ((f.round .rne false 0 (.num s r.1 0)).1, fINX) else (a % 2 ^ f.width, 0)

/-- The range of an integer destination of `cvt` (R70). -/
def intRange (signed : Bool) : Int × Int := if signed then (-(2 ^ 31 : Nat), (2 ^ 31 - 1 : Nat)) else (0, (2 ^ 32 - 1 : Nat))

/-- Clamps to the range; SAT when it clamps (R80). -/
def clampInt (signed : Bool) (x : Int) : Int × Flags :=
  let r := intRange signed
  if x < r.1 then (r.1, fSAT) else if r.2 < x then (r.2, fSAT) else (x, 0)

/-- A float value converted to a 32-bit integer (R86, R223): out of range saturates with SAT alone, NaN gives 0 with INV. -/
def FVal.toInt (rm : Rm) (signed : Bool) (g : Nat) : FVal → Int × Flags
  | .nan => (0, fINV)
  | .inf s => (if s then (intRange signed).1 else (intRange signed).2, fSAT)
  | .num s m e =>
    let r := roundQuot rm s g (m * 2 ^ e.toNat) (2 ^ (-e).toNat)
    let c := clampInt signed (if s then -(r.1 : Int) else r.1)
    if c.2 = 0 then (c.1, if r.2 then fINX else 0) else c

/-- The exact value of an integer. -/
def FVal.ofInt (x : Int) : FVal := .num (decide (x < 0)) x.natAbs 0

/-- The bits of a source element's value as `cvt` reads it (R222): a float's exact value or an integer's. -/
def cvtValue (st : Ty) (x : Nat) : FVal :=
  match Fmt.ofTy st with
  | some f => f.dec x
  | none => FVal.ofInt (if st = .i32 then toSigned 32 x else ((x % 2 ^ 32 : Nat) : Int))

/-- One element of `cvt` (R222, R223, R86). -/
def cvtElem (dt st : Ty) (rm : Rm) (g x : Nat) : Nat × Flags :=
  match Fmt.ofTy dt, Fmt.ofTy st with
  | some f, _ => f.round rm false g (cvtValue st x)
  | none, some _ => let r := (cvtValue st x).toInt rm (dt == .i32) g; (ofSigned 32 r.1, r.2)
  | none, none =>
    let r := clampInt (dt == .i32) (if st = .i32 then toSigned 32 x else ((x % 2 ^ 32 : Nat) : Int))
    (ofSigned 32 r.1, r.2)

end Sys2Proof.Machine
end

