-- ==== Sys2Proof/Machine/Block.lean ====
section
/-! DEFINITION. Block scales, block quantization and expansion (R74, R75, R89 to R92), code-table rules (R75, R90, R228),
the element fields of R224 and the counter-based generator of R230. -/

namespace Sys2Proof.Machine

/-- The width of a narrow element (R76, R224). -/
def narWidth : Ty → Nat
  | .e4m3 => 8
  | .e5m2 => 8
  | .e2m3 => 6
  | .e3m2 => 6
  | _ => 4

/-- An element format of a block: a float format or CB4 with the sixteen BF16 entries of its table (R75). -/
inductive Elem where
  | float (f : Fmt)
  | cb4 (table : List (BitVec 16))
  deriving DecidableEq, Repr

/-- The exact value of an entry of a code table (R75). -/
def cbValue (t : List (BitVec 16)) (i : Nat) : FVal := fmtBF16.dec (t.getD i 0).toNat

/-- The exact value of an element, unscaled (R72, R75). -/
def Elem.value (el : Elem) (x : Nat) : FVal :=
  match el with
  | .float f => f.dec x
  | .cb4 t => cbValue t (x % 16)

/-- floor(log2 |v|) of a finite nonzero value. -/
def FVal.lg : FVal → Option Int
  | .num _ m e => if m = 0 then none else some ((m.log2 : Int) + e)
  | _ => none

/-- The greatest of the logarithms, none when every value is zero. -/
def maxLg (vs : List FVal) : Option Int :=
  vs.foldl (fun acc v => match acc, v.lg with
    | none, x => x
    | x, none => x
    | some a, some b => some (max a b)) none

/-- emax of an element format (R71, R75); 0 also for a table with no finite entry (DESIGN CHOICE, log entry 73). -/
def Elem.emax : Elem → Int
  | .float f => f.emax
  | .cb4 t => ((maxLg ((List.range 16).map (cbValue t))).getD 0)

/-- The distance |a − b| of two finite values, as a value. -/
def FVal.dist (a b : FVal) : FVal :=
  match (FVal.add .rne a b.negate).1 with
  | .num _ m e => .num false m e
  | v => v

/-- The nearest finite entry to a finite value; a tie goes to the lower index (R90). -/
def cbNearest (t : List (BitVec 16)) (v : FVal) : Option Nat :=
  (List.range 16).foldl (fun best i =>
    match cbValue t i with
    | .num n m e =>
      match best with
      | none => some i
      | some j => if (FVal.dist (.num n m e) v).cmp (FVal.dist (cbValue t j) v) = some .lt then some i else best
    | _ => best) none

/-- Quantizes a finite scaled value to an index of the table with the flags of R90; a table with no finite entry gives index 0 with INV: R228 says so
for `cbq`, and the model takes the same for every other use (DESIGN CHOICE, log entry 73). -/
def cbQuantFinite (t : List (BitVec 16)) (v : FVal) : Nat × Flags :=
  match cbNearest t v with
  | none => (0, fINV)
  | some i =>
    let fin := ((List.range 16).map (cbValue t)).filter fun x => match x with | .num .. => true | _ => false
    let above := fin.all fun x => x.cmp v == some .lt
    let below := fin.all fun x => x.cmp v == some .gt
    (i, (if (cbValue t i).cmp v = some .eq then 0 else fINX) ||| (if above || below then fSAT else 0))

/-- Infinity replaced by the largest finite F32 value, with SAT (R89). -/
def clampInf : FVal → FVal × Flags
  | .inf s => (.num s (2 ^ 24 - 1) 104, fSAT)
  | v => (v, 0)

/-- One value, already divided by the scale, quantized to the element format under saturation (R89 to R91). An infinity that meets a CB4 table in an
existing scale becomes the largest finite F32 value first (DESIGN CHOICE, log entry 72), under a table with no finite entry too, whose index 0 with INV (log entry
73) then has SAT beside it. -/
def Elem.quant (el : Elem) (v : FVal) : Nat × Flags :=
  match el with
  | .float f => f.round .rne true 0 v
  | .cb4 t => match v with
    | .nan => (0, fINV)
    | v => let w := clampInf v; let r := cbQuantFinite t w.1; (r.1, w.2 ||| r.2)

/-- Quantizing into an existing scale (R91); a NaN block stays NaN: the element is 0 with INV. -/
def Elem.quantInto (el : Elem) (scale : Nat) (v : FVal) : Nat × Flags :=
  if scale = 255 then (0, fINV) else el.quant (v.scale (127 - scale))

/-- A block with its fresh scale (R89, R90). -/
structure QBlock where
  scale : Nat
  elems : List Nat
  flags : Flags
  deriving DecidableEq, Repr

/-- Block quantization (R89, R90). -/
def Elem.quantBlock (el : Elem) (vs : List FVal) : QBlock :=
  if vs.any (· == .nan) then ⟨255, vs.map fun _ => 0, 0⟩ else
  let ws := vs.map clampInf
  let x : Int := match maxLg (ws.map (·.1)) with
    | none => -127
    | some l => max (-127) (min 127 (l - el.emax))
  let qs := ws.map fun w => el.quant (w.1.scale (-x))
  ⟨(x + 127).toNat, qs.map (·.1), (ws.map (·.2) ++ qs.map (·.2)).foldl (· ||| ·) 0⟩

/-- The exact value of an element under its scale; a NaN block's elements are NaN (R76, R92). -/
def Elem.scaled (el : Elem) (scale x : Nat) : FVal :=
  if scale = 255 then .nan else (el.value x).scale ((scale : Int) - 127)

/-- Expansion to BF16: exact but at range limits, where it saturates (R92). -/
def Elem.toBf16 (el : Elem) (scale x : Nat) : Nat × Flags := fmtBF16.round .rne true 0 (el.scaled scale x)

/-- Expansion to F32 under the instruction's mode (R92). -/
def Elem.toF32 (el : Elem) (rm : Rm) (scale x : Nat) : Nat × Flags := fmtF32.round rm false 0 (el.scaled scale x)

/-- The sortedness rule of R75: finite entries, strictly ascending in value. -/
def cbSorted (t : List (BitVec 16)) : Bool :=
  (List.range 16).all fun i =>
    (match cbValue t i with | .num .. => true | _ => false) &&
    (i == 0 || (cbValue t (i - 1)).cmp (cbValue t i) == some .lt)

/-- The element of index j of an element field held as a number (R224). -/
def fieldElem (w field j : Nat) : Nat := bits field (w * j) w

/-- The element field of a list of elements of width w, element 0 lowest (R224). -/
def packField (w : Nat) : List Nat → Nat
  | [] => 0
  | x :: r => x % 2 ^ w + 2 ^ w * packField w r

/-- The number whose 32-bit lanes are given, lane 0 lowest (R224). -/
def lanesToNat : List Lane → Nat
  | [] => 0
  | x :: r => x.toNat + 2 ^ 32 * lanesToNat r

/-- The first n 32-bit lanes of a number (R224). -/
def natToLanes (n x : Nat) : List Lane := (List.range n).map fun i => BitVec.ofNat 32 (x >>> (32 * i))

/-- The twelve rounds of `rnd128` (R230): state x0 to x3, c0, c1. -/
def rndRounds : Nat → Nat × Nat × Nat × Nat × Nat × Nat → Nat × Nat × Nat × Nat × Nat × Nat
  | 0, s => s
  | n + 1, (x0, x1, x2, x3, c0, c1) =>
    let x0 := (x0 + (x1 ^^^ c0)) % 2 ^ 32
    let x1 := rotl32 x1 7 ^^^ x0
    let x2 := (x2 + (x3 ^^^ c1)) % 2 ^ 32
    let x3 := rotl32 x3 13 ^^^ x2
    rndRounds n (x0, x3, x2, x1, (c0 + 0x9E6C63D1) % 2 ^ 32, (c1 + 0xB5A30F27) % 2 ^ 32)

/-- `rnd128` for one lane (R230). -/
def rnd128Lane (x0 x1 x2 x3 : Lane) (key : Word) : List Lane :=
  let k0 := key.toNat % 2 ^ 32
  let k1 := key.toNat / 2 ^ 32
  match rndRounds 12 (x0.toNat, x1.toNat, x2.toNat, x3.toNat, k0, k1) with
  | (x0, x1, x2, x3, c0, c1) =>
    [x0 ^^^ c1, x1 ^^^ c0, x2 ^^^ c1, x3 ^^^ c0].map (BitVec.ofNat 32 ·)

end Sys2Proof.Machine
end

