-- ==== Sys2Proof/Machine/Approx.lean ====
section
/-! DEFINITION. The approximate functions (R220, R221). The result's bits are a free value (Config.approxBits), confined to
the exact results and the bounds that R220 states. A fixed-point reference with a bounded error decides what lies
within a bound. -/

namespace Sys2Proof.Machine

/-- A real number known to lie within (m ± err) × 2^e. -/
structure Ref where
  m : Int
  e : Int
  err : Nat
  deriving DecidableEq, Repr

/-- floor(2^96 × ln 2). -/
def ln2Fix : Nat := 0xb17217f7d1cf79abc9e3b398
/-- floor(2^96 / ln 2). -/
def invLn2Fix : Nat := 0x171547652b82fe1777d0ffda0
/-- floor(2^256 × π / 2). -/
def halfPiFix : Nat := 0x1921fb54442d18469898cc51701b839a252049c1114cf98e804177d4c76273644

/-- Partial sum of the exponential series at scale 2^96. -/
def expSeries : Nat → Nat → Nat → Nat → Nat → Nat
  | 0, _, _, _, acc => acc
  | n + 1, k, t, term, acc =>
    let term' := term * t / (k * 2 ^ 96)
    expSeries n (k + 1) t term' (acc + term')

/-- e^t for 0 ≤ t < 1 at scale 2^96, within 64 units. -/
def expFix (t : Nat) : Nat := expSeries 32 1 t (2 ^ 96) (2 ^ 96)

/-- Alternating series of sine (k from 1) or cosine (k from 0) at scale 2^96. -/
def trigSeries : Nat → Nat → Nat → Nat → Int → Int
  | 0, _, _, _, acc => acc
  | n + 1, k, r2, term, acc =>
    let term' := term * r2 / ((k + 1) * (k + 2) * 2 ^ 96)
    trigSeries n (k + 2) r2 term' (if n % 2 = 1 then acc - term' else acc + term')

/-- sin r for 0 ≤ r < 2 at scale 2^96, within 64 units. -/
def sinFix (r : Nat) : Int := trigSeries 20 1 (r * r / 2 ^ 96) r r
/-- cos r for 0 ≤ r < 2 at scale 2^96, within 64 units. -/
def cosFix (r : Nat) : Int := trigSeries 20 0 (r * r / 2 ^ 96) (2 ^ 96) (2 ^ 96)

/-- Binary digits of log2 of a value in [1, 2) held at scale 2^96. -/
def log2Digits : Nat → Nat → Nat → Nat
  | 0, _, acc => acc
  | n + 1, y, acc =>
    let y' := y * y / 2 ^ 96
    if 2 ^ 97 ≤ y' then log2Digits n (y' / 2) (2 * acc + 1) else log2Digits n y' (2 * acc)

/-- m × 2^e at scale 2^k, rounded down. -/
def toFix (m : Nat) (e : Int) (k : Nat) : Nat := m * 2 ^ (e + k).toNat / 2 ^ (-(e + k)).toNat

/-- A value known to be at least 2^-149 × 2^-100 and near nothing else: the reference of an exp2 far below range. -/
def tinyRef : Ref := ⟨1, -2000, 1⟩

/-- 2^x. -/
def refExp2 (neg : Bool) (m : Nat) (e : Int) : Ref :=
  if neg && decide (1024 * 2 ^ 96 ≤ toFix m e 96) then tinyRef else
  let x : Int := if neg then -(toFix m e 96 : Int) else toFix m e 96
  let n := x / (2 ^ 96 : Nat)
  let f := (x % (2 ^ 96 : Nat)).toNat
  ⟨expFix (f * ln2Fix / 2 ^ 96), n - 96, 256⟩

/-- log2 of a positive value. -/
def refLog2 (m : Nat) (e : Int) : Ref :=
  let k := m.log2
  ⟨((k : Int) + e) * (2 ^ 60 : Nat) + log2Digits 60 (m * 2 ^ 96 / 2 ^ k) 0, -60, 4⟩

/-- 1 / sqrt of a positive value. -/
def refRsqrt (m : Nat) (e : Int) : Ref :=
  let m' := if e % 2 = 0 then m else 2 * m
  let e' := if e % 2 = 0 then e else e - 1
  ⟨isqrt (2 ^ 256 / m'), -128 - e' / 2, 2⟩

/-- sin, or cos when `isCos`. -/
def refTrig (isCos neg : Bool) (m : Nat) (e : Int) : Ref :=
  let x := toFix m e 256
  let q := (x / halfPiFix + b2n isCos) % 4
  let r := x % halfPiFix / 2 ^ 160
  let v := if q % 2 = 0 then sinFix r else cosFix r
  let v := if q < 2 then v else -v
  ⟨if neg && !isCos then -v else v, -96, 4096⟩

/-- tanh of a value below 10 in magnitude. -/
def refTanh (neg : Bool) (m : Nat) (e : Int) : Ref :=
  let t := 2 * toFix m e 96 * invLn2Fix / 2 ^ 96
  let ex := expFix (t % 2 ^ 96 * ln2Fix / 2 ^ 96) * 2 ^ (t / 2 ^ 96)
  let v : Int := ((ex - 2 ^ 96) * 2 ^ 96 / (ex + 2 ^ 96) : Nat)
  ⟨if neg then -v else v, -96, 2 ^ 40⟩

/-- Does y surely lie within `bm × 2^be` of the exact value, wherever that is around the reference? -/
def Ref.near (r : Ref) (bm : Nat) (be : Int) (y : FVal) : Bool :=
  match y with
  | .num s m e =>
    let e0 := min e (min r.e be)
    decide ((alignTo e0 s m e - r.m * (2 ^ (r.e - e0).toNat : Nat)).natAbs + r.err * 2 ^ (r.e - e0).toNat
      ≤ bm * 2 ^ (be - e0).toNat)
  | _ => false

/-- The exponent of the F32 quantum at the reference's magnitude (R79). -/
def Ref.quantum (r : Ref) : Int :=
  let lg : Int := (r.m.natAbs.log2 : Int) + r.e
  (if lg < -126 then -126 else lg) - 23

/-- The free value where it lies within the bound, else the value nearest the reference. -/
def Ref.choose (r : Ref) (fn : ApproxFn) (x bm : Nat) (be : Int) : Nat :=
  let y := (Config.approxBits fn (BitVec.ofNat 32 x)).toNat
  if r.near bm be (fmtF32.dec y) then y
  else (fmtF32.round .rne false 0 (.num (decide (r.m < 0)) r.m.natAbs r.e)).1

/-- The exponent k of a value ±2^k. -/
def pow2Exp (m : Nat) (e : Int) : Option Int := if m = 2 ^ m.log2 then some ((m.log2 : Int) + e) else none

/-- An F32 result; is it one that R220 lists as exact; is the operation invalid? -/
structure ApproxRes where
  val : Nat
  listed : Bool
  inv : Bool
  deriving DecidableEq, Repr

/-- A listed result: the exact value where F32 holds it. -/
def listedIf (v : FVal) (other : Nat) : ApproxRes :=
  let r := fmtF32.round .rne false 0 v
  if r.2 = 0 then ⟨r.1, true, false⟩ else ⟨other, false, false⟩

/-- `rcp` of a finite nonzero operand: one of the two values that bracket the exact result (R220); infinity below 2^-128. -/
def rcpRes (s : Bool) (m : Nat) (e : Int) (x : Nat) : ApproxRes :=
  let lo := (fmtF32.roundMag .rz false false 0 1 m (-e)).1
  let hi := (fmtF32.roundMag .ru false false 0 1 m (-e)).1
  let y := (Config.approxBits .rcp (BitVec.ofNat 32 x)).toNat % 2 ^ 31
  let big := decide ((m.log2 : Int) + e < -128)
  let r := if big then 0x7F800000 else if y = hi then hi else lo
  match pow2Exp m e with
  | some k => listedIf (.num s 1 (-k)) (fmtF32.withSign s r)
  | none => ⟨fmtF32.withSign s r, false, false⟩

/-- The F32 result of an approximate function for the F32 operand x (R220). -/
def approx32 (fn : ApproxFn) (x : Nat) : ApproxRes :=
  let nan : ApproxRes := ⟨fmtF32.cnan, true, false⟩
  let inv : ApproxRes := ⟨fmtF32.cnan, true, true⟩
  let is (v : FVal) : ApproxRes := ⟨(fmtF32.round .rne false 0 v).1, true, false⟩
  let free (r : Ref) (bm : Nat) (be : Int) : ApproxRes := ⟨r.choose fn x bm be, false, false⟩
  match fn, fmtF32.dec x with
  | _, .nan => nan
  | .rcp, .inf s => is (.num s 0 0)
  | .rcp, .num s m e => if m = 0 then is (.inf s) else rcpRes s m e x
  | .rsqrt, .inf s => if s then inv else is (.num false 0 0)
  | .rsqrt, .num s m e =>
    if m = 0 then is (.inf s) else if s then inv else
    let r := refRsqrt m e
    match pow2Exp m e with
    | some k => if k % 2 = 0 then is (.num false 1 (-(k / 2))) else free r 2 r.quantum
    | none => free r 2 r.quantum
  | .exp2, .inf s => if s then is (.num false 0 0) else is (.inf false)
  | .exp2, .num s m e =>
    if m = 0 then is (.num false 1 0)
    else if !s && decide (128 * 2 ^ 96 ≤ toFix m e 96) then ⟨0x7F800000, false, false⟩ else
    let r := refExp2 s m e
    let y := (r.choose .exp2 x 2 r.quantum)
    if m * 2 ^ e.toNat % 2 ^ (-e).toNat = 0 then
      let n := min (m * 2 ^ e.toNat / 2 ^ (-e).toNat) 1024
      listedIf (.num false 1 (if s then -(n : Int) else n)) y
    else ⟨y, false, false⟩
  | .log2, .inf s => if s then inv else is (.inf false)
  | .log2, .num s m e =>
    if m = 0 then is (.inf true) else if s then inv else
    match pow2Exp m e with
    | some k => is (FVal.ofInt k)
    | none =>
      let r := refLog2 m e
      let lg : Int := (m.log2 : Int) + e
      if lg = -1 || lg = 0 then free r 1 (-22) else free r 2 r.quantum
  | .sin, .inf _ => inv
  | .sin, .num s m e => if m = 0 then is (.num s 0 0) else free (refTrig false s m e) 1 (-21)
  | .cos, .inf _ => inv
  | .cos, .num s m e => if m = 0 then is (.num false 1 0) else free (refTrig true s m e) 1 (-21)
  | .tanh, .inf s => is (.num s 1 0)
  | .tanh, .num s m e =>
    if m = 0 then is (.num s 0 0)
    else if 10 * 2 ^ 96 ≤ toFix m e 96 then is (.num s 1 0)
    else free (refTanh s m e) 1 (-21)

/-- Is a value finite? -/
def FVal.finite : FVal → Bool
  | .num .. => true
  | _ => false

/-- One element of an approximate function (R220): bf16 and f16 round the F32 result of the widened operand. Its flags are those of R221: INX
unless the result is listed as exact and the format holds it; OVF and INX for an infinity, UNF and INX for a zero or subnormal whose exact result is
nonzero, of a finite operand, listed or not (DEDUCED, log entry 22). -/
def Fmt.approx (f : Fmt) (fn : ApproxFn) (a : Nat) : Nat × Flags :=
  let r := approx32 fn (fmtF32.round .rne false 0 (f.dec a)).1
  let y := f.round .rne false 0 (fmtF32.dec r.val)
  if r.inv then (y.1, fINV)
  else
    let mag := y.1 % f.signBit
    let fin := (f.dec a).finite
    let big := fin && f.inf == some mag
    let small := fin && decide (mag < 2 ^ f.mb) && !(r.listed && decide (r.val % 2 ^ 31 = 0))
    (y.1, (if !r.listed || y.2 != 0 || big || small then fINX else 0) ||| (if big then fOVF else 0) ||| (if small then fUNF else 0))

end Sys2Proof.Machine
end

