-- ==== Sys2Proof/Machine/Cells.lean ====
section
/-! DEFINITION. Sparse arrays in one canonical form: keys strictly rising, no value zero; an unlisted key reads as zero.
Registers, scratch, banks and device memory are held in this form. -/

namespace Sys2Proof.Machine

/-- The value at a key; an unlisted key reads as zero. -/
def Cells.get {w : Nat} : Cells w → Nat → BitVec w
  | [], _ => 0
  | (a, b) :: r, k => if a = k then b else Cells.get r k

/-- Puts a pair before a list, unless its value is the one an unlisted key reads as. -/
def Cells.cons {w : Nat} (k : Nat) (v : BitVec w) (c : Cells w) : Cells w := if v = 0 then c else (k, v) :: c

/-- Writes one key and keeps the canonical form. -/
def Cells.set {w : Nat} : Cells w → Nat → BitVec w → Cells w
  | [], k, v => Cells.cons k v []
  | (a, b) :: r, k, v =>
    if k < a then Cells.cons k v ((a, b) :: r)
    else if k = a then Cells.cons k v r
    else (a, b) :: Cells.set r k v

/-- Every key is at least `n`, the keys rise strictly, and no value is zero. -/
def Cells.okFrom {w : Nat} : Nat → Cells w → Bool
  | _, [] => true
  | n, (a, b) :: r => decide (n ≤ a) && b != 0 && Cells.okFrom (a + 1) r

/-- The canonical form. -/
def Cells.wf {w : Nat} (c : Cells w) : Bool := Cells.okFrom 0 c

/-- Writes several keys in order. -/
def Cells.setMany {w : Nat} (c : Cells w) : List (Nat × BitVec w) → Cells w
  | [] => c
  | (k, v) :: r => Cells.setMany (Cells.set c k v) r

/-- The values at `n` keys from `k` upward. -/
def Cells.range {w : Nat} (c : Cells w) (k n : Nat) : List (BitVec w) := (List.range n).map fun i => Cells.get c (k + i)

/-- Writes consecutive keys from `k` upward. -/
def Cells.setRange {w : Nat} (c : Cells w) : Nat → List (BitVec w) → Cells w
  | _, [] => c
  | k, v :: r => Cells.setRange (Cells.set c k v) (k + 1) r

/-- Sets every key of a range of `n` keys from `k` to zero. -/
def Cells.clear {w : Nat} (c : Cells w) (k n : Nat) : Cells w := c.filter fun p => p.1 < k || k + n ≤ p.1

/-- The values at `n` keys from `k` upward, of an array whose keys are at least `k`, in one pass. -/
def Cells.dense {w : Nat} : Cells w → Nat → Nat → List (BitVec w)
  | _, _, 0 => []
  | [], k, n + 1 => 0 :: Cells.dense [] (k + 1) n
  | (a, b) :: r, k, n + 1 => if a = k then b :: Cells.dense r (k + 1) n else 0 :: Cells.dense ((a, b) :: r) (k + 1) n

/-- The canonical array of values at consecutive keys from `k` upward, before an array of greater keys. -/
def Cells.ofDense {w : Nat} : Nat → List (BitVec w) → Cells w → Cells w
  | _, [], c => c
  | k, v :: r, c => Cells.cons k v (Cells.ofDense (k + 1) r c)

/-- Replaces the values at consecutive keys from `k` upward in one pass. -/
def Cells.putDense {w : Nat} (c : Cells w) (k : Nat) (vs : List (BitVec w)) : Cells w :=
  c.filter (fun p => decide (p.1 < k)) ++ Cells.ofDense k vs (c.filter fun p => decide (k + vs.length ≤ p.1))

end Sys2Proof.Machine
end

