-- ==== Sys2Proof/Machine/State.lean ====
section
/-! DEFINITION. The state of the L9 as plain data: every register, queue, table and memory that the specification names
(INVENTORY.md lists each with its rule and reset value), and the state after reset. -/

namespace Sys2Proof.Machine

/-- Why the machine stops with a fault. -/
inductive Fault where
  /-- Raised by `step` once the module has stopped above its shutdown temperature (R376): nothing runs any more. Safe. -/
  | moduleStopped
  deriving DecidableEq, Repr

/-- Why an instruction has no meaning. -/
inductive Refusal where
  /-- Raised by an arm of `exec` whose instruction has no meaning yet. Safe. -/
  | notModelled (mnemonic : String)
  deriving DecidableEq, Repr

/-- A hardware loop entry (R185). -/
structure LoopEntry where
  armed : Bool
  count : BitVec 32
  start : Word
  stop : Word
  deriving DecidableEq, Repr

/-- lc0 and lc1 with the sequence bit: `inner1` says that lc1 was armed later (R185). -/
structure Loops where
  l0 : LoopEntry
  l1 : LoopEntry
  inner1 : Bool
  deriving DecidableEq, Repr

/-- A register of a wave as its parity names it (R354): one half of a scalar, one lane of a vector, a predicate, lc0 or lc1, FLAGS, TXS, MXP. -/
inductive RegPlace where
  | s (n : Nat) (high : Bool)
  | v (n lane : Nat)
  | p (n : Nat)
  | lc (second : Bool)
  | flags
  | txs
  | mxp
  deriving DecidableEq, Repr

/-- A register checkpoint (R137): s0 to s63, p0 to p6, loops and FLAGS, and which of them fail their parity. -/
structure Checkpoint where
  s : Cells 64
  p : Cells 32
  loops : Loops
  flags : BitVec 5
  bad : List RegPlace
  deriving DecidableEq, Repr

/-- What an address reaches: a byte of device memory, an element of a wide view, host memory, the status window, scratch. -/
inductive Space where
  | dev | wide | host | status | scr
  deriving DecidableEq, Repr

/-- A translated address: the place in its space, the virtual address, the layout code and policy of the leaf that translated
it (R327), the leaf's REPL bit, for a wide view the window offset (R328), and the level of that leaf (R323), 0 where none translates it. -/
structure Target where
  space : Space
  at_ : Nat
  va : Nat
  code : Nat
  pol : Nat
  repl : Bool
  wofs : Nat
  level : Nat
  deriving DecidableEq, Repr

/-- A buffered write of a transaction (R141): bits under a mask of one line of device memory or of scratch, the line's layout code,
its virtual address with the level of the leaf that translated it, and the changes of full/empty bits. -/
structure TxWrite where
  scratch : Bool
  line : Nat
  mask : Nat
  value : Nat
  code : Nat
  va : Nat
  level : Nat
  full : List (Nat × Bool)
  deriving DecidableEq, Repr

/-- A pending alternative (R137, R147). -/
structure Alt where
  target : Word
  depth : Nat
  mark : Nat
  cp : Checkpoint
  deriving DecidableEq, Repr

/-- The transaction state of a wave (R137, R138). `begin_` is the address of the outermost `xbegin`; `lines` and `granules` are the
read set; `coarse` lists the slices on whose coarse list the wave stands; `coarseCore` is the mark of R152; `stamp` is the age stamp, the package time and the
global wave number of the first attempt; `since` is the time at which the attempt began. -/
structure Tx where
  depth : Nat
  cp : Checkpoint
  begin_ : Word
  handler : Word
  alts : List Alt
  buf : List TxWrite
  lines : List Nat
  granules : List Nat
  coarse : List Nat
  coarseCore : Bool
  stamp : Option (Nat × Nat)
  doom : Bool
  last : Nat
  confl : Nat
  code : Nat
  cause : Nat
  since : Nat
  deriving DecidableEq, Repr

/-- A wave's run state (R148, R154, R156, R300, R313); `woken` names the write that woke the wave, where that write's wakes have an order (R153);
`stalled` holds an instruction that has issued and still waits for what its rule names, such as a fence (R243) or a commit (R143). -/
inductive Run where
  | off
  | running
  | stalled (i : Instr)
  | asleep
  | woken (write : Option Nat)
  | feAsleep (i : Instr)
  | feWoken (i : Instr)
  | backoff (due : Nat)
  | parked
  | halted
  deriving DecidableEq, Repr

/-- A park (R290, R300): kind, engine, PADDR, PPC; `entered` says that its fault-queue entry has been taken up. -/
structure Park where
  kind : Nat
  engine : Nat
  addr : Word
  pc : Word
  entered : Bool
  deriving DecidableEq, Repr

/-- A write of a register that an operation in flight will make. -/
inductive RegWrite where
  | s (r : Nat) (x : Word)
  | v (r lane : Nat) (x : Lane)
  deriving DecidableEq, Repr

/-- The operation class of R119 that an instruction in flight belongs to; `arl` is an atomic with `.rel`, `other` touches no memory; `relc`, `arac`
and `arlc` are `rel`, `ara` and `arl` of core scope (R120). -/
inductive OrdClass where
  | ld | st | acq | rel | ra | ara | arl | ldf | lw | mr | other | relc | arac | arlc
  deriving DecidableEq, Repr

/-- The read-modify-write operations of R240. -/
inductive AtomOp where
  | add | min | max | and | or | xor | xchg | cas
  deriving DecidableEq, Repr

/-- What an instruction in flight still has to do (R17, R19). A load and an atomic hold the lanes not yet performed, the targets of all their lanes
(R350), and the register writes and flags of the lanes performed. A `ctld` carries the time of its issue, by which two of one table write in issue
order (R271). -/
inductive Pending where
  | regs (ws : List RegWrite) (fl : BitVec 5)
  | load (d : Opnd) (t : LdTy) (lanes : List (Nat × Target)) (acq : Bool) (all : List Target) (got : List RegWrite) (fl : BitVec 5)
  | store (size : Nat) (lanes : List (Nat × Target × Nat)) (sys : Bool)
  | atomic (op : AtomOp) (t : AtTy) (d : Opnd) (lanes : List (Nat × Target × Nat × Nat)) (acq sys : Bool)
    (all : List Target) (got : List RegWrite) (fl : BitVec 5)
  | setFull (ofs len : Nat) (full : Bool)
  | discard (lines : List Target)
  | spawn (d : Nat) (words : List Word)
  | event (e : Nat) (on : Bool)
  | launch (d : Nat) (lines : List Target)
  | ctld (n bank : Nat) (sorted : Bool) (src : Target) (time : Nat)
  | chartld (n : Nat) (src : Target)
  | accrd (d bank : Nat) (els : List (Nat × Nat))
  | accwr (bank : Nat) (els : List (Nat × Lane))
  | tlbi (va ctx kind : Nat)
  | sighost (vec : Nat)
  deriving DecidableEq, Repr

/-- An instruction in flight (R17); `core` says that it is a store already performed at core scope (R120, R121). -/
structure Flight where
  id : Nat
  cls : OrdClass
  slot : Option Nat
  pc : Word
  body : Pending
  core : Bool
  deriving DecidableEq, Repr

/-- Why a task faults: cause of R65, severity, PC and DETAIL of R64. -/
structure FaultInfo where
  cause : Nat
  sev : Nat
  pc : Word
  detail : Word
  deriving DecidableEq, Repr

/-- A wave (R11) or a harbourmaster core's scalar part (R294). Registers are sparse: s and p by number, v by 32 × number + lane,
sb by number. `coreSeen` lists the stores of other waves of its unit, performed at core scope only, that an acquire of this wave may have seen: the wave, the
store's operation number, and the operation number of this wave from which a wider release waits for it (R121, R130; log entry 31). `sync` lists the accesses, and `syncTx` the transactions (a wave and when its attempt began), that `tlbsync` still waits for (R295);
`bad` lists the registers that fail their parity (R355);
`dueFault` and `duePark` are a fault and a park of an engine command that the wave takes at its next instruction boundary (R263, R269, R283). -/
structure Wave where
  gwn : Nat
  run : Run
  pc : Word
  s : Cells 64
  v : Cells 32
  p : Cells 32
  sb : Cells 6
  loops : Loops
  flags : BitVec 5
  tx : Tx
  park : Option Park
  flights : List Flight
  nextOp : Nat
  crew : Nat
  crewIx : Nat
  lcore : Nat
  ctx : Nat
  priv : Bool
  prio : Nat
  vregs : Nat
  age : Nat
  issued : Option Nat
  ready : Nat
  watch : Nat
  bankUse : BitVec 4
  tabUse : BitVec 8
  dueFault : Option FaultInfo
  duePark : Option Park
  sync : List (Nat × Nat)
  syncTx : List (Nat × Nat)
  coreSeen : List (Nat × Nat × Nat)
  bad : List RegPlace
  deriving DecidableEq, Repr

/-- A harbourmaster core's own system registers (R290, R292). -/
structure HmCore where
  exc : Bool
  epc : Word
  ecause : BitVec 8
  eval : Word
  evec : Word
  selw : BitVec 14
  deriving DecidableEq, Repr

/-- A fault-queue entry waiting to be written (R300). -/
structure FqEntry where
  gwn : Nat
  kind : Nat
  engine : Nat
  ctx : Nat
  addr : Word
  pc : Word
  deriving DecidableEq, Repr

/-- A partition's system registers (R290) and its fault queue's ring index and waiting entries (R300). -/
structure Partition where
  ctxtab : Word
  stealtab : Word
  fqbase : Word
  fqcap : BitVec 16
  hmres : BitVec 2
  fqNext : Nat
  fqWait : List FqEntry
  deriving DecidableEq, Repr

/-- A running crew (R61, R98): its unit's number (far core, or 256 + quay unit), task with the number of its record at the berth, wave numbers, waves
not yet ended, scratch units with their data, full bits and uncorrectable words of 8 bytes (R354), whether it has faulted, whether it is a shadow copy,
and its signature (R321). -/
structure Crew where
  id : Nat
  unit : Nat
  ctx : Nat
  berth : Nat
  record : Nat
  seq : Nat
  launch : Nat
  type : Nat
  waves : List Nat
  alive : Nat
  units : Nat
  scratch : Cells 8
  full : Cells 1
  bad : List Nat
  fault : Option FaultInfo
  shadow : Bool
  sig : Word
  deriving DecidableEq, Repr

/-- An unfinished matrix command (R258 to R264): STATE of MXP, DONE, the table banks it references as 1 + 2 × table + bank or 0 (R272), and whether
it holds its granules reserved (R261). -/
structure MatCmd where
  id : Nat
  gwn : Nat
  crew : Nat
  pc : Word
  slot : Option Nat
  words : List Word
  state : Nat
  done : Nat
  bankA : Nat
  bankB : Nat
  reserved : Bool
  deriving DecidableEq, Repr

/-- A leaf that translates one page of a started lighter command: the page's virtual base and size, and the target of its first byte. -/
structure PageTr where
  va : Nat
  size : Nat
  tgt : Target
  deriving DecidableEq, Repr

/-- An outstanding lighter command (R266 to R269): its stage, the row being moved, whether the row's write pass runs, the position in the
pass, the row buffer of source bytes (global elements already read as units), and what it has written of each global line (address, byte mask, value),
which its signature takes as one event a line (R321). -/
structure LitCmd where
  id : Nat
  gwn : Nat
  crew : Nat
  pc : Word
  slot : Option Nat
  words : List Word
  tabBank : Nat
  started : Bool
  parked : Bool
  pages : List PageTr
  row : Nat
  writing : Bool
  pos : Nat
  buffer : List Byte
  wrote : List (Nat × Nat × Nat)
  deriving DecidableEq, Repr

/-- The engine state of a far core (R254): banks by 16384 × bank + 128 × row + column, tables by 32 × table + 16 × bank + entry, the active bank
of each table, the sorted bit of bank b of table n at 2n + b, the accumulator elements and table entries that fail their parity (R355), the queues, the
context it serves and the one it last served (R307). -/
structure FarCore where
  core : Nat
  banks : Cells 32
  tables : Cells 16
  active : BitVec 8
  sorted : BitVec 16
  badBanks : List Nat
  badTables : List Nat
  mat : List MatCmd
  lit : List LitCmd
  lastTurn : Nat
  bound : Option Nat
  served : Option Nat
  deriving DecidableEq, Repr

/-- What has become of a record at a berth (R48, R50, R64). -/
inductive RecState where
  | unclaimed
  | running (crew : Nat)
  | retired
  | failed
  deriving DecidableEq, Repr

/-- A task record held at a berth (R37, R49, R50): its number at the berth, which never repeats, enqueue time, whether the anchor spans (R38), the lines
held near (R379), the number of a shadow copy's primary (R319), the die where it runs, its signature, and whether it is uncorrectable (R354). -/
structure TaskRec where
  id : Nat
  ctx : Nat
  seq : Nat
  launch : Nat
  words : List Word
  time : Nat
  spans : Bool
  st : RecState
  holds : List Nat
  primary : Option Nat
  hasShadow : Bool
  die : Nat
  sig : Word
  bad : Bool
  deriving DecidableEq, Repr

/-- A launch being enumerated at a berth (R46): the next index to examine. -/
structure Enum where
  ctx : Nat
  launch : Nat
  next : Nat
  deriving DecidableEq, Repr

/-- A spawn offered to a berth (R51, R311) with the slot's flight that waits for its answer, and the time at which it arrived. -/
structure Offer where
  time : Nat
  gwn : Nat
  flight : Nat
  deriving DecidableEq, Repr

/-- A steal request (R310): the far core, its free slots, its free scratch units and the context it is bound to, as they were when it was sent. -/
structure StealReq where
  core : Nat
  slots : Nat
  units : Nat
  bound : Option Nat
  deriving DecidableEq, Repr

/-- A relayout entry (R343): the page's first line, its length in lines, old and new code, and the pointer. -/
structure Relayout where
  line : Nat
  lines : Nat
  oldCode : Nat
  newCode : Nat
  ptr : Nat
  deriving DecidableEq, Repr

/-- A berth (R8, R49, R66): records oldest first, next sequence number, next record number, enumerations, spawn offers and steal requests waiting, the status line's
bytes and the time of its last rewrite, if there was one, and relayout entries. -/
structure Berth where
  n : Nat
  recs : List TaskRec
  nextSeq : Nat
  nextRec : Nat
  enums : List Enum
  offers : List Offer
  steals : List StealReq
  status : Cells 8
  statusTime : Option Nat
  relayouts : List Relayout
  deriving DecidableEq, Repr

/-- A manifest entry to be written (R64), and the number of the record that waits for it, if one is held. -/
structure Report where
  berth : Nat
  seq : Nat
  type : Nat
  anchor : Nat
  cause : Nat
  sev : Nat
  pc : Word
  detail : Word
  record : Option Nat
  deriving DecidableEq, Repr

/-- A launch (R42, R45, R47): its record, submitter's privilege, whether it is admitted, the chart as admitted (R275), the live count, the indices that
enumeration has taken (R69), the number of entries written, the reports waiting, and whether the entry that the first of them waits for has been recorded as an
error (R362). -/
structure Launch where
  id : Nat
  words : List Word
  admitted : Bool
  chart : List Word
  live : Nat
  taken : List Nat
  entries : Nat
  reports : List Report
  noted : Bool
  deriving DecidableEq, Repr

/-- A record submitted to the harbourmaster and not yet checked (R43, R253): from a wave's `launch` with its flight. -/
structure Submission where
  gwn : Nat
  flight : Nat
  ctx : Nat
  words : List Word
  bad : Bool
  deriving DecidableEq, Repr

/-- What a section of a core image holds (R359, R361). -/
inductive ImagePart where
  | header
  | wave (n : Nat)
  | scratch (crew : Nat)
  | bank (b : Nat)
  | table (t : Nat)
  | command (gwn : Nat)
  deriving DecidableEq, Repr

/-- A core image saved at pre-emption (R359): its first line in device memory, its sections, each with its first line and length in lines from there,
and what it holds. -/
structure CoreImage where
  id : Nat
  unit : Nat
  line : Nat
  sections : List (ImagePart × Nat × Nat)
  waves : List Wave
  crews : List Crew
  engine : Option FarCore
  deriving DecidableEq, Repr

/-- A resident context (R44, R297, R357): charts by number as their eight words, launches in submission order, whether claims of it are stopped
(`preempted`) and its waves too (`frozen`, R358), its images, the charts that fail their parity (R355), and the watchdog window under which it hangs
(R318). -/
structure Context where
  slot : Nat
  priv : Bool
  ntypes : Nat
  typetab : Nat
  quota : Nat
  ptroot : Nat
  wdog : Nat
  events : BitVec 256
  charts : List (Nat × List Word)
  launches : List Launch
  nextLaunch : Nat
  preempted : Bool
  frozen : Bool
  images : List CoreImage
  nextImage : Nat
  badCharts : List Nat
  hang : Option Nat
  deriving DecidableEq, Repr

/-- A cached table entry (R330): the TLB, the context, the level, the index at that level, and the entry. -/
structure TlbEntry where
  tlb : Nat
  ctx : Nat
  level : Nat
  index : Nat
  entry : Word
  deriving DecidableEq, Repr

/-- An L1 copy of a line on a far core (R103). -/
structure L1Line where
  core : Nat
  line : Nat
  data : Nat
  deriving DecidableEq, Repr

/-- A word in an instruction cache (R378): the unit and the word's place in device memory. -/
structure IcWord where
  unit : Nat
  at_ : Nat
  word : Word
  deriving DecidableEq, Repr

/-- A read-only copy of a line in a slice of a die (R335): the die, the line, and the bits as stored (R335). -/
structure Replica where
  die : Nat
  line : Nat
  data : Nat
  side : Nat
  deriving DecidableEq, Repr

/-- The caches (R103, R330, R335, R378) and the lines held near with their counts (R58). -/
structure Caches where
  l1 : List L1Line
  tlb : List TlbEntry
  ic : List IcWord
  replicas : List Replica
  near : List (Nat × Nat)
  deriving DecidableEq, Repr

/-- Device memory by partition base + PA: one canonical sparse array of bytes. -/
abbrev Memory := List Host.Cell

/-- Device memory as stored (R345, R348): data bytes, side-band by line, the second copy of CONTEXT lines, and the layout code under which the home last
encoded each line. -/
structure Store where
  data : Memory
  side : Cells 64
  data2 : Memory
  side2 : Cells 64
  code : Cells 4
  deriving DecidableEq, Repr

/-- A pilot's state for one far core (R299, R308, R309): the chart it was loaded, the remote-wait clocks counted, whether remote berths may be
tried, whether a request is outstanding, and the time before which it chooses no berth, after a request that found nothing (R310). -/
structure PilotCore where
  core : Nat
  chart : List Nat
  since : Nat
  remote : Bool
  asked : Option Nat
  next : Nat
  deriving DecidableEq, Repr

/-- A page's migration record (R341): the window, the times of its moves, the end of its pin, the time of the last collapse and of the last change. -/
structure Migration where
  ctx : Nat
  va : Nat
  window : Nat
  moves : List Nat
  pinned : Option Nat
  collapsed : Option Nat
  last : Nat
  deriving DecidableEq, Repr

/-- A report on the management port (R293, R354, R372, R373, R376). -/
inductive MgmtReport where
  | hmStopped (core : Nat)
  | linkFailed (link : Nat)
  | juwinFault (conn : Nat) (cause : Nat)
  | bootFailed (cause : Nat)
  | thermal
  | attestation (signed : List Byte)
  | injectionRefused
  deriving DecidableEq, Repr

/-- A recorded error (R116, R300, R352, R353, R361): the line or scratch place and its severity. -/
structure ErrRecord where
  at_ : Nat
  sev : Nat
  deriving DecidableEq, Repr

/-- A message that a function has sent (R295): function, vector, and the address and data of its table entry. -/
structure Msi where
  fn : Nat
  vec : Nat
  addr : Word
  data : Lane
  deriving DecidableEq, Repr

/-- A Juwin connection (R372): the partition and context it is bound to, and the next sequence number. -/
structure Conn where
  conn : Nat
  part : Nat
  ctx : Nat
  next : BitVec 32
  deriving DecidableEq, Repr

/-- The host, network and management side (R135, R366, R371 to R376): host memory, the host's cached copies of device lines, the MSI-X tables (word k
of function f at 4096 f + k, with the mask bit of each vector inverted), the functions whose MSI-X is enabled, the vectors held pending and the
messages sent, the data of the last host read, boot registers (`imageLen` is the length of the image being verified), connections and the faults answered to
their senders, links that failed, reports, error records and the number of errors delivered under action 0 (R353), and whether the module has stopped. -/
structure Outside where
  hostMem : Cells 8
  hostLines : List (Nat × Nat)
  msix : Cells 64
  msixOn : List Nat
  pending : List (Nat × Nat)
  sent : List Msi
  hostData : List Byte
  bootCmd : BitVec 1
  bootLen : Word
  imageLen : Nat
  bootStat : Word
  bootVec : BitVec 11
  booted : Bool
  mode : BitVec 2
  measure : BitVec 256
  conns : List Conn
  nacks : List (Nat × Nat)
  linksDown : List Nat
  throttle : BitVec 4
  reports : List MgmtReport
  errors : List ErrRecord
  errCount : Nat
  stopped : Bool
  deriving DecidableEq, Repr

/-- Where an error of a cell makes stored state fail its check (R354, R355): a register of a wave, a word of a crew's scratch, an accumulator element or
table entry of a far core, a chart, or a queue record of a berth;
or a line as a base-die link delivered it after its fourth resending, with some data and side-band bits in error. -/
inductive Upset where
  | reg (gwn : Nat) (r : RegPlace)
  | scratch (crew word : Nat)
  | bank (core key : Nat)
  | table (core key : Nat)
  | chart (ctx n : Nat)
  | record (berth id : Nat)
  | line (line data side : Nat)
  deriving DecidableEq, Repr

/-- What moves next; the model's own (log entry 1): a scheduler issues at this clock (R315), another device step happens, clocks pass, one lane of an
access is performed (R128), a wave goes on with what it need not issue for: an instruction that has issued, a due fault or an abort (R143, R153, R243, R263),
a cache drops a copy it may drop at any time (R103, R378), the host's copy of a line is invalidated (R135), a cell fails
(R354), a connection is made (R372), or an image is fetched over the management port (R373). -/
inductive Action where
  | clock (unit sched : Nat)
  | event (i : Instr)
  | pass (n : Nat)
  | lane (gwn flight lane : Nat)
  | advance (gwn : Nat)
  | dropL1 (core line : Nat)
  | dropIc (unit at_ : Nat)
  | backInvalidate (line : Nat)
  | upset (p : Upset)
  | connect (conn part ctx : Nat)
  | mgmtFetch (image : List Byte)
  deriving DecidableEq, Repr

/-- The state of the device. `me` is the wave or harbourmaster core that `exec` acts for, `others` every other one. `clocked` lists the schedulers, as
unit and number, that have issued at the present clock (R315), `pilotTurn` the far core of each die that its pilot last served (R308), and `wakes`
counts the writes that have woken waves (R153). -/
structure State where
  me : Wave
  others : List Wave
  hm : List HmCore
  parts : List Partition
  time : Nat
  clocked : List (Nat × Nat)
  store : Store
  caches : Caches
  cores : List FarCore
  crews : List Crew
  berths : List Berth
  ctxs : List Context
  pilots : List PilotCore
  pilotTurn : List (Nat × Nat)
  migrations : List Migration
  subs : List Submission
  out : Outside
  wakes : Nat
  fresh : Nat
  agenda : List Action
  deriving DecidableEq, Repr

/-- An unarmed loop entry (R62). -/
def LoopEntry.zero : LoopEntry := ⟨false, 0, 0, 0⟩

/-- No loop armed (R62). -/
def Loops.zero : Loops := ⟨.zero, .zero, false⟩

/-- The checkpoint of a wave that has begun no transaction. -/
def Checkpoint.zero : Checkpoint := ⟨[], [], .zero, 0, []⟩

/-- No transaction (R137, R138). -/
def Tx.zero : Tx := ⟨0, .zero, 0, 0, [], [], [], [], [], false, none, false, 0, 0, 0, 0, 0⟩

/-- A harbourmaster core after reset (R289, R374; log entry 3): registers zero, core 0 to start at the image's entry. -/
def Wave.hmReset (n : Nat) : Wave where
  gwn := 9216 + n
  run := .off
  pc := 0
  s := []
  v := []
  p := []
  sb := []
  loops := .zero
  flags := 0
  tx := .zero
  park := none
  flights := []
  nextOp := 0
  crew := 0
  crewIx := 0
  lcore := 0
  ctx := 0
  priv := true
  prio := 31
  vregs := 0
  age := 0
  issued := none
  ready := 0
  watch := 0
  bankUse := 0
  tabUse := 0
  dueFault := none
  duePark := none
  sync := []
  syncTx := []
  coreSeen := []
  bad := []

/-- The own registers of a harbourmaster core after reset (R292; log entry 3). -/
def HmCore.reset : HmCore := ⟨false, 0, 0, 0, 0, 0⟩

/-- A partition's registers after reset (log entry 3). -/
def Partition.reset : Partition := ⟨0, 0, 0, 1, 0, 0, []⟩

/-- Device memory after reset: every line zero in every copy (R377). -/
def Store.reset : Store := ⟨[], [], [], [], []⟩

/-- Empty caches. -/
def Caches.reset : Caches := ⟨[], [], [], [], []⟩

/-- The outside after reset (R373, R374; log entries 3, 6, 7, 9). -/
def Outside.reset : Outside where
  hostMem := []
  hostLines := []
  msix := []
  msixOn := []
  pending := []
  sent := []
  hostData := []
  bootCmd := 0
  bootLen := 0
  imageLen := 0
  bootStat := 0
  bootVec := 0
  booted := false
  mode := 0
  measure := 0
  conns := []
  nacks := []
  linksDown := []
  throttle := 0
  reports := []
  errors := []
  errCount := 0
  stopped := false

/-- The device right after reset (R373, R374, R377): memory cleared, no context resident, harbourmaster core 0 waiting for a verified image. -/
def State.reset : State where
  me := .hmReset 0
  others := [.hmReset 1, .hmReset 2, .hmReset 3]
  hm := [.reset, .reset, .reset, .reset]
  parts := [.reset, .reset, .reset, .reset]
  time := 0
  clocked := []
  store := .reset
  caches := .reset
  cores := []
  crews := []
  berths := []
  ctxs := []
  pilots := []
  pilotTurn := []
  migrations := []
  subs := []
  out := .reset
  wakes := 0
  fresh := 0
  agenda := []

end Sys2Proof.Machine
end

