-- ==== Sys2Proof/Machine/Ops.lean ====
section
/-! DEFINITION. The named operations over registers, waves, units, partitions and records; faults and exceptions as one shared
operation with the return beside it (R63, R142, R144, R154, R174, R188, R293, R295). -/

namespace Sys2Proof.Machine

/-! ## Numbers of units and waves (R8, R139, R303) -/

/-- The unit of a global wave number: far core n, 256 + quay unit, 512 + harbourmaster core (R139). -/
def unitOf (g : Nat) : Nat := if g < 8192 then g / 32 else if g < 9216 then 256 + (g - 8192) / 4 else 512 + (g - 9216)

/-- The wave slot of a global wave number (R139). -/
def slotOf (g : Nat) : Nat := if g < 8192 then g % 32 else if g < 9216 then (g - 8192) % 4 else 0

/-- The global wave number of a slot of a unit (R139). -/
def gwnOf (u slot : Nat) : Nat := if u < 256 then 32 * u + slot else if u < 512 then 8192 + 4 * (u - 256) + slot else 9216 + (u - 512)

/-- Is it a harbourmaster core's number? -/
def isHm (g : Nat) : Bool := decide (9216 ≤ g)

/-- Is it a quay wave's number? -/
def isQuay (g : Nat) : Bool := decide (8192 ≤ g) && decide (g < 9216)

/-- Is it a far wave's number? -/
def isFar (g : Nat) : Bool := decide (g < 8192)

/-- Dies of one partition (R302). -/
def diesOf (mode : BitVec 2) : Nat := if mode = 1 then 2 else if mode = 2 then 1 else 4

/-- Dies of one partition now. -/
def State.dies (s : State) : Nat := diesOf s.out.mode

/-- The partition of a harbourmaster core (R302). -/
def State.partOfHm (s : State) (n : Nat) : Nat := if s.out.mode = 1 then n / 2 else if s.out.mode = 2 then n else 0

/-- The partition of a die (R302). -/
def State.partOfDie (s : State) (d : Nat) : Nat := d / s.dies

/-- The die of a unit; a harbourmaster core counts as the first die of its partition. -/
def State.dieOf (s : State) (u : Nat) : Nat := if u < 512 then u % 256 / 64 else s.partOfHm (u - 512) * s.dies

/-- The partition of a unit. -/
def State.partOf (s : State) (u : Nat) : Nat := if u < 512 then s.partOfDie (u % 256 / 64) else s.partOfHm (u - 512)

/-- Bytes of a partition's memory (R303). -/
def State.partSize (s : State) : Nat := s.dies * 2 ^ 38

/-- The place of a partition's physical address 0 (R303). -/
def State.partBase (s : State) (p : Nat) : Nat := p * s.partSize

/-- The home berth of a place in device memory (R9, R303). -/
def State.berthOf (s : State) (g : Nat) : Nat := g / s.partSize * (64 * s.dies) + g % s.partSize / 16384 % (64 * s.dies)

/-- The partition of a context slot (R302). -/
def State.partOfCtx (s : State) (c : Nat) : Nat := c / (16 * s.dies)

/-! ## Registers of a wave (R11) -/

/-- s0 to s63. -/
def Wave.sreg (w : Wave) (n : Nat) : Word := Cells.get w.s n

/-- Parity is afresh at the places that a write replaces (R355). -/
def clearBad (p : RegPlace → Bool) (l : List RegPlace) : List RegPlace := l.filter (!p ·)

/-- Writes a scalar register. -/
def Wave.setS (w : Wave) (n : Nat) (x : Word) : Wave :=
  { w with s := Cells.set w.s n x, bad := clearBad (fun r => r == .s n false || r == .s n true) w.bad }

/-- Writes the high half of a scalar register. -/
def Wave.setHigh (w : Wave) (n : Nat) (x : Lane) : Wave :=
  { w with s := Cells.set w.s n (x ++ (w.sreg n).setWidth 32), bad := clearBad (· == .s n true) w.bad }

/-- One lane of a vector register. -/
def Wave.vreg (w : Wave) (n lane : Nat) : Lane := Cells.get w.v (32 * n + lane)

/-- Writes one lane of a vector register. -/
def Wave.setV (w : Wave) (n lane : Nat) (x : Lane) : Wave :=
  { w with v := Cells.set w.v (32 * n + lane) x, bad := clearBad (· == .v n lane) w.bad }

/-- p0 to p7; p7 reads as all ones. -/
def Wave.preg (w : Wave) (n : Nat) : Lane := if n = 7 then BitVec.allOnes 32 else Cells.get w.p n

/-- Writes a predicate; a write to p7 is discarded. -/
def Wave.setP (w : Wave) (n : Nat) (x : Lane) : Wave :=
  if n = 7 then w else { w with p := Cells.set w.p n x, bad := clearBad (· == .p n) w.bad }

/-- A scoreboard slot (R17). -/
def Wave.slot (w : Wave) (n : Nat) : BitVec 6 := Cells.get w.sb n

/-- Adds one to a slot. -/
def Wave.slotUp (w : Wave) (n : Nat) : Wave := { w with sb := Cells.set w.sb n (w.slot n + 1) }

/-- Subtracts one from a slot. -/
def Wave.slotDown (w : Wave) (o : Option Nat) : Wave :=
  match o with
  | some n => { w with sb := Cells.set w.sb n (w.slot n - 1) }
  | none => w

/-- Every slot reads zero. -/
def Wave.slotsZero (w : Wave) : Bool := w.sb.isEmpty

/-- The active lanes (R31, R172). -/
def Wave.act (w : Wave) (c : Ctl) : Lane := if c.pn then ~~~(w.preg c.pr.toNat) else w.preg c.pr.toNat

/-- ORs flags into FLAGS (R88). -/
def Wave.orFlags (w : Wave) (f : BitVec 5) : Wave := { w with flags := w.flags ||| f }

/-- Writes lanes of one vector register in ascending order. -/
def Wave.setLanes (w : Wave) (n : Nat) : List (Nat × Lane) → Wave
  | [] => w
  | (l, x) :: r => Wave.setLanes (w.setV n l x) n r

/-- Makes a register write. -/
def Wave.write (w : Wave) : RegWrite → Wave
  | .s r x => w.setS r x
  | .v r l x => w.setV r l x

/-- Makes register writes in order. -/
def Wave.writes (w : Wave) : List RegWrite → Wave
  | [] => w
  | x :: r => Wave.writes (w.write x) r

/-! ## Waves of the device -/

/-- Changes the executing wave. -/
def State.mapMe (s : State) (f : Wave → Wave) : State := { s with me := f s.me }

/-- The wave with a number. -/
def State.wave? (s : State) (g : Nat) : Option Wave := if s.me.gwn = g then some s.me else s.others.find? (·.gwn == g)

/-- Changes the wave with a number. -/
def State.modWave (s : State) (g : Nat) (f : Wave → Wave) : State :=
  if s.me.gwn = g then { s with me := f s.me } else { s with others := mapWhere (·.gwn == g) f s.others }

/-- Changes every wave that a test selects. -/
def State.modWaves (s : State) (p : Wave → Bool) (f : Wave → Wave) : State :=
  { s with me := if p s.me then f s.me else s.me, others := mapWhere p f s.others }

/-- Every wave. -/
def State.waves (s : State) : List Wave := s.me :: s.others

/-- Makes another wave the executing one. -/
def State.focus (s : State) (g : Nat) : State :=
  if s.me.gwn = g then s else
  match s.others.find? (·.gwn == g) with
  | none => s
  | some w => { s with me := w, others := s.me :: s.others.filter (·.gwn != g) }

/-- Removes the waves that a test selects; harbourmaster cores stay. -/
def State.dropWaves (s : State) (p : Wave → Bool) : State :=
  let gone (w : Wave) : Bool := p w && !isHm w.gwn
  let rest := s.others.filter (!gone ·)
  if gone s.me then
    match rest with
    | w :: r => { s with me := w, others := r }
    | [] => { s with others := rest }
  else { s with others := rest }

/-- Adds a wave. -/
def State.addWave (s : State) (w : Wave) : State := { s with others := s.others ++ [w] }

/-! ## Other records -/

/-- A berth that holds nothing (R49). -/
def Berth.empty (n : Nat) : Berth := ⟨n, [], 1, 1, [], [], [], [], none, []⟩

/-- The berth with a number. -/
def State.berth (s : State) (n : Nat) : Berth := (s.berths.find? (·.n == n)).getD (Berth.empty n)

/-- Replaces a berth's state. -/
def State.setBerth (s : State) (b : Berth) : State := { s with berths := putWhere (·.n == b.n) b s.berths }

/-- The engine state of a core that serves no context (R254). -/
def FarCore.empty (n : Nat) : FarCore := ⟨n, [], [], 0, 0, [], [], [], [], 0, none, none⟩

/-- The engine state of a far core. -/
def State.core (s : State) (n : Nat) : FarCore := (s.cores.find? (·.core == n)).getD (FarCore.empty n)

/-- Replaces a far core's engine state. -/
def State.setCore (s : State) (c : FarCore) : State := { s with cores := putWhere (·.core == c.core) c s.cores }

/-- The crew with an identity. -/
def State.crew? (s : State) (id : Nat) : Option Crew := s.crews.find? (·.id == id)

/-- Changes a crew. -/
def State.modCrew (s : State) (id : Nat) (f : Crew → Crew) : State := { s with crews := mapWhere (·.id == id) f s.crews }

/-- The resident context of a slot. -/
def State.ctx? (s : State) (c : Nat) : Option Context := s.ctxs.find? (·.slot == c)

/-- Changes a context. -/
def State.modCtx (s : State) (c : Nat) (f : Context → Context) : State := { s with ctxs := mapWhere (·.slot == c) f s.ctxs }

/-- The partition with a number. -/
def State.part (s : State) (p : Nat) : Partition := s.parts.getD p Partition.reset

/-- Changes a partition. -/
def State.modPart (s : State) (p : Nat) (f : Partition → Partition) : State :=
  { s with parts := (s.parts.take p) ++ f (s.part p) :: s.parts.drop (p + 1) }

/-- The registers of a harbourmaster core. -/
def State.hmCore (s : State) (n : Nat) : HmCore := s.hm.getD n HmCore.reset

/-- Changes the registers of a harbourmaster core. -/
def State.modHm (s : State) (n : Nat) (f : HmCore → HmCore) : State :=
  { s with hm := (s.hm.take n) ++ f (s.hmCore n) :: s.hm.drop (n + 1) }

/-- Changes a launch of a context. -/
def State.modLaunch (s : State) (c l : Nat) (f : Launch → Launch) : State :=
  s.modCtx c fun x => { x with launches := mapWhere (·.id == l) f x.launches }

/-- The launch of a context with an id. -/
def State.launch? (s : State) (c l : Nat) : Option Launch := (s.ctx? c).bind fun x => x.launches.find? (·.id == l)

/-- Changes the outside. -/
def State.modOut (s : State) (f : Outside → Outside) : State := { s with out := f s.out }

/-- Records an error (R116). -/
def State.record (s : State) (at_ sev : Nat) : State := s.modOut fun o => { o with errors := o.errors ++ [⟨at_, sev⟩] }

/-! ## Issue and the end check (R18, R183, R188) -/

/-- The time n clocks of a wave's own core after a time (R18). Time counts clocks of the arithmetic cores; a quay unit runs on the quay clock, of
which five pass in seven (R6, R312). -/
def clocksOn (g t n : Nat) : Nat := if isQuay g then (7 * (5 * t / 7 + n) + 4) / 5 else t + n

/-- The wave has issued at a time: its age restarts (R314), its watchdog counts the clock (R317), and its next issue is no sooner than 4 clocks
later (R18). -/
def Wave.stamp (t : Nat) (w : Wave) : Wave := { w with issued := some t, ready := clocksOn w.gwn t 4, age := 0, watch := w.watch + 1 }

/-- One entry of the end check at address x: the entry, and the body's start when the loop goes on (R188). -/
def LoopEntry.atEnd (e : LoopEntry) (x : Word) : LoopEntry × Option Word :=
  if e.armed && e.stop == x then
    if e.count - 1 = 0 then ({ e with armed := false, count := 0 }, none)
    else ({ e with count := e.count - 1 }, some e.start)
  else (e, none)

/-- The loops after the end check at an address, and where the wave goes on when a loop goes round (R188): the inner entry first. -/
def Loops.atEnd (l : Loops) (x : Word) : Loops × Option Word :=
  if l.inner1 then
    let a := l.l1.atEnd x
    match a.2 with
    | some t => ({ l with l1 := a.1 }, some t)
    | none => let b := l.l0.atEnd x; ({ l with l0 := b.1, l1 := a.1 }, b.2)
  else
    let a := l.l0.atEnd x
    match a.2 with
    | some t => ({ l with l0 := a.1 }, some t)
    | none => let b := l.l1.atEnd x; ({ l with l0 := a.1, l1 := b.1 }, b.2)

/-- Falls through with the end check (R188). -/
def Wave.fallThrough (w : Wave) : Wave :=
  let r := w.loops.atEnd w.pc
  { w with loops := r.1, pc := r.2.getD (w.pc + 8) }

/-- A taken branch: no loop entry changes, and the target issues no sooner than 8 clocks later (R183, R188). -/
def Wave.branchTo (t : Nat) (target : Word) (w : Wave) : Wave := { w with pc := target, ready := clocksOn w.gwn t 8 }

/-- An instruction that has issued, made a change of its wave, and falls through. -/
def State.finish (s : State) (f : Wave → Wave) : State := s.mapMe fun w => (f (w.stamp s.time)).fallThrough

/-- An instruction that has issued and transferred control. -/
def State.jump (s : State) (target : Word) (f : Wave → Wave) : State :=
  s.mapMe fun w => (f (w.stamp s.time)).branchTo s.time target

/-- An instruction has issued, and waits before it does anything (R143, R243, R295). -/
def State.stall (s : State) (i : Instr) : State := s.mapMe fun w => { w.stamp s.time with run := .stalled i }

/-! ## Transactions: aborts (R144, R154) -/

/-- Completes one instruction in flight that only has registers to write (R210). -/
def Wave.land (w : Wave) (f : Flight) : Wave :=
  match f.body with
  | .regs ws fl => ((w.writes ws).orFlags fl).slotDown f.slot
  | _ => w.slotDown f.slot

/-- Has an instruction in flight only registers left to write? -/
def Flight.onlyRegs (f : Flight) : Bool := match f.body with | .regs .. => true | _ => false

/-- Completes every instruction in flight of a transaction before the checkpoint is restored (R210): inside a transaction each has
only registers left to write. -/
def Wave.landAll (w : Wave) : Wave :=
  { ((w.flights.filter Flight.onlyRegs).foldl Wave.land w) with flights := w.flights.filter (!Flight.onlyRegs ·) }

/-- Is it a register that a checkpoint holds (R137)? -/
def RegPlace.saved : RegPlace → Bool
  | .s .. | .p _ | .lc _ | .flags => true
  | _ => false

/-- Restores a checkpoint with the parity of its registers (R137, R355): vector registers and scoreboard slots are not part of it. TXS is written. -/
def Wave.restore (w : Wave) (c : Checkpoint) : Wave :=
  { w with s := c.s, p := c.p, loops := c.loops, flags := c.flags, bad := c.bad ++ clearBad (fun r => r.saved || r == .txs) w.bad }

/-- The checkpoint of a wave now (R137). -/
def Wave.checkpoint (w : Wave) : Checkpoint := ⟨w.s, w.p, w.loops, w.flags, w.bad.filter RegPlace.saved⟩

/-- An abort with status 2 to 6 enters the handler (R144). -/
def Wave.enterHandler (status code cause : Nat) (w : Wave) : Wave :=
  let w1 := w.landAll.restore w.tx.cp
  { w1 with
    tx := { Tx.zero with last := status, code := code, cause := cause, confl := w.tx.confl }
    pc := w.tx.handler }

/-- The executing agent issues an instruction that aborts its transaction with status 2 to 6 (R18, R144). -/
def State.abortTx (s : State) (status code cause : Nat) : State := s.mapMe fun w => (w.stamp s.time).enterHandler status code cause

/-- The wait of a conflict abort, in arithmetic clocks (R154). -/
def backoffWait (n g : Nat) : Nat := 64 * 2 ^ min (n - 1) 8 + 37 * g % 64

/-- An abort with status 1: back-off, then a restart at the outermost `xbegin` with the age stamp kept (R154). -/
def Wave.conflictAbort (t : Nat) (w : Wave) : Wave :=
  let n := min (w.tx.confl + 1) 63
  let w1 := w.landAll.restore w.tx.cp
  { w1 with
    tx := { Tx.zero with last := 1, confl := n, stamp := w.tx.stamp, begin_ := w.tx.begin_, handler := w.tx.handler }
    pc := w.tx.begin_
    run := .backoff (t + backoffWait n w.gwn) }

/-! ## Faults and exceptions (R63, R142, R174, R293) -/

/-- Does an agent run with no transaction active, asleep or backing off? -/
def Wave.outsideTx (w : Wave) : Bool :=
  w.tx.depth == 0 && match w.run with
    | .running => true
    | .stalled _ => true
    | _ => false

/-- The transaction state of an agent that an exception takes (R138, R293): a transaction that it drops leaves TXS zero and the registers as they stand
(DESIGN CHOICE, log entry 100); without one nothing changes. -/
def Wave.dropTx (w : Wave) : Wave := if w.outsideTx then w else { w with tx := Tx.zero }

/-- An exception of a harbourmaster core (R293): EPC, ECAUSE, EVAL and EXC are set and execution goes on at EVEC, out of a sleep too; a second one
stops the core and is reported. -/
def State.hmException (s : State) (epc : Word) (cause : Nat) (val : Word) : State :=
  let n := s.me.gwn - 9216
  if s.me.run = .halted then s
  else if (s.hmCore n).exc then
    (s.mapMe fun w => { w.dropTx with run := .halted }).modOut fun o => { o with reports := o.reports ++ [.hmStopped n] }
  else
    let h := s.hmCore n
    (s.modHm n fun r => { r with epc := epc, ecause := BitVec.ofNat 8 cause, eval := val, exc := true }).mapMe
      fun w => { w.dropTx with pc := h.evec, run := .running }

/-- The return from an exception: PC := EPC, HSTAT unchanged (R295); as a transfer of control it undergoes no end check (DESIGN CHOICE, log entry 97). -/
def State.hmReturn (s : State) : State := s.mapMe fun w => { w.stamp s.time with pc := (s.hmCore (w.gwn - 9216)).epc }

/-- The record at a berth that a crew runs. -/
def TaskRec.of (c : Crew) (r : TaskRec) : Bool := r.id == c.record

/-- The manifest entry that a failed task asks for (R64). -/
def reportOf (s : State) (c : Crew) (info : FaultInfo) : Report :=
  let ws := (((s.berth c.berth).recs.find? (TaskRec.of c)).map (·.words)).getD []
  ⟨c.berth, c.seq, c.type, (ws.getD 0 0).toNat % 2 ^ 48, info.cause, info.sev, info.pc, info.detail, some c.record⟩

/-- Asks for a manifest entry (R64). -/
def State.report (s : State) (ctx launch : Nat) (r : Report) : State :=
  s.modLaunch ctx launch fun l => { l with reports := l.reports ++ [r] }

/-- Engine work of a crew that is dropped when its task faults: what has not started, and every matrix command but a running one (R283). -/
def FarCore.dropUnstarted (k : FarCore) (crew : Nat) : FarCore :=
  { k with
    mat := k.mat.filter fun m => m.crew != crew || m.state == 2
    lit := k.lit.filter fun l => l.crew != crew || l.started }

/-- Is an operation in flight an access to an accumulator bank, which a fault drops (R283)? -/
def Flight.bank (f : Flight) : Bool :=
  match f.body with
  | .accrd .. => true
  | .accwr .. => true
  | _ => false

/-- A task faults (R63): its waves issue nothing more, its record is held failed-unreported, and its report is asked for, once; a shadow copy's only
when it is compared (R322). Values in flight to registers are discarded, unstarted engine work is dropped (R283), and every other issued instruction
completes. A parked wave's park ends. -/
def State.failTask (s : State) (id : Nat) (info : FaultInfo) : State :=
  match s.crew? id with
  | none => s
  | some c =>
    if c.fault.isSome then s else
    let s := s.modCrew id fun x => { x with fault := some info }
    let s := s.modWaves (fun w => w.crew == id && !isHm w.gwn) fun w =>
      { w with run := .off, park := none, tx := Tx.zero, dueFault := none, duePark := none, flights := w.flights.filter (!Flight.bank ·) }
    let s := { s with cores := mapWhere (·.core == c.unit) (·.dropUnstarted id) s.cores }
    let b := s.berth c.berth
    let s := s.setBerth { b with recs := mapWhere (TaskRec.of c) (fun r => { r with st := .failed }) b.recs }
    if c.shadow then s else s.report c.ctx c.launch (reportOf s c info)

/-- Is it a cause that faults the task even inside a transaction: ILLEGAL or LOOP_DEPTH (R142)? -/
def hardCause (cause : Nat) : Bool := cause == 0x01 || cause == 0x08

/-- The executing agent's instruction faults: inside a transaction it aborts with status 6 and the cause (R142); a harbourmaster core enters an
exception (R293); a wave's task faults (R63). -/
def State.raise (s : State) (cause sev : Nat) (detail : Word) : State :=
  let w := s.me
  if w.tx.depth ≠ 0 ∧ hardCause cause = false then s.abortTx 6 0 cause
  else if isHm w.gwn then (s.mapMe (Wave.stamp s.time)).hmException w.pc cause detail
  else s.failTask w.crew ⟨cause, sev, w.pc, detail⟩

/-- The executing agent's instruction reads a register that fails its parity (R355): the task faults, inside a transaction too (R142). -/
def State.parityFault (s : State) : State :=
  if isHm s.me.gwn then (s.mapMe (Wave.stamp s.time)).hmException s.me.pc 0x15 0 else s.failTask s.me.crew ⟨0x15, 5, s.me.pc, 0⟩

/-- ILLEGAL (R65, R173). -/
def State.illegal (s : State) : State := s.raise 0x01 0 0
/-- BAD_COMMAND (R65). -/
def State.badCommand (s : State) : State := s.raise 0x09 0 0

/-- A wave parks (R300): PCAUSE, PADDR and PPC are set, and a fault-queue entry is asked for. -/
def State.parkWave (s : State) (g kind engine : Nat) (addr pc : Word) : State :=
  match s.wave? g with
  | none => s
  | some w =>
    let s := s.modWave g fun w => { w with run := .parked, park := some ⟨kind, engine, addr, pc, false⟩ }
    s.modPart (s.partOf (unitOf g)) fun p => { p with fqWait := p.fqWait ++ [⟨g, kind, engine, w.ctx, addr, pc⟩] }

/-- A notice of KIND 4 (R233, R300); whether it finds room is decided when it is written. -/
def State.notice (s : State) (addr pc : Word) : State :=
  s.modPart (s.partOf (unitOf s.me.gwn)) fun p => { p with fqWait := p.fqWait ++ [⟨s.me.gwn, 4, 0, s.me.ctx, addr, pc⟩] }

/-! ## Dooms and wakes (R151, R152) -/

/-- The line number of the status line of a berth (R66), beyond every line of device memory. -/
def statusLine (b : Nat) : Nat := 2 ^ 34 + b

/-- The slice that homes a line: its berth (R8, R150). -/
def State.sliceOf (s : State) (line : Nat) : Nat := if line < 2 ^ 34 then s.berthOf (64 * line) else line - 2 ^ 34

/-- A registered wave is doomed when active and woken when asleep (R151); `write` orders the wakes of one write (R153). -/
def Wave.hit (write : Option Nat) (w : Wave) : Wave :=
  match w.run with
  | .asleep => { w with run := .woken write }
  | .feAsleep i => { w with run := .feWoken i }
  | _ => if w.tx.depth = 0 then w else { w with tx := { w.tx with doom := true } }

/-- A write performed at a home dooms and wakes every wave registered on the line or on the slice's coarse list, never the writer itself (R151). -/
def State.touchLine (s : State) (writer line : Nat) : State :=
  let sl := s.sliceOf line
  let reg (w : Wave) : Bool := w.gwn != writer && (w.tx.lines.contains line || w.tx.coarse.contains sl)
  let t := s.modWaves reg (Wave.hit (some s.wakes))
  if s.waves.any fun w => reg w && w.run == .asleep then { t with wakes := t.wakes + 1 } else t

/-- The key of a granule of a crew's scratch. -/
def granuleKey (crew g : Nat) : Nat := crew * 65536 + g

/-- A change of a granule's data or bit dooms and wakes under R152. -/
def State.touchGranule (s : State) (writer unit crew g : Nat) : State :=
  s.modWaves (fun w => w.gwn != writer && (w.tx.granules.contains (granuleKey crew g) || (w.tx.coarseCore && unitOf w.gwn == unit))) (Wave.hit none)

/-- A wave that sleeps on a granule, in a full/empty instruction or in the `retry` that one executed inside a transaction, is woken when a reservation of
the granule ends (R141, R156, R261); nothing is written, and nothing is doomed (DESIGN CHOICE, log entry 95). -/
def State.wakeGranule (s : State) (unit crew g : Nat) : State :=
  s.modWaves (fun w => w.tx.granules.contains (granuleKey crew g) || (w.tx.coarseCore && unitOf w.gwn == unit)) fun w =>
    match w.run with
    | .feAsleep i => { w with run := .feWoken i }
    | .asleep => { w with run := .woken none }
    | _ => w

/-- Several granules. -/
def State.wakeGranules (s : State) (unit crew : Nat) (gs : List Nat) : State := gs.foldl (fun s g => s.wakeGranule unit crew g) s

/-- Several granules. -/
def State.touchGranules (s : State) (writer unit crew : Nat) : List Nat → State
  | [] => s
  | g :: r => State.touchGranules (s.touchGranule writer unit crew g) writer unit crew r

/-- Registrations that stand at a slice (R150). -/
def State.exactCount (s : State) (sl : Nat) : Nat :=
  (s.waves.map fun w => (w.tx.lines.filter (s.sliceOf · == sl)).length).foldl (· + ·) 0

/-- Registers a line in the executing wave's read set; none when the coarse list of the slice is full, an abort with status 3 (R150). -/
def State.registerLine (s : State) (line : Nat) : Option State :=
  let sl := s.sliceOf line
  let tx := s.me.tx
  if tx.lines.contains line || tx.coarse.contains sl then some s
  else if s.exactCount sl < 16384 then some (s.mapMe fun w => { w with tx := { w.tx with lines := line :: w.tx.lines } })
  else if (s.waves.filter fun w => w.tx.coarse.contains sl).length < 64 then
    some (s.mapMe fun w => { w with tx := { w.tx with
      coarse := sl :: w.tx.coarse, lines := w.tx.lines.filter fun l => s.sliceOf l != sl } })
  else none

/-- Registers a granule; a wave that finds its unit's table of 256 entries full is marked coarse (R152). -/
def State.registerGranule (s : State) (g : Nat) : State :=
  let k := granuleKey s.me.crew g
  let u := unitOf s.me.gwn
  if s.me.tx.granules.contains k || s.me.tx.coarseCore then s
  else if ((s.waves.filter fun w => unitOf w.gwn == u).map fun w => w.tx.granules.length).foldl (· + ·) 0 < 256 then
    s.mapMe fun w => { w with tx := { w.tx with granules := k :: w.tx.granules } }
  else s.mapMe fun w => { w with tx := { w.tx with coarseCore := true } }

end Sys2Proof.Machine
end

