-- ==== Sys2Proof/Machine/Flags.lean ====
section
/-! DEFINITION. FLAGS (R87, R88): how the flags of an instruction reach the wave, and the float operations over the elements of a
lane (R207, R208). -/

namespace Sys2Proof.Machine

/-- The flags of several lanes or elements together (R88). -/
def orAll (l : List Flags) : Flags := l.foldl (· ||| ·) 0

/-- The elements of a lane under a float type: one of 32 bits, or two halves (R207). -/
def laneElems (t : Ty) (x : Nat) : List Nat := if t = .f32 then [x % 2 ^ 32] else [x % 2 ^ 16, x / 2 ^ 16 % 2 ^ 16]

/-- The lane that holds the elements (R207). -/
def laneOf : List Nat → Nat
  | [] => 0
  | [x] => x
  | x :: y :: _ => x % 2 ^ 16 + y % 2 ^ 16 * 2 ^ 16

/-- The format of a float type (R166). -/
def fltFmt (t : Ty) : Fmt := (Fmt.ofTy t).getD fmtF32

/-- The random operand of each element of a lane (R208): bits [15:0] for element 0, bits [31:16] for element 1. -/
def randElems (g : Nat) : List Nat := [g % 2 ^ 16, g / 2 ^ 16 % 2 ^ 16]

/-- A one-operand float operation on a lane, element by element; the function takes the format, the random operand and the element. -/
def laneUn (t : Ty) (f : Fmt → Nat → Nat → Nat × Flags) (g a : Nat) : Nat × Flags :=
  let rs := (laneElems t a).zip (randElems g) |>.map fun p => f (fltFmt t) p.2 p.1
  (laneOf (rs.map (·.1)), orAll (rs.map (·.2)))

/-- A two-operand float operation on a lane. -/
def laneBin (t : Ty) (f : Fmt → Nat → Nat → Nat → Nat × Flags) (g a b : Nat) : Nat × Flags :=
  let rs := ((laneElems t a).zip (laneElems t b)).zip (randElems g) |>.map fun p => f (fltFmt t) p.2 p.1.1 p.1.2
  (laneOf (rs.map (·.1)), orAll (rs.map (·.2)))

/-- A three-operand float operation on a lane. -/
def laneTri (t : Ty) (f : Fmt → Nat → Nat → Nat → Nat × Flags) (a b c : Nat) : Nat × Flags :=
  let rs := ((laneElems t a).zip (laneElems t b)).zip (laneElems t c) |>.map fun p => f (fltFmt t) p.1.1 p.1.2 p.2
  (laneOf (rs.map (·.1)), orAll (rs.map (·.2)))

end Sys2Proof.Machine
end

