-- ==== Sys2Proof/Machine/Operands.lean ====
section
/-! DEFINITION. Operand forms (R162 to R165, R175, R206, R207) and the writing of results by the class of the destination (R176). -/

namespace Sys2Proof.Machine

/-- The width of an integer or raw type (R175). -/
def tyWidth (t : Ty) : Nat :=
  match t with
  | .i64 | .n64 | .b64 => 64
  | _ => 32

/-- The integer column of R164 modulo 2^64. -/
def constInt (n : BitVec 4) : Word :=
  match n.toNat with
  | 0 => 0
  | 1 => 1
  | 2 => 2
  | 3 => 3
  | 4 => 4
  | 5 => 7
  | 6 => 8
  | 7 => 15
  | 8 => 16
  | 9 => 31
  | 10 => 32
  | 11 => 255
  | 12 => 65535
  | 13 => 0xFFFFFFFFFFFFFFFF
  | 14 => 0xFFFFFFFFFFFFFFFE
  | _ => 0xFFFFFFFF80000000

/-- The float column of R164 as an exact value. -/
def constFloat (n : BitVec 4) : FVal :=
  match n.toNat with
  | 0 => .num false 0 0
  | 1 => .num false 1 0
  | 2 => .num false 1 1
  | 3 => .num false 1 (-1)
  | 4 => .num false 1 2
  | 5 => .num false 1 (-2)
  | 6 => .num true 0 0
  | 7 => .num false 3 0
  | 8 => .num false 1 3
  | 9 => .num false 1 (-3)
  | 10 => .num false 3 (-1)
  | 11 => .inf false
  | 12 => .inf true
  | 13 => .num true 1 0
  | 14 => .num true 1 1
  | _ => .nan

/-- An inline constant in a float format (R164): rounded `.rne`, and to the largest finite value beyond it; no flag. -/
def Fmt.const (f : Fmt) (n : BitVec 4) : Nat := (f.round .rne true 0 (constFloat n)).1

/-- A special value for a lane (R163); on a harbourmaster core %core reads 0 (DESIGN CHOICE, log entry 102). -/
def State.special (s : State) (lane : Nat) : Special → Word
  | .lane => BitVec.ofNat 64 lane
  | .lanebit => BitVec.ofNat 64 (2 ^ lane)
  | .slot => BitVec.ofNat 64 (slotOf s.me.gwn)
  | .core => BitVec.ofNat 64 (if isQuay s.me.gwn then unitOf s.me.gwn else s.me.lcore)
  | .die => BitVec.ofNat 64 (s.dieOf (unitOf s.me.gwn))
  | .berth => BitVec.ofNat 64 ((s.crew? s.me.crew).map (·.berth) |>.getD 0)
  | .crew => BitVec.ofNat 64 s.me.crewIx
  | .crewsz => BitVec.ofNat 64 ((s.crew? s.me.crew).map (·.waves.length) |>.getD 0)
  | .cycle => BitVec.ofNat 64 s.time
  | .bsw => 0x0000FFFFFFFFC000
  | .ctx => BitVec.ofNat 64 s.me.ctx
  | .scr => BitVec.ofNat 64 ((s.crew? s.me.crew).map (fun c => 65536 * c.units) |>.getD 0)

/-- opnd(x, l) of R175 at 64 bits; a vector lane is zero-extended, an inline constant takes the integer column. -/
def State.opnd (s : State) (x : Opnd) (lane : Nat) : Word :=
  match x with
  | .v n => (s.me.vreg n.toNat lane).setWidth 64
  | .s n => s.me.sreg n.toNat
  | .sp p => s.special lane p
  | .k n => constInt n
  | .p n => (s.me.preg n.toNat).setWidth 64

/-- opnd(x, l) reduced modulo 2^w (R175). -/
def State.opndW (s : State) (w : Nat) (x : Opnd) (lane : Nat) : Nat := (s.opnd x lane).toNat % 2 ^ w

/-- A source of a float instruction for a lane (R206, R207): an inline constant takes the float column, in both halves of a 16-bit type. -/
def State.opndF (s : State) (t : Ty) (x : Opnd) (lane : Nat) : Nat :=
  match x with
  | .k n => let c := (fltFmt t).const n; if t = .f32 then c else c + c * 2 ^ 16
  | x => s.opndW 32 x lane

/-- The active lanes of an instruction, ascending (R172). -/
def State.lanes (s : State) (c : Ctl) : List Nat := setBits 32 (s.me.act c).toNat

/-- Is act empty? -/
def State.idleAct (s : State) (c : Ctl) : Bool := (s.me.act c) == 0

/-- A result written to a scalar: whole at 64 bits, extended by the type's sign at 32 (R176). -/
def extendResult (t : Ty) (r : Nat) : Word :=
  if tyWidth t = 64 then BitVec.ofNat 64 r
  else if t = .i32 then (BitVec.ofNat 32 r).signExtend 64 else (BitVec.ofNat 32 r).setWidth 64

/-- The wave after a result has been written under R176: per lane to a vector, whole to a scalar or predicate. `f` gives the result
for a lane; a scalar or predicate takes it for lane 0. -/
def State.putResult (s : State) (c : Ctl) (t : Ty) (d : Opnd) (f : Nat → Nat) (w : Wave) : Wave :=
  match d with
  | .v n => w.setLanes n.toNat ((s.lanes c).map fun l => (l, BitVec.ofNat 32 (f l)))
  | .s n => w.setS n.toNat (extendResult t (f 0))
  | .p n => w.setP n.toNat (BitVec.ofNat 32 (f 0))
  | _ => w

/-- The first register of a vector operand. -/
def opndNum : Opnd → Nat
  | .v n => n.toNat
  | .s n => n.toNat
  | .p n => n.toNat
  | .k n => n.toNat
  | .sp _ => 0

/-- The addresses of the active lanes of a format-M instruction, or the one address of a scalar access (R161, R232): base + index × size +
OFS8 × size, modulo 2^64. -/
def State.memAddr (s : State) (m : MemArg) (size lane : Nat) : Nat :=
  let idx : Nat := match m.index with
    | none => 0
    | some x => (s.opnd x lane).toNat
  let ofs := ofSigned 64 (m.ofs.toInt * size)
  ((s.me.sreg m.base.toNat).toNat + idx * size + ofs) % 2 ^ 64

end Sys2Proof.Machine
end

