-- ==== Sys2Proof/WellFormed.lean ====
section
/-! DEFINITION. Which instructions are legal as words: the static part of R173 (R159, R161 to R172 and each entry's operand rules).
What depends on the executing agent (vector register count, privilege, unit) is checked at issue, in Machine/Issue.lean. -/

namespace Sys2Proof

/-- A per-lane source: a vector or a per-lane special value (R162, R163). -/
def Opnd.perLane : Opnd → Bool
  | .v _ => true
  | .sp .lane => true
  | .sp .lanebit => true
  | _ => false

def Opnd.isV : Opnd → Bool
  | .v _ => true
  | _ => false

def Opnd.isS : Opnd → Bool
  | .s _ => true
  | _ => false

def Opnd.isP : Opnd → Bool
  | .p _ => true
  | _ => false

def Opnd.isK : Opnd → Bool
  | .k _ => true
  | _ => false

def Opnd.isSp : Opnd → Bool
  | .sp _ => true
  | _ => false

/-- May be a destination (R162). -/
def Opnd.isDest (d : Opnd) : Bool := d.isV || d.isS || d.isP

namespace Ty

/-- INT of R166. -/
def int : Ty → Bool
  | .i32 | .n32 | .i64 | .n64 => true
  | _ => false

/-- BIT of R166. -/
def bit : Ty → Bool
  | .b32 | .b64 => true
  | _ => false

/-- FLT of R166. -/
def flt : Ty → Bool
  | .f32 | .bf16 | .f16 => true
  | _ => false

/-- NAR of R166. -/
def nar : Ty → Bool
  | .e4m3 | .e5m2 | .e2m3 | .e3m2 | .e2m1 => true
  | _ => false

/-- 64-bit integer and raw types. -/
def wide : Ty → Bool
  | .i64 | .n64 | .b64 => true
  | _ => false

/-- Signed types (R70). -/
def signed : Ty → Bool
  | .i8 | .i16 | .i32 | .i64 => true
  | _ => false

/-- The types of `cvt` (R222). -/
def cvtOk (t : Ty) : Bool := t.flt || t.nar || t == .i32 || t == .n32

end Ty

/-- The scoreboard and predicate fields (R159, R172): `slot` when the row's Slot column reads V, `unpred` when the
row must be unpredicated. -/
def Ctl.ok (c : Ctl) (slot unpred : Bool) : Bool :=
  (c.se || c.ss == 0) && (slot || !c.se) && (!unpred || (c.pr == 7 && !c.pn))

/-- The class rules of R166, R176 for a destination and its sources; `pred` when the entry allows a predicate destination. -/
def intOk (t : Ty) (d : Opnd) (srcs : List Opnd) (pred : Bool) : Bool :=
  d.isDest && (!t.wide || d.isS) && (d.isV || !srcs.any Opnd.perLane) && (!d.isP || (pred && t == .b32))

/-- The untyped forms take their width from the destination (R191, R192). -/
def untypedOk (d : Opnd) (srcs : List Opnd) (pred : Bool) : Bool :=
  d.isDest && (d.isV || !srcs.any Opnd.perLane) && (!d.isP || pred)

/-- `cmp`'s destinations (R198): a predicate under a 32-bit type; a scalar, a 64-bit type allowing no per-lane source. -/
def cmpOk (cc : Cc) (t : Ty) (d : Opnd) (srcs : List Opnd) : Bool :=
  (t.int || t.flt) && (t.flt || cc != .un) && (d.isP || d.isS) && (!t.wide || (d.isS && !srcs.any Opnd.perLane))

/-- The random operand of `.sr` (R208): a vector or scalar exactly when the rounding is stochastic. -/
def gOk (rm : Rm) (g : Option Opnd) : Bool :=
  match rm, g with
  | .sr, some o => o.isV || o.isS
  | .sr, none => false
  | _, some _ => false
  | _, none => true

/-- A group of `k` vector registers starting at a multiple of `k` (R165). -/
def groupOk (d : BitVec 7) (k : Nat) : Bool := d.toNat % k == 0

/-- An index operand of format M (R33, R161). -/
def indexOk : Option Opnd → Bool
  | none => true
  | some (.v _) => true
  | some (.s _) => true
  | some (.sp _) => true
  | some _ => false

def MemArg.perLane (m : MemArg) : Bool := m.index.any Opnd.perLane

def LdTy.words : LdTy → Nat
  | .b64 => 2
  | .b128 => 4
  | _ => 1

def FeTy.words : FeTy → Nat
  | .b64 => 2
  | .b128 => 4
  | _ => 1

def AtTy.wide : AtTy → Bool
  | .b64 | .i64 | .n64 => true
  | _ => false

/-- The data register of a load (R232): a vector group inside the file, or a scalar with no per-lane index and no `.b128`. -/
def loadDataOk (words : Nat) (d : Opnd) (m : MemArg) : Bool :=
  indexOk m.index &&
  match d with
  | .v n => n.toNat + words ≤ 128
  | .s _ => !m.perLane && words != 4
  | _ => false

/-- The data of a store (R232). -/
def storeDataOk (words : Nat) (d : Opnd) (m : MemArg) : Bool :=
  indexOk m.index &&
  match d with
  | .v n => n.toNat + words ≤ 128
  | _ => words != 4

/-- The order of a load or a store (R168, R235). -/
def MemOrd.loadOk : MemOrd → Bool
  | .plain => true
  | .acq _ => true
  | _ => false

def MemOrd.storeOk : MemOrd → Bool
  | .plain => true
  | .rel _ => true
  | _ => false

/-- The data register of an atomic (R232, R240): 64-bit types need a scalar. -/
def atomDataOk (t : AtTy) (d : Opnd) (m : MemArg) : Bool :=
  indexOk m.index &&
  match d with
  | .v _ => !t.wide
  | .s _ => !m.perLane
  | _ => false

/-- `cas` names a pair (R165, R240). -/
def casPairOk : Opnd → Bool
  | .v n => n.toNat % 2 == 0
  | .s n => n.toNat % 2 == 0
  | _ => false

/-- The types of `atom.add`, `atom.min`, `atom.max` (R240). -/
def AtTy.arith : AtTy → Bool
  | .b32 | .b64 => false
  | _ => true

/-- The types of `atom.and`, `atom.or`, `atom.xor`, `atom.cas` (R240). -/
def AtTy.raw : AtTy → Bool
  | .b32 | .b64 => true
  | _ => false

/-- A scalar or an inline constant. -/
def Opnd.scalarOrK (o : Opnd) : Bool := o.isS || o.isK

/-- The register numbers that R290 gives, and 0x20C to 0x20F, which R294 reads as zero while SELW names a harbourmaster core. -/
def sysregKnown (r : BitVec 16) : Bool :=
  let n := r.toNat
  n ≤ 0x00B || (0x100 ≤ n && n ≤ 0x104) || n == 0x108 || (0x110 ≤ n && n ≤ 0x116) || (0x200 ≤ n && n ≤ 0x20F)

/-- Static legality of an instruction (R173). Steps without a word are well formed as they stand. -/
def Instr.wf : Instr → Bool
  | .nop c => c.ok false false
  | .br c _ _ => c.ok false false
  | .call c _ _ => c.ok false false
  | .lea c _ _ => c.ok false false
  | .jr c _ => c.ok false false
  | .jalr c _ _ => c.ok false false
  | .loop c _ n off => c.ok false true && n.scalarOrK && !off.msb
  | .li c d _ => c.ok false false && d.isDest
  | .lih c _ _ => c.ok false false
  | .mulh c t _ a b => c.ok false false && (t == .i64 || t == .n64) && !a.perLane && !b.perLane
  | .csel c d a b k => c.ok false false && untypedOk d [a, b] false && (k.isS || k.isP)
  | .add c t d a b => c.ok false false && t.int && intOk t d [a, b] false
  | .addImm c t d a _ => c.ok false false && t.int && intOk t d [a] false
  | .sub c t d a b => c.ok false false && t.int && intOk t d [a, b] false
  | .mul c t d a b => c.ok false false && t.int && intOk t d [a, b] false
  | .mulImm c t d a _ => c.ok false false && t.int && intOk t d [a] false
  | .mad c t d a b x => c.ok false false && t.int && intOk t d [a, b, x] false
  | .mov c d a => c.ok false false && untypedOk d [a] true
  | .and c t d a b => c.ok false false && t.bit && intOk t d [a, b] true
  | .andImm c t d a _ => c.ok false false && t.bit && intOk t d [a] true
  | .or c t d a b => c.ok false false && t.bit && intOk t d [a, b] true
  | .orImm c t d a _ => c.ok false false && t.bit && intOk t d [a] true
  | .xor c t d a b => c.ok false false && t.bit && intOk t d [a, b] true
  | .xorImm c t d a _ => c.ok false false && t.bit && intOk t d [a] true
  | .not c t d a => c.ok false false && t.bit && intOk t d [a] true
  | .shl c t d a b => c.ok false false && (t.int || t.bit) && intOk t d [a, b] false
  | .shlImm c t d a _ => c.ok false false && (t.int || t.bit) && intOk t d [a] false
  | .lsr c t d a b => c.ok false false && (t.int || t.bit) && intOk t d [a, b] false
  | .lsrImm c t d a _ => c.ok false false && (t.int || t.bit) && intOk t d [a] false
  | .asr c t d a b => c.ok false false && (t.int || t.bit) && intOk t d [a, b] false
  | .asrImm c t d a _ => c.ok false false && (t.int || t.bit) && intOk t d [a] false
  | .min c t d a b => c.ok false false && t.int && intOk t d [a, b] false
  | .max c t d a b => c.ok false false && t.int && intOk t d [a, b] false
  | .cmp c cc t d a b => c.ok false false && cmpOk cc t d [a, b]
  | .cmpImm c cc t d a _ => c.ok false false && t.int && cmpOk cc t d [a]
  | .bfx c t d a p l => c.ok false false && (t.int || t.bit) && intOk t d [a, p, l] false
  | .bfi c t d a p l => c.ok false false && (t.int || t.bit) && intOk t d [a, p, l] false
  | .popc c t d a => c.ok false false && t.bit && intOk t d [a] false
  | .clz c t d a => c.ok false false && t.bit && intOk t d [a] false
  | .perm c m _ _ b => c.ok false false && (b.isV == (m == .idx))
  | .red c op t d _ =>
    c.ok true false && (d.isV || d.isS) &&
    match op with
    | .add | .min | .max => t == .i32 || t == .n32
    | .and | .or | .xor => t == .b32
  | .gaddr c d a b x =>
    c.ok false false && a.scalarOrK && !b.isP && !(x.any Opnd.isP) &&
    match d with
    | .v n => n.toNat % 2 == 0
    | .s n => n.toNat % 2 == 0
    | _ => false
  | .addFloat c t rm _ _ _ g => c.ok false false && t.flt && gOk rm g
  | .subFloat c t rm _ _ _ g => c.ok false false && t.flt && gOk rm g
  | .mulFloat c t rm _ _ _ g => c.ok false false && t.flt && gOk rm g
  | .fma c t rm _ _ _ _ => c.ok false false && t.flt && rm != .sr
  | .fms c t rm _ _ _ _ => c.ok false false && t.flt && rm != .sr
  | .minFloat c t _ _ _ => c.ok false false && t.flt
  | .maxFloat c t _ _ _ => c.ok false false && t.flt
  | .abs c t _ _ => c.ok false false && t.flt
  | .neg c t _ _ => c.ok false false && t.flt
  | .div c t rm _ _ _ g => c.ok true false && t.flt && gOk rm g
  | .sqrt c t rm _ _ g => c.ok true false && t.flt && gOk rm g
  | .rcp c t _ _ => c.ok true false && t.flt
  | .rsqrt c t _ _ => c.ok true false && t.flt
  | .exp2 c t _ _ => c.ok true false && t.flt
  | .log2 c t _ _ => c.ok true false && t.flt
  | .sin c t _ _ => c.ok true false && t.flt
  | .cos c t _ _ => c.ok true false && t.flt
  | .tanh c t _ _ => c.ok true false && t.flt
  | .cvt c dt st rm _ _ g => c.ok false false && dt.cvtOk && st.cvtOk && dt != st && gOk rm g
  | .bq c t d a => c.ok false true && t.nar && groupOk d 2 && groupOk a 4
  | .bdq c t et rm d _ _ =>
    c.ok false true && (et.nar || et == .cb4) && rm != .sr &&
    match t with
    | .f32 => groupOk d 4
    | .bf16 => groupOk d 2 && rm == .rne
    | _ => false
  | .cbq c _ _ _ _ => c.ok false false
  | .cbl c _ _ _ _ => c.ok false false
  | .rnd128 c d a _ => c.ok true false && groupOk d 4 && groupOk a 4
  | .flget c _ => c.ok false false
  | .flclr c m => c.ok false false && m.scalarOrK
  | .fclass c t _ _ => c.ok false false && t.flt
  | .frnd c t rm _ _ g => c.ok false false && t.flt && gOk rm g
  | .ldG c t o d m => c.ok true false && o.loadOk && loadDataOk t.words d m
  | .stG c t o d m => c.ok true false && o.storeOk && storeDataOk t.words d m
  | .ldS c t o d m => c.ok true false && o.loadOk && loadDataOk t.words d m
  | .stS c t o d m => c.ok true false && o.storeOk && storeDataOk t.words d m
  | .pfG c m => c.ok false false && indexOk m.index
  | .atomAdd c _ t _ d m => c.ok true false && t.arith && atomDataOk t d m
  | .atomMin c _ t _ d m => c.ok true false && t.arith && atomDataOk t d m
  | .atomMax c _ t _ d m => c.ok true false && t.arith && atomDataOk t d m
  | .atomAnd c _ t _ d m => c.ok true false && t.raw && atomDataOk t d m
  | .atomOr c _ t _ d m => c.ok true false && t.raw && atomDataOk t d m
  | .atomXor c _ t _ d m => c.ok true false && t.raw && atomDataOk t d m
  | .atomXchg c _ t _ d m => c.ok true false && atomDataOk t d m
  | .atomCas c _ t _ d m => c.ok true false && t.raw && atomDataOk t d m && casPairOk d
  | .fence c _ _ => c.ok false false
  | .ldf c t d m => c.ok true false && loadDataOk t.words d m
  | .ldfc c t d m => c.ok true false && loadDataOk t.words d m
  | .stf c t d m => c.ok true false && storeDataOk t.words d m
  | .feset c a n => c.ok true false && a.scalarOrK && n.scalarOrK
  | .feclr c a n => c.ok true false && a.scalarOrK && n.scalarOrK
  | .discard c _ n => c.ok true false && n.scalarOrK
  | .xbegin c _ => c.ok false true
  | .xend c => c.ok false true
  | .retry c => c.ok false true
  | .otherwise c _ => c.ok false true
  | .xabort c imm => c.ok false false && imm.toNat ≤ 239
  | .xstat c _ => c.ok false false
  | .spawn c _ q => c.ok true false && q.toNat % 8 == 0
  | .tret c => c.ok false true
  | .progress c => c.ok false false
  | .evset c e => c.ok true false && e.scalarOrK
  | .evclr c e => c.ok true false && e.scalarOrK
  | .launch c _ _ => c.ok true false
  | .mxc c q => c.ok true false && q.toNat % 4 == 0
  | .cpc c q => c.ok true false && q.toNat % 4 == 0
  | .ctld c _ _ _ => c.ok true false
  | .ctswap c m => c.ok false false && m != 0
  | .chartld c _ _ => c.ok true false
  | .accrd c _ _ _ => c.ok true false
  | .accwr c _ _ _ => c.ok true false
  | .trap c _ => c.ok false true
  | .eret c => c.ok false true
  | .srr c _ r => c.ok false true && sysregKnown r
  | .srw c r _ => c.ok false true && sysregKnown r
  | .tlbi c _ _ => c.ok true true
  | .tlbsync c => c.ok false true
  | .sighost c _ => c.ok true true
  | .halt c => c.ok false true
  | _ => true

/-- Rows 0 to 116: the instructions that have a word. -/
def Instr.isWord : Instr → Bool
  | .illegal _ | .slotCompletion .. | .storePerformedAtHome .. | .atomicAtHome .. | .wakeRestart .. | .backoffExpiry ..
  | .feReexecute .. | .faultQueueEntryWrite .. | .matrixMma .. | .matrixMmaz .. | .matrixZero .. | .matrixKstep ..
  | .lighterStart .. | .lighterTurn .. | .convNone .. | .convElementwise .. | .expandBf16 .. | .expandF32 .. | .packIn ..
  | .packOut .. | .quantBf16 .. | .quantF32 .. | .requantBf16 .. | .launchCheck .. | .berthCycle .. | .statusLineRewrite ..
  | .taskPriorityAge .. | .pilotSend .. | .remoteWaitExpiry .. | .crewStart .. | .wavePriorityAge .. | .manifestWrite ..
  | .manifestRetry .. | .watchdogHang .. | .shadowCompare .. | .preempt .. | .preemptImageWrite .. | .restore .. | .ctxload ..
  | .ctxset .. | .stealload .. | .ctxunload .. | .resume .. | .fault .. | .sysregWrite .. | .writeProtectCollapse ..
  | .reReplicate .. | .pinExpiry .. | .migrationWindowReset .. | .relayoutReencode .. | .memorySweep .. | .l2Sweep ..
  | .errorInjection .. | .launchPageTake .. | .preemptRequest .. | .restoreRequest .. | .relayoutRequest .. | .hostWrite ..
  | .hostRead .. | .juwinPacket .. | .linkRetrain .. | .reset | .bootcmdGo .. | .bootVerifyDone .. | .attestation ..
  | .throttle .. | .thermalShutdown | .msixVectorUnmask .. | .tlbEntryDrop .. => false
  | _ => true

end Sys2Proof
end

