-- ==== Sys2Proof/Machine/Issue.lean ====
section
/-! DEFINITION. The issue of an instruction: what depends on the executing agent (R12, R13, R170, R171, R173, R174), the waits (R17, R140,
R143, R147, R243, R250, R262, R269, R273), the empty act (R172), what a transaction forbids (R142), and the one operation through which every
meaning runs. -/

namespace Sys2Proof.Machine

/-- The control fields of an instruction (R158); a word that is none and the device's other steps have none. -/
def ctlOf : Instr → Ctl
  | .nop c | .br c _ _ | .call c _ _ | .lea c _ _ | .jr c _ | .jalr c _ _ | .loop c _ _ _ | .li c _ _ | .lih c _ _
  | .mulh c _ _ _ _ | .csel c _ _ _ _ | .add c _ _ _ _ | .addImm c _ _ _ _ | .sub c _ _ _ _ | .mul c _ _ _ _ | .mulImm c _ _ _ _
  | .mad c _ _ _ _ _ | .mov c _ _ | .and c _ _ _ _ | .andImm c _ _ _ _ | .or c _ _ _ _ | .orImm c _ _ _ _ | .xor c _ _ _ _
  | .xorImm c _ _ _ _ | .not c _ _ _ | .shl c _ _ _ _ | .shlImm c _ _ _ _ | .lsr c _ _ _ _ | .lsrImm c _ _ _ _ | .asr c _ _ _ _
  | .asrImm c _ _ _ _ | .min c _ _ _ _ | .max c _ _ _ _ | .cmp c _ _ _ _ _ | .cmpImm c _ _ _ _ _ | .bfx c _ _ _ _ _
  | .bfi c _ _ _ _ _ | .popc c _ _ _ | .clz c _ _ _ | .perm c _ _ _ _ | .red c _ _ _ _ | .gaddr c _ _ _ _
  | .addFloat c _ _ _ _ _ _ | .subFloat c _ _ _ _ _ _ | .mulFloat c _ _ _ _ _ _ | .fma c _ _ _ _ _ _ | .fms c _ _ _ _ _ _
  | .minFloat c _ _ _ _ | .maxFloat c _ _ _ _ | .abs c _ _ _ | .neg c _ _ _ | .div c _ _ _ _ _ _ | .sqrt c _ _ _ _ _
  | .rcp c _ _ _ | .rsqrt c _ _ _ | .exp2 c _ _ _ | .log2 c _ _ _ | .sin c _ _ _ | .cos c _ _ _ | .tanh c _ _ _
  | .cvt c _ _ _ _ _ _ | .bq c _ _ _ | .bdq c _ _ _ _ _ _ | .cbq c _ _ _ _ | .cbl c _ _ _ _ | .rnd128 c _ _ _ | .flget c _
  | .flclr c _ | .fclass c _ _ _ | .frnd c _ _ _ _ _ | .ldG c _ _ _ _ | .stG c _ _ _ _ | .ldS c _ _ _ _ | .stS c _ _ _ _
  | .pfG c _ | .atomAdd c _ _ _ _ _ | .atomMin c _ _ _ _ _ | .atomMax c _ _ _ _ _ | .atomAnd c _ _ _ _ _ | .atomOr c _ _ _ _ _
  | .atomXor c _ _ _ _ _ | .atomXchg c _ _ _ _ _ | .atomCas c _ _ _ _ _ | .fence c _ _ | .ldf c _ _ _ | .ldfc c _ _ _
  | .stf c _ _ _ | .feset c _ _ | .feclr c _ _ | .discard c _ _ | .xbegin c _ | .xend c | .retry c | .otherwise c _ | .xabort c _
  | .xstat c _ | .spawn c _ _ | .tret c | .progress c | .evset c _ | .evclr c _ | .launch c _ _ | .mxc c _ | .cpc c _
  | .ctld c _ _ _ | .ctswap c _ | .chartld c _ _ | .accrd c _ _ _ | .accwr c _ _ _ | .trap c _ | .eret c | .srr c _ _
  | .srw c _ _ | .tlbi c _ _ | .tlbsync c | .sighost c _ | .halt c => c
  | _ => ⟨false, 7, false, 0, 0⟩

/-- The words of a memory access's data register (R232). -/
def ldWords : LdTy → Nat
  | .b64 => 2
  | .b128 => 4
  | _ => 1

/-- The registers of a memory operand. -/
def memUses (m : MemArg) : List (Opnd × Nat) :=
  (.s m.base, 1) :: match m.index with
    | none => []
    | some x => [(x, 1)]

/-- An optional operand. -/
def optUse : Option Opnd → List (Opnd × Nat)
  | none => []
  | some x => [(x, 1)]

/-- The operands that an instruction names, each with the number of consecutive registers it stands for (R165, R232). -/
def opndsOf : Instr → List (Opnd × Nat)
  | .loop _ _ n _ => [(n, 1)]
  | .li _ d _ => [(d, 1)]
  | .mulh _ _ d a b => [(.s d, 1), (a, 1), (b, 1)]
  | .csel _ d a b k => [(d, 1), (a, 1), (b, 1), (k, 1)]
  | .add _ _ d a b | .sub _ _ d a b | .mul _ _ d a b | .and _ _ d a b | .or _ _ d a b | .xor _ _ d a b | .shl _ _ d a b
  | .lsr _ _ d a b | .asr _ _ d a b | .min _ _ d a b | .max _ _ d a b | .cmp _ _ _ d a b => [(d, 1), (a, 1), (b, 1)]
  | .addImm _ _ d a _ | .mulImm _ _ d a _ | .andImm _ _ d a _ | .orImm _ _ d a _ | .xorImm _ _ d a _ | .shlImm _ _ d a _
  | .lsrImm _ _ d a _ | .asrImm _ _ d a _ | .cmpImm _ _ _ d a _ | .mov _ d a | .not _ _ d a | .popc _ _ d a | .clz _ _ d a =>
    [(d, 1), (a, 1)]
  | .mad _ _ d a b x | .bfx _ _ d a b x | .bfi _ _ d a b x => [(d, 1), (a, 1), (b, 1), (x, 1)]
  | .perm _ _ d a b => [(.v d, 1), (.v a, 1), (b, 1)]
  | .red _ _ _ d a => [(d, 1), (.v a, 1)]
  | .gaddr _ d a b x => [(d, 2), (a, 1), (b, 1)] ++ optUse x
  | .addFloat _ _ _ d a b g | .subFloat _ _ _ d a b g | .mulFloat _ _ _ d a b g | .div _ _ _ d a b g =>
    [(.v d, 1), (a, 1), (b, 1)] ++ optUse g
  | .fma _ _ _ d a b x | .fms _ _ _ d a b x => [(.v d, 1), (a, 1), (b, 1), (x, 1)]
  | .minFloat _ _ d a b | .maxFloat _ _ d a b => [(.v d, 1), (a, 1), (b, 1)]
  | .abs _ _ d a | .neg _ _ d a | .rcp _ _ d a | .rsqrt _ _ d a | .exp2 _ _ d a | .log2 _ _ d a | .sin _ _ d a | .cos _ _ d a
  | .tanh _ _ d a | .fclass _ _ d a => [(.v d, 1), (a, 1)]
  | .sqrt _ _ _ d a g | .frnd _ _ _ d a g => [(.v d, 1), (a, 1)] ++ optUse g
  | .cvt _ _ _ _ d a g => [(.v d, 1), (a, 1)] ++ optUse g
  | .bq _ _ d a => [(.v d, 2), (.v a, 4)]
  | .bdq _ t _ _ d a b => [(.v d, if t = .f32 then 4 else 2), (a, 1), (b, 1)]
  | .cbq _ _ d a b | .cbl _ _ d a b => [(.v d, 1), (a, 1), (b, 1)]
  | .rnd128 _ d a _ => [(.v d, 4), (.v a, 4)]
  | .flclr _ m => [(m, 1)]
  | .ldG _ t _ d m | .stG _ t _ d m | .ldS _ t _ d m | .stS _ t _ d m => (d, ldWords t) :: memUses m
  | .pfG _ m => memUses m
  | .atomAdd _ _ _ _ d m | .atomMin _ _ _ _ d m | .atomMax _ _ _ _ d m | .atomAnd _ _ _ _ d m | .atomOr _ _ _ _ d m
  | .atomXor _ _ _ _ d m | .atomXchg _ _ _ _ d m => (d, 1) :: memUses m
  | .atomCas _ _ _ _ d m => (d, 2) :: memUses m
  | .ldf _ t d m | .ldfc _ t d m | .stf _ t d m => (d, match t with | .b64 => 2 | .b128 => 4 | _ => 1) :: memUses m
  | .feset _ a n | .feclr _ a n => [(a, 1), (n, 1)]
  | .discard _ a n => [(.s a, 1), (n, 1)]
  | .evset _ e | .evclr _ e => [(e, 1)]
  | .accrd _ d x _ => [(.v d, 1), (x, 1)]
  | .accwr _ x _ y => [(x, 1), (y, 1)]
  | _ => []

/-- The operands that an instruction reads at issue (R17), each with its number of registers: those of `opndsOf` but the destinations that it only writes,
and the registers that its word names otherwise. -/
def srcsOf : Instr → List (Opnd × Nat)
  | .br _ cond _ => match cond with
    | .z r | .nz r | .ltz r | .gez r => [(.s r, 1)]
    | .any p | .all p | .none p => [(.p p, 1)]
    | .always => []
  | .jr _ a | .jalr _ _ a | .launch _ _ a | .ctld _ a _ _ | .chartld _ a _ | .srw _ _ a | .sighost _ a => [(.s a, 1)]
  | .tlbi _ a b => [(.s a, 1), (.s b, 1)]
  | .spawn _ _ q => [(.s q, 8)]
  | .mxc _ q | .cpc _ q => [(.s q, 4)]
  | .rnd128 _ _ a b => [(.v a, 4), (.s b, 1)]
  | i@(.loop ..) | i@(.discard ..) | i@(.evset ..) | i@(.evclr ..) | i@(.feset ..) | i@(.feclr ..) | i@(.stG ..) | i@(.stS ..) | i@(.stf ..)
  | i@(.atomAdd ..) | i@(.atomMin ..) | i@(.atomMax ..) | i@(.atomAnd ..) | i@(.atomOr ..) | i@(.atomXor ..) | i@(.atomXchg ..)
  | i@(.atomCas ..) | i@(.accwr ..) | i@(.flclr ..) | i@(.pfG ..) | i@(.bfi ..) => opndsOf i
  | i => (opndsOf i).drop 1

/-- Is an operand the vector register with a number? -/
def isVector (n : Nat) : Opnd → Bool
  | .v m => m.toNat == n
  | _ => false

/-- Does an instruction name a vector register among its sources? -/
def srcVector (i : Instr) (n : Nat) : Bool :=
  (srcsOf i).any fun p => match p.1 with
    | .v m => decide (m.toNat ≤ n) && decide (n < m.toNat + p.2)
    | _ => false

/-- Does an instruction with a set of active lanes read a lane of a vector register? `perm` reads all of its source (R201), `bq` of its group (R225); `bdq`
the lanes of its field, and lane 0 of its scale (R224, R226). -/
def readsLane (act : Lane) (n lane : Nat) (i : Instr) : Bool :=
  match i with
  | .perm _ _ _ a _ => a.toNat == n || (bitAt act.toNat lane && srcVector i n)
  | .bq .. => srcVector i n
  | .bdq _ _ et _ _ a b => (isVector n a && decide (lane < 4 * narWidth et)) || (isVector n b && lane == 0)
  | i => bitAt act.toNat lane && srcVector i n

/-- The condition of `br` over act (R180). -/
def State.brTaken (s : State) (c : Ctl) : BrCond → Bool
  | .always => true
  | .z n => s.me.sreg n.toNat == 0
  | .nz n => s.me.sreg n.toNat != 0
  | .ltz n => (s.me.sreg n.toNat).msb
  | .gez n => !(s.me.sreg n.toNat).msb
  | .any p => (s.me.act c &&& s.me.preg p.toNat) != 0
  | .all p => (s.me.act c &&& s.me.preg p.toNat) == s.me.act c
  | .none p => (s.me.act c &&& s.me.preg p.toNat) == 0

/-- Does an instruction of the executing agent undergo the end check (R188)? None that transfers control, ends the wave or stops the core does. -/
def State.endChecked (s : State) : Instr → Bool
  | .br c cond _ => !s.brTaken c cond
  | .call .. | .jr .. | .jalr .. | .retry _ | .xabort .. | .eret _ | .tret _ | .halt _ => false
  | .trap .. => !isHm s.me.gwn
  | _ => true

/-- Does the end check at an address read the counter of a loop: the outer one's only where the inner one does not go round (R188)? -/
def Loops.reads (l : Loops) (x : Word) (second : Bool) : Bool :=
  let here (e : LoopEntry) : Bool := e.armed && e.stop == x
  let e := if second then l.l1 else l.l0
  let o := if second then l.l0 else l.l1
  here e && (second == l.inner1 || !here o || o.count - 1 == 0)

/-- Does the end check of the executing wave read a counter that fails its parity (R188, R355)? -/
def State.endBad (s : State) : Bool := s.me.bad.any fun r => match r with
  | .lc second => s.me.loops.reads s.me.pc second
  | _ => false

/-- Does an instruction of the executing wave read a register when it issues (R17, R355)? The predicate is read by every instruction, a loop counter by the
end check (R188). -/
def State.readsReg (s : State) (i : Instr) : RegPlace → Bool
  | .s n _ => (srcsOf i).any fun p => match p.1 with
    | .s m => decide (m.toNat ≤ n) && decide (n < m.toNat + p.2)
    | _ => false
  | .v n lane => readsLane (s.me.act (ctlOf i)) n lane i
  | .p n => decide ((ctlOf i).pr.toNat = n) || (srcsOf i).any fun p => match p.1 with
    | .p m => m.toNat == n
    | _ => false
  | .lc second => s.endChecked i && s.me.loops.reads s.me.pc second
  | .flags => match i with
    | .flget .. => true
    | .srr _ _ r => r == 0x000
    | _ => false
  | .txs => match i with
    | .xstat .. => true
    | .srr _ _ r => r == 0x001
    | _ => false
  | .mxp => match i with
    | .srr _ _ r => r == 0x002
    | _ => false

/-- Does an instruction read a register of its wave that fails its parity (R355)? -/
def State.readsBad (s : State) (i : Instr) : Bool := s.me.bad.any (s.readsReg i)

/-- Every vector register lies below the type's vector register count (R12, R165). -/
def vregsOk (n : Nat) (i : Instr) : Bool :=
  (opndsOf i).all fun p => match p.1 with
    | .v r => decide (r.toNat + p.2 ≤ n)
    | _ => true

/-- May a harbourmaster core execute it (R163, R171)? -/
def hmAllows (i : Instr) : Bool :=
  (match i with
    | .nop _ | .br .. | .call .. | .lea .. | .jr .. | .jalr .. | .loop .. | .li .. | .lih .. | .mulh .. | .csel .. => true
    | .add .. | .addImm .. | .sub .. | .mul .. | .mulImm .. | .mad .. | .mov .. | .and .. | .andImm .. | .or .. | .orImm ..
    | .xor .. | .xorImm .. | .not .. | .shl .. | .shlImm .. | .lsr .. | .lsrImm .. | .asr .. | .asrImm .. | .min .. | .max ..
    | .cmpImm .. | .bfx .. | .bfi .. | .popc .. | .clz .. => true
    | .cmp .. => true
    | .ldG .. | .stG .. | .pfG .. => true
    | .atomAdd _ scr _ _ _ _ | .atomMin _ scr _ _ _ _ | .atomMax _ scr _ _ _ _ | .atomAnd _ scr _ _ _ _ | .atomOr _ scr _ _ _ _
    | .atomXor _ scr _ _ _ _ | .atomXchg _ scr _ _ _ _ | .atomCas _ scr _ _ _ _ => !scr
    | .fence .. | .xbegin .. | .xend _ | .retry _ | .otherwise .. | .xabort .. | .xstat .. => true
    | .trap .. | .eret _ | .srr .. | .srw .. | .tlbi .. | .tlbsync _ | .sighost .. | .halt _ => true
    | _ => false) &&
  (opndsOf i).all fun p => match p.1 with
    | .v _ => false
    | .sp x => x == .core || x == .die || x == .cycle
    | _ => true

/-- A form that needs privilege (R170, R289). -/
def privForm : Instr → Bool
  | .srw .. | .tlbi .. | .tlbsync _ | .sighost .. => true
  | _ => false

/-- A form of harbourmaster cores alone (R170, R295). -/
def hmForm : Instr → Bool
  | .eret _ | .halt _ => true
  | _ => false

/-- An instruction that faults NOT_AT_QUAY at a quay unit (R13, R226, R229, R254). -/
def farOnly : Instr → Bool
  | .launch .. | .mxc .. | .cpc .. | .ctld .. | .ctswap .. | .chartld .. | .accrd .. | .accwr .. | .cbl .. | .cbq .. => true
  | .bdq _ _ et _ _ _ _ => et == .cb4
  | _ => false

/-- An instruction that aborts a transaction with status 6 and BAD_COMMAND (R142, R295). -/
def txForbids : Instr → Bool
  | .cpc .. | .mxc .. | .ctld .. | .ctswap .. | .chartld .. | .launch .. | .spawn .. | .tret _ | .evset .. | .evclr .. | .progress _
  | .discard .. | .fence .. | .tlbi .. | .tlbsync _ | .sighost .. | .halt _ | .eret _ | .srw .. | .trap .. => true
  | _ => false

/-- Illegal outside a transaction (R146). -/
def needsTx : Instr → Bool
  | .xend _ | .retry _ | .otherwise .. | .xabort .. => true
  | _ => false

/-- Does a system-register instruction raise ILLEGAL (R290): a register of another agent, one without the access asked for, or one that an
unprivileged wave may not reach? While SELW names a harbourmaster core (`sel`), 0x200 to 0x20F read as zero and discard writes (R294; log entry 88). -/
def sysIllegal (hm priv sel : Bool) : Instr → Bool
  | .srr _ _ r =>
    let n := r.toNat
    !(hm && sel && decide (0x200 ≤ n) || n ≤ 0x007 || (n ≤ 0x00A && priv) || (hm && 0x100 ≤ n && n ≤ 0x116 && n != 0x115) || (hm && 0x200 ≤ n && n ≤ 0x20A))
  | .srw _ r _ =>
    let n := r.toNat
    !(hm && sel && decide (0x200 ≤ n) || n == 0x000 || n == 0x00B
      || (hm && (n == 0x100 || n == 0x101 || n == 0x104 || n == 0x108 || (0x110 ≤ n && n ≤ 0x113) || n == 0x115 || n == 0x200 || n == 0x20B)))
  | _ => false

/-- Is it the number of a harbourmaster core (R294)? -/
def hmNumber (g : Nat) : Bool := decide (9216 ≤ g) && decide (g < 9220)

/-- Does the word raise ILLEGAL here (R12, R146, R163, R171, R173, R289, R290)? -/
def State.illegalHere (s : State) (i : Instr) : Bool :=
  let w := s.me
  (match i with | .illegal _ => true | _ => false)
  || (if isHm w.gwn then !hmAllows i else !vregsOk w.vregs i || hmForm i || (privForm i && !w.priv))
  || sysIllegal (isHm w.gwn) w.priv (hmNumber (s.hmCore (w.gwn - 9216)).selw.toNat) i
  || (needsTx i && w.tx.depth == 0)

/-- The engine commands of a wave that have not completed, by operation number. -/
def State.commandsOf (s : State) (g : Nat) : List Nat :=
  let c := s.core (unitOf g)
  if isFar g then (c.mat.filter (·.gwn == g)).map (·.id) ++ (c.lit.filter (·.gwn == g)).map (·.id) else []

/-- Is the operation in flight one whose value a `fence.acq` waits for (R243)? -/
def OrdClass.reads : OrdClass → Bool
  | .ld | .acq | .ra | .ara | .arl | .ldf | .arac | .arlc => true
  | _ => false

/-- Is a wave's access with this operation number still in flight? -/
def State.inFlight (s : State) (p : Nat × Nat) : Bool :=
  (match s.wave? p.1 with
    | none => false
    | some w => w.flights.any (·.id == p.2)) || (s.commandsOf p.1).contains p.2

/-- Does a wave of a far core still load one of the tables of a mask (R273)? -/
def State.loadsTable (s : State) (core : Nat) (mask : BitVec 8) : Bool :=
  s.waves.any fun w => unitOf w.gwn == core && w.flights.any fun f => match f.body with
    | .ctld n .. => bitAt mask.toNat n
    | _ => false

/-- Is the operation in flight a write of memory that must be performed first (R331, R334)? -/
def Flight.writes (f : Flight) : Bool :=
  match f.body with
  | .store .. => true
  | .atomic .. => true
  | .setFull .. => true
  | .discard .. => true
  | _ => false

/-- Is an attempt of a transaction, known by its wave and the time it began, still under way? -/
def State.inAttempt (s : State) (p : Nat × Nat) : Bool :=
  (s.wave? p.1).any fun w => w.tx.depth != 0 && w.tx.since == p.2

/-- Has a wave a write of memory in flight? -/
def Wave.writing (w : Wave) : Bool := w.flights.any Flight.writes

/-- Is a store of a wave still performed at core scope only (R121)? -/
def State.stillCore (s : State) (g id : Nat) : Bool := (s.wave? g).any fun x => x.flights.any fun f => f.id == id && f.core

/-- Does a release of a wave with an operation number wait for a store of another wave that an earlier acquire may have seen performed at core scope only: a
release is cumulative (R130; log entry 31)? -/
def State.owes (s : State) (w : Wave) (id : Nat) : Bool := w.coreSeen.any fun e => decide (e.2.2 ≤ id) && s.stillCore e.1 e.2.1

/-- The stores performed at core scope only that a wave has seen once it performs an acquire: those that it knew of and that are not yet at their homes, and
every such store of the other waves of its unit, for its releases from an operation number on (R130; log entry 31). -/
def State.sawCore (s : State) (g from_ : Nat) : List (Nat × Nat × Nat) :=
  ((((s.wave? g).map (·.coreSeen)).getD []).filter fun e => s.stillCore e.1 e.2.1)
    ++ (s.waves.filter fun x => x.gwn != g && unitOf x.gwn == unitOf g).flatMap fun x => (x.flights.filter (·.core)).map fun f => (x.gwn, f.id, from_)

/-- What an instruction waits for besides WM before it issues (R17, R140, R143, R147, R250, R262, R269, R273, R331). The end of a task waits for what an acquire
has seen too (R130). -/
def State.drained (s : State) (i : Instr) : Bool :=
  let w := s.me
  match i with
  | .xbegin .. | .retry _ => w.slotsZero
  | .xend _ => w.tx.depth != 1 || w.slotsZero
  | .tret _ => w.flights.isEmpty && (s.commandsOf w.gwn).isEmpty && !s.owes w w.nextOp
  | .tlbi .. => !s.waves.any fun x => unitOf x.gwn == unitOf w.gwn && x.writing
  | .mxc .. => decide ((s.core (unitOf w.gwn)).mat.length < 8)
  | .cpc .. => decide ((s.core (unitOf w.gwn)).lit.length < 4)
  | .ctswap _ mask => !s.loadsTable (unitOf w.gwn) mask
  | _ => true

/-- May an instruction that has issued act (R143, R243, R295): a fence, a commit, `tlbsync`, `halt` and a WCTL write hold their wave until then, and the wave issues
nothing more. A release or full fence of core scope waits for engine commands here, and for what is not performed at core scope where it takes effect; one of
wider scope and a commit wait for what an acquire has seen too (R130). -/
def State.acts (s : State) (i : Instr) : Bool :=
  let w := s.me
  match i with
  | .xend _ => w.tx.depth != 1 || (w.flights.all Flight.onlyRegs && (s.commandsOf w.gwn).isEmpty && !s.owes w w.nextOp)
  | .halt _ => w.flights.isEmpty
  | .fence _ .acq _ => (s.commandsOf w.gwn).isEmpty && !w.flights.any (·.cls.reads)
  | .fence _ _ .core => (s.commandsOf w.gwn).isEmpty
  | .fence .. => w.flights.isEmpty && (s.commandsOf w.gwn).isEmpty && !s.owes w w.nextOp
  | .srw _ r _ => r != 0x20B || !w.writing
  | .tlbsync _ => !w.flights.any (fun f => match f.body with | .tlbi .. => true | _ => false) && !w.sync.any s.inFlight && !w.syncTx.any s.inAttempt
  | _ => true

/-- Every slot that WM names reads zero (R17). -/
def Wave.waited (w : Wave) (c : Ctl) : Bool := (setBits 8 c.wm.toNat).all fun n => w.slot n == 0

/-- The slot of SE is below 63 (R17). -/
def Wave.slotRoom (w : Wave) (c : Ctl) : Bool := !c.se || w.slot c.ss.toNat != 63

/-- Is it a per-lane instruction, which raises its slot whatever act holds (R17, R172)? A full/empty form with an empty act waits for nothing (R244), and
`accrd` and `accwr` are per-lane (R265). -/
def perLaneForm : Instr → Bool
  | .ldf .. | .ldfc .. | .stf .. => false
  | .accrd .. | .accwr .. => true
  | .stG _ _ _ d m | .stS _ _ _ d m => d.isV || m.perLane
  | i => (opndsOf i).any fun p => p.1.perLane

/-- Has the pre-emption of its context stopped a wave (R358)? -/
def State.frozen (s : State) (w : Wave) : Bool := !isHm w.gwn && ((s.ctx? w.ctx).map Context.frozen).getD false

/-- What becomes of an instruction at an issue opportunity; with `stall` it issues and waits to act. -/
inductive Verdict where
  | hold
  | due
  | doomed
  | stop (cause : Nat)
  | idle
  | parity
  | forbidden
  | stall
  | go
  deriving DecidableEq, Repr

/-- What becomes of an instruction that nothing reaches at this boundary: decode causes wait until every slot reads zero (R174); then WM, the predicate with its parity and the empty act (R172), with which a per-lane instruction still
waits for room in its slot (R17; log entry 27) and the end check reads its counter (R355), the other waits for issue, what a transaction forbids (R142), the
parity of what the instruction reads (R355), and what it waits for once it has issued. That an instruction which a transaction forbids makes its wait for issue
(`tret`, `tlbi`, `ctswap`, room for `mxc` and `cpc`) before it aborts is the model's choice (DESIGN CHOICE, log entry 107). -/
def State.gate (s : State) (i : Instr) : Verdict :=
  let w := s.me
  let c := ctlOf i
  if s.illegalHere i then (if w.slotsZero then .stop 0x01 else .hold)
  else if isQuay w.gwn && farOnly i then (if w.slotsZero then .stop 0x02 else .hold)
  else if !w.waited c then .hold
  else if w.bad.contains (.p c.pr.toNat) then .parity
  else if s.idleAct c then (if perLaneForm i && !w.slotRoom c then .hold else if s.endBad then .parity else .idle)
  else if !(w.slotRoom c && s.drained i) then .hold
  else if w.tx.depth ≠ 0 ∧ txForbids i = true then .forbidden
  else if s.readsBad i then .parity
  else if !s.acts i then .stall
  else .go

/-- Has a fault or a park of an engine command come to a wave (R263, R269, R283)? -/
def Wave.hasDue (w : Wave) : Bool := w.dueFault.isSome || w.duePark.isSome

/-- Does the attempt of a wave end at this boundary: it is doomed, and the next instruction is not the `retry` that would restart it (R153)? -/
def Wave.endsDoomed (w : Wave) (i : Instr) : Bool := w.tx.depth != 0 && w.tx.doom && match i with
  | .retry _ => false
  | _ => true

/-- The verdict for the executing agent: it must run, its context not be pre-empted; a fault or park of its engine command comes first (R263, R283), then the
abort of a doomed attempt (R153). -/
def State.verdict (s : State) (i : Instr) : Verdict :=
  if s.me.run ≠ .running ∨ s.frozen s.me = true then .hold
  else if s.me.hasDue then .due
  else if s.me.endsDoomed i then .doomed
  else s.gate i

/-- The outcome type of the machine. -/
abbrev Result := Host.Outcome State Fault Refusal

/-- A fault raised by an engine command, or else its park, reaches the wave at an instruction boundary (R263, R269, R283). Inside a transaction, begun after the
command was issued, it faults the task and does not abort (DESIGN CHOICE, log entry 96). -/
def State.takeDue (s : State) : State :=
  match s.me.dueFault, s.me.duePark with
  | some f, _ => s.failTask s.me.crew f
  | none, some p => (s.mapMe fun w => { w with duePark := none }).parkWave s.me.gwn p.kind p.engine p.addr p.pc
  | none, none => s

/-- Runs an instruction's effect where the verdict lets it issue; each other verdict has its one consequence. -/
def State.perform (s : State) (i : Instr) (effect : State → State) : Result :=
  .next (match s.verdict i with
    | .hold => s
    | .due => s.takeDue
    | .doomed => s.mapMe (Wave.conflictAbort s.time)
    | .stop cause => s.raise cause 0 0
    | .idle => s.finish id
    | .parity => s.parityFault
    | .forbidden => s.abortTx 6 0 0x09
    | .stall => s.stall i
    | .go => effect s)

/-! ## Instructions in flight -/

/-- The slot that an instruction raises (R17). -/
def slotOfCtl (c : Ctl) : Option Nat := if c.se then some c.ss.toNat else none

/-- Adds an instruction in flight whose slot already stands raised. -/
def Wave.flyRaised (c : Ctl) (cls : OrdClass) (body : Pending) (w : Wave) : Wave :=
  { w with flights := w.flights ++ [⟨w.nextOp, cls, slotOfCtl c, w.pc, body, false⟩], nextOp := w.nextOp + 1 }

/-- Raises the slot of an instruction (R17). -/
def Wave.raiseSlot (c : Ctl) (w : Wave) : Wave := if c.se then w.slotUp c.ss.toNat else w

/-- Adds an instruction in flight to the wave and raises its slot (R17). -/
def Wave.fly (c : Ctl) (cls : OrdClass) (body : Pending) (w : Wave) : Wave := (w.raiseSlot c).flyRaised c cls body

/-- An instruction that reports through its slot has issued and falls through (R19). -/
def State.launchFlight (s : State) (c : Ctl) (cls : OrdClass) (body : Pending) : State := s.finish (Wave.fly c cls body)

end Sys2Proof.Machine
end

