-- ==== Sys2Proof/Machine/Control.lean ====
section
/-! DEFINITION. Control and scalar instructions (R179 to R192, R194). -/

namespace Sys2Proof.Machine

/-- The target of a format-B instruction: PC + 8 + 8 × sext(OFF24), modulo 2^64 (R161, R180). -/
def offTarget (pc : Word) (off : BitVec 24) : Word := pc + 8 + 8 * off.signExtend 64

/-- `nop` has no effect but its wait (R179). -/
def execNop (c : Ctl) (s : State) : Result := s.perform (.nop c) fun s => s.finish id

/-- `br` (R180). -/
def execBr (c : Ctl) (cond : BrCond) (off : BitVec 24) (s : State) : Result :=
  s.perform (.br c cond off) fun s =>
    if s.brTaken c cond then s.jump (offTarget s.me.pc off) id else s.finish id

/-- `call`: the link is the next word's address (R181). -/
def execCall (c : Ctl) (link : BitVec 6) (off : BitVec 24) (s : State) : Result :=
  s.perform (.call c link off) fun s => s.jump (offTarget s.me.pc off) (·.setS link.toNat (s.me.pc + 8))

/-- `lea` (R181). -/
def execLea (c : Ctl) (d : BitVec 6) (off : BitVec 24) (s : State) : Result :=
  s.perform (.lea c d off) fun s => s.finish (·.setS d.toNat (offTarget s.me.pc off))

/-- `jr`: a target that is not a multiple of 8 faults MISALIGNED here (R182). -/
def execJr (c : Ctl) (a : BitVec 6) (s : State) : Result :=
  s.perform (.jr c a) fun s =>
    let t := s.me.sreg a.toNat
    if t.toNat % 8 ≠ 0 then s.raise 0x03 0 0 else s.jump t id

/-- `jalr`: the target is read before the link is written (R182). -/
def execJalr (c : Ctl) (d a : BitVec 6) (s : State) : Result :=
  s.perform (.jalr c d a) fun s =>
    let t := s.me.sreg a.toNat
    if t.toNat % 8 ≠ 0 then s.raise 0x03 0 0 else s.jump t (·.setS d.toNat (s.me.pc + 8))

/-- Does the address lie inside an armed entry's body (R187)? -/
def LoopEntry.holds (e : LoopEntry) (pc : Word) : Bool := e.armed && decide (e.start.toNat ≤ pc.toNat) && decide (pc.toNat ≤ e.stop.toNat)

/-- One of the two loop entries: lc1 when `c`. -/
def Loops.entry (l : Loops) (c : Bool) : LoopEntry := if c then l.l1 else l.l0

/-- Replaces one of the two loop entries. -/
def Loops.put (l : Loops) (c : Bool) (e : LoopEntry) : Loops := if c then { l with l1 := e } else { l with l0 := e }

/-- The faults of `loop` (R187): inside its own counter's body, the last word of a body, or an improper nest. -/
def Loops.badDepth (l : Loops) (c : Bool) (pc stop : Word) : Bool :=
  let e := l.entry c
  let o := l.entry !c
  e.holds pc || (l.l0.armed && l.l0.stop == pc) || (l.l1.armed && l.l1.stop == pc)
    || (o.holds pc && decide (o.stop.toNat < stop.toNat))

/-- The loop entries after `loop` has disarmed what it replaces (R187): counter c, and the other if it was armed after c. -/
def Loops.drop (l : Loops) (c : Bool) : Loops :=
  if (l.entry c).armed then
    let l1 := l.put c { l.entry c with armed := false }
    if l.inner1 != c && (l.entry !c).armed then l1.put (!c) { l.entry (!c) with armed := false } else l1
  else l

/-- The count of `loop`: at most 0xFFFF_FFFF (R186). -/
def loopCount (x : Word) : BitVec 32 := BitVec.ofNat 32 (min x.toNat 0xFFFFFFFF)

/-- `loop` (R186, R187): a fault leaves the entries as they are; a count of 0 skips the body. -/
def execLoop (c : Ctl) (lc1 : Bool) (count : Opnd) (off : BitVec 24) (s : State) : Result :=
  s.perform (.loop c lc1 count off) fun s =>
    let pc := s.me.pc
    let stop := offTarget pc off
    if s.me.loops.badDepth lc1 pc stop then s.raise 0x08 0 0
    else
      let l := s.me.loops.drop lc1
      let n := loopCount (s.opnd count 0)
      s.mapMe fun w =>
        let w := w.stamp s.time
        if n = 0 then { w with loops := l, pc := stop + 8 }
        else { w with
          loops := { (l.put lc1 ⟨true, n, pc + 8, stop⟩) with inner1 := lc1 }
          pc := pc + 8
          bad := clearBad (· == .lc lc1) w.bad }

/-- `li` (R190). -/
def execLi (c : Ctl) (d : Opnd) (imm : BitVec 32) (s : State) : Result :=
  s.perform (.li c d imm) fun s => s.finish (s.putResult c .b32 d fun _ => imm.toNat)

/-- `lih`: bits [31:0] are kept (R190). -/
def execLih (c : Ctl) (d : BitVec 6) (imm : BitVec 32) (s : State) : Result :=
  s.perform (.lih c d imm) fun s => s.finish (·.setHigh d.toNat imm)

/-- The upper half of the exact product (R194). -/
def mulHigh (t : Ty) (a b : Word) : Word :=
  if t = .i64 then BitVec.ofInt 64 (a.toInt * b.toInt / 2 ^ 64) else BitVec.ofNat 64 (a.toNat * b.toNat / 2 ^ 64)

/-- `mulh` (R194). -/
def execMulh (c : Ctl) (t : Ty) (d : BitVec 6) (a b : Opnd) (s : State) : Result :=
  s.perform (.mulh c t d a b) fun s => s.finish (·.setS d.toNat (mulHigh t (s.opnd a 0) (s.opnd b 0)))

/-- The condition of `csel` for a lane of a vector, or for a scalar (R192). -/
def State.cselCond (s : State) (c : Ctl) (whole : Bool) (k : Opnd) (lane : Nat) : Bool :=
  match k with
  | .p n => if whole then (s.me.preg n.toNat &&& s.me.act c) != 0 else bitAt (s.me.preg n.toNat).toNat lane
  | k => s.opnd k 0 != 0

/-- The width type of an untyped form by its destination (R175, R191, R192). -/
def destTy (d : Opnd) : Ty := if d.isS then .b64 else .b32

/-- `csel` (R192). -/
def execCsel (c : Ctl) (d a b k : Opnd) (s : State) : Result :=
  s.perform (.csel c d a b k) fun s =>
    s.finish (s.putResult c (destTy d) d fun l => (if s.cselCond c d.isS k l then s.opnd a l else s.opnd b l).toNat)

end Sys2Proof.Machine
end

