-- ==== Sys2Proof/Machine/IntOps.lean ====
section
/-! DEFINITION. Integer, bit, comparison and lane instructions (R191, R193 to R204). -/

namespace Sys2Proof.Machine

/-- Two's complement or unsigned reading by the type (R175). -/
def tyVal (t : Ty) (x : Nat) : Int := if t.signed then toSigned (tyWidth t) x else ((x % 2 ^ tyWidth t : Nat) : Int)

/-- The value of IMM16 at a type's width (R161, R175). -/
def immVal (t : Ty) (imm : BitVec 16) : Nat := (imm.signExtend 64).toNat % 2 ^ tyWidth t

/-- A typed two-operand instruction in its V form: the function gets the operands at the type's width (R175, R176). -/
def State.intV (s : State) (c : Ctl) (t : Ty) (d a b : Opnd) (f : Nat → Nat → Nat) : State :=
  let w := tyWidth t
  s.finish (s.putResult c t d fun l => f (s.opndW w a l) (s.opndW w b l) % 2 ^ w)

/-- The I form of the same (R161, R177). -/
def State.intI (s : State) (c : Ctl) (t : Ty) (d a : Opnd) (imm : BitVec 16) (f : Nat → Nat → Nat) : State :=
  let w := tyWidth t
  s.finish (s.putResult c t d fun l => f (s.opndW w a l) (immVal t imm) % 2 ^ w)

/-- `add` (R193). -/
def execAdd (c : Ctl) (t : Ty) (d a b : Opnd) (s : State) : Result :=
  s.perform (.add c t d a b) fun s => s.intV c t d a b (· + ·)

/-- `add` with a literal (R193). -/
def execAddImm (c : Ctl) (t : Ty) (d a : Opnd) (imm : BitVec 16) (s : State) : Result :=
  s.perform (.addImm c t d a imm) fun s => s.intI c t d a imm (· + ·)

/-- Subtraction modulo 2^w (R193). -/
def subMod (t : Ty) (a b : Nat) : Nat := a + 2 ^ tyWidth t - b

/-- `sub` (R193). -/
def execSub (c : Ctl) (t : Ty) (d a b : Opnd) (s : State) : Result :=
  s.perform (.sub c t d a b) fun s => s.intV c t d a b (subMod t)

/-- `mul` (R193). -/
def execMul (c : Ctl) (t : Ty) (d a b : Opnd) (s : State) : Result :=
  s.perform (.mul c t d a b) fun s => s.intV c t d a b (· * ·)

/-- `mul` with a literal (R193). -/
def execMulImm (c : Ctl) (t : Ty) (d a : Opnd) (imm : BitVec 16) (s : State) : Result :=
  s.perform (.mulImm c t d a imm) fun s => s.intI c t d a imm (· * ·)

/-- `mad` (R193). -/
def execMad (c : Ctl) (t : Ty) (d a b x : Opnd) (s : State) : Result :=
  s.perform (.mad c t d a b x) fun s =>
    let w := tyWidth t
    s.finish (s.putResult c t d fun l => (s.opndW w a l * s.opndW w b l + s.opndW w x l) % 2 ^ w)

/-- `mov`: the destination fixes the width (R191). -/
def execMov (c : Ctl) (d a : Opnd) (s : State) : Result :=
  s.perform (.mov c d a) fun s => s.finish (s.putResult c (destTy d) d fun l => (s.opnd a l).toNat)

/-- `and` (R196). -/
def execAnd (c : Ctl) (t : Ty) (d a b : Opnd) (s : State) : Result :=
  s.perform (.and c t d a b) fun s => s.intV c t d a b (· &&& ·)

/-- `and` with a literal (R196). -/
def execAndImm (c : Ctl) (t : Ty) (d a : Opnd) (imm : BitVec 16) (s : State) : Result :=
  s.perform (.andImm c t d a imm) fun s => s.intI c t d a imm (· &&& ·)

/-- `or` (R196). -/
def execOr (c : Ctl) (t : Ty) (d a b : Opnd) (s : State) : Result :=
  s.perform (.or c t d a b) fun s => s.intV c t d a b (· ||| ·)

/-- `or` with a literal (R196). -/
def execOrImm (c : Ctl) (t : Ty) (d a : Opnd) (imm : BitVec 16) (s : State) : Result :=
  s.perform (.orImm c t d a imm) fun s => s.intI c t d a imm (· ||| ·)

/-- `xor` (R196). -/
def execXor (c : Ctl) (t : Ty) (d a b : Opnd) (s : State) : Result :=
  s.perform (.xor c t d a b) fun s => s.intV c t d a b (· ^^^ ·)

/-- `xor` with a literal (R196). -/
def execXorImm (c : Ctl) (t : Ty) (d a : Opnd) (imm : BitVec 16) (s : State) : Result :=
  s.perform (.xorImm c t d a imm) fun s => s.intI c t d a imm (· ^^^ ·)

/-- A typed one-operand instruction (R175, R176). -/
def State.intUn (s : State) (c : Ctl) (t : Ty) (d a : Opnd) (f : Nat → Nat) : State :=
  let w := tyWidth t
  s.finish (s.putResult c t d fun l => f (s.opndW w a l) % 2 ^ w)

/-- `not` (R196). -/
def execNot (c : Ctl) (t : Ty) (d a : Opnd) (s : State) : Result :=
  s.perform (.not c t d a) fun s => s.intUn c t d a fun x => 2 ^ tyWidth t - 1 - x

/-- A left shift; an amount of the width or more gives 0 (R197). -/
def shlMod (t : Ty) (a k : Nat) : Nat := if tyWidth t ≤ k then 0 else a * 2 ^ k

/-- A logical right shift (R197). -/
def lsrMod (t : Ty) (a k : Nat) : Nat := if tyWidth t ≤ k then 0 else a / 2 ^ k

/-- An arithmetic right shift: bit w − 1 fills, whatever the type's sign (R197). -/
def asrMod (t : Ty) (a k : Nat) : Nat :=
  let w := tyWidth t
  ofSigned w (toSigned w a / ((2 ^ min k w : Nat) : Int))

/-- `shl` (R197). -/
def execShl (c : Ctl) (t : Ty) (d a b : Opnd) (s : State) : Result :=
  s.perform (.shl c t d a b) fun s => s.intV c t d a b (shlMod t)

/-- `shl` by a literal (R197). -/
def execShlImm (c : Ctl) (t : Ty) (d a : Opnd) (imm : BitVec 16) (s : State) : Result :=
  s.perform (.shlImm c t d a imm) fun s => s.intI c t d a imm (shlMod t)

/-- `lsr` (R197). -/
def execLsr (c : Ctl) (t : Ty) (d a b : Opnd) (s : State) : Result :=
  s.perform (.lsr c t d a b) fun s => s.intV c t d a b (lsrMod t)

/-- `lsr` by a literal (R197). -/
def execLsrImm (c : Ctl) (t : Ty) (d a : Opnd) (imm : BitVec 16) (s : State) : Result :=
  s.perform (.lsrImm c t d a imm) fun s => s.intI c t d a imm (lsrMod t)

/-- `asr` (R197). -/
def execAsr (c : Ctl) (t : Ty) (d a b : Opnd) (s : State) : Result :=
  s.perform (.asr c t d a b) fun s => s.intV c t d a b (asrMod t)

/-- `asr` by a literal (R197). -/
def execAsrImm (c : Ctl) (t : Ty) (d a : Opnd) (imm : BitVec 16) (s : State) : Result :=
  s.perform (.asrImm c t d a imm) fun s => s.intI c t d a imm (asrMod t)

/-- The lesser or greater operand (R195). -/
def minMaxInt (wantMax : Bool) (t : Ty) (a b : Nat) : Nat := if (tyVal t a < tyVal t b) != wantMax then a else b

/-- `min` (R195). -/
def execMin (c : Ctl) (t : Ty) (d a b : Opnd) (s : State) : Result :=
  s.perform (.min c t d a b) fun s => s.intV c t d a b (minMaxInt false t)

/-- `max` (R195). -/
def execMax (c : Ctl) (t : Ty) (d a b : Opnd) (s : State) : Result :=
  s.perform (.max c t d a b) fun s => s.intV c t d a b (minMaxInt true t)

/-- An integer condition (R198). -/
def ccInt (cc : Cc) (a b : Int) : Bool :=
  match cc with
  | .eq => decide (a = b)
  | .ne => decide (a ≠ b)
  | .lt => decide (a < b)
  | .le => decide (a ≤ b)
  | .gt => decide (b < a)
  | .ge => decide (b ≤ a)
  | .un => false

/-- The condition of `cmp` for two operands under a type: integers at its width, or element 0 under a float type (R198, R217). -/
def cmpHolds (cc : Cc) (t : Ty) (a b : Nat) : Bool :=
  match Fmt.ofTy t with
  | some f => f.compareCc cc (a % 2 ^ f.width) (b % 2 ^ f.width)
  | none => ccInt cc (tyVal t a) (tyVal t b)

/-- What `cmp` writes (R198): the bits of act in a predicate, whose parity is afresh when they are all its bits (R355; log entry 77); all ones or zero in a
scalar; or, with a per-lane source, a mask in a scalar. -/
def State.cmpWrite (s : State) (c : Ctl) (d : Opnd) (lanes : Bool) (cond : Nat → Bool) (w : Wave) : Wave :=
  let m := maskOf ((s.lanes c).filter cond)
  match d with
  | .p n =>
    let u := w.setP n.toNat ((s.me.preg n.toNat &&& ~~~(s.me.act c)) ||| BitVec.ofNat 32 m)
    { u with bad := if s.me.act c = BitVec.allOnes 32 then u.bad else w.bad }
  | .s n => w.setS n.toNat (if lanes then BitVec.ofNat 64 m else if cond 0 then BitVec.allOnes 64 else 0)
  | _ => w

/-- `cmp` (R198, R217). -/
def execCmp (c : Ctl) (cc : Cc) (t : Ty) (d a b : Opnd) (s : State) : Result :=
  s.perform (.cmp c cc t d a b) fun s =>
    let rd (x : Opnd) (l : Nat) : Nat := if t.flt then s.opndF t x l else s.opndW (tyWidth t) x l
    s.finish (s.cmpWrite c d (a.perLane || b.perLane) fun l => cmpHolds cc t (rd a l) (rd b l))

/-- `cmp` with a literal (R198). -/
def execCmpImm (c : Ctl) (cc : Cc) (t : Ty) (d a : Opnd) (imm : BitVec 16) (s : State) : Result :=
  s.perform (.cmpImm c cc t d a imm) fun s =>
    s.finish (s.cmpWrite c d a.perLane fun l => cmpHolds cc t (s.opndW (tyWidth t) a l) (immVal t imm))

/-- `bfx`: a field of len bits from pos, sign-extended for i types (R199). -/
def bfxVal (t : Ty) (a pos len : Nat) : Nat :=
  let w := tyWidth t
  let len := min (len % 256) w
  let x : Int := if t.signed then toSigned w a else ((a % 2 ^ w : Nat) : Int)
  let f := (x / ((2 ^ (pos % 256) : Nat) : Int) % ((2 ^ len : Nat) : Int)).toNat
  if t.signed && len != 0 then ofSigned w (toSigned len f) else f % 2 ^ w

/-- `bfi`: the field inserted into the old value; beyond bit w − 1 it is cut (R199). -/
def bfiVal (t : Ty) (old a pos len : Nat) : Nat :=
  let w := tyWidth t
  let len := min (len % 256) w
  let p := pos % 256
  let m := (2 ^ len - 1) * 2 ^ p % 2 ^ w
  (old ||| m) ^^^ m ||| (a * 2 ^ p &&& m)

/-- `bfx` (R199). -/
def execBfx (c : Ctl) (t : Ty) (d a pos len : Opnd) (s : State) : Result :=
  s.perform (.bfx c t d a pos len) fun s =>
    let w := tyWidth t
    s.finish (s.putResult c t d fun l => bfxVal t (s.opndW w a l) (s.opndW w pos l) (s.opndW w len l))

/-- `bfi` (R199). -/
def execBfi (c : Ctl) (t : Ty) (d a pos len : Opnd) (s : State) : Result :=
  s.perform (.bfi c t d a pos len) fun s =>
    let w := tyWidth t
    s.finish (s.putResult c t d fun l =>
      bfiVal t (s.opndW w d l) (s.opndW w a l) (s.opndW w pos l) (s.opndW w len l))

/-- `popc` (R200). -/
def execPopc (c : Ctl) (t : Ty) (d a : Opnd) (s : State) : Result :=
  s.perform (.popc c t d a) fun s => s.intUn c t d a (popCount (tyWidth t))

/-- `clz` (R200). -/
def execClz (c : Ctl) (t : Ty) (d a : Opnd) (s : State) : Result :=
  s.perform (.clz c t d a) fun s => s.intUn c t d a (clzAt (tyWidth t))

/-- The source lane of `perm` for a lane (R201). -/
def State.permLane (s : State) (m : PermMode) (b : Opnd) (l : Nat) : Nat :=
  let x := s.opndW 32 b l
  match m with
  | .idx => x % 32
  | .bcast => x % 32
  | .rot => (l + x) % 32
  | .xor => l ^^^ (x % 32)

/-- `perm`: every lane of the source serves, whatever act holds (R201). -/
def execPerm (c : Ctl) (m : PermMode) (d a : BitVec 7) (b : Opnd) (s : State) : Result :=
  s.perform (.perm c m d a b) fun s =>
    s.finish (·.setLanes d.toNat ((s.lanes c).map fun l => (l, s.me.vreg a.toNat (s.permLane m b l))))

/-- One step of a reduction (R202). -/
def redStep (op : RedOp) (t : Ty) (a b : Nat) : Nat :=
  match op with
  | .add => (a + b) % 2 ^ 32
  | .min => minMaxInt false t a b
  | .max => minMaxInt true t a b
  | .and => a &&& b
  | .or => a ||| b
  | .xor => a ^^^ b

/-- The reduction of the active lanes (R202). -/
def reduce (op : RedOp) (t : Ty) : List Nat → Nat
  | [] => 0
  | x :: r => r.foldl (redStep op t) x

/-- `red`: the result is written when the slot falls (R19, R202). -/
def execRed (c : Ctl) (op : RedOp) (t : Ty) (d : Opnd) (a : BitVec 7) (s : State) : Result :=
  s.perform (.red c op t d a) fun s =>
    let r := reduce op t ((s.lanes c).map fun l => (s.me.vreg a.toNat l).toNat)
    let ws := match d with
      | .v n => (s.lanes c).map fun l => RegWrite.v n.toNat l (BitVec.ofNat 32 r)
      | .s n => [RegWrite.s n.toNat (extendResult t r)]
      | _ => []
    s.launchFlight c .other (.regs ws 0)

/-! ## Chart addresses (R203, R204, R274) -/

/-- A chart's dimension: extent, block size and grid (R274). -/
structure ChartDim where
  ext : Nat
  blk : Nat
  grid : Nat
  deriving DecidableEq, Repr

/-- A field of a record's word. -/
def wordBits (l : List Word) (i lo len : Nat) : Nat := bits (l.getD i 0).toNat lo len

/-- The dimensions of a chart record (R274). -/
def chartDims (r : List Word) : List ChartDim :=
  (List.range (wordBits r 0 62 2 + 1)).map fun d =>
    ⟨wordBits r (2 + d) 0 16 + 1, wordBits r (2 + d) 16 16 + 1, wordBits r (2 + d) 32 8 + 1⟩

/-- L_d of R204: the local blocks of a dimension. -/
def ChartDim.loc (x : ChartDim) : Nat := ceilDiv (ceilDiv x.ext x.blk) x.grid

/-- A sum in mixed radix, dimension 0 varying fastest. -/
def mixed : List (Nat × Nat) → Nat
  | [] => 0
  | (x, radix) :: r => x + radix * mixed r

/-- The product of a list. -/
def product (l : List Nat) : Nat := l.foldl (· * ·) 1

/-- Berth and offset of one element of a chart (R204). -/
def chartAddr (r : List Word) (cs : List Nat) : Nat × Nat :=
  let ds := chartDims r
  let z := 2 ^ wordBits r 0 59 3
  let first := wordBits r 0 48 8
  let share := wordBits r 1 0 32
  let ok := ((List.range 4).all fun i => match ds[i]? with
    | some x => decide (cs.getD i 0 < x.ext)
    | none => cs.getD i 0 == 0)
  if !ok then (0xFFFFFFFF, 0xFFFFFFFF) else
  let p := (List.range ds.length).zip ds
  let q (i : Nat) (x : ChartDim) : Nat := cs.getD i 0 / x.blk
  let own := mixed (p.map fun a => (q a.1 a.2 % a.2.grid, a.2.grid))
  let lblock := mixed (p.map fun a => (q a.1 a.2 / a.2.grid, a.2.loc))
  let within := mixed (p.map fun a => (cs.getD a.1 0 % a.2.blk, a.2.blk))
  (first + own, (own * share + (lblock * product (ds.map (·.blk)) + within) * z) % 2 ^ 32)

/-- The four coordinates packed in two operands (R203). -/
def coords (b x : Nat) : List Nat := [b % 65536, b / 65536 % 65536, x % 65536, x / 65536 % 65536]

/-- `gaddr`: a chart number above 15 or an unloaded chart faults BAD_COMMAND; an invalid lane raises no fault (R203, R204). A chart that fails its parity
faults (R355). A scalar chart number is read in all its 64 bits whatever the destination, so that one with a high bit set is above 15 (DESIGN CHOICE, log entry
118). -/
def execGaddr (c : Ctl) (d a b : Opnd) (x : Option Opnd) (s : State) : Result :=
  s.perform (.gaddr c d a b x) fun s =>
    let n := (s.opnd a 0).toNat
    let chart := (s.ctx? s.me.ctx).bind fun k => (k.charts.find? (·.1 == n)).map (·.2)
    match chart with
    | none => s.badCommand
    | some r =>
      if 15 < n then s.badCommand else
      if ((s.ctx? s.me.ctx).map fun k => k.badCharts.contains n).getD false then s.parityFault else
      let at_ (l : Nat) : Nat × Nat :=
        chartAddr r (coords (s.opndW 32 b l) (match x with | none => 0 | some y => s.opndW 32 y l))
      let k := opndNum d
      s.finish fun w => match d with
        | .v _ =>
          let vals := (s.lanes c).map fun l => (l, at_ l)
          (w.setLanes k (vals.map fun p => (p.1, BitVec.ofNat 32 p.2.1))).setLanes (k + 1) (vals.map fun p => (p.1, BitVec.ofNat 32 p.2.2))
        | _ =>
          let p := at_ ((s.lanes c).headD 0)
          (w.setS k (BitVec.ofNat 64 p.1)).setS (k + 1) (BitVec.ofNat 64 p.2)

end Sys2Proof.Machine
end

