-- ==== Sys2Proof/Machine/FloatOps.lean ====
section
/-! DEFINITION. Floating-point arithmetic and the approximate functions (R206 to R221). -/

namespace Sys2Proof.Machine

/-- A fixed-latency float instruction: every active lane's result and flags, written before the next instruction (R18, R88). -/
def State.fltFixed (s : State) (c : Ctl) (d : BitVec 7) (f : Nat → Nat × Flags) : State :=
  let rs := (s.lanes c).map fun l => (l, f l)
  s.finish fun w => (w.setLanes d.toNat (rs.map fun r => (r.1, BitVec.ofNat 32 r.2.1))).orFlags (orAll (rs.map fun r => r.2.2))

/-- A transcendental: the same results, written when the slot falls (R19, R88, R209). -/
def State.fltSlot (s : State) (c : Ctl) (d : BitVec 7) (f : Nat → Nat × Flags) : State :=
  let rs := (s.lanes c).map fun l => (l, f l)
  s.launchFlight c .other (.regs (rs.map fun r => .v d.toNat r.1 (BitVec.ofNat 32 r.2.1)) (orAll (rs.map fun r => r.2.2)))

/-- The random operand of a lane (R208); 0 where the rounding needs none. -/
def State.randOf (s : State) (g : Option Opnd) (l : Nat) : Nat :=
  match g with
  | none => 0
  | some x => s.opndW 32 x l

/-- `add` under a float type (R212). -/
def execAddFloat (c : Ctl) (t : Ty) (rm : Rm) (d : BitVec 7) (a b : Opnd) (g : Option Opnd) (s : State) : Result :=
  s.perform (.addFloat c t rm d a b g) fun s =>
    s.fltFixed c d fun l => laneBin t (fun f g x y => f.fadd rm g x y) (s.randOf g l) (s.opndF t a l) (s.opndF t b l)

/-- `sub` under a float type (R212). -/
def execSubFloat (c : Ctl) (t : Ty) (rm : Rm) (d : BitVec 7) (a b : Opnd) (g : Option Opnd) (s : State) : Result :=
  s.perform (.subFloat c t rm d a b g) fun s =>
    s.fltFixed c d fun l => laneBin t (fun f g x y => f.fsub rm g x y) (s.randOf g l) (s.opndF t a l) (s.opndF t b l)

/-- `mul` under a float type (R212). -/
def execMulFloat (c : Ctl) (t : Ty) (rm : Rm) (d : BitVec 7) (a b : Opnd) (g : Option Opnd) (s : State) : Result :=
  s.perform (.mulFloat c t rm d a b g) fun s =>
    s.fltFixed c d fun l => laneBin t (fun f g x y => f.fmul rm g x y) (s.randOf g l) (s.opndF t a l) (s.opndF t b l)

/-- `fma` (R213). -/
def execFma (c : Ctl) (t : Ty) (rm : Rm) (d : BitVec 7) (a b x : Opnd) (s : State) : Result :=
  s.perform (.fma c t rm d a b x) fun s =>
    s.fltFixed c d fun l => laneTri t (fun f p q r => f.fma rm false p q r) (s.opndF t a l) (s.opndF t b l) (s.opndF t x l)

/-- `fms` (R213). -/
def execFms (c : Ctl) (t : Ty) (rm : Rm) (d : BitVec 7) (a b x : Opnd) (s : State) : Result :=
  s.perform (.fms c t rm d a b x) fun s =>
    s.fltFixed c d fun l => laneTri t (fun f p q r => f.fma rm true p q r) (s.opndF t a l) (s.opndF t b l) (s.opndF t x l)

/-- `min` under a float type (R215). -/
def execMinFloat (c : Ctl) (t : Ty) (d : BitVec 7) (a b : Opnd) (s : State) : Result :=
  s.perform (.minFloat c t d a b) fun s =>
    s.fltFixed c d fun l => laneBin t (fun f _ x y => (f.minMax false x y, 0)) 0 (s.opndF t a l) (s.opndF t b l)

/-- `max` under a float type (R215). -/
def execMaxFloat (c : Ctl) (t : Ty) (d : BitVec 7) (a b : Opnd) (s : State) : Result :=
  s.perform (.maxFloat c t d a b) fun s =>
    s.fltFixed c d fun l => laneBin t (fun f _ x y => (f.minMax true x y, 0)) 0 (s.opndF t a l) (s.opndF t b l)

/-- `abs` (R216). -/
def execAbs (c : Ctl) (t : Ty) (d : BitVec 7) (a : Opnd) (s : State) : Result :=
  s.perform (.abs c t d a) fun s => s.fltFixed c d fun l => laneUn t (fun f _ x => (f.absNeg false x, 0)) 0 (s.opndF t a l)

/-- `neg` (R216). -/
def execNeg (c : Ctl) (t : Ty) (d : BitVec 7) (a : Opnd) (s : State) : Result :=
  s.perform (.neg c t d a) fun s => s.fltFixed c d fun l => laneUn t (fun f _ x => (f.absNeg true x, 0)) 0 (s.opndF t a l)

/-- `div` (R214). -/
def execDiv (c : Ctl) (t : Ty) (rm : Rm) (d : BitVec 7) (a b : Opnd) (g : Option Opnd) (s : State) : Result :=
  s.perform (.div c t rm d a b g) fun s =>
    s.fltSlot c d fun l => laneBin t (fun f g x y => f.fdiv rm g x y) (s.randOf g l) (s.opndF t a l) (s.opndF t b l)

/-- `sqrt` (R214). -/
def execSqrt (c : Ctl) (t : Ty) (rm : Rm) (d : BitVec 7) (a : Opnd) (g : Option Opnd) (s : State) : Result :=
  s.perform (.sqrt c t rm d a g) fun s =>
    s.fltSlot c d fun l => laneUn t (fun f g x => f.fsqrt rm g x) (s.randOf g l) (s.opndF t a l)

/-- An approximate function (R220, R221). -/
def State.approx (s : State) (fn : ApproxFn) (c : Ctl) (t : Ty) (d : BitVec 7) (a : Opnd) : State :=
  s.fltSlot c d fun l => laneUn t (fun f _ x => f.approx fn x) 0 (s.opndF t a l)

/-- `rcp` (R220). -/
def execRcp (c : Ctl) (t : Ty) (d : BitVec 7) (a : Opnd) (s : State) : Result :=
  s.perform (.rcp c t d a) fun s => s.approx .rcp c t d a

/-- `rsqrt` (R220). -/
def execRsqrt (c : Ctl) (t : Ty) (d : BitVec 7) (a : Opnd) (s : State) : Result :=
  s.perform (.rsqrt c t d a) fun s => s.approx .rsqrt c t d a

/-- `exp2` (R220). -/
def execExp2 (c : Ctl) (t : Ty) (d : BitVec 7) (a : Opnd) (s : State) : Result :=
  s.perform (.exp2 c t d a) fun s => s.approx .exp2 c t d a

/-- `log2` (R220). -/
def execLog2 (c : Ctl) (t : Ty) (d : BitVec 7) (a : Opnd) (s : State) : Result :=
  s.perform (.log2 c t d a) fun s => s.approx .log2 c t d a

/-- `sin` (R220). -/
def execSin (c : Ctl) (t : Ty) (d : BitVec 7) (a : Opnd) (s : State) : Result :=
  s.perform (.sin c t d a) fun s => s.approx .sin c t d a

/-- `cos` (R220). -/
def execCos (c : Ctl) (t : Ty) (d : BitVec 7) (a : Opnd) (s : State) : Result :=
  s.perform (.cos c t d a) fun s => s.approx .cos c t d a

/-- `tanh` (R220). -/
def execTanh (c : Ctl) (t : Ty) (d : BitVec 7) (a : Opnd) (s : State) : Result :=
  s.perform (.tanh c t d a) fun s => s.approx .tanh c t d a

/-- `fclass` (R218). -/
def execFclass (c : Ctl) (t : Ty) (d : BitVec 7) (a : Opnd) (s : State) : Result :=
  s.perform (.fclass c t d a) fun s => s.fltFixed c d fun l => laneUn t (fun f _ x => (f.classMask x, 0)) 0 (s.opndF t a l)

/-- `frnd` (R219). -/
def execFrnd (c : Ctl) (t : Ty) (rm : Rm) (d : BitVec 7) (a : Opnd) (g : Option Opnd) (s : State) : Result :=
  s.perform (.frnd c t rm d a g) fun s =>
    s.fltFixed c d fun l => laneUn t (fun f g x => f.frnd rm g x) (s.randOf g l) (s.opndF t a l)

end Sys2Proof.Machine
end

