-- ==== Sys2Proof/Machine/Convert.lean ====
section
/-! DEFINITION. Conversions, blocks in registers, codebooks, randomness and FLAGS (R222 to R231). -/

namespace Sys2Proof.Machine

/-- A source of `cvt` for a lane: an inline constant is encoded in the source format, integers in the integer column (R164, R206). -/
def State.cvtSrc (s : State) (st : Ty) (a : Opnd) (l : Nat) : Nat :=
  match a with
  | .k n => match Fmt.ofTy st with
    | some f => let x := f.const n; if st = .bf16 ∨ st = .f16 then x + x * 2 ^ 16 else x
    | none => (constInt n).toNat % 2 ^ 32
  | a => s.opndW 32 a l

/-- `cvt` (R222, R223): two elements in a lane when both types have 16 bits, else one in its low bits. -/
def execCvt (c : Ctl) (dt st : Ty) (rm : Rm) (d : BitVec 7) (a : Opnd) (g : Option Opnd) (s : State) : Result :=
  s.perform (.cvt c dt st rm d a g) fun s =>
    let two := (dt == .bf16 || dt == .f16) && (st == .bf16 || st == .f16)
    s.fltFixed c d fun l =>
      let x := s.cvtSrc st a l
      let r := s.randOf g l
      if two then
        let lo := cvtElem dt st rm (r % 2 ^ 16) (x % 2 ^ 16)
        let hi := cvtElem dt st rm (r / 2 ^ 16) (x / 2 ^ 16)
        (lo.1 + hi.1 * 2 ^ 16, lo.2 ||| hi.2)
      else cvtElem dt st rm (r % 2 ^ 16) x

/-- The element of index j of a group of registers of 32-bit elements. -/
def State.groupElem (s : State) (a j : Nat) : Nat := (s.me.vreg (a + j / 32) (j % 32)).toNat

/-- Writes every lane of one register. -/
def Wave.setWhole (w : Wave) (n : Nat) (xs : List Lane) : Wave := w.setLanes n ((List.range xs.length).zip xs)

/-- `bq` (R89, R224, R225). -/
def execBq (c : Ctl) (t : Ty) (d a : BitVec 7) (s : State) : Result :=
  s.perform (.bq c t d a) fun s =>
    let q := (Elem.float (fltFmt t)).quantBlock ((List.range 128).map fun j => fmtF32.dec (s.groupElem a.toNat j))
    let field := packField (narWidth t) q.elems
    s.finish fun w =>
      ((w.setWhole d.toNat (natToLanes 32 field)).setWhole (d.toNat + 1) (natToLanes 32 q.scale)).orFlags q.flags

/-- The sixteen entries of a bank of a core's code table (R254). -/
def FarCore.table (k : FarCore) (n bank : Nat) : List (BitVec 16) := Cells.range k.tables (32 * n + 16 * bank) 16

/-- The active bank of a core's code table (R254). -/
def FarCore.activeBank (k : FarCore) (n : Nat) : Nat := b2n (bitAt k.active.toNat n)

/-- The active entries of a code table of the executing wave's core (R229). -/
def State.activeTable (s : State) (n : Nat) : List (BitVec 16) :=
  let k := s.core (unitOf s.me.gwn)
  k.table n (k.activeBank n)

/-- Does an active entry of a code table of the executing wave's core fail its parity, among those that the test selects (R355)? -/
def State.tableBad (s : State) (n : Nat) (used : Nat → Bool) : Bool :=
  let k := s.core (unitOf s.me.gwn)
  k.badTables.any fun e => e / 16 == 2 * n + k.activeBank n && used (e % 16)

/-- A wave has used tables or banks (R359). -/
def Wave.noteUse (banks : BitVec 4) (tables : BitVec 8) (w : Wave) : Wave :=
  { w with bankUse := w.bankUse ||| banks, tabUse := w.tabUse ||| tables }

/-- `bdq` (R92, R226): under cb4, bits [10:8] of the scale operand name the table. A constant scale is read in the float column of its type (R164,
R206). An entry that fails its parity faults as a register does (DEDUCED, log entry 77), in `cbq` and `cbl` too. -/
def execBdq (c : Ctl) (t et : Ty) (rm : Rm) (d : BitVec 7) (a b : Opnd) (s : State) : Result :=
  s.perform (.bdq c t et rm d a b) fun s =>
    let x := s.opndF t b 0
    let tab := x / 256 % 8
    let el : Elem := if et = .cb4 then .cb4 (s.activeTable tab) else .float (fltFmt et)
    let field := lanesToNat ((List.range 32).map fun l => BitVec.ofNat 32 (s.opndF t a l))
    if et = .cb4 ∧ s.tableBad tab (fun i => (List.range 128).any fun j => fieldElem 4 field j == i) then s.parityFault else
    let one (j : Nat) : Nat × Flags :=
      let e := fieldElem (narWidth et) field j
      if t = .f32 then el.toF32 rm (x % 256) e else el.toBf16 (x % 256) e
    let rs := (List.range 128).map one
    let fl := orAll (rs.map (·.2))
    let use : BitVec 8 := if et = .cb4 then BitVec.ofNat 8 (2 ^ tab) else 0
    s.finish fun w =>
      let w := w.noteUse 0 use
      let w := (List.range (if t = .f32 then 4 else 2)).foldl (fun w i =>
        w.setWhole (d.toNat + i) ((List.range 32).map fun l =>
          if t = .f32 then BitVec.ofNat 32 (rs.getD (32 * i + l) (0, 0)).1
          else BitVec.ofNat 32 ((rs.getD (64 * i + 2 * l) (0, 0)).1 + (rs.getD (64 * i + 2 * l + 1) (0, 0)).1 * 2 ^ 16))) w
      w.orFlags fl

/-- `cbq`: an index into an existing scale (R91, R228). -/
def execCbq (c : Ctl) (tab : BitVec 3) (d : BitVec 7) (a b : Opnd) (s : State) : Result :=
  s.perform (.cbq c tab d a b) fun s =>
    if s.tableBad tab.toNat (fun _ => true) then s.parityFault else
    let el := Elem.cb4 (s.activeTable tab.toNat)
    let rs := (s.lanes c).map fun l => (l, el.quantInto (s.opndW 32 b l % 256) (fmtF32.dec (s.opndW 32 a l)))
    s.finish fun w =>
      ((w.noteUse 0 (BitVec.ofNat 8 (2 ^ tab.toNat))).setLanes d.toNat (rs.map fun r => (r.1, BitVec.ofNat 32 r.2.1))).orFlags
        (orAll (rs.map fun r => r.2.2))

/-- `cbl`: two entries of the table, unscaled (R227). -/
def execCbl (c : Ctl) (tab : BitVec 3) (d : BitVec 7) (a b : Opnd) (s : State) : Result :=
  s.perform (.cbl c tab d a b) fun s =>
    let t := s.activeTable tab.toNat
    let byteOf (l : Nat) : Nat := bits (s.opndW 32 a l) (8 * (s.opndW 32 b l % 4)) 8
    if s.tableBad tab.toNat (fun i => (s.lanes c).any fun l => byteOf l % 16 == i || byteOf l / 16 == i) then s.parityFault else
    let rs := (s.lanes c).map fun l =>
      let byte := byteOf l
      (l, BitVec.ofNat 32 ((t.getD (byte % 16) 0).toNat + (t.getD (byte / 16) 0).toNat * 2 ^ 16))
    s.finish fun w => (w.noteUse 0 (BitVec.ofNat 8 (2 ^ tab.toNat))).setLanes d.toNat rs

/-- `rnd128` (R230): written when the slot falls (R209). -/
def execRnd128 (c : Ctl) (d a : BitVec 7) (b : BitVec 6) (s : State) : Result :=
  s.perform (.rnd128 c d a b) fun s =>
    let k := s.me.sreg b.toNat
    let r (l : Nat) : List Lane :=
      rnd128Lane (s.me.vreg a.toNat l) (s.me.vreg (a.toNat + 1) l) (s.me.vreg (a.toNat + 2) l) (s.me.vreg (a.toNat + 3) l) k
    let ws := (s.lanes c).flatMap fun l => (List.range 4).map fun i => RegWrite.v (d.toNat + i) l ((r l).getD i 0)
    s.launchFlight c .other (.regs ws 0)

/-- `flget` (R231). -/
def execFlget (c : Ctl) (d : BitVec 6) (s : State) : Result :=
  s.perform (.flget c d) fun s => s.finish (·.setS d.toNat (s.me.flags.setWidth 64))

/-- `flclr` acts at its issue (R231). -/
def execFlclr (c : Ctl) (m : Opnd) (s : State) : Result :=
  s.perform (.flclr c m) fun s =>
    let mask : BitVec 5 := (s.opnd m 0).setWidth 5
    s.finish fun w => { w with
      flags := w.flags &&& ~~~mask
      bad := if mask = BitVec.allOnes 5 then clearBad (· == .flags) w.bad else w.bad }

end Sys2Proof.Machine
end

