-- ==== Sys2Proof/Machine/Ecc.lean ====
section
/-! DEFINITION. The check bits of a line: classes, BCH codewords, parity groups, decoding and writes (R345 to R351).
A line's 512 data bits and its 64 side-band bits are natural numbers. -/

namespace Sys2Proof.Machine

/-- Product in GF(2^9) with x^9 + x^4 + 1 (R346): `n` bits of `b` remain. -/
def gfMulFrom : Nat → Nat → Nat → Nat → Nat
  | 0, _, _, r => r
  | n + 1, a, b, r =>
    gfMulFrom n (if bitAt a 8 then (2 * a) ^^^ 0x211 else 2 * a) (b / 2) (if b % 2 = 1 then r ^^^ a else r)

/-- Product in GF(2^9). -/
def gfMul (a b : Nat) : Nat := gfMulFrom 9 a b 0

/-- Power in GF(2^9). -/
def gfPow (a : Nat) : Nat → Nat
  | 0 => 1
  | n + 1 => gfMul a (gfPow a n)

/-- Inverse in GF(2^9). -/
def gfInv (a : Nat) : Nat :=
  (List.range 8).foldl (fun acc i => gfMul acc (gfPow2 a (i + 1))) 1
where
  /-- a^(2^i) by squaring. -/
  gfPow2 (a : Nat) : Nat → Nat
    | 0 => a
    | i + 1 => gfPow2 (gfMul a a) i

/-- The generator of strength t, the product of the minimal polynomials of α, α³, …, α^(2t−1) (R346). -/
def bchGen (t : Nat) : Nat := if t = 2 then 0x495c9 else if t = 3 then 0xd612b79 else 0x1cc2b989a1

/-- Remainder modulo a generator of degree d; the dividend's degree is below n + d. -/
def polyMod (g d : Nat) : Nat → Nat → Nat
  | 0, r => r
  | n + 1, r => polyMod g d n (if bitAt r (n + d) then r ^^^ (g <<< n) else r)

/-- Exclusive-or of the low n bits. -/
def parityOf (n x : Nat) : Nat := popCount n x % 2

/-- Check bits and extension bit of a message of k bits (R346): check bit j at bit j, the extension bit at 9t. -/
def bchEncode (t k m : Nat) : Nat :=
  if m = 0 then 0 else
  let c := polyMod (bchGen t) (9 * t) k (m <<< (9 * t))
  c + (parityOf k m + parityOf (9 * t) c) % 2 * 2 ^ (9 * t)

/-- Value of a bit polynomial of degree below n at a field element. -/
def polyAt (x : Nat) : Nat → Nat → Nat
  | 0, _ => 0
  | n + 1, p => gfMul (polyAt x n (p / 2)) x ^^^ (p % 2)

/-- Value of a polynomial over GF(2^9), lowest coefficient first. -/
def gfPolyAt (x : Nat) : List Nat → Nat
  | [] => 0
  | c :: r => c ^^^ gfMul x (gfPolyAt x r)

/-- Sum of two polynomials over GF(2^9). -/
def gfPolyAdd : List Nat → List Nat → List Nat
  | [], b => b
  | a, [] => a
  | x :: a, y :: b => (x ^^^ y) :: gfPolyAdd a b

/-- The state of the Berlekamp and Massey recursion. -/
structure BmState where
  c : List Nat
  b : List Nat
  l : Nat
  m : Nat
  bb : Nat

/-- One round of the recursion for syndrome number n. -/
def bmRound (syn : List Nat) (s : BmState) (n : Nat) : BmState :=
  let d := (List.range (s.l + 1)).foldl (fun acc i => acc ^^^ gfMul (s.c.getD i 0) (syn.getD (n - i) 0)) 0
  if d = 0 then { s with m := s.m + 1 } else
  let k := gfMul d (gfInv s.bb)
  let c' := gfPolyAdd s.c (List.replicate s.m 0 ++ s.b.map (gfMul k))
  if 2 * s.l ≤ n then ⟨c', s.c, n + 1 - s.l, 1, d⟩ else { s with c := c', m := s.m + 1 }

/-- The positions, below n, that an error locator marks: roots at α^(−i). -/
def chien (loc : List Nat) : Nat → Nat → Nat → List Nat
  | 0, _, _ => []
  | n + 1, i, x => (if gfPolyAt x loc = 0 then [i] else []) ++ chien loc n (i + 1) (gfMul x 264)

/-- The errors of a received word: positions of the polynomial, and whether the extension bit is wrong; none where no
correction of t or fewer bits explains it (R346). `diff` is the remainder, `odd` the parity of the whole field. -/
def bchErrors (t n diff : Nat) (odd : Bool) : Option (List Nat × Bool) :=
  let pos : Option (List Nat) :=
    if diff = 0 then some [] else
    let syn := (List.range (2 * t)).map fun j => polyAt (gfPow 2 (j + 1)) (9 * t) diff
    let s := (List.range (2 * t)).foldl (bmRound syn) ⟨[1], [1], 0, 1, 1⟩
    let ps := chien s.c n 0 1
    if s.l ≤ t ∧ ps.length = s.l then some ps else none
  match pos with
  | none => none
  | some ps =>
    let ext := (ps.length % 2 == 1) != odd
    if ps.length + b2n ext ≤ t then some (ps, ext) else none

/-- A field of a line: a BCH codeword (t > 0) or an even-parity group (t = 0) over runs of line bits (start, length), its
check bits from `base` up (R345 to R347). -/
structure Field where
  runs : List (Nat × Nat)
  t : Nat
  base : Nat
  deriving DecidableEq, Repr

/-- Collects the bits of the runs, the first lowest. -/
def gather : List (Nat × Nat) → Nat → Nat
  | [], _ => 0
  | (a, n) :: r, x => bits x a n + gather r x * 2 ^ n

/-- The number of bits of the runs. -/
def runsLen : List (Nat × Nat) → Nat
  | [] => 0
  | (_, n) :: r => n + runsLen r

/-- The line bit of message bit i. -/
def runBit : List (Nat × Nat) → Nat → Nat
  | [], i => i
  | (a, n) :: r, i => if i < n then a + i else runBit r (i - n)

/-- The mask of the line bits of the runs. -/
def runsMask : List (Nat × Nat) → Nat
  | [] => 0
  | (a, n) :: r => ((2 ^ n - 1) <<< a) ||| runsMask r

/-- The width of a field's check bits. -/
def Field.checkLen (f : Field) : Nat := 9 * f.t + 1

/-- The check bits of a field for a line's data. -/
def Field.encode (f : Field) (data : Nat) : Nat :=
  let k := runsLen f.runs
  let m := gather f.runs data
  if f.t = 0 then parityOf k m else bchEncode f.t k m

/-- The kind of a line's classes (R347): RAW or CONTEXT; elements of one width with the lowest S bit, the lowest P bit,
elements per P group, t, the place of the P bits and of the scale; one line of a pair of 6-bit blocks. -/
inductive LineFmt where
  | raw
  | elems (w sLow pLow per t pBase : Nat) (scale : Option Nat)
  | six (sLow run idx : Nat)
  deriving DecidableEq, Repr

/-- The table of R347; `line` is the line's number within its 64 KiB unit (R77). -/
def lineFmt (code line : Nat) : LineFmt :=
  match code with
  | 1 => .elems 32 23 15 1 4 37 none
  | 2 => .elems 16 7 0 1 3 28 none
  | 3 => .elems 16 10 6 1 3 28 none
  | 4 => .elems 8 3 0 2 3 28 none
  | 5 => .elems 8 2 0 2 3 28 none
  | 6 => .elems 8 3 0 8 3 55 (some 28)
  | 7 => if line = 1023 then .raw else .six 3 24 (line % 3)
  | 8 => if line = 1023 then .raw else .six 2 16 (line % 3)
  | 9 => .elems 4 1 0 16 3 55 (some 28)
  | 10 => .elems 4 2 0 8 2 46 (some 19)
  | 11 => .elems 8 5 0 2 3 28 none
  | _ => .raw

/-- Where the line's scale codeword lies in the side-band (R347). -/
def LineFmt.scaleBase : LineFmt → Option Nat
  | .raw => none
  | .elems _ _ _ _ _ _ s => s
  | .six _ _ idx => if idx = 1 then none else some 19

/-- The part of a run of pair bits that lies in line idx, as line bits. -/
def cutRun (idx a n : Nat) : List (Nat × Nat) :=
  let lo := max a (512 * idx)
  let hi := min (a + n) (512 * idx + 512)
  if lo < hi then [(lo - 512 * idx, hi - lo)] else []

/-- The runs of pair bits [6j + lo, 6j + lo + n) of every element that reaches line idx. -/
def sixRuns (idx lo n : Nat) : List (Nat × Nat) :=
  (List.range 87).flatMap fun i => cutRun idx (6 * (512 * idx / 6 + i) + lo) n

/-- Cuts a list into pieces of n, the last perhaps shorter. -/
def chunks (n : Nat) : Nat → List α → List (List α)
  | 0, _ => []
  | _ + 1, [] => []
  | f + 1, a :: l => (a :: l).take n :: chunks n f ((a :: l).drop n)

/-- The S codewords of a line (R347). -/
def LineFmt.sFields : LineFmt → List Field
  | .raw => [⟨[(0, 256)], 3, 0⟩, ⟨[(256, 256)], 3, 28⟩]
  | .elems w sl _ _ t _ _ => [⟨(List.range (512 / w)).map fun e => (w * e + sl, w - sl), t, 0⟩]
  | .six sl _ idx => [⟨sixRuns idx sl (6 - sl), if idx = 1 then 4 else 2, 0⟩]

/-- The P groups of a line in order (R347). -/
def LineFmt.pFields : LineFmt → List Field
  | .raw => []
  | .elems w sl pl per _ pb _ =>
    (List.range (512 / w / per)).map fun g =>
      ⟨(List.range per).map fun i => (w * (per * g + i) + pl, sl - pl), 0, pb + g⟩
  | .six sl run idx =>
    let ps := (sixRuns idx 0 sl).flatMap fun r => (List.range r.2).map fun i => (r.1 + i, 1)
    let gs := chunks run 11 ps
    (List.range gs.length).map fun g => ⟨gs.getD g [], 0, (if idx = 1 then 37 else 46) + g⟩

/-- A line with its side-band. -/
structure LineBits where
  data : Nat
  side : Nat
  deriving DecidableEq, Repr

/-- A line as the home decodes it (R349): corrected bits, the failing S codewords and P groups in the order of their
fields, and whether the scale codeword fails. -/
structure Decoded where
  bits : LineBits
  sFail : List Bool
  pFail : List Bool
  scaleFail : Bool
  deriving DecidableEq, Repr

/-- Does a line decode without any uncorrectable field? -/
def Decoded.clean (d : Decoded) : Bool := !d.scaleFail && d.sFail.all (· == false) && d.pFail.all (· == false)

/-- Replaces `len` bits of a number at `lo`. -/
def putBits (x lo len v : Nat) : Nat := x - (bits x lo len) <<< lo + (v % 2 ^ len) <<< lo

/-- Decodes one field: the corrected line, and whether the field is uncorrectable (R346, R349). -/
def Field.decode (f : Field) (l : LineBits) : LineBits × Bool :=
  let k := runsLen f.runs
  let want := f.encode l.data
  let have_ := bits l.side f.base f.checkLen
  if want = have_ then (l, false)
  else if f.t = 0 then (l, true)
  else
    let diff := (want ^^^ have_) % 2 ^ (9 * f.t)
    let odd := (parityOf k (gather f.runs l.data) + parityOf f.checkLen have_) % 2 == 1
    match bchErrors f.t (9 * f.t + k) diff odd with
    | none => (l, true)
    | some (ps, ext) =>
      let flip (l : LineBits) (p : Nat) : LineBits :=
        if p < 9 * f.t then { l with side := l.side ^^^ 2 ^ (f.base + p) }
        else { l with data := l.data ^^^ 2 ^ runBit f.runs (p - 9 * f.t) }
      let l' := ps.foldl flip l
      (if ext then { l' with side := l'.side ^^^ 2 ^ (f.base + 9 * f.t) } else l', false)

/-- The scale codeword of a scale byte (R346). -/
def scaleWord (scale : Nat) : Nat := scale % 256 + bchEncode 2 8 (scale % 256) <<< 8

/-- Decodes a scale codeword of 27 bits: the corrected codeword, and whether it is uncorrectable (R346). -/
def scaleDecode (w : Nat) : Nat × Bool :=
  let want := scaleWord w
  if want = w then (w, false) else
  let diff := ((want ^^^ w) >>> 8) % 2 ^ 18
  match bchErrors 2 26 diff (parityOf 27 w == 1) with
  | none => (w, true)
  | some (ps, ext) =>
    let flip (w p : Nat) : Nat := if p < 18 then w ^^^ 2 ^ (8 + p) else w ^^^ 2 ^ (p - 18)
    let w' := ps.foldl flip w
    (if ext then w' ^^^ 2 ^ 26 else w', false)

/-- Decodes the fields in order, collecting which fail. -/
def decodeFields : List Field → LineBits → LineBits × List Bool
  | [], l => (l, [])
  | f :: r, l =>
    let d := f.decode l
    let rest := decodeFields r d.1
    (rest.1, d.2 :: rest.2)

/-- Decodes a line under its layout (R349). The all-zero line is clean in every layout (R377). -/
def LineFmt.decode (lf : LineFmt) (l : LineBits) : Decoded :=
  if l.data = 0 ∧ l.side = 0 then ⟨l, [], [], false⟩ else
  let s := decodeFields lf.sFields l
  let p := decodeFields lf.pFields s.1
  match lf.scaleBase with
  | none => ⟨p.1, s.2, p.2, false⟩
  | some b =>
    let d := scaleDecode (bits p.1.side b 27)
    ⟨{ p.1 with side := putBits p.1.side b 27 d.1 }, s.2, p.2, d.2⟩

/-- The scale byte a line holds (R347), 127 where the layout has none (R93). -/
def LineFmt.scaleOf (lf : LineFmt) (l : LineBits) : Nat :=
  match lf.scaleBase with
  | none => 127
  | some b => bits l.side b 8

/-- Re-encodes one field of a write (R351): afresh where the field decoded or is replaced whole, else by linearity. -/
def Field.rewrite (f : Field) (old new : Nat) (mask : Nat) (failed : Bool) (side : Nat) : Nat :=
  let m := runsMask f.runs
  let chk :=
    if failed && decide (m &&& mask ≠ m) then bits side f.base f.checkLen ^^^ f.encode (old ^^^ new)
    else f.encode new
  putBits side f.base f.checkLen chk

/-- Re-encodes a list of fields, each with whether it failed. -/
def rewriteFields (old new mask : Nat) : List Field → List Bool → Nat → Nat
  | [], _, side => side
  | f :: r, fs, side => rewriteFields old new mask r fs.tail (f.rewrite old new mask (fs.headD false) side)

/-- A write of the bits under the mask to a line at its home (R97, R351), and of a new scale where one is given. Spare
side-band bits are written as zero (R345). -/
def LineFmt.write (lf : LineFmt) (l : LineBits) (mask value : Nat) (scale : Option Nat) : LineBits :=
  let d := lf.decode l
  let old := d.bits.data
  let new := (old ||| mask) ^^^ mask ||| (value &&& mask)
  let base := match lf.scaleBase with
    | none => 0
    | some b => match scale with
      | none => bits d.bits.side b 27 <<< b
      | some x => scaleWord x <<< b
  let keep (f : Field) (failed : Bool) : Nat := if failed then bits d.bits.side f.base f.checkLen <<< f.base else 0
  let side := (lf.sFields.zip (d.sFail ++ List.replicate 4 false)).foldl (fun a p => a + keep p.1 p.2) base
  let side := (lf.pFields.zip (d.pFail ++ List.replicate 40 false)).foldl (fun a p => a + keep p.1 p.2) side
  let side := rewriteFields old new mask lf.sFields d.sFail side
  ⟨new, rewriteFields old new mask lf.pFields d.pFail side⟩

/-- Encodes a whole line afresh. -/
def LineFmt.fresh (lf : LineFmt) (data : Nat) (scale : Option Nat) : LineBits :=
  lf.write ⟨0, 0⟩ (2 ^ 512 - 1) data scale

end Sys2Proof.Machine
end

