-- ==== Sys2Proof/Machine/Home.lean ====
section
/-! DEFINITION. The homes: reading and writing lines with their check bits, classification of errors, the wide view, poison, near-held lines and
replica copies (R97, R104, R108, R109, R115 to R117, R327, R336, R344 to R351). A line has the number place / 64; its data are one number of
512 bits. -/

namespace Sys2Proof.Machine

/-- The value an unlisted byte of device memory reads as: zero (R377). -/
def Memory.unlisted : Byte := 0

/-- The byte at a place. -/
def Memory.read (m : Memory) (a : Nat) : Byte := Cells.get m a

/-- Writes a byte and keeps the canonical form. -/
def Memory.write (m : Memory) (a : Nat) (b : Byte) : Memory := Cells.set m a b

/-- The canonical form: addresses strictly rising, no entry equal to what an unlisted address reads as. -/
def Memory.wf (m : Memory) : Bool := Cells.wf m

/-- The entries of one line. -/
def lineCells (m : Memory) (line : Nat) : Memory := m.filter fun p => decide (64 * line ≤ p.1) && decide (p.1 < 64 * line + 64)

/-- The 512 data bits of a line. -/
def lineData (m : Memory) (line : Nat) : Nat := (lineCells m line).foldl (fun a p => a + p.2.toNat * 2 ^ (8 * (p.1 - 64 * line))) 0

/-- Writes the bytes of a line from the `n`-th last one on. -/
def putBytes (m : Memory) (base : Nat) : Nat → Nat → Memory
  | 0, _ => m
  | n + 1, x => Memory.write (putBytes m base n x) (base + n) (BitVec.ofNat 8 (x >>> (8 * n)))

/-- Replaces the 512 data bits of a line. -/
def putLine (m : Memory) (line x : Nat) : Memory := putBytes m (64 * line) 64 x

/-- The line's stored bits, first copy. -/
def Store.bits1 (st : Store) (line : Nat) : LineBits := ⟨lineData st.data line, (Cells.get st.side line).toNat⟩

/-- The second stored copy of a CONTEXT line (R348). -/
def Store.bits2 (st : Store) (line : Nat) : LineBits := ⟨lineData st.data2 line, (Cells.get st.side2 line).toNat⟩

/-- Stores a line's first copy. -/
def Store.put1 (st : Store) (line : Nat) (l : LineBits) : Store :=
  { st with data := putLine st.data line l.data, side := Cells.set st.side line (BitVec.ofNat 64 l.side) }

/-- Stores a CONTEXT line's second copy (R348). -/
def Store.put2 (st : Store) (line : Nat) (l : LineBits) : Store :=
  { st with data2 := putLine st.data2 line l.data, side2 := Cells.set st.side2 line (BitVec.ofNat 64 l.side) }

/-- The line's number within its 64 KiB unit. -/
def lineInUnit (line : Nat) : Nat := line % 1024

/-- The code by which the home decodes and encodes a line: a relayout entry decides by its pointer (R344), else the code the access carries. -/
def State.codeAt (s : State) (line code : Nat) : Nat :=
  match firstSome (fun b : Berth => b.relayouts.find? fun r => decide (r.line ≤ line) && decide (line < r.line + r.lines)) s.berths with
  | some r =>
    match (s.berth (s.berthOf (64 * line))).relayouts.find? (fun q => q.line == r.line) with
    | some q => if line < q.line + q.ptr then q.newCode else q.oldCode
    | none => r.newCode
  | none => code

/-- The code that an access by physical address uses: the one the home recorded for the line (log entry 5). -/
def State.ownCode (s : State) (line : Nat) : Nat := s.codeAt line (Cells.get s.store.code line).toNat

/-- A copy of a CONTEXT line in which each codeword that fails is taken from the other copy where it decodes there (R348). -/
def Decoded.patch (d e : Decoded) : Decoded :=
  (List.range 2).foldl (fun r k =>
    if d.sFail.getD k false && !e.sFail.getD k false then
      { r with
        bits := ⟨putBits r.bits.data (256 * k) 256 (Machine.bits e.bits.data (256 * k) 256), putBits r.bits.side (28 * k) 28 (Machine.bits e.bits.side (28 * k) 28)⟩
        sFail := r.sFail.set k false }
    else r) d

/-- The home's decoding of a line (R349): the first copy of a CONTEXT line, and codeword by codeword the second where the first fails (R348). -/
def State.decodeLine (s : State) (line code : Nat) : Decoded :=
  let code := s.codeAt line code
  let lf := lineFmt code (lineInUnit line)
  let d := lf.decode (s.store.bits1 line)
  if code = 12 then (if d.clean then d else d.patch (lf.decode (s.store.bits2 line)))
  else if code = 6 ∧ d.scaleFail = true then
    let e := lf.decode (s.store.bits1 (line ^^^ 1))
    if e.scaleFail then d
    else { d with scaleFail := false, bits := { d.bits with side := putBits d.bits.side 28 27 (bits e.bits.side 28 27) } }
  else d

/-- A write performed at a home: the bits under the mask, and a new scale where one is given (R97, R351). Both copies of a CONTEXT line are written, each
codeword from whichever copy decodes, or in each copy by linearity where neither does (R348). Every replica copy is invalidated first
(R336), and registered transactions are doomed or woken (R151). -/
def State.homeWrite (s : State) (writer line mask value : Nat) (scale : Option Nat) (code : Nat) : State :=
  let code := s.codeAt line code
  let lf := lineFmt code (lineInUnit line)
  let st :=
    if code = 12 then
      let a := lf.decode (s.store.bits1 line)
      let b := lf.decode (s.store.bits2 line)
      (s.store.put1 line (lf.write (a.patch b).bits mask value scale)).put2 line (lf.write (b.patch a).bits mask value scale)
    else s.store.put1 line (lf.write (s.store.bits1 line) mask value scale)
  let s := { s with
    store := { st with code := Cells.set st.code line (BitVec.ofNat 4 code) }
    caches := { s.caches with replicas := s.caches.replicas.filter fun r => r.line != line } }
  s.touchLine writer line

/-- The mask of `n` bytes at byte `o` of a line. -/
def byteMask (o n : Nat) : Nat := (2 ^ (8 * n) - 1) <<< (8 * o)

/-! ## Classification (R116, R349, R350) -/

/-- The elements of a line that overlap the line bits [lo, hi): each as its part [a, b) of the line. RAW and CONTEXT lines count bytes. -/
def LineFmt.elemsOf (lf : LineFmt) (lo hi : Nat) : List (Nat × Nat) :=
  let cut (w phase : Nat) : List (Nat × Nat) :=
    (List.range ((hi + phase - 1) / w - (lo + phase) / w + 1)).map fun i =>
      let k := (lo + phase) / w + i
      (w * k - phase, min 512 (w * k + w - phase))
  if hi ≤ lo then [] else
  match lf with
  | .raw => cut 8 0
  | .elems w _ _ _ _ _ _ => cut w 0
  | .six _ _ idx => cut 6 (512 * idx % 6)

/-- The bits of a field that lie in [a, b), as a mask. -/
def Field.within (f : Field) (a b : Nat) : Nat := runsMask f.runs &&& (2 ^ b - 2 ^ a)

/-- The failing P groups that reach the bits [a, b), by index. -/
def failingGroups (lf : LineFmt) (d : Decoded) (a b : Nat) : List Nat :=
  (List.range d.pFail.length).filter fun i =>
    d.pFail.getD i false && (lf.pFields.getD i ⟨[], 0, 0⟩).within a b != 0

/-- The action of a policy for a severity (R116, R325). -/
def polAction (pol sev : Nat) : Nat :=
  let a := bits pol (2 * (sev - 1)) 2
  if sev = 5 then 3 else if sev ≤ 2 then min a 1 else a

/-- An element's severity, 0 when no failing field affects it (R349, R350). `many` says that two or more failing P groups affect the
delivered elements. -/
def elemSev (lf : LineFmt) (d : Decoded) (many : Bool) (a b : Nat) : Nat :=
  let s := (List.range d.sFail.length).any fun i => d.sFail.getD i false && (lf.sFields.getD i ⟨[], 0, 0⟩).within a b != 0
  match lf with
  | .raw => if s then 5 else 0
  | _ => if d.scaleFail then 4 else if s then 3 else if (failingGroups lf d a b).isEmpty then 0 else if many then 2 else 1

/-- The midpoint of the failing groups' bits in an element: 1 followed by zeros (R116). -/
def midpoint (lf : LineFmt) (d : Decoded) (a b data : Nat) : Nat :=
  (failingGroups lf d a b).foldl (fun x i =>
    let m := (lf.pFields.getD i ⟨[], 0, 0⟩).within a b
    if m = 0 then x else (x ||| m) ^^^ m ||| 2 ^ m.log2) data

/-- What system software is told of an error (R116, R353): it is counted, or recorded with its severity. -/
inductive ErrNote where
  | counted
  | recorded (sev : Nat)
  deriving DecidableEq, Repr

/-- What an action makes of an error that it meets: 0 and 1 count it, and 1 and above record it (R116, R353; log entry 84). -/
def errNotes (act sev : Nat) : List ErrNote := (if act ≤ 1 then [.counted] else []) ++ if act = 0 then [] else [.recorded sev]

/-- What a read of some elements of a line delivers: the line's data with midpoints, the elements poisoned, the severities that fault the
access by themselves each with its element's first bit, the severities of the poisoned elements, and the errors recorded (R116). -/
structure Delivered where
  data : Nat
  poisoned : List (Nat × Nat)
  faults : List (Nat × Nat)
  poisonSevs : List Nat
  recorded : List ErrNote
  deriving DecidableEq, Repr

/-- Treats each delivered element by the policy's action for its severity (R116, R350). -/
def deliver (lf : LineFmt) (pol : Nat) (d : Decoded) (els : List (Nat × Nat)) (sevOf : Nat × Nat → Nat) : Delivered :=
  els.foldl (fun r e =>
    let sev := sevOf e
    if sev = 0 then r else
    let act := polAction pol sev
    let r := { r with recorded := r.recorded ++ errNotes act sev }
    if act = 3 then { r with faults := r.faults ++ [(sev, e.1)] }
    else if act = 2 then { r with poisoned := r.poisoned ++ [e], poisonSevs := r.poisonSevs ++ [sev] }
    else if sev = 2 then { r with data := midpoint lf d e.1 e.2 r.data }
    else r) ⟨d.bits.data, [], [], [], []⟩

/-- The severities of a line's failing codewords and P groups that affect none of the elements delivered: they are recorded (R350). -/
def idleFields (lf : LineFmt) (d : Decoded) (els : List (Nat × Nat)) : List ErrNote :=
  let idle (f : Field) : Bool := els.all fun e => f.within e.1 e.2 == 0
  ((List.range d.sFail.length).filter fun i => d.sFail.getD i false && idle (lf.sFields.getD i ⟨[], 0, 0⟩)).map
      (fun _ => .recorded (if lf = .raw then 5 else 3))
    ++ ((List.range d.pFail.length).filter fun i => d.pFail.getD i false && idle (lf.pFields.getD i ⟨[], 0, 0⟩)).map (fun _ => .recorded 1)

/-- The canonical NaN of the element format of a page, where the format has one (R117); the element's width beside it. -/
def codeNan (code : Nat) : Option (Nat × Nat) :=
  match code with
  | 1 => some (32, 0x7FC00000)
  | 2 => some (16, 0x7FC0)
  | 3 => some (16, 0x7E00)
  | 4 => some (8, 0x7F)
  | 5 => some (8, 0x7E)
  | 6 => some (8, 0x7F)
  | _ => none

/-- The cause of an uncorrectable error of a severity (R65). -/
def ueCause (sev : Nat) : Nat := if sev = 3 then 0x13 else if sev = 4 then 0x14 else 0x15

/-- A read as a load sees it: poisoned elements of a format with NaN become that NaN; the access faults with the highest severity where an action
is 3 or a poisoned element has no NaN (R116, R117). The result is the line's data or the severity of the fault. -/
def asLoad (code : Nat) (r : Delivered) : Nat × Option Nat :=
  let fs := match codeNan code with
    | some _ => r.faults.map Prod.fst
    | none => r.faults.map Prod.fst ++ r.poisonSevs
  let data := match codeNan code with
    | some (w, n) => r.poisoned.foldl (fun x e => putBits x e.1 w n) r.data
    | none => r.data
  (data, if fs.isEmpty then none else some (fs.foldl max 0))

/-- Counts and records the errors of a read (R116, R353). -/
def State.recordAll (s : State) (at_ : Nat) (r : List ErrNote) : State :=
  r.foldl (fun s n => match n with
    | .counted => s.modOut fun o => { o with errCount := o.errCount + 1 }
    | .recorded sev => s.record at_ sev) s

/-! ## Blocks (R76, R77, R108) -/

/-- Bits per element of a B128 page (R76). -/
def b128Width (code : Nat) : Nat := if code = 6 then 8 else if code = 7 ∨ code = 8 then 6 else 4

/-- Bytes per block (R76). -/
def b128Bytes (code : Nat) : Nat := 16 * b128Width code

/-- Blocks per 64 KiB unit (R77). -/
def b128Blocks (code : Nat) : Nat := if code = 6 then 512 else if code = 7 ∨ code = 8 then 682 else 1024

/-- The element format of a B128 page; CB4 pages take the given table (R105). -/
def b128Elem (code : Nat) (table : List (BitVec 16)) : Elem :=
  match code with
  | 6 => .float fmtE4M3
  | 7 => .float fmtE2M3
  | 8 => .float fmtE3M2
  | 9 => .float fmtE2M1
  | _ => .cb4 table

/-- The line that holds the scale of the block whose first byte is at `at_` (R347). -/
def scaleLine (code at_ : Nat) : Nat :=
  if code = 7 ∨ code = 8 then (if at_ % 65536 / 96 % 2 = 0 then at_ / 64 else (at_ + 95) / 64) else at_ / 64

/-- The bits of one element of the block at `at_`: its value, its severity and action under the policy (R350). -/
structure ElemRead where
  val : Nat
  sev : Nat
  act : Nat
  deriving DecidableEq, Repr

/-- The parts of the bits [p, p + w) of a block that lie in successive lines, as (line, from, to, shift). -/
def bitParts (at_ p w : Nat) : List (Nat × Nat × Nat × Nat) :=
  let a := 8 * at_ + p
  let n := min w (512 - a % 512)
  (a / 512, a % 512, a % 512 + n, 0) :: if n < w then [(a / 512 + 1, 0, w - n, n)] else []

/-- The failing P groups that affect elements [j, j + n) of the block at `at_`, each with its line (R350). -/
def State.blockGroups (s : State) (at_ code j n : Nat) : List (Nat × Nat) :=
  let w := b128Width code
  ((List.range n).flatMap fun i => (bitParts at_ (w * (j + i)) w).flatMap fun q =>
    let d := s.decodeLine q.1 code
    (failingGroups (lineFmt (s.codeAt q.1 code) (lineInUnit q.1)) d q.2.1 q.2.2.1).map fun g => (q.1, g)).eraseDups

/-- The part of a delivered element that lies in one line: the layout code of its access and the line bits [lo, hi). -/
structure Span where
  line : Nat
  code : Nat
  lo : Nat
  hi : Nat
  deriving DecidableEq, Repr

/-- The parts of elements [j, j + n) of the block at `at_`. -/
def blockSpans (at_ code j n : Nat) : List Span :=
  (List.range n).flatMap fun i => (bitParts at_ (b128Width code * (j + i)) (b128Width code)).map fun q => ⟨q.1, code, q.2.1, q.2.2.1⟩

/-- The place of the first byte of block k of the unit at `unit` (R76). -/
def blockAt (code unit k : Nat) : Nat := unit + b128Bytes code * k

/-- The severity of element j of the block at `at_`, which may lie in two lines and have its scale in a third (R347, R350). -/
def State.blockSev (s : State) (many : Bool) (at_ code j : Nat) : Nat :=
  let w := b128Width code
  let sd := s.decodeLine (scaleLine code at_) code
  (bitParts at_ (w * j) w).foldl (fun m q =>
    let d := { s.decodeLine q.1 code with scaleFail := sd.scaleFail }
    max m (elemSev (lineFmt (s.codeAt q.1 code) (lineInUnit q.1)) d many q.2.1 q.2.2.1)) 0

/-! ## Reads -/

/-- The element of a 6-bit page that a bit of a line belongs to: the place of its block, and its index in the block (R76). -/
def sixElem (code line bit : Nat) : Nat × Nat :=
  let e := (512 * lineInUnit line + bit) / 6
  (blockAt code (line / 1024 * 65536) (e / 128), e % 128)

/-- Do a line, and the lines that its elements or their scales reach into, decode without an uncorrectable field? -/
def State.cleanAt (s : State) (line code : Nat) : Bool :=
  match lineFmt (s.codeAt line code) (lineInUnit line) with
  | .six _ _ idx => (List.range 3).all fun i => (s.decodeLine (line - idx + i) code).clean
  | _ => (s.decodeLine line code).clean

/-- The severity of an element of a line (R350). -/
def State.sevAt (s : State) (many : Bool) (line code : Nat) (e : Nat × Nat) : Nat :=
  let code' := s.codeAt line code
  match lineFmt code' (lineInUnit line) with
  | .six .. => let k := sixElem code' line e.1; s.blockSev many k.1 code' k.2
  | lf => elemSev lf (s.decodeLine line code) many e.1 e.2

/-- The failing P groups that affect an element of a line, each with its line (R350). -/
def State.groupsAt (s : State) (line code : Nat) (e : Nat × Nat) : List (Nat × Nat) :=
  let code' := s.codeAt line code
  match lineFmt code' (lineInUnit line) with
  | .six .. => let k := sixElem code' line e.1; s.blockGroups k.1 code' k.2 1
  | lf => (failingGroups lf (s.decodeLine line code) e.1 e.2).map fun g => (line, g)

/-- The failing P groups that affect the elements of one field, each with its line (R350). -/
def State.fieldGroups (s : State) (at_ size code : Nat) : List (Nat × Nat) :=
  let line := at_ / 64
  let o := at_ % 64
  if s.cleanAt line code then [] else
  ((lineFmt (s.codeAt line code) (lineInUnit line)).elemsOf (8 * o) (8 * (o + size))).flatMap (s.groupsAt line code)

/-- Do two or more different failing P groups stand in a list (R350)? -/
def manyGroups (l : List (Nat × Nat)) : Bool := decide (2 ≤ l.eraseDups.length)

/-- What a read of the bytes [o, o + n) of a line delivers under a policy (R116, R350). `many` says that two or more failing P groups affect the
elements that the whole access delivers. -/
def State.readLine (s : State) (many : Bool) (line code pol o n : Nat) : Delivered :=
  let lf := lineFmt (s.codeAt line code) (lineInUnit line)
  let d := s.decodeLine line code
  if s.cleanAt line code then ⟨d.bits.data, [], [], [], []⟩ else
  deliver lf pol d (lf.elemsOf (8 * o) (8 * (o + n))) (s.sevAt many line code)

/-- The parts of the elements that a field delivers, where some line of them does not decode cleanly. -/
def State.fieldSpans (s : State) (at_ size code : Nat) : List Span :=
  let line := at_ / 64
  let code' := s.codeAt line code
  let lf := lineFmt code' (lineInUnit line)
  if s.cleanAt line code then [] else
  (lf.elemsOf (8 * (at_ % 64)) (8 * (at_ % 64 + size))).flatMap fun e =>
    match lf with
    | .six .. => let k := sixElem code' line e.1; blockSpans k.1 code' k.2 1
    | _ => [⟨line, code, e.1, e.2⟩]

/-- Records the failing fields of the lines of an access that affect no element that the whole access delivers, each once (R350). -/
def State.recordIdle (s : State) (sp : List Span) : State :=
  ((sp.map (·.line)).eraseDups).foldl (fun t line =>
    let mine := sp.filter (·.line == line)
    let code := s.codeAt line ((mine.map (·.code)).headD 0)
    let d := s.decodeLine line code
    if d.clean then t
    else t.recordAll (64 * line) (idleFields (lineFmt code (lineInUnit line)) d (mine.map fun x => (x.lo, x.hi)))) s

/-- One aligned field of a line read at its home: the value, the severity of the fault if it faults, and the errors recorded. `nan` says
that the reader takes a poisoned element as a NaN where its format has one (R117); `many` as for `readLine`. -/
def State.readFieldAs (s : State) (nan many : Bool) (at_ size code pol : Nat) : Nat × Option Nat × List ErrNote :=
  let line := at_ / 64
  let code' := s.codeAt line code
  let r := s.readLine many line code pol (at_ % 64) size
  let x := asLoad (if lineFmt code' (lineInUnit line) = .raw ∨ nan = false then 0 else code') r
  (bits x.1 (8 * (at_ % 64)) (8 * size), x.2, r.recorded)

/-- The read of a single field as a load (R236). -/
def State.readField (s : State) (at_ size code pol : Nat) : Nat × Option Nat × List ErrNote :=
  s.readFieldAs true (manyGroups (s.fieldGroups at_ size code)) at_ size code pol

/-- Does a failing field affect some bytes of a line, which makes an entry, an instruction word or a record uncorrectable (R43, R350)? -/
def State.fieldBad (s : State) (at_ size code : Nat) : Bool :=
  let line := at_ / 64
  !s.cleanAt line code &&
    ((lineFmt (s.codeAt line code) (lineInUnit line)).elemsOf (8 * (at_ % 64)) (8 * (at_ % 64 + size))).any fun e => s.sevAt true line code e != 0

/-- A field read by physical address without an error policy: the word, and whether it is uncorrectable. -/
def State.readPhys (s : State) (at_ size : Nat) : Nat × Bool :=
  let line := at_ / 64
  let o := at_ % 64
  let code := s.ownCode line
  (bits (s.decodeLine line code).bits.data (8 * o) (8 * size), s.fieldBad at_ size code)

/-- A field written by physical address under the code the home recorded (log entry 5). -/
def State.writePhys (s : State) (writer at_ size value : Nat) : State :=
  let line := at_ / 64
  let o := at_ % 64
  s.homeWrite writer line (byteMask o size) (value <<< (8 * o)) none (s.ownCode line)

/-- Writes bytes by physical address, field by field of a line each. -/
def State.writePhysBytes (s : State) (writer at_ : Nat) : List Byte → State
  | [] => s
  | b :: r => State.writePhysBytes (s.writePhys writer at_ 1 b.toNat) writer (at_ + 1) r

/-- Reads consecutive bytes by physical address. -/
def State.readPhysBytes (s : State) (at_ n : Nat) : List Byte := (List.range n).map fun i => BitVec.ofNat 8 (s.readPhys (at_ + i) 1).1

/-! ## Blocks as a whole (R106 to R109) -/

/-- Reads elements [j, j + n) of the block at `at_` (R350): elements, the scale, and the errors recorded; `many` as for `readLine`. -/
def State.readBlock (s : State) (many : Bool) (at_ code pol j n : Nat) : List ElemRead × Nat × List ErrNote :=
  let w := b128Width code
  let eff (line : Nat) : LineFmt := lineFmt (s.codeAt line code) (lineInUnit line)
  let l0 := at_ / 64
  let ds := (List.range 3).map fun i => s.decodeLine (l0 + i) code
  let dec (line : Nat) : Decoded := ds.getD (line - l0) ⟨⟨0, 0⟩, [], [], false⟩
  let sl := scaleLine code at_
  let sd := dec sl
  let parts (i : Nat) := bitParts at_ (w * (j + i)) w
  let els := (List.range n).map fun i =>
    let ps := parts i
    let sev := ps.foldl (fun m q => max m (elemSev (eff q.1) { dec q.1 with scaleFail := sd.scaleFail } many q.2.1 q.2.2.1)) 0
    let act := if sev = 0 then 0 else polAction pol sev
    let val := ps.foldl (fun x q =>
      let data := if sev = 2 ∧ act < 2 then midpoint (eff q.1) (dec q.1) q.2.1 q.2.2.1 (dec q.1).bits.data else (dec q.1).bits.data
      x + (bits data q.2.1 (q.2.2.1 - q.2.1)) <<< q.2.2.2) 0
    (⟨val, sev, act⟩ : ElemRead)
  (els, (eff sl).scaleOf sd.bits, (els.filter fun e => e.sev != 0).flatMap fun e => errNotes e.act e.sev)

/-- The sixteen free entries under which a wide view of a CB4 page is read or written (log entry 23). -/
def freeTable (n : Nat) : List (BitVec 16) := (List.range 16).map fun i => (Config.freeValue (16 * n + i)).setWidth 16

/-- A wide-view element: its unit, block and index from the window offset (R108); none where no element lies. -/
def wideElem (code wofs : Nat) : Option (Nat × Nat) :=
  let e := wofs / 2
  if e / 128 < b128Blocks code then some (e / 128, e % 128) else none

/-- The severity of a read's fault, where an element's action is 3 or, for a reader without NaN, an element is poisoned (R350). -/
def faultSev (els : List ElemRead) (nan : Bool) : Option Nat :=
  let fs := (els.filter fun e => e.act == 3 || (e.act == 2 && !nan)).map (·.sev)
  if fs.isEmpty then none else some (fs.foldl max 0)

/-- One BF16 field of a wide view as a load returns it, with its flags (R109). The specification names no code table for a wide view of a
CB4 page: the entries are free values, but index 0 under scale 0x00 is the zero that a block reads as whose scale has not been written (R115, R377; log
entry 23). -/
def State.readWide (s : State) (many : Bool) (unit code pol wofs : Nat) (table : List (BitVec 16)) :
    Nat × Flags × Option Nat × List ErrNote :=
  match wideElem code wofs with
  | none => (0, 0, none, [])
  | some (k, j) =>
    let r := s.readBlock many (blockAt code unit k) code pol j 1
    let e := r.1.getD 0 ⟨0, 0, 0⟩
    let v :=
      if e.act = 2 then (fmtBF16.cnan, 0)
      else if code = 10 ∧ r.2.1 = 0 ∧ e.val = 0 then (0, 0)
      else (b128Elem code table).toBf16 r.2.1 e.val
    (v.1, v.2, faultSev r.1 true, r.2.2)

/-- The bits of one line that a write replaces, with the layout code its access carries. -/
structure LineWrite where
  line : Nat
  mask : Nat
  value : Nat
  code : Nat
  deriving DecidableEq, Repr

/-- Adds a write to others: those of one line are one write, in which the later stands. -/
def addWrite (l : List LineWrite) (w : LineWrite) : List LineWrite :=
  if l.any (·.line == w.line) then
    mapWhere (·.line == w.line) (fun a => { a with mask := a.mask ||| w.mask, value := (a.value ||| w.mask) ^^^ w.mask ||| w.value }) l
  else l ++ [w]

/-- Performs writes of lines at their homes, each line once (R97, R351). -/
def State.homeWrites (s : State) (writer : Nat) (l : List LineWrite) : State :=
  (l.foldl addWrite []).foldl (fun s w => s.homeWrite writer w.line w.mask w.value none w.code) s

/-- The writes of w bits at bit p of the block at `at_`, one for each line they lie in. -/
def blockWrites (at_ code p w x : Nat) : List LineWrite :=
  (bitParts at_ p w).map fun q => ⟨q.1, 2 ^ q.2.2.1 - 2 ^ q.2.1, (x >>> q.2.2.2 % 2 ^ (q.2.2.1 - q.2.1)) <<< q.2.1, code⟩

/-- The scale of the block at `at_`, its bits as read where its codeword is uncorrectable (DESIGN CHOICE, log entry 74). -/
def State.blockScale (s : State) (at_ code : Nat) : Nat :=
  let sl := scaleLine code at_
  (lineFmt (s.codeAt sl code) (lineInUnit sl)).scaleOf (s.decodeLine sl code).bits

/-- The element that a wide-view store of a BF16 value writes, with its flags: rounded into the block's existing scale (R91, R109). -/
def State.wideQuant (s : State) (unit code k : Nat) (table : List (BitVec 16)) (x : Nat) : Nat × Flags :=
  (b128Elem code table).quantInto (s.blockScale (blockAt code unit k) code) (fmtBF16.dec x)

/-- The line writes and flags of n BF16 fields stored through a wide view from a window offset on, the fields lowest first in x (R109). -/
def State.wideWrites (s : State) (unit code wofs : Nat) (table : List (BitVec 16)) : Nat → Nat → List LineWrite × Flags
  | 0, _ => ([], 0)
  | n + 1, x =>
    let r := State.wideWrites s unit code (wofs + 2) table n (x / 2 ^ 16)
    match wideElem code wofs with
    | none => r
    | some (k, j) =>
      let q := s.wideQuant unit code k table (x % 2 ^ 16)
      let w := b128Width code
      (blockWrites (blockAt code unit k) code (w * j) w q.1 ++ r.1, q.2 ||| r.2)

/-- Writes the element bits of a whole block and its scale as one update (R106, R107). -/
def State.writeBlock (s : State) (writer at_ code field scale : Nat) : State :=
  let w := 128 * b128Width code
  let sl := scaleLine code at_
  let parts := (List.range 3).map fun i =>
    let lo := max (8 * at_) (512 * (at_ / 64 + i))
    let hi := min (8 * at_ + w) (512 * (at_ / 64 + i) + 512)
    (at_ / 64 + i, lo, hi)
  (parts.filter fun q => q.2.1 < q.2.2).foldl (fun s q =>
    let sc := if q.1 = sl ∨ code = 6 then some scale else none
    s.homeWrite writer q.1 (2 ^ (q.2.2 - 512 * q.1) - 2 ^ (q.2.1 - 512 * q.1))
      (field >>> (q.2.1 - 8 * at_) <<< (q.2.1 - 512 * q.1)) sc code) s

/-! ## Discard (R115) -/

/-- A line dropped at its home: it reads as an all-zero line; a B128 line's scale becomes 0x00, in the sibling line of an E4M3 block too, which
counts as a write of that line. Discarding line 1 of a 6-bit pair leaves both scales. -/
def State.discardLine (s : State) (writer line code : Nat) : State :=
  let code := s.codeAt line code
  let st := s.store.put1 line ⟨0, 0⟩
  let st := if code = 12 then st.put2 line ⟨0, 0⟩ else st
  let s := { s with
    store := { st with code := Cells.set st.code line (BitVec.ofNat 4 code) }
    caches := { s.caches with replicas := s.caches.replicas.filter fun r => r.line != line } }
  let s := s.touchLine writer line
  if code = 6 then s.homeWrite writer (line ^^^ 1) 0 0 (some 0) code else s

end Sys2Proof.Machine
end

