-- ==== Sys2Proof/Machine/Translate.lean ====
section
/-! DEFINITION. Page tables, the walk, the TLBs, permissions and the fetch of an instruction word (R14, R67, R174, R323 to R333, R354,
R378). -/

namespace Sys2Proof.Machine

/-- The TLBs (R330): a far core's or quay unit's by unit number, a matrix load pipe's, a lighter's, the host port's, the network port's. -/
def matrixTlb (core : Nat) : Nat := 1000 + core
/-- A lighter's TLB. -/
def lighterTlb (core : Nat) : Nat := 2000 + core
/-- The host port's TLB, which serves the harbourmaster (R330). -/
def hostTlb : Nat := 3000
/-- The network port's TLB. -/
def netTlb : Nat := 3001

/-- A field of an entry. -/
def pte (e : Word) (lo len : Nat) : Nat := bits e.toNat lo len

/-- Is bit i of an entry set? -/
def pteBit (e : Word) (i : Nat) : Bool := bitAt e.toNat i

/-- The bits of a virtual address below the index of a level (R323). -/
def levelShift (level : Nat) : Nat := if level = 1 then 30 else if level = 2 then 21 else 16

/-- Is a valid entry malformed at its level (R326)? `mem` is the partition's memory size. -/
def malformed (mem level : Nat) (e : Word) : Bool :=
  if !pteBit e 62 then
    pte e 40 22 != 0 || level == 3 || decide (mem ≤ pte e 0 40 * 256) || (level == 1 && pte e 0 4 != 0)
  else
    let host := pteBit e 58
    let wide := pteBit e 57
    let repl := pteBit e 56
    let r := pteBit e 61
    let w := pteBit e 60
    let wrepl := pteBit e 40
    let frame := pte e 8 32
    pteBit e 41 || frame * 65536 % 2 ^ levelShift level != 0 || (!host && decide (mem ≤ frame * 65536)) || (w && !r)
      || (host && (pte e 52 4 != 0 || wide || repl)) || (repl && (level == 1 || w || wide))
      || (wrepl && ((!repl && !w) || host || wide)) || (!wide && pte e 42 2 != 0)

/-- Does the walk fault BAD_LAYOUT at a leaf (R105, R326)? -/
def badLayout (level : Nat) (e : Word) : Bool :=
  let lay := pte e 52 4
  decide (13 ≤ lay) || (pteBit e 57 && (level != 3 || lay < 6 || 10 < lay || pteBit e 59 || (lay == 6 && 1 < pte e 42 2)))

/-- How a walk ends (R326, R329, R350). -/
inductive Walk where
  | leaf (level : Nat) (e : Word)
  | missing
  | badLayout
  | ue
  deriving DecidableEq, Repr

/-- The cached entry of a TLB at a level for a virtual address. -/
def State.tlbFind (s : State) (tlb ctx level va : Nat) : Option Word :=
  (s.caches.tlb.find? fun t => t.tlb == tlb && t.ctx == ctx && t.level == level && t.index == va / 2 ^ levelShift level).map (·.entry)

/-- Caches an entry (R330). -/
def State.tlbAdd (s : State) (tlb ctx level va : Nat) (e : Word) : State :=
  { s with caches := { s.caches with tlb := ⟨tlb, ctx, level, va / 2 ^ levelShift level, e⟩ :: s.caches.tlb } }

/-- Drops cached entries. -/
def State.tlbDrop (s : State) (p : TlbEntry → Bool) : State :=
  { s with caches := { s.caches with tlb := s.caches.tlb.filter (!p ·) } }

/-- Has the link that joins two dies failed to retrain (R354; log entry 20): link 4a + b joins dies a < b? -/
def State.linkDown (s : State) (a b : Nat) : Bool := a != b && s.out.linksDown.contains (4 * min a b + max a b)

/-- Does an access from a die to a place in device memory need a link that has failed (R354)? -/
def State.linkBroken (s : State) (die at_ : Nat) : Bool := s.linkDown die (s.berthOf at_ / 64)

/-- The die from which a TLB's walker reads: its unit's, and for the host and network ports the first of the context's partition (log entry 20). -/
def State.tlbDie (s : State) (tlb ctx : Nat) : Nat := if tlb < hostTlb then s.dieOf (tlb % 1000) else s.partOfCtx ctx * s.dies

/-- The walker reads an entry at its place (R329): the entry, and whether the read faults: it is uncorrectable (R350), or a link that it needs has failed (R354).
What it meets of failing fields is recorded. -/
def State.walkRead (s : State) (die at_ : Nat) : State × Word × Bool :=
  if s.linkBroken die at_ then (s, 0, true) else
  let r := s.readPhys at_ 8
  let t := s.recordIdle (s.fieldSpans at_ 8 (s.ownCode (at_ / 64)))
  (if r.2 then t.record at_ 5 else t, BitVec.ofNat 64 r.1, r.2)

/-- The walk from a level with its table's physical address; `n` levels remain (R329). An entry beyond the partition's memory is none (R303; log entry
87). -/
def State.walkFrom (tlb ctx va : Nat) : Nat → State → Nat → State × Walk
  | 0, s, _ => (s, .missing)
  | n + 1, s, table =>
    let level := 3 - n
    let idx := va / 2 ^ levelShift level % (if level = 1 then 2 ^ 18 else if level = 2 then 2 ^ 9 else 2 ^ 5)
    let p := s.partOfCtx ctx
    let step (s : State) (e : Word) : State × Walk :=
      if pteBit e 62 then (s, .leaf level e) else State.walkFrom tlb ctx va n s (pte e 0 40 * 256)
    match s.tlbFind tlb ctx level va with
    | some e => step s e
    | none =>
      if s.partSize < table + 8 * idx + 8 then (s, .missing) else
      let r := s.walkRead (s.tlbDie tlb ctx) (s.partBase p + table + 8 * idx)
      let s := r.1
      let e := r.2.1
      if r.2.2 then (s, .ue)
      else if !pteBit e 63 || malformed s.partSize level e then (s, .missing)
      else if pteBit e 62 && badLayout level e then (s, .badLayout)
      else step (s.tlbAdd tlb ctx level va e) e

/-- The walk of a virtual address in a context (R329). -/
def State.walk (s : State) (tlb ctx va : Nat) : State × Walk :=
  match s.ctx? ctx with
  | none => (s, .missing)
  | some c => State.walkFrom tlb ctx va 3 s c.ptroot

/-- What an access needs of a leaf. -/
inductive Need where
  | r | w | x
  deriving DecidableEq, Repr

/-- Does a leaf permit an access? -/
def permits (e : Word) (n : Need) : Bool :=
  match n with
  | .r => pteBit e 61
  | .w => pteBit e 60
  | .x => pteBit e 59

/-- What a translation gives (R326, R332, R337). -/
inductive TrRes where
  | ok (t : Target)
  | missing
  | access
  | badLayout
  | writeProtect
  | ue
  deriving DecidableEq, Repr

/-- The target that a leaf gives for an address (R325, R328). -/
def State.leafTarget (s : State) (ctx level : Nat) (e : Word) (va : Nat) : Target :=
  let frame := pte e 8 32 * 65536
  let ofs := va % 2 ^ levelShift level
  let code := pte e 52 4
  let pol := pte e 44 8
  let base := s.partBase (s.partOfCtx ctx)
  if pteBit e 58 then ⟨.host, frame + ofs, va, 0, pol, false, 0, level⟩
  else if pteBit e 57 then ⟨.wide, base + frame, va, code, pol, false, 65536 * pte e 42 2 + ofs, level⟩
  else ⟨.dev, base + frame + ofs, va, code, pol, pteBit e 56, 0, level⟩

/-- The walk of an access: where the leaf refuses it, the TLB drops that leaf and walks again, once (R332). -/
def State.walkFor (s : State) (tlb ctx va : Nat) (n : Need) : State × Walk :=
  let a := s.walk tlb ctx va
  match a.2 with
  | .leaf level e =>
    if permits e n then a
    else (a.1.tlbDrop fun t => t.tlb == tlb && t.ctx == ctx && t.level == level && t.index == va / 2 ^ levelShift level).walk tlb ctx va
  | _ => a

/-- Translation with the single re-walk of R332 and the replicated pages of R337. -/
def State.translate (s : State) (tlb ctx va : Nat) (n : Need) : State × TrRes :=
  let a := s.walkFor tlb ctx va n
  (a.1, match a.2 with
    | .missing => .missing
    | .badLayout => .badLayout
    | .ue => .ue
    | .leaf level e =>
      if permits e n then .ok (a.1.leafTarget ctx level e va)
      else if n = .w ∧ pteBit e 56 = true ∧ pteBit e 40 = true then .writeProtect
      else .access)

/-- The base of the berth status window, and of the 64 KiB that is never walked (R67). -/
def statusBase : Nat := 0xFFFFFFFFC000
/-- The base of the addresses that are never walked (R67). -/
def unwalkedBase : Nat := 0xFFFFFFFF0000

/-- The target of an address of the status window (R66, R67). -/
def statusTarget (va : Nat) : Target := ⟨.status, va - statusBase, va, 0, 0, false, 0, 0⟩

/-- The target of a physical address of a harbourmaster core's partition (R294): the layout the home recorded, severities 1 to 4 delivered (log
entry 5). -/
def State.physTarget (s : State) (p pa : Nat) : Target :=
  let g := s.partBase p + pa
  ⟨.dev, g, pa, s.ownCode (g / 64), 0, false, 0, 0⟩

/-- What a fetch gives: a word, or the cause and severity of the fault (R174, R350). -/
inductive FetchRes where
  | word (w : Word)
  | fault (cause sev : Nat)
  deriving DecidableEq, Repr

/-- Reads an instruction word at its place: from the instruction cache where it is held (R378), else at its home, where an uncorrectable word faults
whatever the page's policy (R350). -/
def State.fetchAt (s : State) (unit : Nat) (t : Target) : State × FetchRes :=
  match s.caches.ic.find? fun c => c.unit == unit && c.at_ == t.at_ with
  | some c => (s, .word c.word)
  | none =>
    if s.linkBroken (s.dieOf unit) t.at_ then (s, .fault 0x15 5) else
    let r := s.readField t.at_ 8 t.code t.pol
    let bad := s.fieldBad t.at_ 8 t.code
    let s := (s.recordAll t.at_ r.2.2).recordIdle (s.fieldSpans t.at_ 8 t.code)
    if bad then (s, .fault 0x15 5)
    else
      let w : Word := BitVec.ofNat 64 r.1
      if unit < 512 then ({ s with caches := { s.caches with ic := ⟨unit, t.at_, w⟩ :: s.caches.ic } }, .word w) else (s, .word w)

/-- The fetch of the executing agent's next instruction (R174): a harbourmaster core's by physical address (R294). No page table maps the status window, and a
fetch from it faults ACCESS, from the addresses below it that are never walked UNMAPPED (R67; DESIGN CHOICE, log entry 105). -/
def State.fetch (s : State) : State × FetchRes :=
  let w := s.me
  let pc := w.pc.toNat
  let u := unitOf w.gwn
  if pc % 8 ≠ 0 then (s, .fault 0x03 0)
  else if isHm w.gwn then
    let p := s.partOf u
    if s.partSize ≤ pc then (s, .fault 0x05 0) else s.fetchAt u (s.physTarget p pc)
  else if 2 ^ 48 ≤ pc then (s, .fault 0x05 0)
  else if statusBase ≤ pc then (s, .fault 0x04 0)
  else if unwalkedBase ≤ pc then (s, .fault 0x05 0)
  else
    let r := s.translate u w.ctx pc .x
    match r.2 with
    | .ok t =>
      match t.space with
      | .dev => r.1.fetchAt u t
      | .host => (r.1, .word (BitVec.ofNat 64 (ofBytes (Cells.range r.1.out.hostMem t.at_ 8))))
      | _ => (r.1, .fault 0x04 0)
    | .missing => (r.1, .fault 0x05 0)
    | .badLayout => (r.1, .fault 0x0B 0)
    | .ue => (r.1, .fault 0x15 5)
    | _ => (r.1, .fault 0x04 0)

end Sys2Proof.Machine
end

