-- ==== Sys2Proof/Machine/Commands.lean ====
section
/-! DEFINITION. Command words of the matrix unit and the lighter: fields, checks at issue, rows and granules, and scratch itself (R98, R111,
R256 to R262, R266 to R268). -/

namespace Sys2Proof.Machine

/-! ## Scratch (R15, R98, R111) -/

/-- The size of a crew's scratch in bytes. -/
def Crew.size (c : Crew) : Nat := 65536 * c.units

/-- Reads n bytes of scratch. -/
def Crew.read (c : Crew) (ofs n : Nat) : Nat := ofBytes (Cells.range c.scratch ofs n)

/-- Does an uncorrectable word of 8 bytes lie in n bytes of scratch (R354)? -/
def Crew.fails (c : Crew) (ofs n : Nat) : Bool := c.bad.any fun k => decide (8 * k < ofs + n) && decide (ofs < 8 * k + 8)

/-- The offset of the first of n bytes of scratch that lies in an uncorrectable word. -/
def Crew.failAt (c : Crew) (ofs n : Nat) : Option Nat :=
  if c.fails ofs n then (List.range n).findSome? fun i => if c.bad.contains ((ofs + i) / 8) then some (ofs + i) else none else none

/-- Writes n bytes of scratch. A word that fails its check is good again once a write replaces all of it (DEDUCED, log entry 77). -/
def Crew.write (c : Crew) (ofs n x : Nat) : Crew :=
  { c with
    scratch := Cells.setRange c.scratch ofs (toBytes n x)
    bad := c.bad.filter fun k => !(decide (ofs ≤ 8 * k) && decide (8 * k + 8 ≤ ofs + n)) }

/-- Is a granule full? -/
def Crew.isFull (c : Crew) (g : Nat) : Bool := Cells.get c.full g == 1

/-- Makes a granule full or empty. -/
def Crew.setFull (c : Crew) (g : Nat) (b : Bool) : Crew := { c with full := Cells.set c.full g (if b then 1 else 0) }

/-- The granules that n bytes from an offset touch. -/
def granules (ofs n : Nat) : List Nat := if n = 0 then [] else (List.range ((ofs + n - 1) / 16 - ofs / 16 + 1)).map (ofs / 16 + ·)

/-! ## The matrix command (R258 to R262) -/

/-- A matrix command's fields (R258). -/
structure MatFields where
  op : Nat
  bank : Nat
  rnd : Nat
  ta : Nat
  tb : Nat
  cta : Nat
  ctb : Nat
  fea : Nat
  feb : Nat
  res : Nat
  k : Nat
  a : Nat
  b : Nat
  astride : Nat
  bstride : Nat
  deriving DecidableEq, Repr

/-- Reads the fields of a matrix command word (R258). -/
def matFields (ws : List Word) : MatFields where
  op := wordBits ws 0 61 3
  bank := wordBits ws 0 58 2
  rnd := wordBits ws 0 56 2
  ta := wordBits ws 0 52 4
  tb := wordBits ws 0 48 4
  cta := wordBits ws 0 45 3
  ctb := wordBits ws 0 42 3
  fea := wordBits ws 0 40 2
  feb := wordBits ws 0 38 2
  res := wordBits ws 0 20 18 + wordBits ws 0 60 1
  k := wordBits ws 0 0 20
  a := (ws.getD 1 0).toNat
  b := (ws.getD 2 0).toNat
  astride := wordBits ws 3 0 32
  bstride := wordBits ws 3 32 32

/-- Is an operand type reserved (R258)? -/
def matTyOk (t : Nat) : Bool := t ≤ 2 || (9 ≤ t && t ≤ 14)
/-- Is it a block type (R258)? -/
def matBlock (t : Nat) : Bool := 9 ≤ t
/-- The element type of an operand type code (R258). -/
def matElemTy (t : Nat) : Ty :=
  match t with
  | 0 => .bf16
  | 1 => .e4m3
  | 2 => .e5m2
  | 9 => .e4m3
  | 10 => .e5m2
  | 11 => .e2m3
  | 12 => .e3m2
  | 13 => .e2m1
  | _ => .cb4
/-- The class of an operand type: 16, 8, 6 or 4 bits (R258). -/
def matClass (t : Nat) : Nat := if t = 0 then 16 else narWidth (matElemTy t)
/-- Bytes of a packed image (R107). -/
def imageBytes (w : Nat) : Nat := 16 * w + 16
/-- Bytes of a row of K elements (R258). -/
def matRowBytes (t k : Nat) : Nat := if t = 0 then 2 * k else if matBlock t then k / 128 * imageBytes (matClass t) else k

/-- The k-step length (R260). -/
def MatFields.step (f : MatFields) : Nat :=
  let a := matClass f.ta
  let b := matClass f.tb
  if a = 4 ∨ b = 4 then 128 else if a = 16 ∧ b = 16 then 32 else 64

/-- KS, the number of k-steps; a ZERO counts as one (R260). -/
def MatFields.total (f : MatFields) : Nat := if f.op = 2 then 1 else f.k / f.step

/-- Is an operand address global (R258)? -/
def matGlobal (a : Nat) : Bool := bitAt a 63

/-- The address fields' reserved bits are zero (R259). -/
def matAddrOk (a : Nat) : Bool := if matGlobal a then bits a 48 15 == 0 else bits a 32 31 == 0

/-- Does a matrix command break a limit: BAD_COMMAND (R259)? -/
def MatFields.bad (f : MatFields) (ws : List Word) : Bool :=
  if f.op = 2 then
    (ws.getD 0 0).toNat != 2 * 2 ^ 61 + f.bank * 2 ^ 58 || (ws.drop 1).any (· != 0)
  else
    decide (2 < f.op) || f.rnd != 0 || !matTyOk f.ta || !matTyOk f.tb || f.fea == 3 || f.feb == 3 || f.res != 0
      || (f.ta != 14 && f.cta != 0) || (f.tb != 14 && f.ctb != 0)
      || (matGlobal f.a && (matBlock f.ta || f.fea != 0)) || (matGlobal f.b && (matBlock f.tb || f.feb != 0))
      || !matAddrOk f.a || !matAddrOk f.b || f.astride % 16 != 0 || f.bstride % 16 != 0
      || f.k == 0 || f.k % f.step != 0 || ((matBlock f.ta || matBlock f.tb) && f.k % 128 != 0)

/-- Does a scratch operand reach past the allocation (R259)? -/
def matOutside (size a stride row : Nat) : Bool := !matGlobal a && decide (size < a % 2 ^ 32 + 127 * stride + row)

/-- The fault of a matrix command at its `mxc`, in the order of R256. -/
def matFault (size : Nat) (ws : List Word) : Option Nat :=
  let f := matFields ws
  if f.bad ws then some 0x09
  else if f.op = 2 then none
  else if f.a % 16 ≠ 0 ∨ f.b % 16 ≠ 0 then some 0x03
  else if matOutside size f.a f.astride (matRowBytes f.ta f.k) || matOutside size f.b f.bstride (matRowBytes f.tb f.k) then some 0x06
  else none

/-- The granules of a scratch operand's 128 rows (R261). -/
def matOperandGranules (a stride row : Nat) : List Nat :=
  if matGlobal a then [] else ((List.range 128).flatMap fun i => granules (a % 2 ^ 32 + i * stride) row).eraseDups

/-- The granules a matrix command waits for and reserves (R261). -/
def MatFields.granules (f : MatFields) : List Nat :=
  (if f.fea = 0 then [] else matOperandGranules f.a f.astride (matRowBytes f.ta f.k))
    ++ (if f.feb = 0 then [] else matOperandGranules f.b f.bstride (matRowBytes f.tb f.k))

/-- The granules it empties at completion (R260, R261). -/
def MatFields.taken (f : MatFields) : List Nat :=
  (if f.fea = 2 then matOperandGranules f.a f.astride (matRowBytes f.ta f.k) else [])
    ++ (if f.feb = 2 then matOperandGranules f.b f.bstride (matRowBytes f.tb f.k) else [])

/-! ## The lighter command (R266 to R268) -/

/-- A lighter command's fields (R266). -/
structure LitFields where
  dir : Nat
  full : Bool
  conv : Nat
  ct : Nat
  rows : Nat
  rowBytes : Nat
  res : Nat
  src : Nat
  dst : Nat
  fstride : Int
  tstride : Int
  deriving DecidableEq, Repr

/-- Reads the fields of a lighter command word (R266). -/
def litFields (ws : List Word) : LitFields where
  dir := wordBits ws 0 62 2
  full := bitAt (ws.getD 0 0).toNat 61
  conv := wordBits ws 0 48 8
  ct := wordBits ws 0 44 3
  rows := wordBits ws 0 32 12 + 1
  rowBytes := wordBits ws 0 0 17
  res := wordBits ws 0 56 5 + wordBits ws 0 47 1 + wordBits ws 0 17 15
  src := (ws.getD 1 0).toNat
  dst := (ws.getD 2 0).toNat
  fstride := toSigned 32 (wordBits ws 3 0 32)
  tstride := toSigned 32 (wordBits ws 3 32 32)

/-- The formats of elementwise conversions (R267). -/
def litTy (n : Nat) : Ty :=
  match n with
  | 0 => .f32
  | 1 => .bf16
  | 2 => .f16
  | 3 => .e4m3
  | _ => .e5m2

/-- Bytes of an element of such a format. -/
def litTyBytes (n : Nat) : Nat := if n = 0 then 4 else if n ≤ 2 then 2 else 1

/-- Is the conversion elementwise? -/
def convElem (conv : Nat) : Bool := decide (0x40 ≤ conv) && decide (conv < 0x80)

/-- Is the conversion a block conversion (R267)? -/
def convBlock (conv : Nat) : Bool := conv == 0x80 || conv == 0x81 || conv == 0x82 || conv == 0x90 || conv == 0x91 || conv == 0x92 || conv == 0x93

/-- Is the code assigned (R267)? -/
def convOk (conv : Nat) : Bool :=
  conv == 0 || convBlock conv || (convElem conv && decide (conv % 8 ≤ 4) && decide (conv / 8 % 8 ≤ 4) && conv % 8 != conv / 8 % 8)

/-- The units su and du of a conversion in bytes; block conversions take them from the layout code of the page, 0 where it is not known yet (R267). -/
def convUnits (conv code : Nat) : Nat × Nat :=
  let blk := b128Bytes code
  let img := imageBytes (b128Width code)
  match conv with
  | 0x80 => (blk, 256)
  | 0x81 => (blk, 512)
  | 0x82 => (blk, img)
  | 0x90 => (img, blk)
  | 0x91 => (256, blk)
  | 0x92 => (512, blk)
  | 0x93 => (256, blk)
  | 0 => (1, 1)
  | c => (litTyBytes (c / 8 % 8), litTyBytes (c % 8))

/-- DW, the destination bytes of a row (R266). -/
def LitFields.dw (f : LitFields) (code : Nat) : Nat :=
  let u := convUnits f.conv code
  f.rowBytes / u.1 * u.2

/-- The address of row r, modulo 2^64 (R266). -/
def rowAddr (base : Nat) (stride : Int) (r : Nat) : Nat := ofSigned 64 ((base : Int) + stride * r)

/-- Is the source global; is the destination? -/
def LitFields.srcGlobal (f : LitFields) : Bool := f.dir == 0
/-- Is the destination global? -/
def LitFields.dstGlobal (f : LitFields) : Bool := f.dir == 1

/-- The source unit known at issue: a scratch-side unit of a block conversion does not depend on the page's layout but for `pack.out`. -/
def issueUnit (conv : Nat) : Nat :=
  match conv with
  | 0x91 => 256
  | 0x92 => 512
  | 0x93 => 256
  | 0x80 => 1
  | 0x81 => 1
  | 0x82 => 1
  | 0x90 => 1
  | c => (convUnits c 0).1

/-- Does a lighter command break a limit at its `cpc`: BAD_COMMAND (R268)? What depends on the page's layout is checked before the start. -/
def LitFields.bad (f : LitFields) : Bool :=
  f.dir == 3 || !convOk f.conv || (convBlock f.conv && f.dir != (if f.conv < 0x90 then 0 else 1)) || (f.full && f.dir == 1)
    || f.res != 0 || f.rowBytes == 0 || decide (65536 < f.rowBytes) || f.rowBytes % issueUnit f.conv != 0
    || decide (65536 < f.rows * f.rowBytes) || (!convBlock f.conv && decide (65536 < f.rows * f.dw 0))
    || (!f.srcGlobal && decide (2 ^ 32 ≤ f.src)) || (!f.dstGlobal && decide (2 ^ 32 ≤ f.dst))

/-- The first row address, the source's before the destination's, that breaks the alignment of an elementwise or block conversion at its `cpc` (R268). -/
def LitFields.misaligned (f : LitFields) : Option Nat :=
  let u : Nat × Nat :=
    if convElem f.conv then convUnits f.conv 0
    else if convBlock f.conv then (if f.srcGlobal then 1 else 16, if f.dstGlobal then 1 else 16)
    else (1, 1)
  (List.range f.rows).findSome? fun r =>
    let a := rowAddr f.src f.fstride r
    let b := rowAddr f.dst f.tstride r
    if a % u.1 ≠ 0 then some a else if b % u.2 ≠ 0 then some b else none

/-- The first row offset, the source's before the destination's, of a row that has a scratch byte outside the allocation (R268). The destination of an
expansion is checked with the layout known. -/
def LitFields.outside (f : LitFields) (size code : Nat) (dst : Bool) : Option Nat :=
  (List.range f.rows).findSome? fun r =>
    let a := rowAddr f.src f.fstride r
    let b := rowAddr f.dst f.tstride r
    if !f.srcGlobal && decide (size < a + f.rowBytes) then some a
    else if dst && !f.dstGlobal && decide (size < b + f.dw code) then some b else none

/-- The fault of a lighter command at its `cpc`, in the order of R256, with the address it reports (R64): the operand that fails (log entry 25). -/
def litFault (size : Nat) (ws : List Word) : Option (Nat × Nat) :=
  let f := litFields ws
  if f.bad then some (0x09, 0)
  else match f.misaligned with
    | some a => some (0x03, a)
    | none => (f.outside size 0 (!convBlock f.conv)).map fun a => (0x06, a)

/-- The layout code of the pages a started command reaches. -/
def LitCmd.code (l : LitCmd) : Nat := (l.pages.headD ⟨0, 0, ⟨.dev, 0, 0, 0, 0, false, 0, 0⟩⟩).tgt.code

/-- The destination granules of a command with set-full, once its layout is known (R113). -/
def LitFields.granules (f : LitFields) (code : Nat) : List Nat :=
  if f.full then ((List.range f.rows).flatMap fun r => Machine.granules (rowAddr f.dst f.tstride r) (f.dw code)).eraseDups else []

/-! ## Reservations (R113, R261) -/

/-- Is a granule of a crew reserved by a started lighter command? -/
def State.litReserves (s : State) (core crew g : Nat) : Bool :=
  (s.core core).lit.any fun l => l.crew == crew && l.started && ((litFields l.words).granules l.code).contains g

/-- Is a granule of a crew reserved by a matrix command? -/
def State.matReserves (s : State) (core crew g : Nat) : Bool :=
  (s.core core).mat.any fun m => m.crew == crew && m.reserved && (matFields m.words).granules.contains g

/-- Is every later operation kept behind it: the rows of Acq and ARA (R124 to R126)? -/
def OrdClass.blocksAll : OrdClass → Bool
  | .acq | .ara | .arac => true
  | _ => false

/-- Does an operation in flight of a wave hold back the start of a later engine command: an acquire (R125), or of a matrix command an access to a
bank (R265)? -/
def State.holdsStart (s : State) (matrix : Bool) (g id : Nat) : Bool :=
  (s.wave? g).any fun w => w.flights.any fun f => decide (f.id < id) && (f.cls.blocksAll || (matrix && f.bank))

/-- Is it reserved by either? -/
def State.reserved (s : State) (core crew g : Nat) : Bool := s.litReserves core crew g || s.matReserves core crew g

/-- Are the granules of a matrix command ready: reserved to it already, or every one full and reserved by nobody (R261)? -/
def State.matReady (s : State) (core : Nat) (m : MatCmd) : Bool :=
  m.reserved || (match s.crew? m.crew with
    | none => false
    | some c => (matFields m.words).granules.all fun g => c.isFull g && !s.reserved core m.crew g)

/-- STATE of MXP for an unfinished command (R264): one that only its granules hold back is waiting. -/
def State.matState (s : State) (core : Nat) (m : MatCmd) : Nat :=
  if m.state ≤ 1 then (if s.matReady core m then 0 else 1) else m.state

end Sys2Proof.Machine
end

