-- ==== Sys2Proof/Machine/Access.lean ====
section
/-! DEFINITION. Memory accesses of a wave: the checks of R233, the reads and writes of one lane at its home, in scratch and in the other
spaces (R95 to R104, R109, R129, R234 to R242), and the signature of a task (R320, R321). -/

namespace Sys2Proof.Machine

/-! ## The checks (R95, R14, R15, R233) -/

/-- What an access asks of its addresses: permission, size, and whether a wide view, host memory or the status window may serve it. -/
structure AccKind where
  need : Need
  size : Nat
  wideOk : Bool
  hostOk : Bool
  statusOk : Bool
  deriving DecidableEq, Repr

/-- Why an access does not take place: a fault with its cause, severity and address, or a park of kind 1 or 2 (R300). -/
inductive Fail where
  | trap (cause sev va : Nat)
  | park (kind va : Nat)
  deriving DecidableEq, Repr

/-- What checks 5 and 6 find for one address. -/
inductive LaneRes where
  | ok (t : Target)
  | fail5 (f : Fail)
  | fail6 (f : Fail)
  deriving DecidableEq, Repr

/-- Does the space of a target allow the access (R67, R109, R242)? -/
def AccKind.admits (k : AccKind) (t : Target) : Bool :=
  match t.space with
  | .wide => k.wideOk && (wideElem t.code t.wofs).isSome
  | .host => k.hostOk
  | .status => k.statusOk
  | _ => true

/-- Checks 5 and 6 of one virtual address of a context (R67, R233, R332). -/
def State.virtRes (s : State) (tlb ctx : Nat) (k : AccKind) (va : Nat) : State × LaneRes :=
  if statusBase ≤ va then (s, if k.statusOk then .ok (statusTarget va) else .fail6 (.trap 0x04 0 va))
  else if unwalkedBase ≤ va then (s, .fail5 (.trap 0x05 0 va))
  else
    let r := s.translate tlb ctx va k.need
    (r.1, match r.2 with
      | .ok t => if k.admits t then .ok t else .fail6 (.trap 0x04 0 va)
      | .missing => .fail5 (.park 1 va)
      | .badLayout => .fail5 (.trap 0x0B 0 va)
      | .ue => .fail5 (.trap 0x15 5 va)
      | .access => .fail6 (.trap 0x04 0 va)
      | .writeProtect => .fail6 (.park 2 va))

/-- Checks 5 and 6 of one global address of the executing agent (R233, R294). -/
def State.laneRes (s : State) (tlb : Nat) (k : AccKind) (va : Nat) : State × LaneRes :=
  if isHm s.me.gwn then (s, .ok (s.physTarget (s.partOf (unitOf s.me.gwn)) va)) else s.virtRes tlb s.me.ctx k va

/-- Checks 5 and 6 of several lanes, in ascending order. -/
def State.laneAll (s : State) (tlb : Nat) (k : AccKind) : List (Nat × Nat) → State × List (Nat × LaneRes)
  | [] => (s, [])
  | (l, va) :: r =>
    let a := s.laneRes tlb k va
    let b := State.laneAll a.1 tlb k r
    (b.1, (l, a.2) :: b.2)

/-- The failure of check 5 of a lane. -/
def LaneRes.five : LaneRes → Option Fail
  | .fail5 f => some f
  | _ => none

/-- The failure of check 6 of a lane. -/
def LaneRes.six : LaneRes → Option Fail
  | .fail6 f => some f
  | _ => none

/-- The target of a lane that passes. -/
def LaneRes.target : LaneRes → Option Target
  | .ok t => some t
  | _ => none

/-- What the checks answer: the first failing check's lowest lane, a host access inside a transaction, or every lane's target. -/
inductive Checked where
  | fail (f : Fail)
  | hostInTx
  | ok (ts : List (Nat × Target))
  deriving DecidableEq, Repr

/-- The bound of global addresses: 2^48, or the memory of a harbourmaster core's partition (R14, R294). -/
def State.globalBound (s : State) : Nat := if isHm s.me.gwn then s.partSize else 2 ^ 48

/-- Does the leaf of a virtual address of the executing wave name host memory (R325)? -/
def State.hostVa (s : State) (n : Need) (va : Nat) : Bool :=
  !isHm s.me.gwn && decide (va < unwalkedBase) && match (s.walkFor (unitOf s.me.gwn) s.me.ctx va n).2 with
    | .leaf _ e => pteBit e 58
    | _ => false

/-- Checks 2 to 6 of a global access over its lanes, each a pair of lane and address: in a transaction an access to host memory comes before all
others (R142, R233). -/
def State.checkGlobal (s : State) (k : AccKind) (as : List (Nat × Nat)) : State × Checked :=
  if s.me.tx.depth ≠ 0 ∧ (as.any fun p => s.hostVa k.need p.2) = true then (s, .hostInTx) else
  match as.find? (·.2 % k.size != 0) with
  | some p => (s, .fail (.trap 0x03 0 p.2))
  | none =>
    match as.find? fun p => decide (s.globalBound ≤ p.2) with
    | some p => (s, .fail (.trap 0x05 0 p.2))
    | none =>
      let r := s.laneAll (unitOf s.me.gwn) k as
      let ts := r.2.filterMap fun p => p.2.target.map fun t => (p.1, t)
      match firstSome (fun p : Nat × LaneRes => p.2.five) r.2 with
      | some f => (r.1, .fail f)
      | none =>
        match firstSome (fun p : Nat × LaneRes => p.2.six) r.2 with
        | some f => (r.1, .fail f)
        | none => (r.1, .ok ts)

/-- The scratch of the executing wave's crew in bytes; 0 where it has none (R15, R98). -/
def State.scrSize (s : State) : Nat := ((s.crew? s.me.crew).map Crew.size).getD 0

/-- A field of scratch as a target. -/
def scrTarget (ofs : Nat) : Target := ⟨.scr, ofs, ofs, 0, 0, false, 0, 0⟩

/-- Checks 3 and 4 of a scratch access (R15, R233). -/
def State.checkScratch (s : State) (size : Nat) (as : List (Nat × Nat)) : Checked :=
  match as.find? (·.2 % size != 0) with
  | some p => .fail (.trap 0x03 0 p.2)
  | none =>
    match as.find? fun p => decide (s.scrSize < p.2 + size) with
    | some p => .fail (.trap 0x06 0 p.2)
    | none => .ok (as.map fun p => (p.1, scrTarget p.2))

/-- What follows from a failing check (R142, R233, R300): inside a transaction a missing page asks for a notice and aborts. -/
def State.failAccess (s : State) : Fail → State
  | .trap cause sev va => s.raise cause sev (BitVec.ofNat 64 va)
  | .park kind va =>
    if kind = 1 ∧ s.me.tx.depth ≠ 0 then (s.notice (BitVec.ofNat 64 va) s.me.pc).abortTx 6 0 0x05
    else (s.mapMe (Wave.stamp s.time)).parkWave s.me.gwn kind 0 (BitVec.ofNat 64 va) s.me.pc

/-- Runs an access whose checks have been made. -/
def State.withChecked (r : State × Checked) (f : State → List (Nat × Target) → State) : State :=
  match r.2 with
  | .fail x => r.1.failAccess x
  | .hostInTx => r.1.abortTx 6 0 0x09
  | .ok ts => f r.1 ts

/-- The lanes of an access with their addresses, ascending: the active lanes where data or index are per-lane, else one (R232), whose data, where they are a
per-lane special value, are lane 0's (DESIGN CHOICE, log entry 103). -/
def State.accLanes (s : State) (c : Ctl) (vec : Bool) (m : MemArg) (size : Nat) : List (Nat × Nat) :=
  (if vec || m.perLane then s.lanes c else [0]).map fun l => (l, s.memAddr m size l)

/-! ## Lines -/

/-- The lines of device memory that a target of some size reaches. A wide view reaches the lines of its elements and their scale. -/
def Target.devLines (t : Target) (size : Nat) : List Nat :=
  match t.space with
  | .dev => [t.at_ / 64]
  | .wide =>
    match wideElem t.code t.wofs with
    | none => []
    | some (k, j) =>
      let b := blockAt t.code t.at_ k
      addOnce (scaleLine t.code b) (((List.range (size / 2)).flatMap fun i =>
        (bitParts b (b128Width t.code * (j + i)) (b128Width t.code)).map (·.1)).eraseDups)
  | .status => [statusLine (t.at_ / 64)]
  | _ => []

/-- The lines of a target as pairs of a space and a line, for the order within a wave (R122). -/
def Target.keys (t : Target) (size : Nat) : List (Nat × Nat) :=
  match t.space with
  | .host => [(1, t.at_ / 64)]
  | .scr => [(3, t.at_ / 64)]
  | _ => (t.devLines size).map fun l => (0, l)

/-! ## L1 and replica copies (R103, R131, R335) -/

/-- Drops one line's copy on a core. -/
def State.dropL1 (s : State) (core line : Nat) : State :=
  { s with caches := { s.caches with l1 := s.caches.l1.filter fun c => !(c.core == core && c.line == line) } }

/-- Invalidates L1 of a unit; a quay unit has none (R16, R100). -/
def State.flushL1 (s : State) (unit : Nat) : State :=
  { s with caches := { s.caches with l1 := s.caches.l1.filter fun c => c.core != unit } }

/-- Invalidates the instruction cache of a unit (R378). -/
def State.flushIc (s : State) (unit : Nat) : State :=
  { s with caches := { s.caches with ic := s.caches.ic.filter fun c => c.unit != unit } }

/-- A far core's L1 takes a copy of a line that decodes cleanly and is held near by no task (R58, R103); any earlier copy is dropped. -/
def State.fillL1 (s : State) (core line code : Nat) : State :=
  let s1 := s.dropL1 core line
  let d := s.decodeLine line code
  if s.cleanAt line code && !s.caches.near.any (·.1 == line) then
    { s1 with caches := { s1.caches with l1 := ⟨core, line, d.bits.data⟩ :: s1.caches.l1 } }
  else s1

/-- A write by a wave of a core updates the core's L1 copy; it allocates none (R103). -/
def State.refreshL1 (s : State) (core line code : Nat) : State :=
  if s.caches.l1.any fun c => c.core == core && c.line == line then s.fillL1 core line code else s

/-- Is a read of a target by an agent on a die served by that die's slice: its page is replicated and its line's home is on another die (R335)? -/
def State.copied (s : State) (die : Nat) (t : Target) : Bool := t.repl && s.berthOf t.at_ / 64 != die

/-- Does the slice of a die that serves a read of a target hold its copy of the line (R335)? -/
def State.hasCopy (s : State) (die : Nat) (t : Target) : Bool :=
  s.copied die t && s.caches.replicas.any fun r => r.die == die && r.line == t.at_ / 64

/-- The state as a read of a target from a die sees it: of the lines that the die's slices hold copies of, the copies stand, where they serve it (R335). Only
its memory is ever read. -/
def State.viewFrom (s : State) (die : Nat) (t : Target) : State :=
  if s.copied die t then
    { s with store := (s.caches.replicas.filter (·.die == die)).foldl (fun st r => st.put1 r.line ⟨r.data, r.side⟩) s.store }
  else s

/-- On a miss the slice that serves a read fills its copy from the home, as stored there (R335). -/
def State.noteReplica (s : State) (die : Nat) (t : Target) : State :=
  if s.copied die t && !s.hasCopy die t then
    let l := s.store.bits1 (t.at_ / 64)
    { s with caches := { s.caches with replicas := ⟨die, t.at_ / 64, l.data, l.side⟩ :: s.caches.replicas } }
  else s

/-- Does an access to a target from a die need a link that has failed (R354): to the home of a line, or of a status line, that no copy on the die serves? -/
def State.cutOff (s : State) (die size : Nat) (t : Target) : Bool :=
  !s.hasCopy die t && (t.devLines size).any fun l =>
    s.partOfDie (s.sliceOf l / 64) == s.partOfDie die && s.linkDown die (s.sliceOf l / 64)

/-! ## Reading one lane -/

/-- What a read of one field gives: the value, its flags, and the severity of its fault. -/
structure ReadRes where
  val : Nat
  flags : Flags
  fault : Option Nat
  deriving DecidableEq, Repr

/-- The fields of a wide view from a target on, `n` remaining. -/
def State.wideFields (s : State) (many : Bool) (t : Target) (table : List (BitVec 16)) : Nat → Nat → ReadRes × List ErrNote
  | 0, _ => (⟨0, 0, none⟩, [])
  | n + 1, i =>
    let r := s.readWide many t.at_ t.code t.pol (t.wofs + 2 * i) table
    let q := State.wideFields s many t table n (i + 1)
    (⟨r.1 + q.1.val * 2 ^ 16, r.2.1 ||| q.1.flags,
      match r.2.2.1, q.1.fault with
      | none, f => f
      | f, none => f
      | some a, some b => some (max a b)⟩, r.2.2.2 ++ q.2)

/-- The status line's field (R66, R67): a berth outside the partition reads as zero. -/
def State.readStatus (s : State) (part at_ size : Nat) : Nat :=
  let b := at_ / 64
  if b / (64 * s.dies) = part then ofBytes (Cells.range (s.berth b).status (at_ % 64) size) else 0

/-- The failing P groups that affect what a target of some size delivers (R350). -/
def State.groupsOf (s : State) (size : Nat) (t : Target) : List (Nat × Nat) :=
  match t.space with
  | .dev => s.fieldGroups t.at_ size t.code
  | .wide => (List.range (size / 2)).flatMap fun i =>
      match wideElem t.code (t.wofs + 2 * i) with
      | none => []
      | some (k, j) => s.blockGroups (blockAt t.code t.at_ k) t.code j 1
  | _ => []

/-- The parts of the elements that a target of some size delivers (R350). -/
def State.spansOf (s : State) (size : Nat) (t : Target) : List Span :=
  match t.space with
  | .dev => s.fieldSpans t.at_ size t.code
  | .wide => (List.range (size / 2)).flatMap fun i =>
      match wideElem t.code (t.wofs + 2 * i) with
      | none => []
      | some (k, j) => blockSpans (blockAt t.code t.at_ k) t.code j 1
  | _ => []

/-- Records the failing fields of what is read from a die of some targets with their sizes, at their homes or in the copies that serve them, that affect none of the
elements there (R335, R350). -/
def State.recordFrom (s : State) (die : Nat) (ts : List (Target × Nat)) (spans : State → Target × Nat → List Span) : State :=
  let near := ts.filter fun p => !s.cutOff die p.2 p.1
  let home := s.recordIdle ((near.filter fun p => !s.copied die p.1).flatMap (spans s))
  match near.filter fun p => s.copied die p.1 with
  | [] => home
  | p :: r =>
    let v := s.viewFrom die p.1
    { home with out := ({ v with out := home.out }.recordIdle ((p :: r).flatMap (spans v))).out }

/-- Records the failing fields that affect nothing that an access of several targets delivers (R350). -/
def State.recordUnread (s : State) (unit size : Nat) (ts : List Target) : State :=
  s.recordFrom (s.dieOf unit) (ts.map fun t => (t, size)) fun v p => v.spansOf p.2 p.1

/-- The failing P groups that affect what a target of some size delivers to an agent on a die (R335, R350, R354). -/
def State.groupsFrom (s : State) (die size : Nat) (t : Target) : List (Nat × Nat) :=
  if s.cutOff die size t then [] else (s.viewFrom die t).groupsOf size t

/-- Do two or more failing P groups affect what an access of several targets delivers (R350)? -/
def State.manyOver (s : State) (unit size : Nat) (ts : List Target) : Bool := manyGroups (ts.flatMap (s.groupsFrom (s.dieOf unit) size))

/-- Reads one field at its home or from the copy that serves it (R335), in scratch or in host memory, never from L1; uncorrectable scratch is of severity 5
(R118), and so is a place that only a failed link reaches (R354). `nan` and `many` as for `readFieldAs`. -/
def State.readAt (s : State) (unit crew : Nat) (nan many : Bool) (t : Target) (size : Nat) : State × ReadRes :=
  if s.cutOff (s.dieOf unit) size t then (s, ⟨0, 0, some 5⟩) else
  match t.space with
  | .dev =>
    let r := (s.viewFrom (s.dieOf unit) t).readFieldAs nan many t.at_ size t.code t.pol
    ((s.recordAll t.at_ r.2.2).noteReplica (s.dieOf unit) t, ⟨r.1, 0, r.2.1⟩)
  | .wide =>
    let r := s.wideFields many t (freeTable s.fresh) (size / 2) 0
    let s := if t.code = 10 then { s with fresh := s.fresh + 1 } else s
    (s.recordAll t.at_ r.2, r.1)
  | .host => (s, ⟨ofBytes (Cells.range s.out.hostMem t.at_ size), 0, none⟩)
  | .status => (s, ⟨s.readStatus (s.partOf unit) t.at_ size, 0, none⟩)
  | .scr => (s, ⟨((s.crew? crew).map fun c => c.read t.at_ size).getD 0, 0,
      if (s.crew? crew).any fun c => c.fails t.at_ size then some 5 else none⟩)

/-- The copy in a far core's L1 that answers a plain load of a target (R103): none of a line held near, whose accesses reach memory (R132). -/
def State.l1Copy (s : State) (unit : Nat) (plain : Bool) (t : Target) : Option L1Line :=
  if plain && decide (unit < 256) && t.space == .dev && !s.caches.near.any (·.1 == t.at_ / 64) then
    s.caches.l1.find? fun c => c.core == unit && c.line == t.at_ / 64
  else none

/-- Why an access of several targets faults where it reads them, where it does (R350, R354): the highest severity of a target that makes it fault, and the
address of the first such target (DESIGN CHOICE, log entry 75). -/
def State.judge (s : State) (unit crew : Nat) (nan many : Bool) (size : Nat) (ts : List Target) : Option (Nat × Nat) :=
  let bad := ts.filterMap fun t => (s.readAt unit crew nan many t size).2.fault.map fun sev => (sev, t.va)
  match bad with
  | [] => none
  | (_, va) :: _ => some ((bad.map (·.1)).foldl max 0, va)

/-- A far core's L1 keeps no copy of the lines of a target that a wave has read at their homes (R103, R128). -/
def State.dropCopies (s : State) (unit size : Nat) (t : Target) : State :=
  if unit < 256 then (t.devLines size).foldl (fun s l => s.dropL1 unit l) s else s

/-- A far core's L1 takes the line of a target as its reads see it (R103, R335). -/
def State.fillFrom (s : State) (core : Nat) (t : Target) : State :=
  { s with caches := ((s.viewFrom (s.dieOf core) t).fillL1 core (t.at_ / 64) t.code).caches }

/-- A plain load of one field: a far core's L1 copy answers, and a miss fills L1; every other read is made at the home and leaves no copy behind
(R103). -/
def State.readLane (s : State) (unit crew : Nat) (plain many : Bool) (t : Target) (size : Nat) : State × ReadRes :=
  match s.l1Copy unit plain t with
  | some c => (s, ⟨bits c.data (8 * (t.at_ % 64)) (8 * size), 0, none⟩)
  | none =>
    let r := s.readAt unit crew true many t size
    (if plain && decide (unit < 256) && t.space == .dev then r.1.fillFrom unit t else r.1.dropCopies unit size t, r.2)

/-- A read of one field at its home that is a whole access (R271): what it does not deliver is recorded with it, and it leaves no older copy in the core's L1
(R103, R128). -/
def State.readWhole (s : State) (unit crew : Nat) (t : Target) (size : Nat) : State × ReadRes :=
  let r := (s.recordUnread unit size [t]).readAt unit crew true (s.manyOver unit size [t]) t size
  (r.1.dropCopies unit size t, r.2)

/-! ## The signature of a task (R320, R321) -/

/-- One bit of CRC-64/ECMA-182 from the top. -/
def crcBits : Nat → Nat → Nat
  | 0, c => c
  | n + 1, c => crcBits n (if bitAt c 63 then (2 * c % 2 ^ 64) ^^^ 0x42F0E1EBA9EA3693 else 2 * c)

/-- CRC-64/ECMA-182 of a message (R321). -/
def crc64 (l : List Byte) : Nat := l.foldl (fun c b => crcBits 8 (c ^^^ b.toNat * 2 ^ 56)) 0

/-- Does a crew compute a signature: a shadow copy, or a primary that has one (R320)? -/
def State.hashes (s : State) (c : Crew) : Bool :=
  c.shadow || (s.berth c.berth).recs.any fun r => TaskRec.of c r && r.hasShadow

/-- Adds one event's CRC to a crew's signature (R321). -/
def State.hash (s : State) (crew : Nat) (message : List Byte) : State :=
  match s.crew? crew with
  | none => s
  | some c => if s.hashes c then s.modCrew crew fun x => { x with sig := x.sig + BitVec.ofNat 64 (crc64 message) } else s

/-- Is a wave's crew a shadow copy? -/
def State.isShadow (s : State) (crew : Nat) : Bool := ((s.crew? crew).map (·.shadow)).getD false

/-! ## Writing one lane -/

/-- Writes bytes of a crew's scratch and dooms or wakes who registered their granules (R152). -/
def State.writeScratch (s : State) (writer crew ofs size x : Nat) : State :=
  match s.crew? crew with
  | none => s
  | some c => (s.modCrew crew fun k => k.write ofs size x).touchGranules writer c.unit crew (granules ofs size)

/-- Performs the writes of a wave, line by line; its own core's L1 copy of each is updated (R97, R103). -/
def State.writeLines (s : State) (g : Nat) (l : List LineWrite) : State :=
  let u := unitOf g
  let s := s.homeWrites g l
  if u < 256 then l.foldl (fun s w => s.refreshL1 u w.line w.code) s else s

/-- The write of one field of device memory. -/
def Target.lineWrite (t : Target) (size x : Nat) : LineWrite :=
  ⟨t.at_ / 64, byteMask (t.at_ % 64) size, (x % 2 ^ (8 * size)) <<< (8 * (t.at_ % 64)), t.code⟩

/-- The line writes that one field of a store makes, with the flags of a wide-view store (R97, R109). -/
def State.fieldWrites (s : State) (t : Target) (size x : Nat) : List LineWrite × Flags :=
  match t.space with
  | .dev => ([t.lineWrite size x], 0)
  | .wide => s.wideWrites t.at_ t.code t.wofs (freeTable s.fresh) (size / 2) x
  | _ => ([], 0)

/-- A wide-view store of a CB4 page has used the free entries (log entry 23). -/
def State.useFree (s : State) (t : Target) : State :=
  if t.space = .wide ∧ t.code = 10 then { s with fresh := s.fresh + 1 } else s

/-- Writes bytes of host memory. -/
def State.putHost (s : State) (at_ size x : Nat) : State :=
  s.modOut fun o => { o with hostMem := Cells.setRange o.hostMem at_ (toBytes size x) }

/-- Performs the write of one field by an agent that is no wave, with the flags of a wide-view store. -/
def State.writeAt (s : State) (writer : Nat) (t : Target) (size x : Nat) : State × Flags :=
  let w := s.fieldWrites t size x
  (if t.space = .host then s.putHost t.at_ size x else (s.useFree t).homeWrites writer w.1, w.2)

/-- One lane of a store: hashed where the task has a signature (R320), the flags of a wide view taken, and performed where its place is no line of device
memory; the line writes it still makes stand beside it. A shadow copy writes scratch only. -/
def State.storeField (s : State) (g crew size : Nat) (t : Target) (x : Nat) : State × List LineWrite × Flags :=
  let w := s.fieldWrites t size x
  let s := (if t.space = .scr then s else s.hash crew (toBytes 8 t.va ++ toBytes size x)).useFree t
  match t.space with
  | .scr => (s.writeScratch g crew t.at_ size x, [], 0)
  | .host =>
    (if s.isShadow crew then s else s.putHost t.at_ size x, [], 0)
  | _ => (s, w.1, w.2)

/-- The lanes of a store in ascending order. -/
def State.storeFields (s : State) (g crew size : Nat) : List (Target × Nat) → State × List LineWrite × Flags
  | [] => (s, [], 0)
  | (t, x) :: r =>
    let a := s.storeField g crew size t x
    let b := State.storeFields a.1 g crew size r
    (b.1, a.2.1 ++ b.2.1, a.2.2 ||| b.2.2)

/-- Performs lanes of a store in order: those in device memory, by either mapping, as one write of each line they reach, in which the highest lane
stands (R97, R109, R234, R351). A shadow copy performs none of them at a home (R320). A host copy of a line stays until it is invalidated (R135). -/
def State.storeLanes (s : State) (g crew size : Nat) (ls : List (Target × Nat)) : State × Flags :=
  let r := s.storeFields g crew size ls
  (if s.isShadow crew then r.1 else r.1.writeLines g r.2.1, r.2.2)

/-! ## Atomics (R240 to R242) -/

/-- The type of an atomic as an integer type. -/
def atIntTy (t : AtTy) : Ty :=
  match t with
  | .i32 => .i32
  | .i64 => .i64
  | .n64 => .n64
  | .b64 => .b64
  | _ => .n32

/-- Bytes of an atomic's field. -/
def atBytes (t : AtTy) : Nat := if t.wide then 8 else 4

/-- The new value of an atomic, with its flags (R240, R241). -/
def atomNew (op : AtomOp) (t : AtTy) (old a b : Nat) : Nat × Flags :=
  let m := 2 ^ (8 * atBytes t)
  match op with
  | .add => if t = .f32 then fmtF32.fadd .rne 0 old a else ((old + a) % m, 0)
  | .min => if t = .f32 then (fmtF32.minMax false old a, 0) else (minMaxInt false (atIntTy t) old a, 0)
  | .max => if t = .f32 then (fmtF32.minMax true old a, 0) else (minMaxInt true (atIntTy t) old a, 0)
  | .and => (old &&& a, 0)
  | .or => (old ||| a, 0)
  | .xor => (old ^^^ a, 0)
  | .xchg => (a % m, 0)
  | .cas => (if old = a then b % m else old, 0)

/-- May the operation act on host memory (R242)? -/
def atomHostOk (op : AtomOp) (t : AtTy) : Bool :=
  match op with
  | .add => t != .f32
  | .xchg => true
  | .cas => true
  | _ => false

/-- The register write of an atomic's old value (R241). -/
def atomWrites (t : AtTy) (d : Opnd) (lane old : Nat) : List RegWrite :=
  match d with
  | .v n => [.v n.toNat lane (BitVec.ofNat 32 old)]
  | .s n => [.s n.toNat (if t = .i32 then (BitVec.ofNat 32 old).signExtend 64 else BitVec.ofNat 64 old)]
  | _ => []

/-- The register writes of a load (R236). -/
def loadWrites (t : LdTy) (d : Opnd) (lane x : Nat) : List RegWrite :=
  let sgn (w : Nat) : Word := (BitVec.ofNat w x).signExtend 64
  match d with
  | .v n =>
    match t with
    | .b64 => (List.range 2).map fun i => .v (n.toNat + i) lane (BitVec.ofNat 32 (x >>> (32 * i)))
    | .b128 => (List.range 4).map fun i => .v (n.toNat + i) lane (BitVec.ofNat 32 (x >>> (32 * i)))
    | .i8 => [.v n.toNat lane ((sgn 8).setWidth 32)]
    | .i16 => [.v n.toNat lane ((sgn 16).setWidth 32)]
    | _ => [.v n.toNat lane (BitVec.ofNat 32 x)]
  | .s n =>
    match t with
    | .i8 => [.s n.toNat (sgn 8)]
    | .i16 => [.s n.toNat (sgn 16)]
    | .i32 => [.s n.toNat (sgn 32)]
    | _ => [.s n.toNat (BitVec.ofNat 64 x)]
  | _ => []

/-- Bytes of a load or store type (R236). -/
def ldBytes : LdTy → Nat
  | .b8 => 1
  | .i8 => 1
  | .e4m3 => 1
  | .e5m2 => 1
  | .b16 => 2
  | .i16 => 2
  | .bf16 => 2
  | .f16 => 2
  | .b64 => 8
  | .b128 => 16
  | _ => 4

/-- May the type pass a wide view (R109)? -/
def ldWide : LdTy → Bool
  | .bf16 => true
  | .b16 => true
  | .b32 => true
  | .b64 => true
  | .b128 => true
  | _ => false

/-- The data of a store for a lane (R232, R237): the words of a vector group from D upward, or the scalar, special value, constant or predicate. -/
def State.storeData (s : State) (words : Nat) (d : Opnd) (lane : Nat) : Nat :=
  match d with
  | .v n => lanesToNat ((List.range words).map fun i => s.me.vreg (n.toNat + i) lane)
  | d => (s.opnd d lane).toNat

end Sys2Proof.Machine
end

