-- ==== Sys2Proof/Machine/TxAccess.lean ====
section
/-! DEFINITION. Accesses inside a transaction: registration before the value is returned, reads through the wave's own buffered writes, and
buffering of writes up to 64 lines (R141, R150, R152). -/

namespace Sys2Proof.Machine

/-- Applies the buffered full-bit changes of a line. -/
def Crew.setFulls (c : Crew) : List (Nat × Bool) → Crew
  | [] => c
  | (g, b) :: r => Crew.setFulls (c.setFull g b) r

/-- Applies a buffered scratch write to a crew's scratch: bits under the mask, and full bits. A word that fails its check is good again once all of it is
written. -/
def Crew.applyTx (c : Crew) (w : TxWrite) : Crew :=
  let old := c.read (64 * w.line) 64
  let whole (k : Nat) : Bool := k / 8 == w.line && bits w.mask (64 * (k % 8)) 64 == 2 ^ 64 - 1
  { c.write (64 * w.line) 64 ((old ||| w.mask) ^^^ w.mask ||| w.value) with bad := c.bad.filter (!whole ·) }.setFulls w.full

/-- Performs buffered writes: those of scratch lines in the crew's scratch, those of global lines as one write of each line at its home. -/
def State.applyTx (s : State) (writer crew : Nat) (b : List TxWrite) : State :=
  ((b.filter (·.scratch)).foldl (fun s w => s.modCrew crew fun c => c.applyTx w) s).writeLines writer
    ((b.filter (!·.scratch)).map fun w => ⟨w.line, w.mask, w.value, w.code⟩)

/-- The state as the executing wave's reads see it: its own buffered writes stand (R141). Only its memories are ever read. -/
def State.overlay (s : State) : State := s.applyTx s.me.gwn s.me.crew s.me.tx.buf

/-- The distinct lines of a write buffer (R137, R141). -/
def bufLines (b : List TxWrite) : List (Bool × Nat) := (b.map fun w => (w.scratch, w.line)).eraseDups

/-- Adds a write to the buffer; none when it would add a 65th line (R141). -/
def State.bufferWrite (s : State) (w : TxWrite) : Option State :=
  let b := s.me.tx.buf ++ [w]
  if 64 < (bufLines b).length then none else some (s.mapMe fun x => { x with tx := { x.tx with buf := b } })

/-- Buffers several writes. -/
def State.bufferAll (s : State) : List TxWrite → Option State
  | [] => some s
  | w :: r => (s.bufferWrite w).bind fun s => State.bufferAll s r

/-- Registers several lines; none when a coarse list is full (R150). -/
def State.registerLines (s : State) : List Nat → Option State
  | [] => some s
  | l :: r => (s.registerLine l).bind fun s => State.registerLines s r

/-- Registers several granules (R152). -/
def State.registerGranules (s : State) : List Nat → State
  | [] => s
  | g :: r => State.registerGranules (s.registerGranule g) r

/-- Registers what a read of a target reaches: its lines, or its granules (R141, R152). -/
def State.registerTarget (s : State) (t : Target) (size : Nat) : Option State :=
  if t.space = .scr then some (s.registerGranules (granules t.at_ size)) else s.registerLines (t.devLines size)

/-- One transactional read: registered, then read at the home through the wave's own writes; none when registration fails. -/
def State.txRead (s : State) (nan many : Bool) (t : Target) (size : Nat) : Option (State × ReadRes) :=
  (s.registerTarget t size).map fun s =>
    let r := s.overlay.readAt (unitOf s.me.gwn) s.me.crew nan many t size
    ({ s with out := r.1.out, fresh := r.1.fresh }.dropCopies (unitOf s.me.gwn) size t, r.2)

/-- Records what a transactional access of several targets meets of failing fields that it does not deliver (R350). -/
def State.txUnread (s : State) (size : Nat) (ts : List Target) : State := { s with out := (s.overlay.recordUnread (unitOf s.me.gwn) size ts).out }

/-- The buffered writes of one field, with the flags of a wide view: a wide-view field is rounded into the scale that the wave sees and buffered as the
bits of its element. -/
def State.txWrites (s : State) (t : Target) (size x : Nat) : List TxWrite × Flags :=
  if t.space = .scr then
    ([⟨true, t.at_ / 64, byteMask (t.at_ % 64) size, (x % 2 ^ (8 * size)) <<< (8 * (t.at_ % 64)), 0, 0, 0, []⟩], 0)
  else
    let w := (if t.space = .wide then s.overlay else s).fieldWrites t size x
    (w.1.map fun l => ⟨false, l.line, l.mask, l.value, l.code, t.va / 64 * 64, t.level, []⟩, w.2)

/-- One transactional write: a wide view first registers the lines that hold its scale. The result is the state and the flags, or the status
of the abort. -/
def State.txWrite (s : State) (t : Target) (size x : Nat) : Except Nat (State × Flags) :=
  match (if t.space = .wide then s.registerLines (t.devLines size) else some s) with
  | none => .error 3
  | some s =>
    let ws := s.txWrites t size x
    match s.bufferAll ws.1 with
    | none => .error 2
    | some s => .ok (s.useFree t, ws.2)

/-- A transactional load of several lanes: the register writes and flags, or the state after the abort or fault that ends it. -/
def State.txLoad (s : State) (many : Bool) (t : LdTy) (d : Opnd) : List (Nat × Target) → List RegWrite → Flags → Except State (State × List RegWrite × Flags)
  | [], ws, fl => .ok (s, ws, fl)
  | (l, a) :: r, ws, fl =>
    match s.txRead true many a (ldBytes t) with
    | none => .error (s.abortTx 3 0 0)
    | some (s, v) =>
      match v.fault with
      | some sev => .error (s.raise (ueCause sev) sev (BitVec.ofNat 64 a.va))
      | none => State.txLoad s many t d r (ws ++ loadWrites t d l v.val) (fl ||| v.flags)

/-- A transactional store of several lanes, each with its data. -/
def State.txStore (s : State) (size : Nat) : List (Target × Nat) → Flags → Except State (State × Flags)
  | [], fl => .ok (s, fl)
  | (a, x) :: r, fl =>
    match s.txWrite a size x with
    | .error status => .error (s.abortTx status 0 0)
    | .ok (s, f) => State.txStore s size r (fl ||| f)

/-- A transactional atomic of several lanes, each with its operands: read and registered at the home, the write buffered (R241). -/
def State.txAtomic (s : State) (many : Bool) (op : AtomOp) (t : AtTy) (d : Opnd) :
    List (Nat × Target × Nat × Nat) → List RegWrite → Flags → Except State (State × List RegWrite × Flags)
  | [], ws, fl => .ok (s, ws, fl)
  | (l, a, x, y) :: r, ws, fl =>
    match s.txRead false many a (atBytes t) with
    | none => .error (s.abortTx 3 0 0)
    | some (s, v) =>
      match v.fault with
      | some sev => .error (s.raise (ueCause sev) sev (BitVec.ofNat 64 a.va))
      | none =>
        let n := atomNew op t v.val x y
        match s.txWrite a (atBytes t) n.1 with
        | .error status => .error (s.abortTx status 0 0)
        | .ok (s, _) => State.txAtomic s many op t d r (ws ++ atomWrites t d l v.val) (fl ||| n.2)

/-- Continues a transactional access, or ends with its abort. -/
def txThen (r : Except State α) (f : α → State) : State :=
  match r with
  | .error s => s
  | .ok x => f x

end Sys2Proof.Machine
end

