-- ==== Sys2Proof/Machine/LoadStore.lean ====
section
/-! DEFINITION. Loads, stores and the prefetch (R232 to R239). Outside a transaction an access is in flight until it completes; inside one it acts
when it issues (R141). -/

namespace Sys2Proof.Machine

/-! ## The order within a wave and a core (R119 to R127) -/

/-- The places an instruction in flight reaches, as lines of a space (R122); a `discard` of one line of an E4M3 block writes the other's scale (R115). -/
def Pending.keys : Pending → List (Nat × Nat)
  | .load _ t ls _ _ _ _ => ls.flatMap fun p => p.2.keys (ldBytes t)
  | .store n ls _ => ls.flatMap fun p => p.2.1.keys n
  | .atomic _ t _ ls _ _ _ _ _ => ls.flatMap fun p => p.2.1.keys (atBytes t)
  | .setFull ofs len _ => (granules ofs len).map fun g => (3, g / 4)
  | .discard ls => ls.flatMap fun t => t.keys 1 ++ if t.code = 6 then [(0, t.at_ / 64 ^^^ 1)] else []
  | .launch _ ls => ls.flatMap fun t => t.keys 1
  | .ctld _ _ _ src _ => src.keys 32
  | .chartld _ src => src.keys 1
  | _ => []

/-- Does the operation wait for everything earlier: the columns of Rel and ARA (R124 to R127)? -/
def OrdClass.releases : OrdClass → Bool
  | .rel | .ara | .arl | .relc | .arac | .arlc => true
  | _ => false

/-- Does it release at core scope alone (R120)? -/
def OrdClass.coreOnly : OrdClass → Bool
  | .relc | .arac | .arlc => true
  | _ => false

/-- The granules whose bits a bit operation changes. -/
def Pending.granules : Pending → List Nat
  | .setFull ofs len _ => Machine.granules ofs len
  | _ => []

/-- Is the operation an access to an accumulator bank? -/
def Pending.isAcc : Pending → Bool
  | .accrd .. => true
  | .accwr .. => true
  | _ => false

/-- Is it a store to global memory alone, which can be performed at core scope before it is at its home (R121)? -/
def Pending.globalStore : Pending → Bool
  | .store _ ls _ => ls.all fun p => p.2.1.space != .scr
  | .discard _ => true
  | _ => false

/-- The table and issue time of a `ctld`. -/
def Pending.tableOf : Pending → Option (Nat × Nat)
  | .ctld n _ _ _ t => some (n, t)
  | _ => none

/-- Must an access of a unit's wave to some lines wait for a store of another of its waves that is performed at core scope and not yet at its home: it may
not find the older value (R120, R121)? -/
def State.coreWaits (s : State) (g : Nat) (keys : List (Nat × Nat)) : Bool :=
  s.waves.any fun x => x.gwn != g && unitOf x.gwn == unitOf g && x.flights.any fun y => y.core && y.body.keys.any keys.contains

/-- What holds an instruction in flight back besides a release's wait for earlier ones: an earlier acquire or an earlier access of the same line (R122,
R124), a store performed at core scope, for a bit operation a reservation (R245, R261), for an accumulator access earlier matrix commands (R265), for a
`ctld` an earlier one of its table (R271). -/
def State.heldBack (s : State) (w : Wave) (f : Flight) : Bool :=
  let earlier := w.flights.filter fun x => decide (x.id < f.id) && !x.onlyRegs
  let keys := f.body.keys
  let u := unitOf w.gwn
  earlier.any (fun x => x.cls.blocksAll || x.body.keys.any keys.contains || (f.body.isAcc && x.body.isAcc))
    || s.coreWaits w.gwn keys
    || f.body.granules.any (fun g => s.reserved u w.crew g)
    || (f.body.isAcc && (s.core u).mat.any fun m => m.gwn == w.gwn && decide (m.id < f.id))
    || (match f.body.tableOf with
      | none => false
      | some (n, t) => s.waves.any fun x => unitOf x.gwn == u && x.flights.any fun y =>
          match y.body.tableOf with
          | none => false
          | some (n', t') => n' == n && decide (t' < t))

/-- Is an instruction in flight performed at core scope already, or may it be at once, so that a core release need not wait for its home (R120, R121)? An
earlier release is a store there as any other; what stands before it is asked about by itself. -/
def State.coreReady (s : State) (w : Wave) (f : Flight) : Bool := f.core || (f.body.globalStore && !s.coreWaits w.gwn f.body.keys)

/-- Has every earlier instruction in flight been performed at the scope of a release (R124 to R127)? -/
def State.released (s : State) (w : Wave) (cls : OrdClass) (id : Nat) : Bool :=
  (w.flights.filter fun x => decide (x.id < id) && !x.onlyRegs).all fun x => cls.coreOnly && s.coreReady w x

/-- May an instruction in flight not be performed yet (R122 to R127, R130)? A release waits for every earlier operation and engine command, and one of more than
core scope for what an earlier acquire has seen. -/
def State.blocked (s : State) (w : Wave) (f : Flight) : Bool :=
  s.heldBack w f || (f.cls.releases &&
    (!s.released w f.cls f.id || (s.commandsOf w.gwn).any (· < f.id) || (!f.cls.coreOnly && s.owes w f.id)))

/-- The stores of a wave before an operation number are performed at core scope (R121): until they reach their homes, no agent of the core accesses their
lines. -/
def Wave.markCore (id : Nat) (w : Wave) : Wave :=
  { w with flights := mapWhere (fun x => decide (x.id < id) && !x.onlyRegs) (fun x => { x with core := true }) w.flights }

/-- Must an access that acts at once wait for an earlier one of the wave, of the same line or an acquire (R122, R124), or for a store performed at core
scope? -/
def State.busyWith (s : State) (keys : List (Nat × Nat)) : Bool :=
  (s.me.flights.any fun f => !f.onlyRegs && (f.cls.blocksAll || f.body.keys.any keys.contains)) || s.coreWaits s.me.gwn keys

/-- A fence at system scope leaves no stale copy at the host (R134, R135). -/
def State.fenceHost (s : State) : State := s.modOut fun o => { o with hostLines := [] }

/-- Is the order of a load an acquire? -/
def MemOrd.isAcq : MemOrd → Bool
  | .acq _ => true
  | .full _ => true
  | _ => false

/-- Does an order carry core scope (R120)? -/
def MemOrd.isCore : MemOrd → Bool
  | .acq .core => true
  | .rel .core => true
  | .full .core => true
  | _ => false

/-- Does an order carry system scope (R120)? -/
def MemOrd.isSys : MemOrd → Bool
  | .acq .sys => true
  | .rel .sys => true
  | .full .sys => true
  | _ => false

/-- The target of a transactional read, which goes to the home whatever copies there are (R335). -/
def Target.atHome (t : Target) : Target := { t with repl := false }

/-- A load whose addresses have been checked; a transactional one waits for earlier stores to its lines (R122, R141). -/
def State.loadTargets (s : State) (i : Instr) (c : Ctl) (t : LdTy) (acq : Bool) (d : Opnd) (ts : List (Nat × Target)) : State :=
  if s.me.tx.depth = 0 then s.launchFlight c (if acq then .acq else .ld) (.load d t ts acq (ts.map (·.2)) [] 0)
  else if s.busyWith (ts.flatMap fun p => p.2.keys (ldBytes t)) then s.stall i
  else
    let hs := ts.map fun p => (p.1, p.2.atHome)
    let u := unitOf s.me.gwn
    let many := s.overlay.manyOver u (ldBytes t) (hs.map (·.2))
    match s.overlay.judge u s.me.crew true many (ldBytes t) (hs.map (·.2)) with
    | some (sev, va) => (s.txUnread (ldBytes t) (hs.map (·.2))).raise (ueCause sev) sev (BitVec.ofNat 64 va)
    | none => txThen ((s.txUnread (ldBytes t) (hs.map (·.2))).txLoad many t d hs [] 0) fun r => r.1.launchFlight c .ld (.regs r.2.1 r.2.2)

/-- The class of a store for ordering (R119, R120). -/
def storeClass (o : MemOrd) : OrdClass := if o = .plain then .st else if MemOrd.isCore o then .relc else .rel

/-- A store whose addresses have been checked; its data are read now (R17). A transactional one through a wide view reads the scale at its home, which a failed
link may cut off (R141, R354). -/
def State.storeTargets (s : State) (i : Instr) (c : Ctl) (t : LdTy) (o : MemOrd) (d : Opnd) (ts : List (Nat × Target)) : State :=
  let data (l : Nat) : Nat := s.storeData (ldWords t) d l % 2 ^ (8 * ldBytes t)
  if s.me.tx.depth = 0 then
    s.launchFlight c (storeClass o) (.store (ldBytes t) (ts.map fun p => (p.1, p.2, data p.1)) (MemOrd.isSys o))
  else if s.busyWith (ts.flatMap fun p => p.2.keys (ldBytes t)) then s.stall i
  else
    match ts.find? fun p => p.2.space == .wide && s.cutOff (s.dieOf (unitOf s.me.gwn)) (ldBytes t) p.2 with
    | some p => s.raise 0x15 5 (BitVec.ofNat 64 p.2.va)
    | none => txThen (s.txStore (ldBytes t) (ts.map fun p => (p.2, data p.1)) 0) fun r => r.1.launchFlight c .st (.regs [] r.2)

/-- `ld.g` (R232, R235, R236). -/
def execLdG (c : Ctl) (t : LdTy) (o : MemOrd) (d : Opnd) (m : MemArg) (s : State) : Result :=
  s.perform (.ldG c t o d m) fun s =>
    State.withChecked (s.checkGlobal ⟨.r, ldBytes t, ldWide t, true, true⟩ (s.accLanes c d.isV m (ldBytes t))) fun s ts =>
      s.loadTargets (.ldG c t o d m) c t (MemOrd.isAcq o) d ts

/-- `st.g` (R232, R235, R237). -/
def execStG (c : Ctl) (t : LdTy) (o : MemOrd) (d : Opnd) (m : MemArg) (s : State) : Result :=
  s.perform (.stG c t o d m) fun s =>
    State.withChecked (s.checkGlobal ⟨.w, ldBytes t, ldWide t, true, false⟩ (s.accLanes c d.isV m (ldBytes t))) fun s ts =>
      s.storeTargets (.stG c t o d m) c t o d ts

/-- `ld.s` (R15, R235, R236). -/
def execLdS (c : Ctl) (t : LdTy) (o : MemOrd) (d : Opnd) (m : MemArg) (s : State) : Result :=
  s.perform (.ldS c t o d m) fun s =>
    State.withChecked (s, s.checkScratch (ldBytes t) (s.accLanes c d.isV m (ldBytes t))) fun s ts =>
      s.loadTargets (.ldS c t o d m) c t (MemOrd.isAcq o) d ts

/-- `st.s` (R15, R235, R237). -/
def execStS (c : Ctl) (t : LdTy) (o : MemOrd) (d : Opnd) (m : MemArg) (s : State) : Result :=
  s.perform (.stS c t o d m) fun s =>
    State.withChecked (s, s.checkScratch (ldBytes t) (s.accLanes c d.isV m (ldBytes t))) fun s ts =>
      s.storeTargets (.stS c t o d m) c t o d ts

/-- The prefetch of one address: a lane that would fail R233 is ignored, and a far core's L1 takes the line (R239). -/
def State.prefetch (s : State) (va : Nat) : State :=
  let u := unitOf s.me.gwn
  if s.globalBound ≤ va then s else
  let r := s.laneRes u ⟨.r, 1, false, false, false⟩ va
  match r.2 with
  | .ok t =>
    if u < 256 ∧ t.space = .dev ∧ (r.1.caches.l1.any fun c => c.core == u && c.line == t.at_ / 64) = false
        ∧ r.1.cutOff (r.1.dieOf u) 1 t = false then
      (r.1.noteReplica (r.1.dieOf u) t).fillFrom u t
    else r.1
  | _ => r.1

/-- `pf.g`, a hint (R239): inside a transaction it has no effect. -/
def execPfG (c : Ctl) (m : MemArg) (s : State) : Result :=
  s.perform (.pfG c m) fun s =>
    let s1 := if s.me.tx.depth = 0 then (s.accLanes c false m 1).foldl (fun s p => s.prefetch p.2) s else s
    s1.finish id

end Sys2Proof.Machine
end

