-- ==== Sys2Proof/Machine/Atomic.lean ====
section
/-! DEFINITION. Atomics and fences (R240 to R243). -/

namespace Sys2Proof.Machine

/-- The class of an atomic for ordering (R119, R120, R241). -/
def atomClass : MemOrd → OrdClass
  | .plain => .ra
  | .acq _ => .acq
  | .rel .core => .arlc
  | .rel _ => .arl
  | .full .core => .arac
  | .full _ => .ara

/-- The operand of an atomic for a lane; `i` is 1 for the second register of a `cas` pair (R240). -/
def State.atomOpnd (s : State) (t : AtTy) (d : Opnd) (lane i : Nat) : Nat :=
  match d with
  | .v n => (s.me.vreg (n.toNat + i) lane).toNat
  | .s n => (s.me.sreg (n.toNat + i)).toNat % 2 ^ (8 * atBytes t)
  | _ => 0

/-- An atomic (R240 to R242): in flight outside a transaction, at once inside one, once the wave's earlier stores to its lines are performed. -/
def State.atom (s : State) (i : Instr) (op : AtomOp) (c : Ctl) (scr : Bool) (t : AtTy) (o : MemOrd) (d : Opnd) (m : MemArg) : State :=
  let n := atBytes t
  let as := s.accLanes c d.isV m n
  State.withChecked (if scr then (s, s.checkScratch n as) else s.checkGlobal ⟨.w, n, false, atomHostOk op t, false⟩ as) fun s ts =>
    let ls := ts.map fun p => (p.1, p.2, s.atomOpnd t d p.1 0, s.atomOpnd t d p.1 1)
    if s.me.tx.depth = 0 then s.launchFlight c (atomClass o) (.atomic op t d ls (MemOrd.isAcq o) (MemOrd.isSys o) (ts.map (·.2)) [] 0)
    else if s.busyWith (ts.flatMap fun p => p.2.keys n) then s.stall i
    else
      let tgs := ls.map fun p => p.2.1
      let u := unitOf s.me.gwn
      let many := s.overlay.manyOver u (atBytes t) tgs
      match s.overlay.judge u s.me.crew false many (atBytes t) tgs with
      | some (sev, va) => (s.txUnread (atBytes t) tgs).raise (ueCause sev) sev (BitVec.ofNat 64 va)
      | none => txThen ((s.txUnread (atBytes t) tgs).txAtomic many op t d ls [] 0) fun r => r.1.launchFlight c .ra (.regs r.2.1 r.2.2)

/-- `atom.add` (R240). -/
def execAtomAdd (c : Ctl) (scr : Bool) (t : AtTy) (o : MemOrd) (d : Opnd) (m : MemArg) (s : State) : Result :=
  s.perform (.atomAdd c scr t o d m) fun s => s.atom (.atomAdd c scr t o d m) .add c scr t o d m

/-- `atom.min` (R240). -/
def execAtomMin (c : Ctl) (scr : Bool) (t : AtTy) (o : MemOrd) (d : Opnd) (m : MemArg) (s : State) : Result :=
  s.perform (.atomMin c scr t o d m) fun s => s.atom (.atomMin c scr t o d m) .min c scr t o d m

/-- `atom.max` (R240). -/
def execAtomMax (c : Ctl) (scr : Bool) (t : AtTy) (o : MemOrd) (d : Opnd) (m : MemArg) (s : State) : Result :=
  s.perform (.atomMax c scr t o d m) fun s => s.atom (.atomMax c scr t o d m) .max c scr t o d m

/-- `atom.and` (R240). -/
def execAtomAnd (c : Ctl) (scr : Bool) (t : AtTy) (o : MemOrd) (d : Opnd) (m : MemArg) (s : State) : Result :=
  s.perform (.atomAnd c scr t o d m) fun s => s.atom (.atomAnd c scr t o d m) .and c scr t o d m

/-- `atom.or` (R240). -/
def execAtomOr (c : Ctl) (scr : Bool) (t : AtTy) (o : MemOrd) (d : Opnd) (m : MemArg) (s : State) : Result :=
  s.perform (.atomOr c scr t o d m) fun s => s.atom (.atomOr c scr t o d m) .or c scr t o d m

/-- `atom.xor` (R240). -/
def execAtomXor (c : Ctl) (scr : Bool) (t : AtTy) (o : MemOrd) (d : Opnd) (m : MemArg) (s : State) : Result :=
  s.perform (.atomXor c scr t o d m) fun s => s.atom (.atomXor c scr t o d m) .xor c scr t o d m

/-- `atom.xchg` (R240). -/
def execAtomXchg (c : Ctl) (scr : Bool) (t : AtTy) (o : MemOrd) (d : Opnd) (m : MemArg) (s : State) : Result :=
  s.perform (.atomXchg c scr t o d m) fun s => s.atom (.atomXchg c scr t o d m) .xchg c scr t o d m

/-- `atom.cas`: D the comparand, D + 1 the new value (R240). -/
def execAtomCas (c : Ctl) (scr : Bool) (t : AtTy) (o : MemOrd) (d : Opnd) (m : MemArg) (s : State) : Result :=
  s.perform (.atomCas c scr t o d m) fun s => s.atom (.atomCas c scr t o d m) .cas c scr t o d m

/-- What a fence invalidates (R243): an acquire or full fence L1, and at package or system scope the instruction cache; a release or full fence of
system scope leaves no stale copy at the host (R135). -/
def State.fenceEffect (s : State) (k : FenceKind) (sc : Scope) : State :=
  let u := unitOf s.me.gwn
  let s1 := if k = .rel then s else s.flushL1 u
  let s2 := if k ≠ .rel ∧ sc ≠ .core then s1.flushIc u else s1
  if k ≠ .acq ∧ sc = .sys then s2.fenceHost else s2

/-- A fence that acquires has seen what the other waves of its unit have performed at core scope (R130). -/
def State.fenceSees (s : State) (k : FenceKind) (w : Wave) : Wave :=
  if k = .rel then w else { w with coreSeen := s.sawCore w.gwn w.nextOp }

/-- `fence`: it waits as `State.acts` says; a release or full fence of core scope waits only until everything earlier is performed at core scope
(R120, R127, R243). -/
def execFence (c : Ctl) (k : FenceKind) (sc : Scope) (s : State) : Result :=
  s.perform (.fence c k sc) fun s =>
    if sc = .core ∧ k ≠ .acq then
      if s.released s.me .relc s.me.nextOp then ((s.mapMe (Wave.markCore s.me.nextOp)).fenceEffect k sc).finish (s.fenceSees k) else s.stall (.fence c k sc)
    else (s.fenceEffect k sc).finish (s.fenceSees k)

end Sys2Proof.Machine
end

