-- ==== Sys2Proof/Machine/HostPage.lean ====
section
/-! DEFINITION. The launch pages, the event vector with its mirror, and messages to the host (R44, R134, R295, R366 to R370). -/

namespace Sys2Proof.Machine

/-- The writer number of what no wave writes: the harbourmaster, the host, the ports and the sweepers. -/
def noWave : Nat := 2 ^ 20

/-- The place of a context slot's launch page (R367). -/
def State.launchPage (s : State) (c : Nat) : Nat := s.partBase (s.partOfCtx c) + s.partSize - 2 ^ 19 + 8192 * c

/-- Word i of a launch page. -/
def State.pageWord (s : State) (c i : Nat) : Word := BitVec.ofNat 64 (s.readPhys (s.launchPage c + 8 * i) 8).1

/-- Writes word i of a launch page. -/
def State.setPageWord (s : State) (c i : Nat) (x : Word) : State := s.writePhys noWave (s.launchPage c + 8 * i) 8 x.toNat

/-- Word k of the MSI-X table of a function (R366, R374; log entry 80): entry v has the address in word 2v, and in word 2v + 1 the data [31:0] and the vector
control, whose bit 32 masks the vector. It is stored with that bit inverted, so that every vector is masked at reset. -/
def Outside.msixWord (o : Outside) (f k : Nat) : Word :=
  Cells.get o.msix (4096 * f + k) ^^^ (if k % 2 = 1 then 0x100000000 else 0)

/-- Writes a word of a table. -/
def Outside.setMsix (o : Outside) (f k : Nat) (x : Word) : Outside :=
  { o with msix := Cells.set o.msix (4096 * f + k) (x ^^^ (if k % 2 = 1 then 0x100000000 else 0)) }

/-- May a vector of a function be sent: the function's MSI-X is enabled, and the vector is not masked? -/
def Outside.msixReady (o : Outside) (f v : Nat) : Bool := o.msixOn.contains f && !(o.msixWord f (2 * v + 1)).getLsbD 32

/-- The message that a vector sends, by its table entry. -/
def Outside.msi (o : Outside) (f v : Nat) : Msi := ⟨f, v, o.msixWord f (2 * v), (o.msixWord f (2 * v + 1)).setWidth 32⟩

/-- Sends vector v of function f through the host port, or holds it pending while it may not be sent; a fence at system scope comes first (R134,
R295). -/
def State.sendMsix (s : State) (f v : Nat) : State :=
  s.fenceHost.modOut fun o =>
    if o.msixReady f v then { o with sent := o.sent ++ [o.msi f v] } else { o with pending := addOnce (f, v) o.pending }

/-- The pending vectors of a function that may be sent now are sent, lowest first (R295). -/
def State.sendPending (s : State) : State :=
  s.out.pending.foldl (fun s p =>
    if s.out.msixReady p.1 p.2 then (s.modOut fun o => { o with pending := o.pending.filter (· != p) }).sendMsix p.1 p.2 else s) s

/-- Signals a context's host on the vector of its launch page. -/
def State.signalPage (s : State) (c : Nat) : State := s.sendMsix (s.partOfCtx c) ((s.pageWord c 2).toNat % 2048)

/-- Words 4 to 7 of a launch page: EVNOTIFY. -/
def State.evNotify (s : State) (c : Nat) : Nat :=
  (List.range 4).foldl (fun a i => a + (s.pageWord c (4 + i)).toNat * 2 ^ (64 * i)) 0

/-- Writes EVMIRROR, in which the host sees a completion: a fence at system scope comes first (R134, R369). -/
def State.mirror (s : State) (c : Nat) (ev : BitVec 256) : State :=
  (List.range 4).foldl (fun s i => s.setPageWord c (16 + i) (BitVec.ofNat 64 (ev.toNat >>> (64 * i)))) s.fenceHost

/-- The event vector of a context changes (R44, R369): EVMIRROR is written, and the host is signalled for a newly set bit that it asked for. -/
def State.setEvents (s : State) (c : Nat) (new : BitVec 256) : State :=
  match s.ctx? c with
  | none => s
  | some x =>
    if x.events = new then s else
    let s := (s.modCtx c fun y => { y with events := new }).mirror c new
    if (new &&& ~~~x.events).toNat &&& s.evNotify c = 0 then s else s.signalPage c

end Sys2Proof.Machine
end

