-- ==== Sys2Proof/Machine/Tables.lean ====
section
/-! DEFINITION. Reads of a context's memory by virtual address, the type table, anchors, launch records, admission and completion of launches (R38
to R47, R294, R304). -/

namespace Sys2Proof.Machine

/-- The place of a context's virtual address as the harbourmaster reaches it with the host port's walker and TLB (R294), or the cause and severity that
forbid it. -/
def State.hmPlace (s : State) (ctx va : Nat) (n : Need) : State × Except (Nat × Nat) Target :=
  if unwalkedBase ≤ va then (s, .error (0x05, 0)) else
  let r := s.translate hostTlb ctx va n
  (r.1, match r.2 with
    | .ok t => if t.space = .dev ∨ t.space = .host then .ok t else .error (0x04, 0)
    | .missing => .error (0x05, 0)
    | .badLayout => .error (0x0B, 0)
    | .ue => .error (0x15, 5)
    | _ => .error (0x04, 0))

/-- The die from which the harbourmaster of a context's partition reaches memory: the partition's first (log entry 20). -/
def State.hmDie (s : State) (ctx : Nat) : Nat := s.partOfCtx ctx * s.dies

/-- The first harbourmaster core of a context's partition, as a unit (R302). -/
def State.hmUnit (s : State) (ctx : Nat) : Nat := 512 + s.hmDie ctx

/-- Reads a doubleword of a context by virtual address as the harbourmaster does (R294): none where it cannot be read, and whether it is uncorrectable, as it is
behind a failed link (R354). -/
def State.readVirt (s : State) (ctx va : Nat) : State × Option (Word × Bool) :=
  let r := s.hmPlace ctx va .r
  (r.1, match r.2 with
    | .ok t =>
      if t.space = .host then some (BitVec.ofNat 64 (ofBytes (Cells.range r.1.out.hostMem t.at_ 8)), false)
      else if r.1.linkBroken (r.1.hmDie ctx) t.at_ then some (0, true)
      else let x := r.1.readPhys t.at_ 8; some (BitVec.ofNat 64 x.1, x.2)
    | .error (cause, _) => if cause = 0x15 then some (0, true) else none)

/-- Reads n consecutive doublewords: none where one cannot be read, and whether one is uncorrectable. -/
def State.readVirtWords (s : State) (ctx : Nat) : Nat → Nat → State × Option (List Word × Bool)
  | _, 0 => (s, some ([], false))
  | va, n + 1 =>
    let a := s.readVirt ctx va
    match a.2 with
    | none => (a.1, none)
    | some (x, bad) =>
      let b := State.readVirtWords a.1 ctx (va + 8) n
      (b.1, b.2.map fun p => (x :: p.1, bad || p.2))

/-- A type-table entry (R39). -/
structure TypeEntry where
  pure : Bool
  disjoint : Bool
  farOnly : Bool
  nearOnly : Bool
  depth : Nat
  nearPc : Nat
  scratch : Nat
  vregs : Nat
  crew : Nat
  farPc : Nat
  deriving DecidableEq, Repr

/-- Reads the fields of an entry's words (R39). -/
def typeFields (ws : List Word) : TypeEntry where
  pure := bitAt (ws.getD 0 0).toNat 63
  disjoint := bitAt (ws.getD 0 0).toNat 62
  farOnly := bitAt (ws.getD 0 0).toNat 61
  nearOnly := bitAt (ws.getD 0 0).toNat 60
  depth := wordBits ws 0 48 12
  nearPc := wordBits ws 0 0 48
  scratch := wordBits ws 1 56 8
  vregs := (wordBits ws 1 52 4 + 1) * 8
  crew := wordBits ws 1 48 4 + 1
  farPc := wordBits ws 1 0 48

/-- Is an entry valid (R40)? -/
def TypeEntry.ok (t : TypeEntry) (ws : List Word) : Bool :=
  (t.nearPc != 0 || t.farPc != 0) && t.nearPc % 8 == 0 && t.farPc % 8 == 0
    && !(t.nearOnly && (t.farPc != 0 || t.nearPc == 0)) && !(t.farOnly && (t.nearPc != 0 || t.farPc == 0))
    && !(t.nearOnly && t.farOnly) && !(1 < t.crew && t.nearPc != 0) && !(4 < t.scratch && t.nearPc != 0)
    && decide (t.scratch ≤ 14) && (ws.drop 2).all (· == 0)

/-- The effective threshold (R41). -/
def TypeEntry.threshold (t : TypeEntry) : Nat := if t.nearPc = 0 then 0 else if t.nearOnly then 4096 else t.depth

/-- The valid entry of a type; none beyond the table, where it is invalid, or where it cannot be read (R39, R40; log entry 24). -/
def State.typeEntry (s : State) (ctx ty : Nat) : State × Option TypeEntry :=
  match s.ctx? ctx with
  | none => (s, none)
  | some c =>
    if c.ntypes ≤ ty then (s, none) else
    let r := s.readVirtWords ctx (c.typetab + 64 * ty) 8
    (r.1, match r.2 with
      | some (ws, false) => if (typeFields ws).ok ws then some (typeFields ws) else none
      | _ => none)

/-! ## Anchors (R38) -/

/-- Does an anchor span (R38)? One of length 0 crosses no granule, wherever its base stands (DESIGN CHOICE, log entry 65). -/
def spans (base len : Nat) : Bool := len != 0 && base / 16384 != (base + len - 1) / 16384

/-- What the walk for an anchor gives: the place of its first byte, or the cause and severity of its fault (R38). An anchor that reaches beyond 2^48 is UNMAPPED
before its walk is made, whatever the walk would meet (DESIGN CHOICE, log entry 112). -/
def State.anchor (s : State) (tlb ctx : Nat) (base : Int) (len : Nat) : State × Except (Nat × Nat) Nat :=
  if base < 0 ∨ (unwalkedBase : Int) ≤ base ∨ (2 ^ 48 : Nat) < base + len then (s, .error (0x05, 0)) else
  let r := s.walk tlb ctx base.toNat
  (r.1, match r.2 with
    | .missing => .error (0x05, 0)
    | .badLayout => .error (0x0B, 0)
    | .ue => .error (0x15, 5)
    | .leaf level e =>
      let t := r.1.leafTarget ctx level e base.toNat
      if t.space = .dev then .ok t.at_ else .error (0x04, 0))

/-- Does a harbourmaster core of a partition run, which does the partition's harbourmaster work (R305)? -/
def State.hmAlive (s : State) (p : Nat) : Bool :=
  s.waves.any fun w => isHm w.gwn && s.partOf (unitOf w.gwn) == p && w.run != .off && w.run != .halted

/-! ## Launch records (R42, R43) -/

/-- The fields of a launch record (R42). -/
structure LaunchFields where
  shadow : Bool
  chart : Bool
  ty : Nat
  base : Nat
  len : Nat
  count : Nat
  chartIx : Nat
  prio : Nat
  stride : Int
  cap : Nat
  manifest : Nat
  setv : Nat
  waitv : Nat
  deriving DecidableEq, Repr

/-- Reads the fields of a launch record's sixteen words. -/
def launchFields (ws : List Word) : LaunchFields where
  shadow := bitAt (ws.getD 0 0).toNat 61
  chart := bitAt (ws.getD 0 0).toNat 60
  ty := wordBits ws 0 48 12
  base := wordBits ws 0 0 48
  len := wordBits ws 1 32 32
  count := wordBits ws 1 0 32
  chartIx := wordBits ws 2 37 4
  prio := wordBits ws 2 32 5
  stride := toSigned 32 (wordBits ws 2 0 32)
  cap := wordBits ws 3 48 16
  manifest := wordBits ws 3 0 48
  setv := wordBits ws 8 16 16
  waitv := wordBits ws 8 0 16

/-- The valid event numbers of a list of 16 bytes that starts at word i (R42). -/
def eventList (ws : List Word) (i valid : Nat) : List Nat :=
  (setBits 16 valid).map fun k => wordBits ws (i + k / 8) (8 * (k % 8)) 8

/-- The blocks of a chart: the product over its dimensions of the number of blocks (R271 to R275). -/
def chartBlocks (r : List Word) : Nat := product ((chartDims r).map fun d => ceilDiv d.ext d.blk)

/-- The chart that a context has loaded under a number. -/
def Context.chart? (c : Context) (n : Nat) : Option (List Word) := (c.charts.find? (·.1 == n)).map (·.2)

/-- Is a launch record acceptable (R43)? `t` is its type's valid entry. -/
def launchOk (dies : Nat) (priv : Bool) (c : Context) (t : Option TypeEntry) (ws : List Word) : Bool :=
  let f := launchFields ws
  match t with
  | none => false
  | some t =>
    f.count != 0 && f.cap != 0 && f.manifest % 32 == 0
      && wordBits ws 0 62 2 == 0 && wordBits ws 2 41 23 == 0 && wordBits ws 8 32 32 == 0 && ws.getD 9 0 == 0
      && (if f.chart then f.base == 0 && f.stride == 0 else f.chartIx == 0)
      && (!f.chart || match c.chart? f.chartIx with
          | none => false
          | some r => decide (f.count ≤ chartBlocks r))
      && (!f.shadow || (t.pure && t.farPc != 0 && dies != 1))
      && (decide (f.prio < 28) || priv)

/-! ## Admission and completion (R45, R47, R304) -/

/-- The berths of a partition. -/
def State.partBerths (s : State) (p : Nat) : List Nat := (List.range (64 * s.dies)).map (64 * s.dies * p + ·)

/-- Floods an admitted launch to every berth of the context's partition (R45, R46). -/
def State.flood (s : State) (ctx launch : Nat) : State :=
  (s.partBerths (s.partOfCtx ctx)).foldl (fun s b =>
    let x := s.berth b
    s.setBerth { x with enums := x.enums ++ [⟨ctx, launch, 0⟩] }) s

/-- Are the wait events of a launch all set? -/
def waitsMet (events : BitVec 256) (ws : List Word) : Bool := (eventList ws 4 (launchFields ws).waitv).all fun e => events.getLsbD e

/-- Admits one launch: a chart launch uses its chart as it stands now (R275), or where that number has been unloaded, as it was accepted (DESIGN CHOICE,
log entry 90). -/
def State.admitLaunch (s : State) (ctx launch : Nat) : State :=
  let now (l : Launch) : List Word := ((s.ctx? ctx).bind fun c => c.chart? (launchFields l.words).chartIx).getD l.chart
  (s.modLaunch ctx launch fun l =>
    { l with admitted := true, chart := if (launchFields l.words).chart then now l else l.chart }).flood ctx launch

/-- Is a held launch of a context ready to be admitted (R45)? -/
def Context.ready (c : Context) (l : Launch) : Bool := !l.admitted && waitsMet c.events l.words

/-- Examines the held launches of a context in submission order (R45, R304), while a harbourmaster core of its partition runs (R305). -/
def State.examine (s : State) (ctx : Nat) : State :=
  match s.ctx? ctx with
  | none => s
  | some c => if !s.hmAlive (s.partOfCtx ctx) then s else ((c.launches.filter c.ready).map (·.id)).foldl (fun s l => s.admitLaunch ctx l) s

/-- Has a launch's live count reached zero (R47)? -/
def Launch.over (l : Launch) : Bool := l.admitted && l.live == 0

/-- A completing launch sets its events and ends, and held launches are examined (R47), while a harbourmaster core of its partition runs (R305). -/
def State.completeLaunch (s : State) (ctx launch : Nat) : State :=
  if !s.hmAlive (s.partOfCtx ctx) then s else
  match s.launch? ctx launch with
  | none => s
  | some l =>
    let mask := BitVec.ofNat 256 (maskOf (eventList l.words 6 (launchFields l.words).setv))
    let old := ((s.ctx? ctx).map (·.events)).getD 0
    ((s.setEvents ctx (old ||| mask)).modCtx ctx fun c => { c with launches := c.launches.filter (·.id != launch) }).examine ctx

/-- Completes the launches of a context whose live counts have reached zero. -/
def State.completeOver (s : State) (ctx : Nat) : State :=
  (((s.ctx? ctx).map fun c => (c.launches.filter Launch.over).map (·.id)).getD []).foldl (fun s l => s.completeLaunch ctx l) s

/-- The live count of a launch falls by one; at zero the launch completes (R47). -/
def State.lowerLive (s : State) (ctx launch : Nat) : State :=
  match s.launch? ctx launch with
  | none => s
  | some l =>
    let s := s.modLaunch ctx launch fun x => { x with live := x.live - 1 }
    if l.live ≤ 1 then s.completeLaunch ctx launch else s

/-- The live count of a launch rises by one (R47). -/
def State.raiseLive (s : State) (ctx launch : Nat) : State := s.modLaunch ctx launch fun l => { l with live := l.live + 1 }

/-! ## The berth's records (R48 to R52) -/

/-- The fields of a task record (R37). -/
structure TaskFields where
  ty : Nat
  base : Nat
  len : Nat
  launch : Nat
  prio : Nat
  deriving DecidableEq, Repr

/-- Reads the fields of a task record. -/
def taskFields (ws : List Word) : TaskFields where
  ty := wordBits ws 0 48 12
  base := wordBits ws 0 0 48
  len := wordBits ws 1 0 32
  launch := wordBits ws 1 40 24
  prio := wordBits ws 1 32 5

/-- Does a record count as held (R50, R322)? A retired primary stays only for the comparison of its signature. -/
def TaskRec.held (r : TaskRec) : Bool := r.st != .retired || r.primary.isSome

/-- The number of records a berth holds, and of one context. -/
def Berth.count (b : Berth) : Nat := (b.recs.filter TaskRec.held).length
/-- The records of one context. -/
def Berth.countOf (b : Berth) (ctx : Nat) : Nat := (b.recs.filter fun r => r.held && r.ctx == ctx).length

/-- The next sequence number: modulo 2^40, with 0 skipped (R49). -/
def seqAfter (n : Nat) : Nat := if n + 1 = 2 ^ 40 then 1 else n + 1

/-- The quota of a context (R50). -/
def State.quotaOf (s : State) (ctx : Nat) : Nat := ((s.ctx? ctx).map (·.quota)).getD 0

/-- Enqueues a record at a berth: youngest last (R49). -/
def State.enqueue (s : State) (b : Nat) (ctx launch : Nat) (ws : List Word) (primary : Option Nat) (hasShadow : Bool) : State :=
  let x := s.berth b
  let f := taskFields ws
  let r : TaskRec := {
    id := x.nextRec
    ctx := ctx
    seq := x.nextSeq
    launch := launch
    words := ws
    time := s.time
    spans := spans f.base f.len
    st := .unclaimed
    holds := []
    primary := primary
    hasShadow := hasShadow
    die := 0
    sig := 0
    bad := false }
  s.setBerth { x with recs := x.recs ++ [r], nextSeq := seqAfter x.nextSeq, nextRec := x.nextRec + 1 }

/-- Changes a record at a berth, by its number. -/
def State.modRec (s : State) (b id : Nat) (f : TaskRec → TaskRec) : State :=
  let x := s.berth b
  s.setBerth { x with recs := mapWhere (·.id == id) f x.recs }

/-- Frees a record at a berth. -/
def State.freeRec (s : State) (b id : Nat) : State :=
  let x := s.berth b
  s.setBerth { x with recs := x.recs.filter (·.id != id) }

/-- A record at a berth. -/
def State.rec? (s : State) (b id : Nat) : Option TaskRec := (s.berth b).recs.find? (·.id == id)

/-- Lines released by a near task: each count falls, and a line at zero is cached again (R58, R59). -/
def State.releaseHolds (s : State) (ls : List Nat) : State :=
  let left := s.caches.near.map fun p => (p.1, p.2 - (ls.filter (· == p.1)).length)
  { s with caches := { s.caches with near := left.filter fun p => p.2 != 0 } }

/-- Releases what a task's record holds. -/
def State.releaseRec (s : State) (b id : Nat) : State :=
  match s.rec? b id with
  | none => s
  | some r => (s.releaseHolds r.holds).modRec b id fun x => { x with holds := [] }

/-- The core of a unit serves no wave of a context any longer (R307). -/
def State.unbind (s : State) (unit : Nat) : State :=
  if unit < 256 && !s.waves.any fun w => unitOf w.gwn == unit then
    let k := s.core unit
    if k.bound.isNone then s else s.setCore { k with bound := none, served := k.bound }
  else s

/-- Frees a crew: its waves, its scratch, and its core's binding. -/
def State.freeCrew (s : State) (id : Nat) : State :=
  match s.crew? id with
  | none => s
  | some c =>
    let s := s.dropWaves fun w => w.crew == id && !isHm w.gwn
    let s := { s with crews := s.crews.filter (·.id != id) }
    let s := if c.unit < 256 then
        let k := s.core c.unit
        if k.mat.any (·.crew == id) || k.lit.any (·.crew == id) then
          s.setCore { k with mat := k.mat.filter (·.crew != id), lit := k.lit.filter (·.crew != id) }
        else s
      else s
    s.unbind c.unit

/-- A task retires (R57, R59, R61): holds are released, the record is freed or, where a shadow copy is involved, kept for the comparison (R322),
and the launch's live count falls. -/
def State.retire (s : State) (id : Nat) : State :=
  match s.crew? id with
  | none => s
  | some c =>
    let r := s.rec? c.berth c.record
    let paired := (r.map fun r => r.hasShadow || r.primary.isSome).getD false
    let s := (s.releaseRec c.berth c.record).freeCrew id
    if paired then
      let s := s.modRec c.berth c.record fun x => { x with st := .retired, sig := c.sig }
      if c.shadow then s else s.lowerLive c.ctx c.launch
    else (s.freeRec c.berth c.record).lowerLive c.ctx c.launch

end Sys2Proof.Machine
end

