-- ==== Sys2Proof/Machine/Engine.lean ====
section
/-! DEFINITION. The instructions that command the engines of a far core, its code tables, its accumulators and the charts (R256 to R275). -/

namespace Sys2Proof.Machine

/-- The words of the command quad whose first scalar is numbered `q`, read at issue (R165, R256). -/
def State.quad (s : State) (q : BitVec 6) : List Word := (List.range 4).map fun i => s.me.sreg (q.toNat + i)

/-- The code of a table bank that a command references (R272): 1 + 2 × table + bank. -/
def bankRef (k : FarCore) (n : Nat) : Nat := 1 + 2 * n + k.activeBank n

/-- Does an unfinished command of a core reference a table bank (R272)? -/
def FarCore.references (k : FarCore) (ref : Nat) : Bool :=
  k.mat.any (fun m => m.bankA == ref || m.bankB == ref) || k.lit.any (·.tabBank == ref)

/-- The address a command's fault reports (R64; log entry 25): the operand that fails the check. -/
def matDetail (size : Nat) (f : MatFields) (cause : Nat) : Nat :=
  let a := f.a % 2 ^ 48
  let b := f.b % 2 ^ 48
  if cause = 0x03 then (if f.a % 16 ≠ 0 then a else b)
  else if cause = 0x06 then (if matOutside size f.a f.astride (matRowBytes f.ta f.k) then a else b)
  else 0

/-- The wave has issued an engine command: its slot rises and its operation number is taken (R17, R256). -/
def Wave.command (c : Ctl) (w : Wave) : Wave := { w.raiseSlot c with nextOp := w.nextOp + 1 }

/-- `mxc` (R256, R258, R259, R262). -/
def execMxc (c : Ctl) (q : BitVec 6) (s : State) : Result :=
  s.perform (.mxc c q) fun s =>
    let ws := s.quad q
    let f := matFields ws
    match matFault s.scrSize ws with
    | some cause => s.raise cause 0 (BitVec.ofNat 64 (matDetail s.scrSize f cause))
    | none =>
      let k := s.core (unitOf s.me.gwn)
      let mat := decide (f.op < 2)
      let tab (t n : Nat) : BitVec 8 := if mat && t == 14 then BitVec.ofNat 8 (2 ^ n) else 0
      let cmd : MatCmd := {
        id := s.me.nextOp
        gwn := s.me.gwn
        crew := s.me.crew
        pc := s.me.pc
        slot := slotOfCtl c
        words := ws
        state := 0
        done := 0
        bankA := if mat && f.ta == 14 then bankRef k f.cta else 0
        bankB := if mat && f.tb == 14 then bankRef k f.ctb else 0
        reserved := false }
      (s.setCore { k with mat := k.mat ++ [cmd] }).finish fun w =>
        (w.command c).noteUse (BitVec.ofNat 4 (2 ^ f.bank)) (tab f.ta f.cta ||| tab f.tb f.ctb)

/-- Does a lighter command reference a table bank (R272)? -/
def convTable (conv : Nat) : Bool := conv == 0x80 || conv == 0x81 || conv == 0x91 || conv == 0x92 || conv == 0x93

/-- `cpc` (R256, R266 to R269). -/
def execCpc (c : Ctl) (q : BitVec 6) (s : State) : Result :=
  s.perform (.cpc c q) fun s =>
    let ws := s.quad q
    let f := litFields ws
    match litFault s.scrSize ws with
    | some (cause, at_) => s.raise cause 0 (BitVec.ofNat 64 at_)
    | none =>
      let k := s.core (unitOf s.me.gwn)
      let cmd : LitCmd := {
        id := s.me.nextOp
        gwn := s.me.gwn
        crew := s.me.crew
        pc := s.me.pc
        slot := slotOfCtl c
        words := ws
        tabBank := if convTable f.conv then bankRef k f.ct else 0
        started := false
        parked := false
        pages := []
        row := 0
        writing := false
        pos := 0
        buffer := []
        wrote := [] }
      (s.setCore { k with lit := k.lit ++ [cmd] }).finish fun w =>
        (w.command c).noteUse 0 (if convTable f.conv then BitVec.ofNat 8 (2 ^ f.ct) else 0)

/-- `ctld`: TABLE_BUSY first, then the checks of its read (R271). -/
def execCtld (c : Ctl) (a : BitVec 6) (sorted : Bool) (n : BitVec 3) (s : State) : Result :=
  s.perform (.ctld c a sorted n) fun s =>
    let k := s.core (unitOf s.me.gwn)
    let shadow := 1 - k.activeBank n.toNat
    if k.references (1 + 2 * n.toNat + shadow) then s.raise 0x07 0 0
    else
      State.withChecked (s.checkGlobal ⟨.r, 32, false, true, false⟩ [(0, (s.me.sreg a.toNat).toNat)]) fun s ts =>
        match ts with
        | (_, t) :: _ =>
          (s.mapMe (Wave.noteUse 0 (BitVec.ofNat 8 (2 ^ n.toNat)))).launchFlight c .ld (.ctld n.toNat shadow sorted t s.time)
        | [] => s

/-- `ctswap` swaps at its issue (R273). -/
def execCtswap (c : Ctl) (mask : BitVec 8) (s : State) : Result :=
  s.perform (.ctswap c mask) fun s =>
    let k := s.core (unitOf s.me.gwn)
    (s.setCore { k with active := k.active ^^^ mask }).finish (Wave.noteUse 0 mask)

/-- `chartld`: the checks of its read; the record is examined when it is read (R275). -/
def execChartld (c : Ctl) (a : BitVec 6) (n : BitVec 4) (s : State) : Result :=
  s.perform (.chartld c a n) fun s =>
    State.withChecked (s.checkGlobal ⟨.r, 64, false, true, false⟩ [(0, (s.me.sreg a.toNat).toNat)]) fun s ts =>
      match ts with
      | (_, t) :: _ => s.launchFlight c .ld (.chartld n.toNat t)
      | [] => s

/-- Does a chart record break R275, or the layout of R274 in its SHARE or the words of its unused dimensions (DESIGN CHOICE, log entry 98)? `lo` and `hi` bound the
berths of the context's partition. -/
def chartBad (r : List Word) (lo hi : Nat) : Bool :=
  let ds := chartDims r
  let z := 2 ^ wordBits r 0 59 3
  let first := wordBits r 0 48 8
  let base := wordBits r 0 0 48
  let share := wordBits r 1 0 32
  let p := product (ds.map (·.grid))
  wordBits r 0 56 3 != 0 || wordBits r 1 32 32 != 0 || (List.range 4).any (fun d => wordBits r (2 + d) 40 24 != 0)
    || (List.range 4).any (fun d => decide (ds.length ≤ d) && r.getD (2 + d) 0 != 0) || r.getD 6 0 != 0 || r.getD 7 0 != 0
    || decide (4 < wordBits r 0 59 3) || base % z != 0 || decide (first < lo) || decide (hi < first + p)
    || share == 0 || share % 16384 != 0 || decide (share < product (ds.map (·.loc)) * product (ds.map (·.blk)) * z)
    || decide (2 ^ 32 < p * share) || decide (2 ^ 48 < base + p * share) || decide (2 ^ 32 - 1 < chartBlocks r)

/-- The row and column that an accumulator access addresses for a lane, as 128 × row + column (R265). -/
def State.accIndex (s : State) (index : Opnd) (lane : Nat) : Nat :=
  let e := (s.opnd index lane).toNat
  if index.perLane then 128 * (e % 128) + e / 128 % 128 else 128 * (e % 128) + (32 * (e / 128 % 4) + lane) % 128

/-- The key of an element of a bank. -/
def accKey (bank i : Nat) : Nat := 16384 * bank + i

/-- Has the wave matrix commands that have not completed? -/
def State.matPending (s : State) : Bool := (s.core (unitOf s.me.gwn)).mat.any (·.gwn == s.me.gwn)

/-- Writes elements of a bank in order; the last stands (R265). -/
def FarCore.accWrite (k : FarCore) (bank : Nat) (els : List (Nat × Lane)) : FarCore :=
  { k with
    banks := Cells.setMany k.banks (els.map fun e => (accKey bank e.1, e.2))
    badBanks := k.badBanks.filter fun i => !els.any fun e => accKey bank e.1 == i }

/-- Does an element that an `accrd` reads fail its parity (R355)? -/
def FarCore.accBad (k : FarCore) (bank : Nat) (els : List (Nat × Nat)) : Bool := els.any fun e => k.badBanks.contains (accKey bank e.2)

/-- `accrd` (R265): inside a transaction it acts once the wave's earlier matrix commands have completed. -/
def execAccrd (c : Ctl) (d : BitVec 7) (index : Opnd) (bank : BitVec 2) (s : State) : Result :=
  s.perform (.accrd c d index bank) fun s =>
    let els := (s.lanes c).map fun l => (l, s.accIndex index l)
    let use := Wave.noteUse (BitVec.ofNat 4 (2 ^ bank.toNat)) 0
    if s.me.tx.depth = 0 then (s.mapMe use).launchFlight c .other (.accrd d.toNat bank.toNat els)
    else if s.matPending then s.stall (.accrd c d index bank)
    else
      let k := s.core (unitOf s.me.gwn)
      if k.accBad bank.toNat els then s.parityFault else
      s.finish fun w =>
        ((use w).setLanes d.toNat (els.map fun e => (e.1, Cells.get k.banks (accKey bank.toNat e.2)))).fly c .other (.regs [] 0)

/-- `accwr` (R265): inside a transaction it acts once the wave's earlier matrix commands have completed, and is not undone. -/
def execAccwr (c : Ctl) (index : Opnd) (bank : BitVec 2) (data : Opnd) (s : State) : Result :=
  s.perform (.accwr c index bank data) fun s =>
    let els := (s.lanes c).map fun l => (s.accIndex index l, BitVec.ofNat 32 (s.opndW 32 data l))
    let use := Wave.noteUse (BitVec.ofNat 4 (2 ^ bank.toNat)) 0
    if s.me.tx.depth = 0 then (s.mapMe use).launchFlight c .other (.accwr bank.toNat els)
    else if s.matPending then s.stall (.accwr c index bank data)
    else (s.setCore ((s.core (unitOf s.me.gwn)).accWrite bank.toNat els)).finish fun w => (use w).fly c .other (.regs [] 0)

end Sys2Proof.Machine
end

