-- ==== Sys2Proof/Machine/Txn.lean ====
section
/-! DEFINITION. The transactional instructions, and the restarts of a wave (R137 to R154, R247). -/

namespace Sys2Proof.Machine

/-- TXS (R138). -/
def Wave.txs (w : Wave) : Word :=
  BitVec.ofNat 64 (w.tx.last % 8 + w.tx.depth % 16 * 2 ^ 16 + w.tx.alts.length % 8 * 2 ^ 20 + w.tx.confl % 64 * 2 ^ 26
    + w.tx.code % 256 * 2 ^ 32 + w.tx.cause % 256 * 2 ^ 40)

/-- The effective priority of a wave (R314). -/
def Wave.effPrio (w : Wave) : Nat := if w.prio < 28 then min (w.prio + w.age / 4096) 27 else w.prio

/-- Changes the transaction state, and with it TXS, whose parity is afresh (R138, R355). -/
def Wave.setTx (f : Tx → Tx) (w : Wave) : Wave := { w with tx := f w.tx, bad := clearBad (· == .txs) w.bad }

/-- Begins an outermost transaction (R140): its age stamp is the package time and the wave's global number of the first attempt, and a restart keeps it, LAST and
CONFL (R137, R138, R139, R149, R154). -/
def Wave.txBegin (t : Nat) (handler : Word) (w : Wave) : Wave :=
  let fresh : Tx := { Tx.zero with depth := 1, cp := w.checkpoint, begin_ := w.pc, handler := handler, since := t }
  w.setTx fun x => match x.stamp with
    | none => { fresh with stamp := some (t, w.gwn) }
    | some a => { fresh with stamp := some a, last := x.last, confl := x.confl }

/-- `xbegin` (R140). -/
def execXbegin (c : Ctl) (off : BitVec 24) (s : State) : Result :=
  s.perform (.xbegin c off) fun s =>
    if s.me.tx.depth = 0 then s.finish (Wave.txBegin s.time (offTarget s.me.pc off))
    else if s.me.tx.depth < 15 then s.finish (Wave.setTx fun x => { x with depth := x.depth + 1 })
    else s.abortTx 4 0xFD 0

/-- Is transaction a older than b: by the time of its stamp, then by the global wave number in it, which a restored wave's may no longer be (R137, R139)? -/
def olderTx (a b : Wave) : Bool :=
  let x := a.tx.stamp.getD (0, a.gwn)
  let y := b.tx.stamp.getD (0, b.gwn)
  decide (x.1 < y.1) || (x.1 == y.1 && decide (x.2 < y.2))

/-- The granules of scratch that a buffered write changes (R152). -/
def TxWrite.granules (w : TxWrite) : List Nat :=
  if w.scratch then
    (((List.range 4).filter fun i => bits w.mask (128 * i) 128 != 0).map fun i => 4 * w.line + i) ++ w.full.map (·.1)
  else []

/-- Does an older active transaction stand registered on a line that this one writes, or on a granule of scratch (R143, R155; that the yield holds for granules is
DEDUCED, log entry 106)? -/
def State.mustYield (s : State) : Bool :=
  let ls := (s.me.tx.buf.filter (!·.scratch)).map (·.line)
  let gs := s.me.tx.buf.flatMap TxWrite.granules
  s.others.any fun w => w.tx.depth != 0 && olderTx w s.me
    && (ls.any (fun l => w.tx.lines.contains l || w.tx.coarse.contains (s.sliceOf l))
      || gs.any fun g => w.tx.granules.contains (granuleKey s.me.crew g) || (w.tx.coarseCore && unitOf w.gwn == unitOf s.me.gwn))

/-- Does a commit wait: a full/empty bit that it changes is reserved (R245, R261), or a store of another wave of the core to one of its lines is performed at
core scope and not yet at its home (R121, R133)? -/
def State.commitHeld (s : State) : Bool :=
  let ls := s.me.tx.lines ++ (s.me.tx.buf.filter (!·.scratch)).map (·.line)
  (s.me.tx.buf.flatMap (·.full)).any (fun p => s.reserved (unitOf s.me.gwn) s.me.crew p.1) || s.coreWaits s.me.gwn (ls.map fun l => (0, l))

/-- The bytes of a line that a mask touches, as one event's message (R321): the line's address, then the bytes written. -/
def lineMessage (va mask value : Nat) : List Byte :=
  toBytes 8 va ++ ((List.range 64).filter fun i => bits mask (8 * i) 8 != 0).map fun i => BitVec.ofNat 8 (value >>> (8 * i))

/-- The events of a commit's global lines: one for each line, of the bytes as they stand after the writes (R321). -/
def txMessages (after : State) (b : List TxWrite) : List (List Byte) :=
  ((b.filter (!·.scratch)).map (·.line)).eraseDups.map fun l =>
    let ws := b.filter fun w => !w.scratch && w.line == l
    lineMessage ((ws.map (·.va)).headD 0) (ws.foldl (fun m w => m ||| w.mask) 0)
      (after.decodeLine l ((ws.map (·.code)).headD 0)).bits.data

/-- The buffered writes performed as one indivisible step (R143): a shadow copy's global writes are hashed only (R320). -/
def State.commitWrites (s : State) : State :=
  let g := s.me.gwn
  let crew := s.me.crew
  let b := s.me.tx.buf
  let hashed := (txMessages s.overlay b).foldl (fun s m => s.hash crew m) s
  let todo := if s.isShadow crew then b.filter (·.scratch) else b
  let done := hashed.applyTx g crew todo
  done.touchGranules g (unitOf g) crew (todo.flatMap TxWrite.granules)

/-- A buffered write of a global line that only a failed link reaches, which the commit cannot lock at its home (R143, R354). -/
def State.commitCut (s : State) : Option TxWrite :=
  if s.isShadow s.me.crew then none
  else s.me.tx.buf.find? fun w => !w.scratch && s.linkBroken (s.dieOf (unitOf s.me.gwn)) (64 * w.line)

/-- The commit of an outermost transaction: an acquire and release at package scope (R130, R133, R143). While it is held the `xend` waits. -/
def State.commit (s : State) (i : Instr) : State :=
  match s.commitCut with
  | some w => s.raise 0x15 5 (BitVec.ofNat 64 w.va)
  | none =>
  if s.mustYield then s.mapMe fun w => (w.stamp s.time).conflictAbort s.time
  else if s.commitHeld then s.stall i
  else (s.commitWrites.flushL1 (unitOf s.me.gwn)).finish fun w =>
    { w.setTx fun _ => Tx.zero with watch := 0, coreSeen := s.sawCore w.gwn w.nextOp }

/-- `xend` (R143). -/
def execXend (c : Ctl) (s : State) : Result :=
  s.perform (.xend c) fun s =>
    if s.me.tx.depth = 1 then s.commit (.xend c)
    else s.finish (Wave.setTx fun x => { x with
      depth := x.depth - 1, alts := x.alts.filter fun a => decide (a.depth ≤ x.depth - 1) })

/-- The whole transaction abandoned back to its outermost `xbegin`: the age stamp and CONFL are kept, registrations as given (R148, R149, R153). -/
def Wave.abandon (last : Nat) (keep : Bool) (run : Run) (w : Wave) : Wave :=
  let w1 := w.landAll.restore w.tx.cp
  { w1 with
    tx := { Tx.zero with
      last := last, confl := w.tx.confl, stamp := w.tx.stamp, begin_ := w.tx.begin_, handler := w.tx.handler
      lines := if keep then w.tx.lines else []
      granules := if keep then w.tx.granules else []
      coarse := if keep then w.tx.coarse else []
      coarseCore := keep && w.tx.coarseCore }
    pc := w.tx.begin_
    run := run }

/-- Is the read set empty (R148)? -/
def Tx.readsNothing (t : Tx) : Bool := t.lines.isEmpty && t.granules.isEmpty && t.coarse.isEmpty && !t.coarseCore

/-- The effect of `retry` (R147, R148, R153), which `ldf` and `stf` execute too inside a transaction (R141). -/
def State.doRetry (s : State) : State :=
  let tx := s.me.tx
  if tx.doom then s.mapMe fun w => (w.stamp s.time).abandon 7 false .running
  else match tx.alts with
    | a :: r =>
      s.mapMe fun w =>
        let w1 := ((w.stamp s.time).landAll).restore a.cp
        { w1 with pc := a.target, ready := clocksOn w.gwn s.time 8, tx := { w.tx with depth := a.depth, alts := r, buf := w.tx.buf.take a.mark } }
    | [] =>
      if tx.readsNothing then s.abortTx 4 0xFF 0
      else s.mapMe fun w => (w.stamp s.time).abandon tx.last true .asleep

/-- `retry` (R147, R148). -/
def execRetry (c : Ctl) (s : State) : Result := s.perform (.retry c) fun s => s.doRetry

/-- `otherwise`: pushes an alternative; the most recent stands first (R147). -/
def execOtherwise (c : Ctl) (off : BitVec 24) (s : State) : Result :=
  s.perform (.otherwise c off) fun s =>
    if 7 ≤ s.me.tx.alts.length then s.abortTx 4 0xFE 0
    else s.finish fun w => w.setTx fun x => { x with
      alts := ⟨offTarget w.pc off, x.depth, x.buf.length, w.checkpoint⟩ :: x.alts }

/-- `xabort` (R145). -/
def execXabort (c : Ctl) (imm : BitVec 16) (s : State) : Result :=
  s.perform (.xabort c imm) fun s => s.abortTx 4 imm.toNat 0

/-- `xstat` (R138, R247). -/
def execXstat (c : Ctl) (d : BitVec 6) (s : State) : Result :=
  s.perform (.xstat c d) fun s => s.finish fun w => w.setS d.toNat w.txs

/-- A woken wave restarts at its outermost `xbegin` with LAST = 7; its registrations are removed (R149). -/
def Wave.wakeUp (w : Wave) : Wave :=
  match w.run with
  | .woken _ => { w with
      run := .running
      pc := w.tx.begin_
      tx := { w.tx with last := 7, code := 0, cause := 0, lines := [], granules := [], coarse := [], coarseCore := false, doom := false } }
  | _ => w

/-- Does a woken wave go before another that the same write woke: higher effective priority, then the older age stamp (R153)? -/
def Wave.wokenBefore (a b : Wave) : Bool :=
  match a.run, b.run with
  | .woken (some x), .woken (some y) => x == y && (decide (b.effPrio < a.effPrio) || (a.effPrio == b.effPrio && olderTx a b))
  | _, _ => false

/-- Does a woken wave wait for another that the same write woke (R153)? -/
def State.wakeWaits (s : State) (w : Wave) : Bool := s.waves.any fun x => x.gwn != w.gwn && x.wokenBefore w

/-- The restart of a woken wave, in the order of its write's wakes (R149, R153). -/
def execWakeRestart (g : Nat) (s : State) : Result :=
  .next (if (s.wave? g).any s.wakeWaits then s else s.modWave g Wave.wakeUp)

/-- The back-off of a wave ends once its wait is over (R154). -/
def Wave.backOn (t : Nat) (w : Wave) : Wave :=
  match w.run with
  | .backoff due => if due ≤ t then { w with run := .running } else w
  | _ => w

/-- The end of a back-off (R154): once the wait has run out, the wave restarts at its outermost `xbegin`. -/
def execBackoffExpiry (g : Nat) (s : State) : Result := .next (s.modWave g (Wave.backOn s.time))

end Sys2Proof.Machine
end

