-- ==== Sys2Proof/Machine/FullEmpty.lean ====
section
/-! DEFINITION. Full/empty loads and stores, bit operations and `discard` (R111 to R115, R156, R244 to R246). -/

namespace Sys2Proof.Machine

/-- The load type that reads and writes as a full/empty type does (R244). -/
def feLdTy : FeTy → LdTy
  | .b8 => .b8
  | .b16 => .b16
  | .b64 => .b64
  | .b128 => .b128
  | .bf16 => .b16
  | .f16 => .b16
  | _ => .b32

/-- The three full/empty forms. -/
inductive FeKind where
  | ldf | ldfc | stf
  deriving DecidableEq, Repr

/-- Does a granule pass the test of a form (R111, R113, R244, R261)? `full` is its bit as the wave sees it. -/
def State.fePass (s : State) (k : FeKind) (full : Bool) (g : Nat) : Bool :=
  let u := unitOf s.me.gwn
  match k with
  | .ldf => full && !s.litReserves u s.me.crew g
  | .ldfc => full && !s.reserved u s.me.crew g
  | .stf => !full && !s.reserved u s.me.crew g

/-- The granules that the lanes name. -/
def feGranules (ts : List (Nat × Target)) : List Nat := (ts.map fun p => p.2.at_ / 16).eraseDups

/-- Do all the granules pass, with bits read through the wave's own writes inside a transaction? -/
def State.fePassAll (s : State) (k : FeKind) (gs : List Nat) : Bool :=
  match (if s.me.tx.depth = 0 then s else s.overlay).crew? s.me.crew with
  | none => false
  | some c => gs.all fun g => s.fePass k (c.isFull g) g

/-- The wave no longer waits in its wake table (R156). -/
def Wave.unlist (w : Wave) : Wave := { w with tx := { w.tx with granules := [], coarseCore := false }, run := .running }

/-- The registers that the loads of a full/empty form write. -/
def State.feLoads (s : State) (t : FeTy) (d : Opnd) (ts : List (Nat × Target)) : List RegWrite :=
  match s.crew? s.me.crew with
  | none => []
  | some c => ts.flatMap fun p => loadWrites (feLdTy t) d p.1 (c.read p.2.at_ (ldBytes (feLdTy t)))

/-- A successful form outside a transaction: one indivisible step (R112, R244). -/
def State.feAct (s : State) (k : FeKind) (c : Ctl) (t : FeTy) (d : Opnd) (ts : List (Nat × Target)) (again : Bool) : State :=
  let g := s.me.gwn
  let crew := s.me.crew
  let gs := feGranules ts
  let n := ldBytes (feLdTy t)
  let go (s : State) (cls : OrdClass) (ws : List RegWrite) : State :=
    s.finish fun w =>
      let w := w.unlist
      (if again then w else w.raiseSlot c).flyRaised c cls (.regs ws 0)
  let bitsTo (s : State) (b : Bool) : State :=
    (s.modCrew crew fun x => x.setFulls (gs.map fun y => (y, b))).touchGranules g (unitOf g) crew gs
  match k with
  | .ldf => go s .ldf (s.feLoads t d ts)
  | .ldfc => go (bitsTo s false) .ldf (s.feLoads t d ts)
  | .stf => go (bitsTo (ts.foldl (fun s' p => s'.writeScratch g crew p.2.at_ n (s.storeData (ldWords (feLdTy t)) d p.1)) s) true) .st []

/-- The wave sleeps on the granules that it tested (R156); its slot stays raised. -/
def State.feSleep (s : State) (i : Instr) (c : Ctl) (gs : List Nat) (again : Bool) : State :=
  (s.registerGranules gs).mapMe fun w => { ((if again then w else w.raiseSlot c).stamp s.time) with run := .feAsleep i }

/-- The buffered bit changes of granules, line by line. -/
def bitWrites (gs : List Nat) (b : Bool) : List TxWrite :=
  (gs.map (· / 4)).eraseDups.map fun l => ⟨true, l, 0, 0, 0, 0, 0, (gs.filter (· / 4 == l)).map fun g => (g, b)⟩

/-- A successful form inside a transaction (R141): data and bits are buffered together. -/
def State.feTx (s : State) (k : FeKind) (c : Ctl) (t : FeTy) (d : Opnd) (ts : List (Nat × Target)) : State :=
  let gs := feGranules ts
  let s := s.registerGranules gs
  let orAbort (r : Option State) (f : State → State) : State :=
    match r with
    | none => s.abortTx 2 0 0
    | some s => f s
  match k with
  | .ldf => s.launchFlight c .ldf (.regs (s.overlay.feLoads t d ts) 0)
  | .ldfc => orAbort (s.bufferAll (bitWrites gs false)) fun s' => s'.launchFlight c .ldf (.regs (s.overlay.feLoads t d ts) 0)
  | .stf =>
    let n := ldBytes (feLdTy t)
    let ws := ts.flatMap fun p => (s.txWrites p.2 n (s.storeData (ldWords (feLdTy t)) d p.1)).1
    orAbort (s.bufferAll (ws ++ bitWrites gs true)) fun s' => s'.launchFlight c .st (.regs [] 0)

/-- The offset of the first lane of a load form that reads uncorrectable scratch, through the wave's own writes inside a transaction (R118). -/
def State.feBad (s : State) (k : FeKind) (n : Nat) (ts : List (Nat × Target)) : Option Nat :=
  if k = .stf then none else
  ((if s.me.tx.depth = 0 then s else s.overlay).crew? s.me.crew).bind fun c => (ts.find? fun p => c.fails p.2.at_ n).map (·.2.at_)

/-- A full/empty form (R244): `again` when a woken wave executes it once more (R156). It waits for the wave's earlier accesses to its lines, and a `retry` that
it executes for the slots (R122, R141, R147). -/
def State.fe (s : State) (k : FeKind) (i : Instr) (c : Ctl) (t : FeTy) (d : Opnd) (m : MemArg) (again : Bool) : State :=
  let n := ldBytes (feLdTy t)
  State.withChecked (s, s.checkScratch n (s.accLanes c d.isV m n)) fun s ts =>
    let gs := feGranules ts
    if s.busyWith (ts.flatMap fun p => p.2.keys n) then s.stall i
    else if s.fePassAll k gs then
      match s.feBad k n ts with
      | some at_ => s.raise 0x15 5 (BitVec.ofNat 64 at_)
      | none => if s.me.tx.depth = 0 then s.feAct k c t d ts again else s.feTx k c t d ts
    else if s.me.tx.depth = 0 then s.feSleep i c gs again
    else if s.me.slotsZero then (s.registerGranules gs).doRetry else s.stall i

/-- `ldf` (R244). -/
def execLdf (c : Ctl) (t : FeTy) (d : Opnd) (m : MemArg) (s : State) : Result :=
  s.perform (.ldf c t d m) fun s => s.fe .ldf (.ldf c t d m) c t d m false

/-- `ldfc` (R244). -/
def execLdfc (c : Ctl) (t : FeTy) (d : Opnd) (m : MemArg) (s : State) : Result :=
  s.perform (.ldfc c t d m) fun s => s.fe .ldfc (.ldfc c t d m) c t d m false

/-- `stf` (R244). -/
def execStf (c : Ctl) (t : FeTy) (d : Opnd) (m : MemArg) (s : State) : Result :=
  s.perform (.stf c t d m) fun s => s.fe .stf (.stf c t d m) c t d m false

/-- A woken full/empty instruction is executed again, whole (R156). -/
def execFeReexecute (g : Nat) (s : State) : Result :=
  .next (
    let back := s.me.gwn
    let s1 := s.focus g
    match s1.me.run with
    | .feWoken i =>
      if s1.me.gwn = g then
        let s2 := s1.mapMe Wave.unlist
        (match i with
          | .ldf c t d m => s2.fe .ldf i c t d m true
          | .ldfc c t d m => s2.fe .ldfc i c t d m true
          | .stf c t d m => s2.fe .stf i c t d m true
          | _ => s2).focus back
      else s
    | _ => s)

/-- `feset` and `feclr` (R245): checks, then the bits change in order with the wave's accesses, or are buffered inside a transaction. -/
def State.feBits (s : State) (c : Ctl) (a n : Opnd) (full : Bool) : State :=
  let ofs := (s.opnd a 0).toNat
  let len := (s.opnd n 0).toNat
  if ofs % 16 ≠ 0 ∨ len % 16 ≠ 0 then s.raise 0x03 0 (s.opnd a 0)
  else if len ≠ 0 ∧ s.scrSize < ofs + len then s.raise 0x06 0 (s.opnd a 0)
  else if s.me.tx.depth = 0 then s.launchFlight c .st (.setFull ofs len full)
  else match s.bufferAll (bitWrites (granules ofs len) full) with
    | none => s.abortTx 2 0 0
    | some s => s.launchFlight c .st (.regs [] 0)

/-- `feset` (R245). -/
def execFeset (c : Ctl) (a n : Opnd) (s : State) : Result := s.perform (.feset c a n) fun s => s.feBits c a n true

/-- `feclr` (R245). -/
def execFeclr (c : Ctl) (a n : Opnd) (s : State) : Result := s.perform (.feclr c a n) fun s => s.feBits c a n false

/-- `discard` (R115, R246): every line is checked before any is dropped. -/
def execDiscard (c : Ctl) (a : BitVec 6) (n : Opnd) (s : State) : Result :=
  s.perform (.discard c a n) fun s =>
    let va := (s.me.sreg a.toNat).toNat
    let len := (s.opnd n 0).toNat
    if va % 64 ≠ 0 ∨ len % 64 ≠ 0 then s.raise 0x03 0 (s.me.sreg a.toNat)
    else if 65536 < len then s.badCommand
    else
      let as := (List.range (len / 64)).map fun i => (i, va + 64 * i)
      State.withChecked (s.checkGlobal ⟨.w, 1, false, false, false⟩ as) fun s ts => s.launchFlight c .st (.discard (ts.map (·.2)))

end Sys2Proof.Machine
end

