-- ==== Sys2Proof/Machine/System.lean ====
section
/-! DEFINITION. The system profile (R290 to R303): system registers, the harbourmaster's commands, parks that end, and the system instructions. -/

namespace Sys2Proof.Machine

/-! ## Reading system registers (R290, R291) -/

/-- MXP: the oldest unfinished matrix command of a wave (R264). -/
def State.mxp (s : State) (g : Nat) : Word :=
  if !isFar g then 0 else
  match (s.core (unitOf g)).mat.find? (·.gwn == g) with
  | none => 0
  | some m =>
    let f := matFields m.words
    BitVec.ofNat 64 (2 ^ 63 + s.matState (unitOf g) m * 2 ^ 60 + f.bank * 2 ^ 58 + f.total % 2 ^ 16 * 2 ^ 32 + m.done % 2 ^ 16)

/-- WID (R291): GWN is a field of the privileged view. -/
def Wave.wid (w : Wave) (priv : Bool) : Word :=
  BitVec.ofNat 64 (b2n w.priv * 2 ^ 63 + w.ctx % 64 * 2 ^ 48 + w.effPrio % 256 * 2 ^ 40 + w.prio % 32 * 2 ^ 32 + (if priv then w.gwn else 0))

/-- Registers 0x000 to 0x00A of a wave, as a reader of some privilege sees them (R290). -/
def State.waveReg (s : State) (w : Wave) (priv : Bool) (n : Nat) : Word :=
  match n with
  | 0 => w.flags.setWidth 64
  | 1 => w.txs
  | 2 => s.mxp w.gwn
  | 3 => w.wid priv
  | 8 => (w.park.map fun p => BitVec.ofNat 64 p.kind).getD 0
  | 9 => (w.park.map (·.addr)).getD 0
  | 10 => (w.park.map (·.pc)).getD 0
  | n => if 4 ≤ n ∧ n ≤ 7 ∧ isHm w.gwn = false then
      BitVec.ofNat 64 ((((s.ctx? w.ctx).map Context.events).getD 0).toNat >>> (64 * (n - 4)))
    else 0

/-- The wave that SELW selects: one of the same partition, never a harbourmaster core (R294, R303). A slot that holds no wave, and a number that names none, select
none; 0x200 to 0x20A then read zero and discard writes (DESIGN CHOICE, log entry 108). -/
def State.selected (s : State) : Option Wave :=
  let n := s.me.gwn - 9216
  let g := (s.hmCore n).selw.toNat
  if isHm g || s.partOf (unitOf g) != s.partOfHm n then none else s.wave? g

/-- Registers 0x100 to 0x116 of a harbourmaster core and its partition (R290, R292, R302). -/
def State.hmReg (s : State) (n : Nat) : Word :=
  let k := s.me.gwn - 9216
  let h := s.hmCore k
  let pn := s.partOfHm k
  let p := s.part pn
  match n with
  | 0x100 => BitVec.ofNat 64 (b2n h.exc + k * 4)
  | 0x101 => h.epc
  | 0x102 => h.ecause.setWidth 64
  | 0x103 => h.eval
  | 0x104 => h.evec
  | 0x108 => h.selw.setWidth 64
  | 0x110 => p.ctxtab
  | 0x111 => p.stealtab
  | 0x112 => p.fqbase
  | 0x113 => p.fqcap.setWidth 64
  | 0x114 => BitVec.ofNat 64 (pn * 4 + s.out.mode.toNat)
  | 0x116 => p.hmres.setWidth 64
  | _ => 0

/-- A system register as the executing agent reads it (R290). -/
def State.sysreg (s : State) (n : Nat) : Word :=
  if n < 0x100 then s.waveReg s.me s.me.priv n
  else if n < 0x200 then s.hmReg n
  else match s.selected with
    | none => 0
    | some w => s.waveReg w true (n - 0x200)

/-- `srr` (R290). -/
def execSrr (c : Ctl) (d : BitVec 6) (reg : BitVec 16) (s : State) : Result :=
  s.perform (.srr c d reg) fun s => s.finish (·.setS d.toNat (s.sysreg reg.toNat))

/-! ## The harbourmaster's commands (R297 to R299) -/

/-- HMRES of a partition. -/
def State.setRes (s : State) (p : Nat) (r : BitVec 2) : State := s.modPart p fun x => { x with hmres := r }

/-- Do n bytes at a physical address lie in a partition's memory (R303)? A table that reaches beyond it cannot be read or written (log entry 87). -/
def State.inPart (s : State) (at_ n : Nat) : Bool := decide (at_ + n ≤ s.partSize)

/-- The words of a context-table entry, and whether it cannot be read (R297): it reaches beyond the memory or is uncorrectable (DESIGN CHOICE, log entry 104). -/
def State.ctxEntry (s : State) (p slot : Nat) : List Word × Bool :=
  let at_ := (s.part p).ctxtab.toNat + 64 * slot
  let rs := (List.range 8).map fun i => s.readPhys (s.partBase p + at_ + 8 * i) 8
  (rs.map fun r => BitVec.ofNat 64 r.1, !s.inPart at_ 64 || rs.any (·.2))

/-- Does an entry break the table of R297? -/
def ctxEntryBad (ws : List Word) : Bool :=
  !bitAt (ws.getD 0 0).toNat 63 || wordBits ws 0 60 2 != 0 || wordBits ws 0 48 12 == 0 || wordBits ws 0 0 6 != 0
    || wordBits ws 1 59 5 != 0 || wordBits ws 1 0 12 != 0 || wordBits ws 1 48 11 > 2047
    || decide (wordBits ws 2 32 32 < 1000) || decide (10000000 < wordBits ws 2 32 32) || wordBits ws 2 0 32 != 0
    || (ws.drop 3).any (· != 0)

/-- Is a slot of the partition? -/
def State.slotIn (s : State) (p slot : Nat) : Bool := decide (slot < 64) && s.partOfCtx slot == p

/-- CTXLOAD (R297): none where it is refused. -/
def State.ctxLoad (s : State) (p slot : Nat) : Option State :=
  let e := s.ctxEntry p slot
  let ws := e.1
  if !s.slotIn p slot || (s.ctx? slot).isSome || e.2 || ctxEntryBad ws then none else
  let c : Context := {
    slot := slot
    priv := bitAt (ws.getD 0 0).toNat 62
    ntypes := wordBits ws 0 48 12
    typetab := wordBits ws 0 0 48
    quota := wordBits ws 1 48 11 + 1
    ptroot := wordBits ws 1 0 48
    wdog := wordBits ws 2 32 32
    events := 0
    charts := []
    launches := []
    nextLaunch := 1
    preempted := false
    frozen := false
    images := []
    nextImage := 0
    badCharts := []
    hang := none }
  some ({ s with ctxs := s.ctxs ++ [c] }.mirror slot 0)

/-- CTXSET (R297, R298). -/
def State.ctxSet (s : State) (p slot : Nat) : Option State :=
  let e := s.ctxEntry p slot
  if !s.slotIn p slot || (s.ctx? slot).isNone || e.2 then none
  else some (s.modCtx slot fun c => { c with quota := wordBits e.1 1 48 11 + 1, wdog := wordBits e.1 2 32 32 })

/-- CTXUNLOAD (R297): a far core that last served the slot keeps nothing for the next context in it (R254, R307). -/
def State.ctxUnload (s : State) (p slot : Nat) : Option State :=
  match s.ctx? slot with
  | none => none
  | some c =>
    if !s.slotIn p slot || s.berths.any (fun b => b.countOf slot != 0) || !c.images.isEmpty || !c.launches.isEmpty then none
    else some { s with
      ctxs := s.ctxs.filter (·.slot != slot)
      cores := mapWhere (fun k => k.served == some slot) (fun k => { k with served := none }) s.cores }

/-- The valid entries of a steal chart, in order (R299). -/
def chartPrefix : List Nat → List Nat
  | [] => []
  | x :: r => if bitAt x 15 then x :: chartPrefix r else []

/-- STEALLOAD (R299, R309): a request that is outstanding stays so (R308). A chart that is uncorrectable is refused (DESIGN CHOICE, log entry 104). -/
def State.stealLoad (s : State) (p core : Nat) : Option State :=
  let at_ := (s.part p).stealtab.toNat + 64 * core
  let rs := (List.range 32).map fun i => s.readPhys (s.partBase p + at_ + 2 * i) 2
  let bs := (chartPrefix (rs.map (·.1))).map (· % 256)
  let old := s.pilots.find? (·.core == core)
  if s.partOfDie (core / 64) != p || !s.inPart at_ 64 || rs.any (fun r => r.2 || bits r.1 8 7 != 0) || bs.eraseDups.length != bs.length
      || bs.any (fun b => b / (64 * s.dies) != p) then none
  else some { s with pilots := ⟨core, bs, s.time, false, old.bind (·.asked), (old.map (·.next)).getD 0⟩ :: s.pilots.filter (·.core != core) }

/-- The result of a command: HMRES 0, or 1 with nothing changed (R297). -/
def State.hmDone (s : State) (p : Nat) (r : Option State) : State :=
  match r with
  | none => s.setRes p 1
  | some s => s.setRes p 0

/-- A write to HMCMD (R297). The bits of ARG that a command does not use are ignored (DESIGN CHOICE, log entry 109). -/
def State.hmCommand (s : State) (p : Nat) (x : Word) : State :=
  let op := bits x.toNat 56 8
  let slot := x.toNat % 64
  if bits x.toNat 16 40 ≠ 0 then s.setRes p 1
  else if op = 1 then s.hmDone p (s.ctxLoad p slot)
  else if op = 2 then s.hmDone p (s.ctxSet p slot)
  else if op = 3 then s.hmDone p (s.stealLoad p (x.toNat % 256))
  else if op = 4 then s.hmDone p (s.ctxUnload p slot)
  else s.setRes p 1

/-- A command as a step of its own, which is the partition's harbourmaster's work (R305). -/
def State.hmStep (s : State) (p : Nat) (r : Option State) : State := if s.hmAlive p then s.hmDone p r else s

/-- CTXLOAD as a step of its own. -/
def execCtxload (part slot : Nat) (s : State) : Result := .next (s.hmStep part (s.ctxLoad part slot))
/-- CTXSET as a step of its own. -/
def execCtxset (part slot : Nat) (s : State) : Result := .next (s.hmStep part (s.ctxSet part slot))
/-- STEALLOAD as a step of its own. -/
def execStealload (part core : Nat) (s : State) : Result := .next (s.hmStep part (s.stealLoad part core))
/-- CTXUNLOAD as a step of its own. -/
def execCtxunload (part slot : Nat) (s : State) : Result := .next (s.hmStep part (s.ctxUnload part slot))

/-! ## The end of a park (R300, R301) -/

/-- The engine commands of a wave leave their park and are tried again (R263, R269). -/
def State.unparkCommands (s : State) (g : Nat) : State :=
  if !isFar g then s else
  let k := s.core (unitOf g)
  s.setCore { k with
    mat := k.mat.map fun m => if m.gwn == g && m.state == 4 then { m with state := if m.done = 0 && !m.reserved then 0 else 3 } else m
    lit := k.lit.map fun l => if l.gwn == g then { l with parked := false } else l }

/-- RESUME (R301): an instruction executes again, a `trap` completes, an engine command goes on. -/
def State.resumeWave (s : State) (g : Nat) : State :=
  match s.wave? g with
  | none => s
  | some w =>
    match w.park with
    | none => s
    | some p =>
      let s := if p.engine = 0 then s else s.unparkCommands g
      s.modWave g fun w =>
        let w := { w with run := .running, park := none }
        if p.kind = 3 then w.fallThrough else w

/-- FAULT (R301): the parked wave's task faults with the given cause; its SEV is 0 whatever the cause (DESIGN CHOICE, log entry 101). -/
def State.faultWave (s : State) (g cause : Nat) : State :=
  match s.wave? g with
  | none => s
  | some w =>
    match w.park with
    | none => s
    | some p => s.failTask w.crew ⟨cause, 0, p.pc, p.addr⟩

/-- A code of R65. -/
def causeKnown (c : Nat) : Bool :=
  (decide (1 ≤ c) && decide (c ≤ 0x0B)) || c == 0x13 || c == 0x14 || c == 0x15 || c == 0x20 || c == 0x21 || c == 0x22

/-- A write to WCTL of the selected wave (R301): discarded for a wave that is not parked; another OP or CAUSE faults BAD_COMMAND. The result is none
for the fault. -/
def State.wctl (s : State) (x : Word) : Option State :=
  match s.selected with
  | none => some s
  | some w =>
    if w.park.isNone then some s else
    let op := bits x.toNat 56 8
    if op = 1 then some (s.resumeWave w.gwn)
    else if op = 2 ∧ causeKnown (x.toNat % 256) = true then some (s.faultWave w.gwn (x.toNat % 256))
    else none

/-- RESUME as a step of its own, by a running harbourmaster core (R305): not before every store of the partition's harbourmaster cores is performed (R334). -/
def execResume (g : Nat) (s : State) : Result :=
  .next (if !s.hmAlive (s.partOf (unitOf g)) || s.waves.any fun w => isHm w.gwn && s.partOf (unitOf w.gwn) == s.partOf (unitOf g) && w.writing then s
    else s.resumeWave g)

/-- FAULT as a step of its own, by a running harbourmaster core (R305): a cause that R65 does not give acts on nothing. -/
def execFault (g : Nat) (cause : BitVec 8) (s : State) : Result :=
  .next (if s.hmAlive (s.partOf (unitOf g)) && causeKnown cause.toNat then s.faultWave g cause.toNat else s)

/-! ## Writing system registers (R290) -/

/-- FLAGS is written whole, and its parity with it (R87, R355). -/
def Wave.setFlags (x : BitVec 5) (w : Wave) : Wave := { w with flags := x, bad := clearBad (· == .flags) w.bad }

/-- A write that has no behaviour of its own: the writable bits take the value, the others are discarded (R290, R292). -/
def State.sysregStore (s : State) (n : Nat) (x : Word) : State :=
  let k := s.me.gwn - 9216
  let pn := s.partOfHm k
  let low (b : Nat) : Word := x &&& ~~~(BitVec.ofNat 64 (2 ^ b - 1))
  match n with
  | 0x000 => s.mapMe (Wave.setFlags (x.setWidth 5))
  | 0x100 => s.modHm k fun h => { h with exc := x.getLsbD 0 }
  | 0x101 => s.modHm k fun h => { h with epc := x }
  | 0x104 => s.modHm k fun h => { h with evec := low 3 }
  | 0x108 => s.modHm k fun h => { h with selw := x.setWidth 14 }
  | 0x110 => s.modPart pn fun p => { p with ctxtab := low 12 }
  | 0x111 => s.modPart pn fun p => { p with stealtab := low 14 }
  | 0x112 => s.modPart pn fun p => { p with fqbase := low 12 }
  | 0x113 => s.modPart pn fun p => { p with fqcap := x.setWidth 16 }
  | 0x200 =>
    match s.selected with
    | none => s
    | some w => s.modWave w.gwn (Wave.setFlags (x.setWidth 5))
  | _ => s

/-- A system-register write as a step of its own. -/
def execSysregWrite (reg : BitVec 16) (value : Word) (s : State) : Result :=
  .next (if isHm s.me.gwn || reg == 0 then s.sysregStore reg.toNat value else s)

/-- `srw` (R290, R297, R301). -/
def execSrw (c : Ctl) (reg : BitVec 16) (a : BitVec 6) (s : State) : Result :=
  s.perform (.srw c reg a) fun s =>
    let x := s.me.sreg a.toNat
    if reg = 0x115 then (s.hmCommand (s.partOfHm (s.me.gwn - 9216)) x).finish id
    else if reg = 0x20B then
      match s.wctl x with
      | none => s.badCommand
      | some s => s.finish id
    else (s.sysregStore reg.toNat x).finish id

/-! ## The system instructions (R295) -/

/-- `trap` (R293, R295). -/
def execTrap (c : Ctl) (imm : BitVec 16) (s : State) : Result :=
  s.perform (.trap c imm) fun s =>
    let s1 := s.mapMe (Wave.stamp s.time)
    if isHm s.me.gwn then s1.hmException (s.me.pc + 8) 0x40 (imm.setWidth 64)
    else s1.parkWave s.me.gwn 3 0 (imm.setWidth 64) s.me.pc

/-- `eret` (R295). -/
def execEret (c : Ctl) (s : State) : Result := s.perform (.eret c) State.hmReturn

/-- `tlbi` (R295): the invalidation is in flight until every TLB has taken it. -/
def execTlbi (c : Ctl) (a b : BitVec 6) (s : State) : Result :=
  s.perform (.tlbi c a b) fun s =>
    let y := (s.me.sreg b.toNat).toNat
    let kind := bits y 8 2
    if kind = 3 ∨ y ≠ y % 64 + kind * 256 ∨ s.slotIn (s.partOf (unitOf s.me.gwn)) (y % 64) = false then s.badCommand
    else s.launchFlight c .other (.tlbi (s.me.sreg a.toNat).toNat (y % 64) kind)

/-- `tlbsync`: it waits as `State.acts` says (R295). -/
def execTlbsync (c : Ctl) (s : State) : Result :=
  s.perform (.tlbsync c) fun s => s.finish fun w => { w with sync := [], syncTx := [] }

/-- `sighost`: a fence at system scope, and then the message (R134, R295). -/
def execSighost (c : Ctl) (a : BitVec 6) (s : State) : Result :=
  s.perform (.sighost c a) fun s => s.launchFlight c .ara (.sighost ((s.me.sreg a.toNat).toNat % 2048))

/-- `halt` stops the core (R295). -/
def execHalt (c : Ctl) (s : State) : Result :=
  s.perform (.halt c) fun s => (s.mapMe (Wave.stamp s.time)).mapMe fun w => { w with run := .halted }

end Sys2Proof.Machine
end

