-- ==== Sys2Proof/Machine/Tasks.lean ====
section
/-! DEFINITION. The instructions through which a task reaches its berth, its launch and the harbourmaster (R248 to R253). -/

namespace Sys2Proof.Machine

/-- Is the record of a `spawn` refused with BAD_COMMAND (R37, R248)? -/
def spawnBad (priv : Bool) (t : Option TypeEntry) (ws : List Word) : Bool :=
  wordBits ws 0 60 4 != 0 || wordBits ws 1 37 3 != 0 || t.isNone || (decide (28 ≤ (taskFields ws).prio) && !priv)

/-- `spawn`: the record is eight scalars from the first one of its quad on, read at issue (R165, R248). -/
def execSpawn (c : Ctl) (d q : BitVec 6) (s : State) : Result :=
  s.perform (.spawn c d q) fun s =>
    let ws := (List.range 8).map fun i => s.me.sreg (q.toNat + i)
    let t := s.typeEntry s.me.ctx (taskFields ws).ty
    if spawnBad s.me.priv t.2 ws then t.1.badCommand else t.1.launchFlight c .rel (.spawn d.toNat ws)

/-- The wave of a crew ends (R61, R250): the task retires with its last wave. -/
def State.endWave (s : State) (g crew : Nat) : State :=
  match s.crew? crew with
  | none => s
  | some c =>
    if c.alive ≤ 1 then s.retire crew
    else
      let s := s.modCrew crew fun x => { x with alive := x.alive - 1 }
      s.dropWaves fun w => w.gwn == g

/-- `tret` (R250): its waits are the drain of the issue. -/
def execTret (c : Ctl) (s : State) : Result :=
  s.perform (.tret c) fun s => s.endWave s.me.gwn s.me.crew

/-- `progress`: a progress event for the watchdog (R251, R317), none in a shadow copy (R320). -/
def execProgress (c : Ctl) (s : State) : Result :=
  s.perform (.progress c) fun s =>
    let quiet := s.isShadow s.me.crew
    s.finish fun w => if quiet then w else { w with watch := 0 }

/-- `evset` and `evclr` (R252): an event number of 256 or more faults; a shadow copy changes nothing (R320). -/
def State.event (s : State) (c : Ctl) (e : Opnd) (on : Bool) : State :=
  let n := (s.opnd e 0).toNat
  if 256 ≤ n then s.badCommand
  else if s.isShadow s.me.crew then s.launchFlight c .rel (.regs [] 0)
  else s.launchFlight c .rel (.event n on)

/-- `evset` (R252). -/
def execEvset (c : Ctl) (e : Opnd) (s : State) : Result := s.perform (.evset c e) fun s => s.event c e true

/-- `evclr` (R252). -/
def execEvclr (c : Ctl) (e : Opnd) (s : State) : Result := s.perform (.evclr c e) fun s => s.event c e false

/-- `launch` (R253): alignment, then the read permission of each line of the record; a shadow copy submits nothing and reads status 0 (R320). -/
def execLaunch (c : Ctl) (d a : BitVec 6) (s : State) : Result :=
  s.perform (.launch c d a) fun s =>
    let va := (s.me.sreg a.toNat).toNat
    if va % 128 ≠ 0 then s.raise 0x03 0 (s.me.sreg a.toNat)
    else
      State.withChecked (s.checkGlobal ⟨.r, 1, false, true, false⟩ [(0, va), (1, va + 64)]) fun s ts =>
        if s.isShadow s.me.crew then s.launchFlight c .rel (.regs [.s d.toNat 0] 0)
        else s.launchFlight c .rel (.launch d.toNat (ts.map (·.2)))

end Sys2Proof.Machine
end

