-- ==== Sys2Proof/Machine/Complete.lean ====
section
/-! DEFINITION. How an instruction in flight completes: the order within a wave, what each kind does, and its slot's fall (R17, R97, R118, R121
to R129, R211 to R253). -/

namespace Sys2Proof.Machine

/-- The operation with a number in a wave. -/
def Wave.flight? (w : Wave) (id : Nat) : Option Flight := w.flights.find? (·.id == id)

/-- The operation completes: it leaves the wave after a last change, and its slot falls (R17). -/
def State.endFlight (s : State) (g : Nat) (f : Flight) (upd : Wave → Wave) : State :=
  s.modWave g fun w => ({ upd w with flights := w.flights.filter (·.id != f.id) }).slotDown f.slot

/-- What an operation in flight still has to do is replaced. -/
def State.setBody (s : State) (g id : Nat) (b : Pending) : State :=
  s.modWave g fun w => { w with flights := mapWhere (·.id == id) (fun f => { f with body := b }) w.flights }

/-- An operation in flight ends in a fault of its wave: the manifest PC is its address (R118), and a harbourmaster core enters an exception. -/
def State.flightFault (s : State) (g : Nat) (f : Flight) (cause sev : Nat) (detail : Word) : State :=
  let s := s.endFlight g f id
  match s.wave? g with
  | none => s
  | some w =>
    if isHm g then
      let back := s.me.gwn
      ((s.focus g).hmException f.pc cause detail).focus back
    else s.failTask w.crew ⟨cause, sev, f.pc, detail⟩

/-! ## Loads and stores -/

/-- A wave whose acquire is performed has seen what the other waves of its unit have performed at core scope (R130). -/
def State.acquired (s : State) (acq : Bool) (f : Flight) (w : Wave) : Wave :=
  if acq then { w with coreSeen := s.sawCore w.gwn (f.id + 1) } else w

/-- Reads the lanes of a load: the register writes and flags. -/
def State.readLanes (s : State) (unit crew : Nat) (plain many : Bool) (t : LdTy) (d : Opnd) :
    List (Nat × Target) → List RegWrite → Flags → State × List RegWrite × Flags
  | [], ws, fl => (s, ws, fl)
  | (l, a) :: r, ws, fl =>
    let x := s.readLane unit crew plain many a (ldBytes t)
    State.readLanes x.1 unit crew plain many t d r (ws ++ loadWrites t d l x.2.val) (fl ||| x.2.flags)

/-- Records the errors that an access meets which faults (R116). -/
def State.recordReads (s : State) (unit crew : Nat) (nan many : Bool) (size : Nat) (ts : List Target) : State :=
  ts.foldl (fun s t => { s with out := (s.readAt unit crew nan many t size).1.out }) s

/-- A load performs some of its lanes left, of which those that no L1 copy answers are classified with all the access delivers (R350), and keeps the rest; with
none left it completes, its destination is written, and an acquire invalidates L1 (R19, R121, R125, R236). Where a lane makes it fault, every lane left decides
the severity, cause and address. -/
def State.doLoad (s : State) (w : Wave) (f : Flight) (d : Opnd) (t : LdTy) (left now later : List (Nat × Target)) (acq : Bool) (all : List Target)
    (got : List RegWrite) (fl : Flags) : State :=
  let u := unitOf w.gwn
  let n := ldBytes t
  let home (l : List Target) : List Target := l.filter fun a => (s.l1Copy u (!acq) a).isNone
  let many := s.manyOver u n (home all)
  match s.judge u w.crew true many n (home (now.map (·.2))) with
  | some x =>
    let e := (s.judge u w.crew true many n (home (left.map (·.2)))).getD x
    ((s.recordUnread u n (home all)).recordReads u w.crew true many n (home (now.map (·.2)))).flightFault w.gwn f (ueCause e.1) e.1 (BitVec.ofNat 64 e.2)
  | none =>
    let r := (if later.isEmpty then s.recordUnread u n (home all) else s).readLanes u w.crew (!acq) many t d now got fl
    if later.isEmpty then (if acq then r.1.flushL1 u else r.1).endFlight w.gwn f fun x => s.acquired acq f ((x.writes r.2.1).orFlags r.2.2)
    else r.1.setBody w.gwn f.id (.load d t later acq all r.2.1 r.2.2)

/-- A release of system scope leaves no stale copy at the host of what was performed before it (R126, R135). -/
def State.showHost (s : State) (sys : Bool) : State := if sys then s.fenceHost else s

/-- Does a write of a wave to a target need a link that has failed (R320, R354)? -/
def State.storeCut (s : State) (w : Wave) (size : Nat) (t : Target) : Bool := !s.isShadow w.crew && s.cutOff (s.dieOf (unitOf w.gwn)) size t

/-- A store performs the given lanes and keeps the rest; with none left it completes (R97, R121). One of system scope is seen by the host after everything
earlier, and is complete once the host holds no stale copy of it (R126, R135). A lane that only a failed link reaches ends it, but a shadow copy's, which writes
at no home (R320, R354). -/
def State.doStore (s : State) (w : Wave) (f : Flight) (size : Nat) (now later : List (Nat × Target × Nat)) (sys : Bool) : State :=
  match (now.map fun p => p.2.1).find? (s.storeCut w size) with
  | some t => s.flightFault w.gwn f 0x15 5 (BitVec.ofNat 64 t.va)
  | none =>
  let r := (s.showHost sys).storeLanes w.gwn w.crew size (now.map (·.2))
  let s := r.1.modWave w.gwn (·.orFlags r.2)
  if later.isEmpty then (s.showHost sys).endFlight w.gwn f id else s.setBody w.gwn f.id (.store size later sys)

/-! ## Atomics (R129, R241, R242) -/

/-- Executes lanes of an atomic in order: each reads, computes and writes as one step. -/
def State.atomLanes (s : State) (g crew : Nat) (many : Bool) (op : AtomOp) (t : AtTy) (d : Opnd) :
    List (Nat × Target × Nat × Nat) → List RegWrite → Flags → State × List RegWrite × Flags
  | [], ws, fl => (s, ws, fl)
  | (l, a, x, y) :: r, ws, fl =>
    let u := unitOf g
    let rd := s.readAt u crew false many a (atBytes t)
    let n := atomNew op t rd.2.val x y
    let s := (rd.1.storeLanes g crew (atBytes t) [(a, n.1)]).1
    State.atomLanes (s.dropCopies u 1 a) g crew many op t d r (ws ++ atomWrites t d l rd.2.val) (fl ||| n.2)

/-- An atomic executes some of its lanes left and keeps the rest; with none left it completes, and its destination is written (R19, R121). An uncorrectable
element of one of them ends it with their targets unchanged, and every lane left decides the severity, cause and address (R117, R350). -/
def State.doAtomic (s : State) (w : Wave) (f : Flight) (op : AtomOp) (t : AtTy) (d : Opnd)
    (left now later : List (Nat × Target × Nat × Nat)) (acq sys : Bool) (all : List Target) (got : List RegWrite) (fl : Flags) : State :=
  let u := unitOf w.gwn
  let n := atBytes t
  let tgs := now.map fun p => p.2.1
  let many := s.manyOver u n all
  match s.judge u w.crew false many n tgs with
  | some x =>
    let e := (s.judge u w.crew false many n (left.map fun p => p.2.1)).getD x
    ((s.recordUnread u n all).recordReads u w.crew false many n tgs).flightFault w.gwn f (ueCause e.1) e.1 (BitVec.ofNat 64 e.2)
  | none =>
    let r := ((if later.isEmpty then s.recordUnread u n all else s).showHost sys).atomLanes w.gwn w.crew many op t d now got fl
    if later.isEmpty then
      let s := r.1.showHost sys
      (if acq then s.flushL1 u else s).endFlight w.gwn f fun x => s.acquired acq f ((x.writes r.2.1).orFlags r.2.2)
    else r.1.setBody w.gwn f.id (.atomic op t d later acq sys all r.2.1 r.2.2)

/-! ## Bits, discards, tables, charts, accumulators, invalidations -/

/-- A bit operation (R245): each change of a bit dooms and wakes (R152). -/
def State.doSetFull (s : State) (w : Wave) (f : Flight) (ofs len : Nat) (full : Bool) : State :=
  match s.crew? w.crew with
  | none => s.endFlight w.gwn f id
  | some c =>
    let gs := (granules ofs len).filter fun g => c.isFull g != full
    ((s.modCrew w.crew fun x => x.setFulls (gs.map fun g => (g, full))).touchGranules w.gwn c.unit w.crew gs).endFlight w.gwn f id

/-- A line of a `discard` (R115): a shadow copy drops nothing; both it and a primary hash 64 zero bytes (R320). -/
def State.discardOne (s : State) (g crew : Nat) (t : Target) : State :=
  let s := s.hash crew (toBytes 8 t.va ++ List.replicate 64 0)
  if s.isShadow crew then s
  else
    let u := unitOf g
    let s := s.discardLine g (t.at_ / 64) t.code
    if u < 256 then s.dropL1 u (t.at_ / 64) else s

/-- A `discard` drops the given lines and keeps the rest; with none left it completes (R121, R246). A line that only a failed link reaches ends it (R354). -/
def State.doDiscard (s : State) (w : Wave) (f : Flight) (now later : List Target) : State :=
  match now.find? (s.storeCut w 1) with
  | some t => s.flightFault w.gwn f 0x15 5 (BitVec.ofNat 64 t.va)
  | none =>
  let s := now.foldl (fun s t => s.discardOne w.gwn w.crew t) s
  if later.isEmpty then s.endFlight w.gwn f id else s.setBody w.gwn f.id (.discard later)

/-- A `ctld` reads its 32 bytes and writes the shadow bank, if a sorted table keeps R75 (R271). -/
def State.doCtld (s : State) (w : Wave) (f : Flight) (n bank : Nat) (sorted : Bool) (src : Target) : State :=
  let r := s.readWhole (unitOf w.gwn) w.crew src 32
  match r.2.fault with
  | some sev => r.1.flightFault w.gwn f (ueCause sev) sev (BitVec.ofNat 64 src.va)
  | none =>
    let es := (List.range 16).map fun i => BitVec.ofNat 16 (r.2.val >>> (16 * i))
    if sorted && !cbSorted es then r.1.flightFault w.gwn f 0x09 0 0
    else
      let k := r.1.core (unitOf w.gwn)
      let bit : BitVec 16 := BitVec.ofNat 16 (2 ^ (2 * n + bank))
      (r.1.setCore { k with
        tables := Cells.setRange k.tables (32 * n + 16 * bank) es
        badTables := k.badTables.filter fun i => i / 16 != 2 * n + bank
        sorted := if sorted then k.sorted ||| bit else k.sorted &&& ~~~bit }).endFlight w.gwn f id

/-- The charts of a context without one; a chart that is replaced is read no more (R355). -/
def Context.dropChart (n : Nat) (c : Context) : Context :=
  { c with charts := c.charts.filter (·.1 != n), badCharts := c.badCharts.filter (· != n) }

/-- A `chartld`: the harbourmaster, while a core of the partition runs (R305), reads its record with the host port's walker (R294), and it becomes the chart,
unloads it, or faults (R274, R275). It reads the chart that it names, and faults where that fails its parity (R355; log entry 77). -/
def State.doChartld (s : State) (w : Wave) (f : Flight) (n : Nat) (src : Target) : State :=
  if !s.hmAlive (s.partOfCtx w.ctx) then s
  else if (s.ctx? w.ctx).any fun c => c.badCharts.contains n then s.flightFault w.gwn f 0x15 5 0 else
  let q := s.hmPlace w.ctx src.va .r
  match q.2 with
  | .error (cause, sev) => q.1.flightFault w.gwn f cause sev (BitVec.ofNat 64 src.va)
  | .ok t =>
    let r := q.1.readWhole (q.1.hmUnit w.ctx) w.crew t 64
    match r.2.fault with
    | some sev => r.1.flightFault w.gwn f (ueCause sev) sev (BitVec.ofNat 64 src.va)
    | none =>
      let ws := (List.range 8).map fun i => BitVec.ofNat 64 (r.2.val >>> (64 * i))
      let m := 64 * r.1.dies
      let p := r.1.partOfCtx w.ctx
      if ws.all (· == 0) then (r.1.modCtx w.ctx (Context.dropChart n)).endFlight w.gwn f id
      else if chartBad ws (m * p) (m * p + m) then r.1.flightFault w.gwn f 0x09 0 0
      else (r.1.modCtx w.ctx fun c => { c.dropChart n with charts := (n, ws) :: (c.dropChart n).charts }).endFlight w.gwn f id

/-- An `accrd` (R265): an element that fails its parity faults at it (R355). -/
def State.doAccrd (s : State) (w : Wave) (f : Flight) (d bank : Nat) (els : List (Nat × Nat)) : State :=
  let k := s.core (unitOf w.gwn)
  if k.accBad bank els then s.flightFault w.gwn f 0x15 5 0 else
  s.endFlight w.gwn f fun x => x.setLanes d (els.map fun e => (e.1, Cells.get k.banks (accKey bank e.2)))

/-- An `accwr` (R265). -/
def State.doAccwr (s : State) (w : Wave) (f : Flight) (bank : Nat) (els : List (Nat × Lane)) : State :=
  (s.setCore ((s.core (unitOf w.gwn)).accWrite bank els)).endFlight w.gwn f id

/-- Does a `tlbi` name a cached entry (R295)? -/
def tlbiHits (s : State) (part va ctx kind : Nat) (t : TlbEntry) : Bool :=
  if kind = 0 then t.ctx == ctx && t.index == va / 2 ^ levelShift t.level
  else if kind = 1 then t.ctx == ctx
  else s.partOfCtx t.ctx == part

/-- Was an address that a leaf of some level translated translated through an entry that a `tlbi` invalidates: of kind 0 the leaf of the page that holds its
address; a level of 0 names no leaf (R295)? -/
def tlbiCovers (va kind at_ level : Nat) : Bool := kind != 0 || (level != 0 && at_ / 2 ^ levelShift level == va / 2 ^ levelShift level)

/-- The targets that an operation in flight has translated and still reaches. -/
def Pending.targets : Pending → List Target
  | .load _ _ ls _ _ _ _ => ls.map (·.2)
  | .store _ ls _ => ls.map fun p => p.2.1
  | .atomic _ _ _ ls _ _ _ _ _ => ls.map fun p => p.2.1
  | .discard ls => ls
  | .launch _ ls => ls
  | .ctld _ _ _ src _ => [src]
  | .chartld _ src => [src]
  | _ => []

/-- May a wave have translated an address through an entry that a `tlbi` invalidates (R295)? -/
def State.tlbiWave (s : State) (part ctx kind : Nat) (w : Wave) : Bool :=
  !isHm w.gwn && (if kind = 2 then s.partOf (unitOf w.gwn) == part else w.ctx == ctx)

/-- The accesses in flight that a `tlbsync` must wait for: those translated through an entry that the `tlbi` invalidates (R295). -/
def State.tlbiWaits (s : State) (part va ctx kind : Nat) : List (Nat × Nat) :=
  (s.waves.filter (s.tlbiWave part ctx kind)).flatMap fun w =>
    ((w.flights.filter fun f => f.body.targets.any fun t => t.space != .scr && tlbiCovers va kind t.va t.level).map fun f => (w.gwn, f.id))
      ++ (if isFar w.gwn then ((s.core (unitOf w.gwn)).lit.filter fun l => l.gwn == w.gwn && l.started
            && l.pages.any fun p => tlbiCovers va kind p.va p.tgt.level).map fun l => (w.gwn, l.id) else [])

/-- The transactions that hold stores translated through such an entry in their buffers, for which a `tlbsync` waits as well (R295). -/
def State.tlbiTx (s : State) (part va ctx kind : Nat) : List (Nat × Nat) :=
  (s.waves.filter fun w => s.tlbiWave part ctx kind w && w.tx.depth != 0
    && w.tx.buf.any fun x => !x.scratch && tlbiCovers va kind x.va x.level).map fun w => (w.gwn, w.tx.since)

/-- A `tlbi` has reached every TLB of the partition (R295). -/
def State.doTlbi (s : State) (w : Wave) (f : Flight) (va ctx kind : Nat) : State :=
  let p := s.partOf (unitOf w.gwn)
  let more := s.tlbiWaits p va ctx kind
  let txs := s.tlbiTx p va ctx kind
  (s.tlbDrop (tlbiHits s p va ctx kind)).endFlight w.gwn f fun x => { x with sync := x.sync ++ more, syncTx := x.syncTx ++ txs }

/-! ## Spawns, events, launches, messages -/

/-- The record of a spawn as it is enqueued: SPAWNED set, the spawner's launch id written (R37, R248). -/
def spawnRecord (ws : List Word) (launch : Nat) : List Word :=
  match ws with
  | a :: b :: r => (a ||| 0x1000000000000000) :: BitVec.ofNat 64 (launch % 2 ^ 24 * 2 ^ 40 + b.toNat % 2 ^ 40) :: r
  | l => l

/-- The message of a spawn's event (R321): the record with its LAUNCH field. -/
def spawnMessage (ws : List Word) (launch : Nat) : List Byte :=
  List.replicate 8 0xFF ++ (match ws with
    | a :: b :: r => a :: BitVec.ofNat 64 (launch % 2 ^ 24 * 2 ^ 40 + b.toNat % 2 ^ 40) :: r
    | l => l).flatMap fun (x : Word) => toBytes 8 x.toNat

/-- A spawn is answered with a status word (R249). -/
def State.answer (s : State) (g : Nat) (f : Flight) (d status : Nat) : State :=
  s.endFlight g f fun x => x.setS d (BitVec.ofNat 64 status)

/-- A `spawn` offers its record (R51, R248): a shadow copy offers nothing; an anchor that faults or cannot be claimed is answered at once, before the berth
looks for room (DESIGN CHOICE, log entry 69). -/
def State.doSpawn (s : State) (w : Wave) (f : Flight) (d : Nat) (ws : List Word) : State :=
  let launch := ((s.crew? w.crew).map (·.launch)).getD 0
  if s.isShadow w.crew then (s.hash w.crew (spawnMessage ws launch)).answer w.gwn f d 0
  else if s.berths.any fun b => b.offers.any fun o => o.gwn == w.gwn && o.flight == f.id then s
  else
    let t := taskFields ws
    let a := s.anchor (unitOf w.gwn) w.ctx t.base t.len
    match a.2 with
    | .error (cause, _) => a.1.answer w.gwn f d (3 + 256 * cause)
    | .ok place =>
      let e := a.1.typeEntry w.ctx t.ty
      if spans t.base t.len && !((e.2.map fun x => x.farPc != 0).getD false) then e.1.answer w.gwn f d (3 + 256 * 0x0A)
      else
        let b := e.1.berth (e.1.berthOf place)
        e.1.setBerth { b with offers := b.offers ++ [⟨e.1.time, w.gwn, f.id⟩] }

/-- An event operation (R252, R304), while a harbourmaster core of the partition runs (R305). -/
def State.doEvent (s : State) (w : Wave) (f : Flight) (e : Nat) (on : Bool) : State :=
  if !s.hmAlive (s.partOfCtx w.ctx) then s else
  let old := ((s.ctx? w.ctx).map (·.events)).getD 0
  let bit : BitVec 256 := BitVec.ofNat 256 (2 ^ e)
  ((s.setEvents w.ctx (if on then old ||| bit else old &&& ~~~bit)).examine w.ctx).endFlight w.gwn f id

/-- Every transaction of a partition's harbourmaster cores that sleeps is woken: what `launch` submits is watched (R305). -/
def State.wakeHm (s : State) (p : Nat) : State :=
  s.modWaves (fun w => isHm w.gwn && s.partOf (unitOf w.gwn) == p && w.run == .asleep) (Wave.hit none)

/-- A `launch` is submitted: the harbourmaster reads the record at package scope with the host port's walker, and an uncorrectable one is recorded (R43,
R253, R294). Of a record that it cannot read the
harbourmaster takes none of the words, which its check refuses (log entry 89). -/
def State.doLaunch (s : State) (w : Wave) (f : Flight) (ts : List Target) : State :=
  if s.subs.any fun x => x.gwn == w.gwn && x.flight == f.id then s else
  let va := (ts.map (·.va)).headD 0
  let r := s.readVirtWords w.ctx va 16
  let x := r.2.getD ([], false)
  let s := if x.2 then r.1.record ((ts.map (·.at_)).headD 0) 5 else r.1
  { s with subs := s.subs ++ [(⟨w.gwn, f.id, w.ctx, x.1, x.2⟩ : Submission)] }.wakeHm (s.partOf (unitOf w.gwn))

/-- A `sighost` performs a fence at system scope, an acquire among it (R130, R134, R243), and sends its vector to the function of its partition (R295, R366). -/
def State.doSighost (s : State) (w : Wave) (f : Flight) (vec : Nat) : State :=
  let u := unitOf w.gwn
  (((s.flushL1 u).flushIc u).sendMsix (s.partOf u) vec).endFlight w.gwn f (s.acquired true f)

/-! ## The steps -/

/-- Performs an operation in flight as far as its kind allows. -/
def State.doFlight (s : State) (w : Wave) (f : Flight) : State :=
  match f.body with
  | .regs ws fl => s.endFlight w.gwn f fun x => (x.writes ws).orFlags fl
  | .load d t ls acq all got fl => s.doLoad w f d t ls ls [] acq all got fl
  | .store n ls sys => s.doStore w f n ls [] sys
  | .atomic op t d ls acq sys all got fl => s.doAtomic w f op t d ls ls [] acq sys all got fl
  | .setFull ofs len full => s.doSetFull w f ofs len full
  | .discard ls => s.doDiscard w f ls []
  | .spawn d ws => s.doSpawn w f d ws
  | .event e on => s.doEvent w f e on
  | .launch _ ls => s.doLaunch w f ls
  | .ctld n bank sorted src _ => s.doCtld w f n bank sorted src
  | .chartld n src => s.doChartld w f n src
  | .accrd d bank els => s.doAccrd w f d bank els
  | .accwr bank els => s.doAccwr w f bank els
  | .tlbi va ctx kind => s.doTlbi w f va ctx kind
  | .sighost vec => s.doSighost w f vec

/-- Applies a step to an operation in flight that nothing holds back; where it releases at core scope, everything earlier is now performed there (R120). -/
def State.withFlight (s : State) (g id : Nat) (k : State → Wave → Flight → State) : State :=
  match s.wave? g with
  | none => s
  | some w =>
    match w.flight? id with
    | none => s
    | some f => if s.blocked w f then s else k (if f.cls.coreOnly then s.modWave g (Wave.markCore f.id) else s) w f

/-- An instruction of variable latency completes (R17, R121). -/
def execSlotCompletion (g id : Nat) (s : State) : Result := .next (s.withFlight g id State.doFlight)

/-- Does a lane reach a line of device memory? -/
def reaches (line size : Nat) (t : Target) : Bool := (t.keys size).contains (0, line)

/-- The lanes of one line of an atomic execute at their home (R129). -/
def execAtomicAtHome (g id line : Nat) (s : State) : Result :=
  .next (s.withFlight g id fun s w f =>
    match f.body with
    | .atomic op t d ls acq sys all got fl =>
      let n := atBytes t
      s.doAtomic w f op t d ls (ls.filter fun p => reaches line n p.2.1) (ls.filter fun p => !reaches line n p.2.1) acq sys all got fl
    | _ => s)

/-- May two fields of some size share bytes? -/
def Target.meets (n : Nat) (a b : Target) : Bool :=
  if a.space = b.space ∧ a.space ≠ .wide then decide (a.at_ < b.at_ + n) && decide (b.at_ < a.at_ + n) else (a.keys n).any (b.keys n).contains

/-- Splits off the lanes of a store that reach a line, but for one of which a lower lane that shares its bytes remains (R97, R234). -/
def takeLine (n line : Nat) (ls : List (Nat × Target × Nat)) : List (Nat × Target × Nat) × List (Nat × Target × Nat) :=
  ls.foldl (fun r p =>
    if reaches line n p.2.1 && !r.2.any (fun q => q.2.1.meets n p.2.1) then (r.1 ++ [p], r.2) else (r.1, r.2 ++ [p])) ([], [])

/-- The lanes of one line of a store are performed at their home, none before a lower lane that shares its bytes (R97, R234). -/
def execStorePerformedAtHome (g id line : Nat) (s : State) : Result :=
  .next (s.withFlight g id fun s w f =>
    match f.body with
    | .store n ls sys => let p := takeLine n line ls; s.doStore w f n p.1 p.2 sys
    | _ => s)

/-- Splits off one lane of a store or atomic, unless a lower lane that shares its bytes remains (R128, R234). -/
def takeLane (n lane : Nat) (tgt : α → Nat × Target) (ls : List α) : List α × List α :=
  let now := ls.filter fun p => (tgt p).1 == lane
  if ls.any fun p => decide ((tgt p).1 < lane) && now.any fun q => (tgt p).2.meets n (tgt q).2 then ([], ls)
  else (now, ls.filter fun p => (tgt p).1 != lane)

/-- One lane of an access is performed: a vector access is atomic lane by lane (R128). Of a `discard`, the lane is one of its lines that remain, by
number. -/
def State.doLane (s : State) (g id lane : Nat) : State :=
  s.withFlight g id fun s w f =>
    match f.body with
    | .load d t ls acq all got fl =>
      let p := (ls.filter (·.1 == lane), ls.filter (·.1 != lane))
      if p.1.isEmpty then s else s.doLoad w f d t ls p.1 p.2 acq all got fl
    | .store n ls sys =>
      let p := takeLane n lane (fun q => (q.1, q.2.1)) ls
      if p.1.isEmpty then s else s.doStore w f n p.1 p.2 sys
    | .atomic op t d ls acq sys all got fl =>
      let p := takeLane (atBytes t) lane (fun q => (q.1, q.2.1)) ls
      if p.1.isEmpty then s else s.doAtomic w f op t d ls p.1 p.2 acq sys all got fl
    | .discard ls => if lane < ls.length then s.doDiscard w f ((ls.drop lane).take 1) (ls.eraseIdx lane) else s
    | _ => s

end Sys2Proof.Machine
end

