-- ==== Sys2Proof/Machine/Pieces.lean ====
section
/-! DEFINITION. What the matrix unit and the lighter share: reads of global memory piece by piece with poison and faults, and how a command's fault
or park reaches its wave (R116, R117, R131, R263, R269, R283, R284, R350, R363). -/

namespace Sys2Proof.Machine

/-- The parts of n bytes from an address that lie in successive lines, as address and length. -/
def linePieces (va n : Nat) : List (Nat × Nat) :=
  if n = 0 then [] else (List.range ((va % 64 + n + 63) / 64)).map fun i =>
    let a := max va (64 * (va / 64 + i))
    (a, min (va + n) (64 * (va / 64 + i + 1)) - a)

/-- What an engine reads: the bytes as a number, the poisoned elements as bits [from, to) of it, flags, and the severity and address of the
fault. -/
structure Piece where
  val : Nat
  bad : List (Nat × Nat)
  flags : Flags
  fault : Option (Nat × Nat)
  deriving DecidableEq, Repr

/-- Nothing read. -/
def Piece.empty : Piece := ⟨0, [], 0, none⟩

/-- Of two faults the one of higher severity, the earlier among equals. -/
def worse (a b : Option (Nat × Nat)) : Option (Nat × Nat) :=
  match a, b with
  | none, f => f
  | f, none => f
  | some x, some y => if x.1 < y.1 then some y else some x

/-- Appends a piece after n bytes. -/
def Piece.append (p q : Piece) (n : Nat) : Piece :=
  ⟨p.val + q.val <<< (8 * n), p.bad ++ q.bad.map fun b => (b.1 + 8 * n, b.2 + 8 * n), p.flags ||| q.flags, worse p.fault q.fault⟩

/-- The address that an uncorrectable element reports: of severity 4 the first byte of its block as the command addressed it (R284), else the
element's byte. `bit` is a bit of the target's line. -/
def Target.errorAt (t : Target) (sev bit : Nat) : Nat :=
  if sev = 4 then
    if t.space = .wide then t.va - t.wofs % 256
    else
      let p := t.at_ / 64 * 64 + bit / 8
      let start := p - p % 65536 % b128Bytes t.code
      t.va + start - t.at_
  else t.va + (t.at_ / 64 * 64 + bit / 8 - t.at_)

/-- Reads up to a line of device memory, at its home or in the copy that serves it (R335), or a piece of another space, for an engine; `many` as for `readLine`.
Poisoned elements are marked, and action 3 faults (R116, R117), as does a place that only a failed link reaches (R354). -/
def State.readPiece (s : State) (unit : Nat) (many : Bool) (t : Target) (n : Nat) : State × Piece :=
  if s.cutOff (s.dieOf unit) n t then (s, ⟨0, [], 0, some (5, t.va)⟩) else
  match t.space with
  | .dev =>
    let line := t.at_ / 64
    let o := t.at_ % 64
    let r := (s.viewFrom (s.dieOf unit) t).readLine many line t.code t.pol o n
    ((s.recordAll t.at_ r.recorded).noteReplica (s.dieOf unit) t,
      ⟨bits r.data (8 * o) (8 * n), r.poisoned.map fun e => (e.1 - 8 * o, e.2 - 8 * o), 0,
        r.faults.foldl (fun f e => worse f (some (e.1, t.errorAt e.1 e.2))) none⟩)
  | _ =>
    let r := s.readAt unit 0 true many t n
    (r.1, ⟨r.2.val, [], r.2.flags, r.2.fault.map fun sev => (sev, t.errorAt sev 0)⟩)

/-- Is an element of a piece poisoned? -/
def Piece.isBad (p : Piece) (bit w : Nat) : Bool := p.bad.any fun b => decide (b.1 < bit + w) && decide (bit < b.2)

/-- A fault of an engine command (R263, R269, R283): a wave that runs or will run by itself takes it at its next instruction boundary; one that sleeps
or is parked stands at a boundary. Of two faults before one boundary the later stands (DESIGN CHOICE, log entry 99). A fault of a wave that a pre-emption has
stopped waits for its restore, unless the watchdog reports the task first (DESIGN CHOICE, log entry 115). -/
def State.engineFault (s : State) (g crew cause sev addr : Nat) (pc : Word) : State :=
  let info : FaultInfo := ⟨cause, sev, pc, BitVec.ofNat 64 addr⟩
  match s.wave? g with
  | none => s
  | some w =>
    match w.run with
    | .running => s.modWave g fun w => { w with dueFault := some info }
    | .stalled _ => s.modWave g fun w => { w with dueFault := some info }
    | .backoff _ => s.modWave g fun w => { w with dueFault := some info }
    | .woken _ => s.modWave g fun w => { w with dueFault := some info }
    | _ => s.failTask crew info

/-- A read set left behind. -/
def Tx.leave (t : Tx) : Tx := { t with lines := [], granules := [], coarse := [], coarseCore := false }

/-- A wave that sleeps in a full/empty instruction, or was woken from it, stands before that instruction again: its slot falls back (R156, R157). -/
def Wave.feBack (w : Wave) : Wave :=
  match w.run with
  | .feAsleep i => w.unlist.slotDown (slotOfCtl (ctlOf i))
  | .feWoken i => w.unlist.slotDown (slotOfCtl (ctlOf i))
  | _ => w

/-- A park of an engine command (R263, R269): taken as `engineFault` says. A wave that sleeps in `retry` will restart as a woken one does (R149). -/
def State.enginePark (s : State) (g kind engine addr : Nat) (pc : Word) : State :=
  match s.wave? g with
  | none => s
  | some w =>
    match w.run with
    | .asleep => (s.modWave g fun w => { w with tx := { w.tx.leave with last := 7 } }).parkWave g kind engine (BitVec.ofNat 64 addr) pc
    | .feAsleep _ => (s.modWave g Wave.feBack).parkWave g kind engine (BitVec.ofNat 64 addr) pc
    | .feWoken _ => (s.modWave g Wave.feBack).parkWave g kind engine (BitVec.ofNat 64 addr) pc
    | _ => if w.duePark.isSome then s else s.modWave g fun w => { w with duePark := some ⟨kind, engine, BitVec.ofNat 64 addr, pc, false⟩ }

/-- Does the pre-emption of its context stop the commands of a wave: once every instruction of the context's waves at its unit has completed (R358)? -/
def State.stopping (s : State) (g : Nat) : Bool :=
  (s.wave? g).any fun w => s.frozen w && !s.waves.any fun x => unitOf x.gwn == unitOf g && x.ctx == w.ctx && !x.flights.isEmpty

/-- The lines of the stores of a core's waves that are performed at core scope and not yet at their homes: an engine of the core does not reach them, as it may
not find an older value there (R120, R121). -/
def State.coreKeys (s : State) (core : Nat) : List (Nat × Nat) :=
  (s.waves.filter fun x => unitOf x.gwn == core).flatMap fun x => (x.flights.filter (·.core)).flatMap (·.body.keys)

/-- Has a crew faulted? -/
def State.crewDown (s : State) (crew : Nat) : Bool := ((s.crew? crew).map fun c => c.fault.isSome).getD true

/-- ORs flags into a wave's FLAGS. -/
def State.addFlags (s : State) (g : Nat) (fl : Flags) : State := s.modWave g (·.orFlags fl)

end Sys2Proof.Machine
end

