-- ==== Sys2Proof/Machine/MatrixUnit.lean ====
section
/-! DEFINITION. The matrix unit: choice points, k-steps, completion, parks and faults of its commands (R93, R94, R260 to R264, R283, R316). -/

namespace Sys2Proof.Machine

/-! ## Operands of a k-step (R93, R107, R109, R258, R260) -/

/-- One operand of a command: address field, stride, type code, the entries of its code table. -/
structure MatSide where
  addr : Nat
  stride : Nat
  ty : Nat
  table : List (BitVec 16)
  deriving DecidableEq, Repr

/-- The entries of the table bank of a reference (R272). -/
def FarCore.refTable (k : FarCore) (ref : Nat) : List (BitVec 16) := k.table ((ref - 1) / 2) ((ref - 1) % 2)

/-- Operand A of a command. -/
def FarCore.sideA (k : FarCore) (m : MatCmd) : MatSide :=
  let f := matFields m.words
  ⟨f.a, f.astride, f.ta, if m.bankA = 0 then [] else k.refTable m.bankA⟩

/-- Operand B of a command. -/
def FarCore.sideB (k : FarCore) (m : MatCmd) : MatSide :=
  let f := matFields m.words
  ⟨f.b, f.bstride, f.tb, if m.bankB = 0 then [] else k.refTable m.bankB⟩

/-- The element format of an operand. -/
def MatSide.elem (d : MatSide) : Elem := if d.ty = 14 then .cb4 d.table else .float (fltFmt (matElemTy d.ty))

/-- Bytes of an element of an operand that is no block type. -/
def MatSide.bytes (d : MatSide) : Nat := if d.ty = 0 then 2 else 1

/-- The first address of elements from k0 of a row of an operand that is no block type. -/
def MatSide.at_ (d : MatSide) (row k0 : Nat) : Nat :=
  (if matGlobal d.addr then d.addr % 2 ^ 48 else d.addr % 2 ^ 32) + row * d.stride + d.bytes * k0

/-- Elements [k0, k0 + n) of a row of a scratch operand as exact values. -/
def MatSide.scratchRow (d : MatSide) (c : Crew) (row k0 n : Nat) : List FVal :=
  if matBlock d.ty then
    let w := matClass d.ty
    let img := d.addr % 2 ^ 32 + row * d.stride + k0 / 128 * imageBytes w
    let field := c.read img (16 * w)
    let scale := c.read (img + 16 * w) 1
    (List.range n).map fun j => d.elem.scaled scale (fieldElem w field (k0 % 128 + j))
  else
    let x := c.read (d.at_ row k0) (d.bytes * n)
    (List.range n).map fun j => d.elem.value (bits x (8 * d.bytes * j) (8 * d.bytes))

/-- The bytes of scratch that hold elements [k0, k0 + n) of a row of a scratch operand, and their scale. -/
def MatSide.scratchBytes (d : MatSide) (row k0 n : Nat) : List (Nat × Nat) :=
  if matBlock d.ty then
    let w := matClass d.ty
    let img := d.addr % 2 ^ 32 + row * d.stride + k0 / 128 * imageBytes w
    [(img + k0 % 128 * w / 8, n * w / 8), (img + 16 * w, 1)]
  else [(d.at_ row k0, d.bytes * n)]

/-- The fault of a scratch row with an uncorrectable word: severity 5 at its offset (R118, R354). -/
def MatSide.scratchBad (d : MatSide) (c : Crew) (row k0 n : Nat) : Option (Nat × Nat) :=
  ((d.scratchBytes row k0 n).findSome? fun p => c.failAt p.1 p.2).map fun a => (5, a)

/-- What a matrix command asks of a global operand: a wide view serves BF16 alone (R109, R260). -/
def MatSide.kind (d : MatSide) : AccKind := ⟨.r, 16, d.ty == 0, true, false⟩

/-- The targets of pieces of global memory, read through a core's load pipes; or the first failure. -/
def State.pieceTargets (s : State) (core ctx : Nat) (k : AccKind) : List (Nat × Nat) → State × Except Fail (List (Target × Nat))
  | [] => (s, .ok [])
  | (va, n) :: r =>
    if 2 ^ 48 ≤ va then (s, .error (.trap 0x05 0 va)) else
    let a := s.virtRes (matrixTlb core) ctx k va
    match a.2 with
    | .fail5 f => (a.1, .error f)
    | .fail6 f => (a.1, .error f)
    | .ok t =>
      let b := State.pieceTargets a.1 core ctx k r
      (b.1, b.2.map fun ts => (t, n) :: ts)

/-- The pieces of a row that hold elements [k0, k0 + n) of a global operand. -/
def MatSide.pieces (d : MatSide) (row k0 n : Nat) : List (Nat × Nat) := linePieces (d.at_ row k0) (d.bytes * n)

/-- The targets of the global elements [k0, k0 + n) of each row of an operand with their sizes, as far as they are mapped. -/
def State.matTargets (s : State) (core ctx : Nat) (d : MatSide) (k0 n : Nat) : List (Target × Nat) :=
  if !matGlobal d.addr then [] else
  (List.range 128).flatMap fun row => (d.pieces row k0 n).filterMap fun p => (s.virtRes (matrixTlb core) ctx d.kind p.1).2.target.map fun t => (t, p.2)

/-- The failing P groups that affect the global elements from k0 of each row of an operand (R350). -/
def State.matGroups (s : State) (core ctx : Nat) (d : MatSide) (k0 n : Nat) : List (Nat × Nat) :=
  (s.matTargets core ctx d k0 n).flatMap fun p => s.groupsFrom (s.dieOf core) p.2 p.1

/-- Do two or more failing P groups affect the elements that a command reads, where one affects this k-step (R350)? -/
def State.matMany (s : State) (core ctx : Nat) (a b : MatSide) (k0 n total : Nat) : Bool :=
  if (s.matGroups core ctx a k0 n ++ s.matGroups core ctx b k0 n).isEmpty then false
  else manyGroups (s.matGroups core ctx a 0 total ++ s.matGroups core ctx b 0 total)

/-- A command that leaves the unit has read elements [0, n) of each row: the failing fields that affect none of them are recorded (R350). -/
def State.matUnread (s : State) (core ctx : Nat) (a b : MatSide) (n : Nat) : State :=
  s.recordFrom (s.dieOf core) (s.matTargets core ctx a 0 n ++ s.matTargets core ctx b 0 n) fun v p => v.spansOf p.2 p.1

/-- Reads the pieces of a row. -/
def State.readPieces (s : State) (core : Nat) (many : Bool) : List (Target × Nat) → State × Piece × Nat
  | [] => (s, .empty, 0)
  | (t, n) :: r =>
    let a := s.readPiece core many t n
    let b := State.readPieces a.1 core many r
    (b.1, a.2.append b.2.1 n, n + b.2.2)

/-- The rows of an operand in one k-step: the state after its reads, and the values with their flags and fault, or why they cannot be read yet. -/
def State.matRows (s : State) (core : Nat) (c : Crew) (d : MatSide) (many : Bool) (k0 n : Nat) :
    List Nat → State × Except Fail (List (List FVal) × Flags × Option (Nat × Nat))
  | [] => (s, .ok ([], 0, none))
  | row :: rs =>
    if matGlobal d.addr then
      let ts := s.pieceTargets core c.ctx d.kind (d.pieces row k0 n)
      match ts.2 with
      | .error f => (ts.1, .error f)
      | .ok l =>
        let r := ts.1.readPieces core many l
        let w := 8 * d.bytes
        let vs := (List.range n).map fun j =>
          if r.2.1.isBad (w * j) w then FVal.nan else d.elem.value (bits r.2.1.val (w * j) w)
        let q := State.matRows r.1 core c d many k0 n rs
        (q.1, q.2.map fun x => (vs :: x.1, r.2.1.flags ||| x.2.1, worse r.2.1.fault x.2.2))
    else
      let q := State.matRows s core c d many k0 n rs
      (q.1, q.2.map fun x => (d.scratchRow c row k0 n :: x.1, x.2.1, worse (d.scratchBad c row k0 n) x.2.2))

/-! ## The arithmetic of a k-step (R93, R94) -/

/-- The exact sum of the products of two rows, with the flags of invalid products and of infinities of both signs. -/
def kSum (a b : List FVal) : FVal × Flags :=
  let ps := (a.zip b).map fun p => FVal.mul p.1 p.2
  let fl := orAll (ps.map (·.2))
  let vs := ps.map (·.1)
  if vs.contains (.inf true) && vs.contains (.inf false) then (.nan, fl ||| fINV)
  else match vs with
    | [] => (.num false 0 0, fl)
    | v :: r => (r.foldl (fun x y => (FVal.add .rne x y).1) v, fl)

/-- The new value of a bank element; `fresh` says that the k-step overwrites it (R260). -/
def kElem (fresh : Bool) (a b : List FVal) (old : Lane) : Lane × Flags :=
  let x := kSum a b
  let t := fmtF32.round .rne false 0 x.1
  if fresh then (BitVec.ofNat 32 t.1, x.2 ||| t.2)
  else let r := fmtF32.fadd .rne 0 old.toNat t.1; (BitVec.ofNat 32 r.1, x.2 ||| t.2 ||| r.2)

/-- The new values of a bank, row by row. -/
def kStep (fresh : Bool) (rb : List (List FVal)) : List (List FVal) → List Lane → List (Lane × Flags)
  | [], _ => []
  | a :: ra, c => ((rb.zip (c.take 128)).map fun p => kElem fresh a p.1 p.2) ++ kStep fresh rb ra (c.drop 128)

/-- The elements of a bank in row order. -/
def FarCore.bankVals (k : FarCore) (bank : Nat) : List Lane :=
  Cells.dense (k.banks.filter fun p => decide (16384 * bank ≤ p.1)) (16384 * bank) 16384

/-- Replaces a whole bank. -/
def FarCore.setBank (k : FarCore) (bank : Nat) (vs : List Lane) : FarCore :=
  { k with banks := Cells.putDense k.banks (16384 * bank) vs, badBanks := k.badBanks.filter (· / 16384 != bank) }

/-- Does an entry of the table bank of a reference fail its parity (R355)? -/
def FarCore.refBad (k : FarCore) (ref : Nat) : Bool := ref != 0 && k.badTables.any fun i => i / 16 == ref - 1

/-- Does a k-step read an accumulator element or a code-table entry that fails its parity (R355)? `fresh` says that it overwrites the bank (R260). A
command of a code table reads all 16 entries (DEDUCED, log entry 77). -/
def FarCore.stepBad (k : FarCore) (m : MatCmd) (fresh : Bool) : Bool :=
  k.refBad m.bankA || k.refBad m.bankB || (!fresh && k.badBanks.any fun i => i / 16384 == (matFields m.words).bank)

/-! ## Choice points (R262) -/

/-- Changes a matrix command of a core. -/
def State.modMat (s : State) (core : Nat) (m : MatCmd) (f : MatCmd → MatCmd) : State :=
  let k := s.core core
  s.setCore { k with mat := mapWhere (fun x => x.gwn == m.gwn && x.id == m.id) f k.mat }

/-- A matrix command leaves the core, and its reservations end (R261). -/
def State.dropMat (s : State) (core : Nat) (m : MatCmd) : State :=
  let k := s.core core
  (s.setCore { k with mat := k.mat.filter fun x => !(x.gwn == m.gwn && x.id == m.id) }).wakeGranules core m.crew
    (if m.reserved then (matFields m.words).granules else [])

/-- The running command. -/
def FarCore.running (k : FarCore) : Option MatCmd := k.mat.find? (·.state == 2)

/-- The candidates: for each wave its oldest unfinished command, neither parked nor stopped, with its granules ready (R261, R262); an acquire or bank
access issued before it holds it back (R125, R265), and a context that is being pre-empted starts none (R358). -/
def State.candidates (s : State) (core : Nat) : List MatCmd :=
  let ms := (s.core core).mat
  ms.filter fun m =>
    ((ms.find? (·.gwn == m.gwn)).map MatCmd.id) == some m.id && (decide (m.state ≤ 1) || m.state == 3)
      && s.matReady core m && !s.holdsStart true m.gwn m.id && !s.crewDown m.crew && !s.stopping m.gwn

/-- The priority of a command: its wave's effective priority now (R262, R314). -/
def State.cmdPrio (s : State) (m : MatCmd) : Nat := ((s.wave? m.gwn).map Wave.effPrio).getD 0

/-- The command of highest priority, the earliest issued among equals; the list stands in issue order. -/
def State.bestCmd (s : State) : List MatCmd → Option MatCmd
  | [] => none
  | m :: r =>
    match s.bestCmd r with
    | none => some m
    | some q => if s.cmdPrio q ≤ s.cmdPrio m then some m else some q

/-- A command starts or resumes: its granules are reserved from its first start (R261). -/
def State.startMat (s : State) (core : Nat) (m : MatCmd) : State := s.modMat core m fun x => { x with state := 2, reserved := true }

/-- The choice of an idle unit. -/
def State.chooseIdle (s : State) (core : Nat) : State :=
  match s.bestCmd (s.candidates core) with
  | none => s
  | some m => s.startMat core m

/-- The choice at a boundary of a running command: a candidate at least 4 above it starts and the command is suspended. -/
def State.chooseAt (s : State) (core : Nat) (m : MatCmd) : State :=
  match s.bestCmd (s.candidates core) with
  | none => s
  | some q => if s.cmdPrio m + 4 ≤ s.cmdPrio q then (s.modMat core m fun x => { x with state := 3 }).startMat core q else s

/-! ## Completion, parks, faults -/

/-- A command completes: the granules of operands in take mode become empty, its reservations end, and its slot falls (R121, R260, R261). -/
def State.finishMat (s : State) (core : Nat) (m : MatCmd) : State :=
  let gs := (matFields m.words).taken
  let s := s.dropMat core m
  let s := (s.modCrew m.crew fun c => c.setFulls (gs.map fun g => (g, false))).touchGranules noWave core m.crew gs
  s.modWave m.gwn (·.slotDown m.slot)

/-- The lowest address, in the 64 KiB page of a missing address, that a k-step's operands reach (R363). -/
def lowestInPage (a b : MatSide) (k0 n va : Nat) : Nat :=
  let all (d : MatSide) : List (Nat × Nat) := if matGlobal d.addr then (List.range 128).flatMap fun row => d.pieces row k0 n else []
  ((all a ++ all b).filter fun p => p.1 / 65536 == va / 65536).foldl (fun x p => min x p.1) va

/-- A command cannot run its next k-step: it parks, or its task faults (R263, R283); `unread` records what it has met where it ends here. -/
def State.stopMat (s : State) (core : Nat) (m : MatCmd) (low : Nat → Nat) (unread : State → State) : Fail → State
  | .trap cause sev va => ((unread s).dropMat core m).engineFault m.gwn m.crew cause sev va m.pc
  | .park kind va =>
    if s.crewDown m.crew then (unread s).dropMat core m
    else (s.modMat core m fun x => { x with state := 4 }).enginePark m.gwn kind 1 (low va) m.pc

/-- A k-step of the running command ends and updates its bank as one step; what follows is the boundary (R260, R262, R263). A command of a faulted
task stops there (R283), and one of a context that is being pre-empted is stopped (R358). -/
def State.kStepOf (s : State) (core : Nat) (m : MatCmd) : State :=
  let f := matFields m.words
  match s.crew? m.crew with
  | none => s.dropMat core m
  | some c =>
    if f.op = 2 then
      (s.setCore ((s.core core).setBank f.bank (List.replicate 16384 0))).finishMat core m
    else
      let k := s.core core
      let n := f.step
      let k0 := n * m.done
      let many := s.matMany core c.ctx (k.sideA m) (k.sideB m) k0 n f.k
      let fresh := f.op == 1 && m.done == 0
      let ra := s.matRows core c (k.sideA m) many k0 n (List.range 128)
      let low := lowestInPage (k.sideA m) (k.sideB m) k0 n
      let unread (n : Nat) (s : State) : State := s.matUnread core c.ctx (k.sideA m) (k.sideB m) n
      match ra.2 with
      | .error e => ra.1.stopMat core m low (unread k0) e
      | .ok (as, fla, bada) =>
        let rb := ra.1.matRows core c (k.sideB m) many k0 n (List.range 128)
        match rb.2 with
        | .error e => rb.1.stopMat core m low (unread k0) e
        | .ok (bs, flb, badb) =>
          match worse (worse bada badb) (if k.stepBad m fresh then some (5, 0) else none) with
          | some (sev, va) => rb.1.stopMat core m low (unread (k0 + n)) (.trap (ueCause sev) sev va)
          | none =>
            let s := rb.1
            let k := s.core core
            let new := kStep fresh bs as (k.bankVals f.bank)
            let s := (s.setCore (k.setBank f.bank (new.map (·.1)))).addFlags m.gwn (orAll (new.map (·.2)) ||| fla ||| flb)
            let s := s.modMat core m fun x => { x with done := x.done + 1 }
            let m' := { m with done := m.done + 1 }
            if m.done + 1 = f.total then (unread (k0 + n) s).finishMat core m'
            else if s.crewDown m.crew then (unread (k0 + n) s).dropMat core m'
            else if s.stopping m.gwn then s.modMat core m' fun x => { x with state := 5 }
            else s.chooseAt core m'

/-- Does the next k-step of a core's running command reach a line of a store that is performed at core scope only (R120, R121)? -/
def State.matHeld (s : State) (core : Nat) : Bool :=
  let ks := s.coreKeys core
  let k := s.core core
  !ks.isEmpty && k.running.any fun m => (matFields m.words).op != 2 && (s.crew? m.crew).any fun c =>
    let n := (matFields m.words).step
    [k.sideA m, k.sideB m].any fun d => matGlobal d.addr && (List.range 128).any fun row => (d.pieces row (n * m.done) n).any fun p =>
      match (s.virtRes (matrixTlb core) c.ctx d.kind p.1).2 with
      | .ok t => (t.keys p.2).any ks.contains
      | _ => false

/-- A k-step ends where a command runs, and the unit, where it is idle then, chooses (R262). -/
def State.matTurn (s : State) (core : Nat) : State :=
  if s.matHeld core then s else
  let s1 := match (s.core core).running with
    | none => s
    | some m => s.kStepOf core m
  if (s1.core core).running.isNone then s1.chooseIdle core else s1

/-- MATRIX_KSTEP (R260). -/
def execMatrixKstep (core : Nat) (s : State) : Result := .next (s.matTurn core)

/-- Turns of the unit until a command has left it, parked, or stopped; `n` bounds them. -/
def State.matUntil (core : Nat) (m : MatCmd) : Nat → State → State
  | 0, s => s
  | n + 1, s =>
    match (s.core core).mat.find? fun x => x.gwn == m.gwn && x.id == m.id with
    | none => s
    | some x => if x.state = 4 ∨ x.state = 5 then s else State.matUntil core m n (s.matTurn core)

/-- The unit runs the command of an operation that it is running or would choose, with whatever overtakes it, until it ends or stops. -/
def State.matRun (s : State) (core op : Nat) : State :=
  let s := if (s.core core).running.isNone then s.chooseIdle core else s
  match (s.core core).running with
  | none => s
  | some m =>
    if (matFields m.words).op = op then
      State.matUntil core m (((s.core core).mat.map fun x => (matFields x.words).total + 2).foldl (· + ·) 0) s
    else s

/-- MATRIX_MMA: an MMA runs k-step by k-step (R260). -/
def execMatrixMma (core : Nat) (s : State) : Result := .next (s.matRun core 0)
/-- MATRIX_MMAZ: an MMAZ runs, its first k-step overwriting (R260). -/
def execMatrixMmaz (core : Nat) (s : State) : Result := .next (s.matRun core 1)
/-- MATRIX_ZERO: a ZERO writes the whole bank as one k-step (R260). -/
def execMatrixZero (core : Nat) (s : State) : Result := .next (s.matRun core 2)

end Sys2Proof.Machine
end

