-- ==== Sys2Proof/Machine/Lighter.lean ====
section
/-! DEFINITION. The lighter: start, turns, conversions, completion and faults of its commands (R106, R107, R109, R113, R116, R117, R131, R266 to R269,
R283, R284, R316, R320). -/

namespace Sys2Proof.Machine

/-! ## Rows and pages (R266, R268) -/

/-- Is a conversion one of blocks on the page's side? -/
def LitFields.block (f : LitFields) : Bool := convBlock f.conv

/-- The global address of row r, where a side is global. -/
def LitFields.globalRow (f : LitFields) (r : Nat) : Option Nat :=
  if f.srcGlobal then some (rowAddr f.src f.fstride r) else if f.dstGlobal then some (rowAddr f.dst f.tstride r) else none

/-- The bytes of a row on its global side. -/
def LitFields.globalBytes (f : LitFields) (code : Nat) : Nat := if f.srcGlobal then f.rowBytes else f.dw code

/-- The first address of a row in each 64 KiB page that it reaches, ascending. -/
def rowPages (va n : Nat) : List Nat :=
  if n = 0 then [] else (List.range ((va % 65536 + n + 65535) / 65536)).map fun i => max va (65536 * (va / 65536 + i))

/-- The place of a started command's global address. -/
def LitCmd.target (l : LitCmd) (va : Nat) : Target :=
  match l.pages.find? fun p => p.va == va / 65536 * 65536 with
  | none => ⟨.host, 2 ^ 48, va, 0, 0, false, 0, 0⟩
  | some p =>
    let o := va % 65536
    match p.tgt.space with
    | .wide => { p.tgt with va := va, wofs := p.tgt.wofs + o }
    | _ => { p.tgt with va := va, at_ := p.tgt.at_ + o }

/-! ## The start (R113, R268, R269) -/

/-- Does a page serve a command: block conversions need a page of codes 6 to 10, and of the layout of the first page (R268)? -/
def litPageOk (block : Bool) (first : Option Nat) (t : Target) : Bool :=
  match t.space with
  | .dev => !block || (decide (6 ≤ t.code) && decide (t.code ≤ 10) && (match first with | none => true | some c => c == t.code))
  | .status => false
  | _ => !block

/-- Translates one page of a command; the result is its target at the page's first byte, or the failure (R268, R300). -/
def State.litPage (s : State) (core ctx : Nat) (need : Need) (block : Bool) (first : Option Nat) (va : Nat) : State × Except Fail PageTr :=
  if 2 ^ 48 ≤ va then (s, .error (.trap 0x05 0 va)) else
  let k : AccKind := ⟨need, 1, true, true, false⟩
  let a := s.virtRes (lighterTlb core) ctx k va
  match a.2 with
  | .fail5 f => (a.1, .error f)
  | .fail6 f => (a.1, .error f)
  | .ok t =>
    if !litPageOk block first t then (a.1, .error (.trap 0x04 0 va))
    else
      let o := va % 65536
      let base : Target := match t.space with
        | .wide => { t with va := va - o, wofs := t.wofs - o }
        | _ => { t with va := va - o, at_ := t.at_ - o }
      (a.1, .ok ⟨va - o, 65536, base⟩)

/-- Translates the pages of several addresses that are not translated yet. -/
def State.litPages (s : State) (core ctx : Nat) (need : Need) (block : Bool) (first : Option Nat) :
    List Nat → List PageTr → State × Except Fail (List PageTr)
  | [], ps => (s, .ok ps)
  | va :: r, ps =>
    if ps.any fun p => p.va == va / 65536 * 65536 then State.litPages s core ctx need block first r ps
    else
      let a := s.litPage core ctx need block first va
      match a.2 with
      | .error f => (a.1, .error f)
      | .ok p => State.litPages a.1 core ctx need block first r (ps ++ [p])

/-- The checks of a block conversion that its page's layout decides, once it is known (R268). -/
def LitFields.layoutFault (f : LitFields) (size code : Nat) : Option Fail :=
  let va := (f.globalRow 0).getD 0
  let u := convUnits f.conv code
  if f.rowBytes % u.1 ≠ 0 ∨ 65536 < f.rows * f.dw code then some (.trap 0x09 0 va)
  else if (f.outside size code true).isSome then some (.trap 0x06 0 va)
  else none

/-- The checks of each row of a block conversion: it begins at a block's first byte and ends with the unit's last block at the latest (R268). -/
def LitFields.rowFault (f : LitFields) (code : Nat) : Option Fail :=
  let blk := b128Bytes code
  firstSome (fun r =>
    let va := (f.globalRow r).getD 0
    let o := va % 65536
    if o % blk ≠ 0 ∨ b128Blocks code ≤ o / blk then some (Fail.trap 0x03 0 va)
    else if b128Blocks code * blk < o + f.globalBytes code then some (Fail.trap 0x09 0 va)
    else none) (List.range f.rows)

/-- The checks of the rows that reach a wide view: whole 16-bit fields, each with an element (R108, R109, R268). -/
def LitCmd.wideFault (l : LitCmd) (f : LitFields) : Option Fail :=
  firstSome (fun r =>
    let va := (f.globalRow r).getD 0
    let n := f.globalBytes 0
    firstSome (fun p =>
      let t := l.target p
      if t.space ≠ .wide then none
      else
        let m := min (va + n) (p / 65536 * 65536 + 65536) - p
        if p % 2 ≠ 0 ∨ m % 2 ≠ 0 then some (Fail.trap 0x03 0 p)
        else if (wideElem t.code (t.wofs + m - 2)).isSome then none else some (Fail.trap 0x04 0 p)) (rowPages va n)) (List.range f.rows)

/-- Everything that is checked before a command starts (R268): its pages, or the failure. -/
def State.litPrepare (s : State) (core : Nat) (c : Crew) (l : LitCmd) : State × Except Fail (List PageTr) :=
  let f := litFields l.words
  if !f.srcGlobal && !f.dstGlobal then (s, .ok []) else
  let need : Need := if f.srcGlobal then .r else .w
  let rowsOf (code : Nat) : List Nat := (List.range f.rows).flatMap fun r => rowPages ((f.globalRow r).getD 0) (f.globalBytes code)
  if f.block then
    let a := s.litPage core c.ctx need true none ((f.globalRow 0).getD 0)
    match a.2 with
    | .error e => (a.1, .error e)
    | .ok p =>
      let code := p.tgt.code
      match f.layoutFault c.size code with
      | some e => (a.1, .error e)
      | none =>
        let b := a.1.litPages core c.ctx need true (some code) (rowsOf code) [p]
        match b.2, f.rowFault code with
        | .ok _, some e => (b.1, .error e)
        | r, _ => (b.1, r)
  else
    let b := s.litPages core c.ctx need false none (rowsOf 0) []
    match b.2 with
    | .error e => (b.1, .error e)
    | .ok ps =>
      match LitCmd.wideFault { l with pages := ps } f with
      | some e => (b.1, .error e)
      | none => (b.1, .ok ps)

/-- Changes a lighter command of a core. -/
def State.modLit (s : State) (core : Nat) (l : LitCmd) (f : LitCmd → LitCmd) : State :=
  let k := s.core core
  s.setCore { k with lit := mapWhere (fun x => x.gwn == l.gwn && x.id == l.id) f k.lit }

/-- A lighter command leaves the core, and its reservations end (R113). -/
def State.dropLit (s : State) (core : Nat) (l : LitCmd) : State :=
  let k := s.core core
  (s.setCore { k with lit := k.lit.filter fun x => !(x.gwn == l.gwn && x.id == l.id) }).wakeGranules core l.crew
    (if l.started then (litFields l.words).granules l.code else [])

/-- Each line that a command which leaves the lighter has written is one event of the signature (R321). -/
def State.hashLit (s : State) (core : Nat) (l : LitCmd) : State :=
  (((s.core core).lit.filter fun x => x.gwn == l.gwn && x.id == l.id).flatMap (·.wrote)).foldl
    (fun s p => s.hash l.crew (lineMessage p.1 p.2.1 p.2.2)) s

/-- The lines that hold a block at a place (R76). -/
def blockLines (at_ code : Nat) : List Nat := (List.range ((at_ % 64 + b128Bytes code + 63) / 64)).map (at_ / 64 + ·)

/-- The targets of some bytes of a command's global side with their sizes: its blocks, or the pieces of lines. -/
def LitCmd.targets (l : LitCmd) (va n : Nat) : List (Target × Nat) :=
  if (litFields l.words).block then (List.range (n / b128Bytes l.code)).map fun i => (l.target (va + b128Bytes l.code * i), b128Bytes l.code)
  else (linePieces va n).map fun p => (l.target p.1, p.2)

/-- The parts of the source elements of a target. -/
def State.litSpans (s : State) (l : LitCmd) (p : Target × Nat) : List Span :=
  if (litFields l.words).block then
    if (blockLines p.1.at_ l.code).all fun k => (s.decodeLine k l.code).clean then [] else blockSpans p.1.at_ l.code 0 128
  else s.spansOf p.2 p.1

/-- The part of a target that lies in each line it reaches, with its size. -/
def Target.perLine (t : Target) (n : Nat) : List (Target × Nat) :=
  if t.space = .dev then (linePieces t.at_ n).map fun p => ({ t with at_ := p.1, va := t.va + (p.1 - t.at_) }, p.2) else [(t, n)]

/-- A command that leaves the lighter has read n bytes of its present row and all of the rows before: the failing fields that affect no element of these are
recorded (R350). -/
def State.litUnread (s : State) (l : LitCmd) (n : Nat) : State :=
  let f := litFields l.words
  if !(f.srcGlobal && l.started) then s else
  s.recordFrom (s.dieOf (unitOf l.gwn))
    ((List.range (l.row + 1)).flatMap fun r => l.targets (rowAddr f.src f.fstride r) (if r = l.row then n else f.rowBytes)) fun v p => v.litSpans l p

/-- The source bytes of a piece: whole units, at most 256 bytes; a unit of 512 bytes is read in two pieces. -/
def litPiece (conv code : Nat) : Nat :=
  let u := (convUnits conv code).1
  if u ≤ 256 then 256 / u * u else 256

/-- The bytes of its row that a command has read once the read pass of the present piece is over (R269). -/
def LitCmd.readTo (l : LitCmd) : Nat := let f := litFields l.words; min (l.pos + litPiece f.conv l.code) f.rowBytes

/-- A command that fails is dropped, or parks with its wave (R268, R269). -/
def State.failLit (s : State) (core : Nat) (l : LitCmd) : Fail → State
  | .trap cause sev va => ((s.hashLit core l).dropLit core l).engineFault l.gwn l.crew cause sev va l.pc
  | .park kind va => (s.modLit core l fun x => { x with parked := true }).enginePark l.gwn kind 2 va l.pc

/-- A queued command starts where nothing holds it back (R131, R269): earlier commands of its wave have started, its pages are translated, and its
set-full granules are empty and reserved by nobody. -/
def State.startLit (s : State) (core : Nat) (l : LitCmd) : State :=
  let mine := (s.core core).lit.filter (·.gwn == l.gwn)
  match s.crew? l.crew with
  | none => s
  | some c =>
    if l.started || l.parked || s.stopping l.gwn || c.fault.isSome || s.holdsStart false l.gwn l.id
        || mine.any (fun x => decide (x.id < l.id) && !x.started) then s
    else
      let p := s.litPrepare core c l
      match p.2 with
      | .error e => p.1.failLit core l e
      | .ok ps =>
        let code := LitCmd.code { l with pages := ps }
        if ((litFields l.words).granules code).any fun g => c.isFull g || p.1.reserved core l.crew g then p.1
        else p.1.modLit core l fun x => { x with started := true, pages := ps }

/-- The lighter command of a core that stands at a place of its queue. -/
def FarCore.litAt (k : FarCore) (n : Nat) : Option LitCmd := k.lit[n]?

/-- LIGHTER_START (R269). -/
def execLighterStart (core cmd : Nat) (s : State) : Result :=
  .next (match (s.core core).litAt cmd with
    | none => s
    | some l => s.startLit core l)

/-! ## Conversions (R267) -/

/-- Elementwise conversion of a value and its poison (R86, R117): the destination element and its flags. -/
def litElem (conv : Nat) (bad : Bool) (x : Nat) : Nat × Flags :=
  let dt := litTy (conv % 8)
  let st := litTy (conv / 8 % 8)
  if bad then ((fltFmt dt).cnan, 0) else cvtElem dt st .rne 0 x

/-- Converts bytes whose poisoned bits are known under `none` or an elementwise code. -/
def litConvert (conv n : Nat) (p : Piece) : List Byte × Flags :=
  if convElem conv then
    let u := convUnits conv 0
    let rs := (List.range (n / u.1)).map fun j =>
      litElem conv (p.isBad (8 * u.1 * j) (8 * u.1)) (bits p.val (8 * u.1 * j) (8 * u.1))
    (rs.flatMap fun r => toBytes u.2 r.1, orAll (rs.map (·.2)))
  else (toBytes n p.val, 0)

/-- Expands or packs a block that was read: destination bytes and flags (R92, R107, R117, R269). -/
def litBlockOut (conv code : Nat) (el : Elem) (els : List ElemRead) (scale : Nat) : List Byte × Flags :=
  if conv = 0x82 then
    let w := b128Width code
    let bad := els.any (·.act == 2)
    let vals := els.map fun e => if e.act = 2 ∧ code = 6 then fmtE4M3.cnan else e.val
    (toBytes (16 * w) (packField w vals) ++ toBytes 16 (if bad ∧ code ≠ 6 then 255 else scale), 0)
  else
    let rs := els.map fun e =>
      if conv = 0x80 then (if e.act = 2 then (fmtBF16.cnan, 0) else el.toBf16 scale e.val)
      else if e.act = 2 then (fmtF32.cnan, 0) else el.toF32 .rne scale e.val
    (rs.flatMap fun r => toBytes (if conv = 0x80 then 2 else 4) r.1, orAll (rs.map (·.2)))

/-- The values of a unit of scratch source of a quantizing conversion (R89, R91). -/
def litValues (conv : Nat) (bs : List Byte) : List FVal :=
  let x := ofBytes bs
  (List.range 128).map fun j => if conv = 0x92 then fmtF32.dec (bits x (32 * j) 32) else fmtBF16.dec (bits x (16 * j) 16)

/-! ## Reading a piece (R131, R269) -/

/-- The failing P groups that affect the source elements of some bytes of a row (R350). -/
def State.litGroups (s : State) (l : LitCmd) (va n : Nat) : List (Nat × Nat) :=
  let die := s.dieOf (unitOf l.gwn)
  (l.targets va n).flatMap fun p =>
    if (litFields l.words).block then (s.viewFrom die p.1).blockGroups p.1.at_ l.code 0 128 else s.groupsFrom die p.2 p.1

/-- Do two or more failing P groups affect the elements that a command reads, where one affects this piece (R350)? -/
def State.litMany (s : State) (l : LitCmd) (va n : Nat) : Bool :=
  let f := litFields l.words
  if (s.litGroups l va n).isEmpty then false
  else manyGroups ((List.range f.rows).flatMap fun r => s.litGroups l (rowAddr f.src f.fstride r) f.rowBytes)

/-- Reads a piece for a `none` copy, which takes a poisoned element as a load does: where its format has no NaN it faults, and the address reported is that of
the element of the fault's severity (R117, R269, R284). -/
def State.copyPiece (s : State) (core : Nat) (many : Bool) (t : Target) (n : Nat) : State × Piece :=
  if t.space ≠ .dev then s.readPiece core many t n else
  let line := t.at_ / 64
  let o := t.at_ % 64
  let code := s.codeAt line t.code
  let eff := if lineFmt code (lineInUnit line) = .raw then 0 else code
  let r := (s.viewFrom (s.dieOf core) t).readLine many line t.code t.pol o n
  let bad := r.faults ++ if (codeNan eff).isSome then [] else r.poisonSevs.zip (r.poisoned.map (·.1))
  ((s.recordAll t.at_ r.recorded).noteReplica (s.dieOf core) t,
    ⟨bits (asLoad eff r).1 (8 * o) (8 * n), [], 0, bad.foldl (fun f e => worse f (some (e.1, t.errorAt e.1 e.2))) none⟩)

/-- Reads pieces of lines of a global source. -/
def State.litLines (s : State) (core : Nat) (l : LitCmd) (copy many : Bool) : List (Nat × Nat) → State × Piece × Nat
  | [] => (s, .empty, 0)
  | (va, n) :: r =>
    let a := if copy then s.copyPiece core many (l.target va) n else s.readPiece core many (l.target va) n
    let q := State.litLines a.1 core l copy many r
    (q.1, a.2.append q.2.1 n, n + q.2.2)

/-- Reads and converts blocks of a global source. -/
def State.litBlocks (s : State) (core : Nat) (l : LitCmd) (many : Bool) (va : Nat) :
    Nat → State × List Byte × Flags × Option (Nat × Nat)
  | 0 => (s, [], 0, none)
  | n + 1 =>
    let f := litFields l.words
    let t := l.target va
    let k := s.core core
    let el := b128Elem l.code (if l.tabBank = 0 then [] else k.refTable l.tabBank)
    let r := (s.viewFrom (s.dieOf core) t).readBlock many t.at_ l.code t.pol 0 128
    let bad := (List.range 128).filterMap fun j =>
      let e := r.1.getD j ⟨0, 0, 0⟩
      if e.act = 3 then some (e.sev, if e.sev = 4 then va else va + b128Width l.code * j / 8) else none
    let o := litBlockOut f.conv l.code el r.1 r.2.1
    let s := (t.perLine (b128Bytes l.code)).foldl (fun s p => s.noteReplica (s.dieOf core) p.1) (s.recordAll t.at_ r.2.2)
    let q := State.litBlocks s core l many (va + b128Bytes l.code) n
    (q.1, o.1 ++ q.2.1, o.2 ||| q.2.2.1, worse (bad.foldl (fun x y => worse x (some y)) none) q.2.2.2)

/-- Is a granule of an image that is read not zero beyond its scale (R107)? -/
def imageBad (bs : List Byte) (w : Nat) : Bool := (bs.drop (16 * w + 1)).any (· != 0)

/-- The read pass of a piece: the row buffer takes source bytes of scratch as they are, and a global source converted (R269). -/
def State.litRead (s : State) (core : Nat) (c : Crew) (l : LitCmd) (f : LitFields) : State :=
  let n := min (litPiece f.conv l.code) (f.rowBytes - l.pos)
  let at_ := rowAddr f.src f.fstride l.row + l.pos
  let take (s : State) (bs : List Byte) (fl : Flags) : State :=
    (s.addFlags l.gwn fl).modLit core l fun x =>
      if f.rowBytes ≤ l.pos + n then { x with buffer := x.buffer ++ bs, pos := 0, writing := true } else { x with buffer := x.buffer ++ bs, pos := l.pos + n }
  if (s.core core).refBad l.tabBank then (s.litUnread l l.pos).failLit core l (.trap 0x15 5 0)
  else if !f.srcGlobal then
    match c.failAt at_ n with
    | some a => s.failLit core l (.trap 0x15 5 a)
    | none =>
    let bs := toBytes n (c.read at_ n)
    if f.conv = 0x90 then
      let u := (convUnits f.conv l.code).1
      match (List.range (n / u)).find? fun i => imageBad ((bs.drop (u * i)).take u) (b128Width l.code) with
      | some i => s.failLit core l (.trap 0x09 0 (at_ + u * i))
      | none => take s bs 0
    else take s bs 0
  else
    let many := s.litMany l at_ n
    if f.block then
      let r := s.litBlocks core l many at_ (n / b128Bytes l.code)
      match r.2.2.2 with
      | some (sev, va) => (r.1.litUnread l l.readTo).failLit core l (.trap (ueCause sev) sev va)
      | none => take r.1 r.2.1 r.2.2.1
    else
      let r := s.litLines core l (f.conv == 0) many (linePieces at_ n)
      match r.2.1.fault with
      | some (sev, va) => (r.1.litUnread l l.readTo).failLit core l (.trap (ueCause sev) sev va)
      | none =>
        let o := litConvert f.conv n r.2.1
        take r.1 o.1 (o.2 ||| r.2.1.flags)

/-! ## Writing a piece (R131, R269, R320) -/

/-- Notes bytes of one line that a command has written, as address of the line, byte mask and value (R321). -/
def noteLine (ls : List (Nat × Nat × Nat)) (line o n x : Nat) : List (Nat × Nat × Nat) :=
  let m := byteMask o n
  let v := (x % 2 ^ (8 * n)) <<< (8 * o)
  if ls.any (·.1 == line) then mapWhere (·.1 == line) (fun p => (line, p.2.1 ||| m, (p.2.2 ||| m) ^^^ m ||| v)) ls else ls ++ [(line, m, v)]

/-- Notes the lines of device or host memory that some bytes reach, each of which will be one event of the command (R320, R321). -/
def State.litNote (s : State) (core : Nat) (l : LitCmd) (va : Nat) (bs : List Byte) : State :=
  if (s.crew? l.crew).any s.hashes then
    s.modLit core l fun x => { x with wrote := (linePieces va bs.length).foldl (fun ls p =>
      noteLine ls (p.1 / 64 * 64) (p.1 % 64) p.2 (ofBytes ((bs.drop (p.1 - va)).take p.2))) x.wrote }
  else s

/-- A core's own L1 copies of lines are invalidated (R131). -/
def State.dropLines (s : State) (core : Nat) (ls : List Nat) : State := ls.foldl (fun s l => s.dropL1 core l) s

/-- Writes plain bytes to the global destination (R109, R131): by line at the homes, field by field in a wide view, or to the host. A shadow copy takes the
flags alone (R88, R320). -/
def State.litStore (s : State) (core : Nat) (l : LitCmd) (shadow : Bool) (va : Nat) (bs : List Byte) : State :=
  let ps := (linePieces va bs.length).map fun p => (l.target p.1, (bs.drop (p.1 - va)).take p.2)
  ps.foldl (fun s p =>
    let n := p.2.length
    if shadow then (s.useFree p.1).addFlags l.gwn (s.fieldWrites p.1 n (ofBytes p.2)).2
    else
      let r := s.writeAt noWave p.1 n (ofBytes p.2)
      (r.1.dropLines core (p.1.devLines n)).addFlags l.gwn r.2) s

/-- Writes one block of the global destination (R89 to R91, R106, R107): an image's elements and scale, a fresh quantization, or elements rounded into
the block's scale. The result also holds the element bytes. -/
def State.litBlock (s : State) (core : Nat) (l : LitCmd) (shadow : Bool) (va : Nat) (bs : List Byte) : State × List Byte :=
  let f := litFields l.words
  let t := l.target va
  let w := b128Width l.code
  let el := b128Elem l.code (if l.tabBank = 0 then [] else (s.core core).refTable l.tabBank)
  let lines := (List.range 3).map fun i => t.at_ / 64 + i
  let put (field scale : Nat) (fl : Flags) : State × List Byte :=
    let s := s.addFlags l.gwn fl
    (if shadow then s else (s.writeBlock noWave t.at_ l.code field scale).dropLines core lines, toBytes (16 * w) field)
  if f.conv = 0x90 then put (ofBytes (bs.take (16 * w))) ((bs.getD (16 * w) 0).toNat) 0
  else if f.conv = 0x93 then
    let rs := (litValues f.conv bs).map fun v => el.quantInto (s.blockScale t.at_ l.code) v
    let field := packField w (rs.map (·.1))
    let s := s.addFlags l.gwn (orAll (rs.map (·.2)))
    (if shadow then s else (s.homeWrites noWave (blockWrites t.at_ l.code 0 (128 * w) field)).dropLines core lines, toBytes (16 * w) field)
  else
    let q := el.quantBlock (litValues f.conv bs)
    put (packField w q.elems) q.scale q.flags

/-- Writes blocks of the global destination whose last source byte lies in a piece. -/
def State.litBlocksOut (s : State) (core : Nat) (l : LitCmd) (shadow : Bool) : List (Nat × List Byte) → State
  | [] => s
  | (va, bs) :: r =>
    let a := s.litBlock core l shadow va bs
    State.litBlocksOut (a.1.litNote core l va a.2) core l shadow r

/-- The command has moved everything: each line that it wrote is one event of the signature (R321), its set-full granules become full, its slot falls (R113,
R121, R269). -/
def State.finishLit (s : State) (core : Nat) (l : LitCmd) : State :=
  let gs := (litFields l.words).granules l.code
  let s := ((s.litUnread l (litFields l.words).rowBytes).hashLit core l).dropLit core l
  let s := (s.modCrew l.crew fun c => c.setFulls (gs.map fun g => (g, true))).touchGranules noWave core l.crew gs
  s.modWave l.gwn (·.slotDown l.slot)

/-- The source bytes whose destination one turn of the write pass performs: those of a piece, or fewer, so that a piece that does not end its row ends at a
granule of scratch, and each granule that is filled whole is written at once (R131, R269). -/
def LitFields.writePiece (f : LitFields) (code dst pos : Nat) : Nat :=
  let u := convUnits f.conv code
  let n := min (litPiece f.conv code) (f.rowBytes - pos)
  if f.dstGlobal || decide (f.rowBytes ≤ pos + n) then n else n - (dst + (pos + n) / u.1 * u.2) % 16 / u.2 * u.1

/-- The write pass of a piece, and what follows the row (R269). -/
def State.litWrite (s : State) (core : Nat) (l : LitCmd) (f : LitFields) : State :=
  let u := convUnits f.conv l.code
  let dst := rowAddr f.dst f.tstride l.row
  let n := f.writePiece l.code dst l.pos
  let shadow := s.isShadow l.crew
  let s :=
    if f.srcGlobal then
      let o := l.pos / u.1 * u.2
      let bs := (l.buffer.drop o).take (n / u.1 * u.2)
      s.writeScratch noWave l.crew (dst + o) bs.length (ofBytes bs)
    else if f.block then
      let units := (List.range (f.rowBytes / u.1)).filter fun i => decide (l.pos < u.1 * (i + 1)) && decide (u.1 * (i + 1) ≤ l.pos + n)
      s.litBlocksOut core l shadow (units.map fun i => (dst + u.2 * i, (l.buffer.drop (u.1 * i)).take u.1))
    else
      let o := l.pos / u.1 * u.2
      let src := (l.buffer.drop l.pos).take n
      let c := litConvert f.conv n { Piece.empty with val := ofBytes src }
      let s := s.addFlags l.gwn c.2
      if f.dstGlobal then (s.litNote core l (dst + o) c.1).litStore core l shadow (dst + o) c.1
      else s.writeScratch noWave l.crew (dst + o) c.1.length (ofBytes c.1)
  if l.pos + n < f.rowBytes then s.modLit core l fun x => { x with pos := l.pos + n }
  else if l.row + 1 < f.rows then s.modLit core l fun x => { x with row := l.row + 1, writing := false, pos := 0, buffer := [] }
  else s.finishLit core l


/-- The started command whose turn it is: turns pass among the issuing waves in ascending slot order (R316). -/
def FarCore.nextTurn (k : FarCore) : Option LitCmd :=
  let started := k.lit.filter (·.started)
  let slots := (started.map fun l => slotOf l.gwn)
  let after := slots.filter (k.lastTurn ≤ ·)
  let least (l : List Nat) : Option Nat := l.foldl (fun m x => match m with | none => some x | some y => some (min x y)) none
  match (if after.isEmpty then least slots else least after) with
  | none => none
  | some x => started.find? fun l => slotOf l.gwn == x

/-- The global bytes that the next turn of a started command reaches, as address and length: those of a piece that it reads, or what a piece's source fills. -/
def LitCmd.reach (l : LitCmd) : Option (Nat × Nat) :=
  let f := litFields l.words
  let u := convUnits f.conv l.code
  let dst := rowAddr f.dst f.tstride l.row
  if l.writing then
    let a := l.pos / u.1
    if f.dstGlobal then some (dst + u.2 * a, u.2 * ((l.pos + f.writePiece l.code dst l.pos) / u.1 - a)) else none
  else if f.srcGlobal then some (rowAddr f.src f.fstride l.row + l.pos, l.readTo - l.pos) else none

/-- The first address that the next turn of a started command reaches and that only a failed link joins to the core's die; what a shadow copy writes reaches no home
(R320, R354). -/
def State.litCut (s : State) (core : Nat) (l : LitCmd) : Option Nat :=
  if l.writing && s.isShadow l.crew then none else
  l.reach.bind fun a => (((l.targets a.1 a.2).flatMap fun p => p.1.perLine p.2).find? fun p => s.cutOff (s.dieOf core) p.2 p.1).map (·.1.va)

/-- One turn of a started command: one piece of one pass (R269, R316). -/
def State.turnOf (s : State) (core : Nat) (l : LitCmd) : State :=
  match s.crew? l.crew with
  | none => s.dropLit core l
  | some c =>
    match s.litCut core l with
    | some va => (s.litUnread l (if l.writing then (litFields l.words).rowBytes else l.pos)).failLit core l (.trap 0x15 5 va)
    | none =>
      let f := litFields l.words
      if l.writing then s.litWrite core l f else s.litRead core c l f

/-- The lines that the next turn of a started command reaches, as `Target.keys` names them. -/
def LitCmd.reachKeys (l : LitCmd) : List (Nat × Nat) :=
  match l.reach with
  | none => []
  | some (va, n) =>
    if (litFields l.words).block then
      (List.range (n / b128Bytes l.code)).flatMap fun i => (blockLines (l.target (va + b128Bytes l.code * i)).at_ l.code).map fun k => (0, k)
    else (linePieces va n).flatMap fun p => (l.target p.1).keys p.2

/-- A turn of the lighter: a piece of the command whose turn it is (R316), which waits while a line that it reaches has a store performed at core scope only (R120,
R121). -/
def State.litTurn (s : State) (core : Nat) : State :=
  let k := s.core core
  match k.nextTurn with
  | none => s
  | some l => if (s.coreKeys core).any l.reachKeys.contains then s else (s.setCore { k with lastTurn := slotOf l.gwn + 1 }).turnOf core l

/-- LIGHTER_TURN (R269, R316). -/
def execLighterTurn (core : Nat) (s : State) : Result := .next (s.litTurn core)

/-- Turns of the lighter until a command has left it; `n` bounds them. -/
def State.litUntil (core : Nat) (l : LitCmd) : Nat → State → State
  | 0, s => s
  | n + 1, s =>
    if ((s.core core).lit.any fun x => x.gwn == l.gwn && x.id == l.id && x.started) then State.litUntil core l n (s.litTurn core) else s

/-- The turns that a command takes at most. -/
def LitCmd.turns (l : LitCmd) : Nat :=
  let f := litFields l.words
  2 * f.rows * (f.rowBytes / litPiece f.conv l.code + 2)

/-- A started command of one of some conversions runs to its end, its turns among those of the other waves' commands (R267, R269, R316). -/
def State.litRun (s : State) (core cmd : Nat) (conv : Nat → Bool) : State :=
  match (s.core core).litAt cmd with
  | none => s
  | some l =>
    if l.started && conv (litFields l.words).conv then
      State.litUntil core l (((s.core core).lit.map LitCmd.turns).foldl (· + ·) 0) s
    else s

/-- CONV_NONE: bytes copied unchanged (R267). -/
def execConvNone (core cmd : Nat) (s : State) : Result := .next (s.litRun core cmd (· == 0))
/-- CONV_ELEMENTWISE (R267). -/
def execConvElementwise (core cmd : Nat) (s : State) : Result := .next (s.litRun core cmd convElem)
/-- EXPAND_BF16 (R92, R267). -/
def execExpandBf16 (core cmd : Nat) (s : State) : Result := .next (s.litRun core cmd (· == 0x80))
/-- EXPAND_F32 (R92, R267). -/
def execExpandF32 (core cmd : Nat) (s : State) : Result := .next (s.litRun core cmd (· == 0x81))
/-- PACK_IN (R107, R267). -/
def execPackIn (core cmd : Nat) (s : State) : Result := .next (s.litRun core cmd (· == 0x82))
/-- PACK_OUT (R107). -/
def execPackOut (core cmd : Nat) (s : State) : Result := .next (s.litRun core cmd (· == 0x90))
/-- QUANT_BF16 (R89, R90, R267). -/
def execQuantBf16 (core cmd : Nat) (s : State) : Result := .next (s.litRun core cmd (· == 0x91))
/-- QUANT_F32 (R89, R90, R267). -/
def execQuantF32 (core cmd : Nat) (s : State) : Result := .next (s.litRun core cmd (· == 0x92))
/-- REQUANT_BF16 (R91, R267). -/
def execRequantBf16 (core cmd : Nat) (s : State) : Result := .next (s.litRun core cmd (· == 0x93))

end Sys2Proof.Machine
end

