-- ==== Sys2Proof/Machine/Berth.lean ====
section
/-! DEFINITION. Berths, pilots and crews: the launch check, the berth cycle, claims at both ends, crew starts, the status line, manifests and shadow copies
(R43 to R68, R304 to R322). -/

namespace Sys2Proof.Machine

/-! ## The launch check (R43, R253) -/

/-- The next launch id of a context: modulo 2^24, skipping 0 and every id in use (R297). `n` bounds the search. -/
def freeLaunchId (used : List Nat) : Nat → Nat → Nat
  | 0, i => i
  | n + 1, i =>
    let i := if i % 2 ^ 24 = 0 then 1 else i % 2 ^ 24
    if used.contains i then freeLaunchId used n (i + 1) else i

/-- Accepts or refuses a record (R43, R45): the state and the status word of R253. -/
def State.submit (s : State) (ctx : Nat) (ws : List Word) (bad : Bool) : State × Nat :=
  match s.ctx? ctx with
  | none => (s, 0x0901)
  | some c =>
    if bad then (s, 0x1501) else
    let f := launchFields ws
    let e := s.typeEntry ctx f.ty
    if !launchOk s.dies c.priv c e.2 ws then (e.1, 0x0901)
    else if 1024 ≤ c.launches.length then (e.1, 2)
    else
      let id := freeLaunchId (c.launches.map (·.id)) 1025 c.nextLaunch
      let l : Launch := {
        id := id
        words := ws
        admitted := false
        chart := (c.chart? f.chartIx).getD []
        live := f.count
        taken := []
        entries := 0
        reports := []
        noted := false }
      ((e.1.modCtx ctx fun x => { x with launches := x.launches ++ [l], nextLaunch := id % (2 ^ 24 - 1) + 1 }).examine ctx, id * 2 ^ 40)

/-- The harbourmaster takes the partition's oldest submitted record whole and answers it, while a core of it runs (R43, R253, R305); with none submitted it
completes what is over and examines the held launches of its contexts (R45, R47). -/
def execLaunchCheck (part : Nat) (s : State) : Result :=
  .next (if !s.hmAlive part then s else match s.subs.find? fun x => s.partOfCtx x.ctx == part with
    | none => ((s.ctxs.map (·.slot)).filter fun c => s.partOfCtx c == part).foldl (fun s c => (s.completeOver c).examine c) s
    | some x =>
      let s1 := { s with subs := s.subs.filter fun y => !(y.gwn == x.gwn && y.flight == x.flight) }
      let r := s1.submit x.ctx x.words x.bad
      match (r.1.wave? x.gwn).bind (·.flight? x.flight) with
      | none => r.1
      | some f =>
        match f.body with
        | .launch d _ => r.1.answer x.gwn f d r.2
        | _ => r.1)

/-! ## Records at a berth (R48, R53, R55) -/

/-- The type entry of a record, read anew at each choice; a task whose entry cannot be read then is claimed by nobody (DESIGN CHOICE, log entry 70). -/
def State.typeOf (s : State) (r : TaskRec) : Option TypeEntry := (s.typeEntry r.ctx (taskFields r.words).ty).2

/-- The effective priority of a record at the berth (R53). -/
def State.recPrio (s : State) (r : TaskRec) : Nat :=
  let p := (taskFields r.words).prio
  if p < 28 then min (p + (s.time - r.time) / 4096) 27 else p

/-- Do two anchors share a byte (R48)? One of length 0 overlaps nothing (R38). -/
def overlap (a b : TaskFields) : Bool := a.len != 0 && b.len != 0 && decide (a.base < b.base + b.len) && decide (b.base < a.base + a.len)

/-- Does record u hold back record t (R48)? A DISJOINT type and a shadow copy hold back nothing. -/
def State.holdsBack (s : State) (u t : TaskRec) : Bool :=
  u.ctx == t.ctx && u.st != .retired && u.primary.isNone && overlap (taskFields u.words) (taskFields t.words)
    && !((s.typeOf u).map (·.disjoint)).getD false

/-- The clear, unclaimed records of a berth, oldest first (R48, R319); those of a pre-empted context are not granted (R358). -/
def State.clearRecs (s : State) (b : Nat) : List TaskRec :=
  let rs := (s.berth b).recs
  let go (p : TaskRec × List TaskRec) : Bool :=
    let t := p.1
    t.st == .unclaimed && !((s.ctx? t.ctx).map (·.preempted)).getD true
      && match t.primary with
        | some q => rs.any fun r => r.id == q && r.st != .unclaimed
        | none => ((s.typeOf t).map (·.disjoint)).getD false || !p.2.any (s.holdsBack · t)
  ((List.range rs.length).filterMap fun i => (rs[i]?).map fun r => (r, rs.take i)).filter go |>.map (·.1)

/-- The number of unclaimed records of a context at a berth (R55). -/
def Berth.unclaimed (b : Berth) (ctx : Nat) : Nat := (b.recs.filter fun r => r.ctx == ctx && r.st == .unclaimed).length

/-- Is a record stealable (R55, R319)? -/
def State.stealable (s : State) (b : Berth) (r : TaskRec) : Bool :=
  match s.typeOf r with
  | none => false
  | some t => t.farPc != 0 && (r.primary.isSome || r.spans || decide (t.threshold < b.unclaimed r.ctx))

/-- The first of the records with the highest effective priority. -/
def State.best (s : State) : List TaskRec → Option TaskRec
  | [] => none
  | r :: rs =>
    match s.best rs with
    | none => some r
    | some q => if s.recPrio q ≤ s.recPrio r then some r else some q

/-- The choice from a seaward window (R55): the highest effective priority, the youngest among ties, but at 27 the window's oldest task where it
ties. The window is oldest first. -/
def State.seaward (s : State) (w : List TaskRec) : Option TaskRec :=
  match w, s.best w.reverse with
  | o :: _, some r => if s.recPrio r = 27 ∧ s.recPrio o = 27 then some o else some r
  | _, r => r

/-- The seaward window of a list of stealable, clear, unclaimed records: its 8 youngest, and the oldest (R55). -/
def seaWindow (l : List TaskRec) : List TaskRec := if l.length ≤ 8 then l else l.take 1 ++ l.drop (l.length - 8)

/-! ## Room for a crew (R54, R61, R98, R100, R308, R312) -/

/-- The wave slots of a unit. -/
def slotsOf (u : Nat) : Nat := if u < 256 then 32 else 4

/-- The slots in use on a unit. -/
def State.slotsUsed (s : State) (u : Nat) : List Nat := (s.waves.filter fun w => unitOf w.gwn == u).map fun w => slotOf w.gwn

/-- The scratch units in use on a unit. -/
def State.unitsUsed (s : State) (u : Nat) : Nat := ((s.crews.filter (·.unit == u)).map (·.units)).foldl (· + ·) 0

/-- Has a unit room for a crew of a type? A far core keeps 2 units as L1 (R98). -/
def State.fits (s : State) (u : Nat) (t : TypeEntry) : Bool :=
  decide ((s.slotsUsed u).length + t.crew ≤ slotsOf u) && decide (s.unitsUsed u + t.scratch ≤ if u < 256 then 14 else 4)

/-- The free slot that the next wave of a crew takes: in the scheduler with the fewest occupied slots, the lowest (R312). -/
def nextSlot (u : Nat) (used : List Nat) : Nat :=
  if 256 ≤ u then ((List.range 4).find? fun i => !used.contains i).getD 0 else
  let busy (k : Nat) : Nat := (used.filter fun x => x / 8 == k).length
  let k := (List.range 4).foldl (fun best k => if busy k < busy best then k else best) 0
  (((List.range 8).map fun i => 8 * k + i).find? fun i => !used.contains i).getD 0

/-- The slots of n waves in crew order. -/
def crewSlots (u : Nat) : Nat → List Nat → List Nat
  | 0, _ => []
  | n + 1, used => let x := nextSlot u used; x :: crewSlots u n (x :: used)

/-! ## Claims (R54 to R58, R62, R379) -/

/-- The lines a quay claim holds (R379): those of the anchor that the quay unit's translation, with its re-walk, gives and its own berth homes. An anchor that
does not span lies in one page. -/
def State.nearLines (s : State) (b ctx base len : Nat) : State × List Nat :=
  if len = 0 ∨ unwalkedBase ≤ base then (s, []) else
  let r := s.walkFor (256 + b) ctx base .r
  match r.2 with
  | .leaf level e =>
    let t := r.1.leafTarget ctx level e base
    if t.space = .dev then
      (r.1, ((List.range ((t.at_ % 64 + len + 63) / 64)).map (t.at_ / 64 + ·)).filter fun l => r.1.berthOf (64 * l) == b)
    else (r.1, [])
  | _ => (r.1, [])

/-- Adds one hold to each line (R58); no far core keeps a copy of a line held near (R132). -/
def State.holdLines (s : State) (ls : List Nat) : State :=
  { s with caches := { s.caches with
    l1 := s.caches.l1.filter fun c => !ls.contains c.line
    near := ls.foldl (fun m l =>
      if m.any (·.1 == l) then mapWhere (·.1 == l) (fun p => (p.1, p.2 + 1)) m else m ++ [(l, 1)]) s.caches.near } }

/-- The starting registers of a wave (R62). -/
def abiRegs (r : TaskRec) (berth ix n : Nat) : Cells 64 :=
  let f := taskFields r.words
  Cells.setMany [] ([(0, BitVec.ofNat 64 f.base), (1, BitVec.ofNat 64 f.len), (2, BitVec.ofNat 64 r.seq),
    (3, BitVec.ofNat 64 (f.ty + f.prio * 2 ^ 16))] ++ (List.range 6).map (fun i => (4 + i, r.words.getD (2 + i) 0)) ++
    [(10, BitVec.ofNat 64 (ix + (n - 1) * 16)), (11, BitVec.ofNat 64 berth), (12, BitVec.ofNat 64 r.launch)])

/-- p6 at the start of a wave (R62): bit l is set iff 4l < min(s1, 128). -/
def abiP6 (len : Nat) : Lane := BitVec.ofNat 32 (maskOf ((List.range 32).filter fun l => decide (4 * l < min len 128)))

/-- A wave of a claimed crew, not started yet. -/
def State.newWave (s : State) (u slot crew : Nat) (r : TaskRec) (t : TypeEntry) (berth ix n pc : Nat) : Wave where
  gwn := gwnOf u slot
  run := .off
  pc := BitVec.ofNat 64 pc
  s := abiRegs r berth ix n
  v := []
  p := Cells.set [] 6 (abiP6 (taskFields r.words).len)
  sb := []
  loops := .zero
  flags := 0
  tx := .zero
  park := none
  flights := []
  nextOp := 0
  crew := crew
  crewIx := ix
  lcore := u
  ctx := r.ctx
  priv := ((s.ctx? r.ctx).map (·.priv)).getD false
  prio := (taskFields r.words).prio
  vregs := t.vregs
  age := 0
  issued := none
  ready := s.time
  watch := 0
  bankUse := 0
  tabUse := 0
  dueFault := none
  duePark := none
  sync := []
  syncTx := []
  coreSeen := []
  bad := []

/-- A far core binds to a context (R307): banks and tables are reset when it last served another one (R254). -/
def State.bind (s : State) (core ctx : Nat) : State :=
  let k := s.core core
  if k.served = some ctx then s.setCore { k with bound := some ctx }
  else s.setCore { FarCore.empty core with bound := some ctx, served := some ctx }

/-- The next crew identity. -/
def State.nextCrew (s : State) : Nat :=
  (s.crews ++ s.ctxs.flatMap fun c => c.images.flatMap (·.crews)).foldl (fun m c => max m c.id) 0 + 1

/-- The report of a task that is not running: its own fields as the record holds them (R64). -/
def recReport (b : Nat) (r : TaskRec) (cause sev : Nat) (detail : Word) : Report :=
  let f := taskFields r.words
  ⟨b, r.seq, f.ty, f.base, cause, sev, 0, detail, some r.id⟩

/-- A claim finds its record uncorrectable: the task is reported to its launch, a shadow copy when it is compared (R322, R354). -/
def State.claimBad (s : State) (b : Nat) (r : TaskRec) : State :=
  let s := s.modRec b r.id fun x => { x with st := .failed }
  if r.primary.isSome then s else s.report r.ctx r.launch (recReport b r 0x15 5 0)

/-- A unit claims a record (R56): slots and scratch are taken, a far core binds, a quay unit holds the anchor's lines, and the claim is an acquire of the
whole crew (R57, R378). -/
def State.claim (s : State) (u b : Nat) (r : TaskRec) : State :=
  match s.typeOf r with
  | none => s
  | some t =>
    if r.bad then s.claimBad b r else
    let id := s.nextCrew
    let near := decide (256 ≤ u)
    let f := taskFields r.words
    let n := if near then 1 else t.crew
    let slots := crewSlots u n (s.slotsUsed u)
    let ws := (List.range n).map fun i => s.newWave u (slots.getD i 0) id r t b i n (if near then t.nearPc else t.farPc)
    let c : Crew := {
      id := id
      unit := u
      ctx := r.ctx
      berth := b
      record := r.id
      seq := r.seq
      launch := r.launch
      type := f.ty
      waves := ws.map (·.gwn)
      alive := n
      units := t.scratch
      scratch := []
      full := []
      bad := []
      fault := none
      shadow := r.primary.isSome
      sig := 0 }
    let h := if near then s.nearLines b r.ctx f.base f.len else (s, [])
    let s := h.1.holdLines h.2
    let s := s.modRec b r.id fun x => { x with st := .running id, holds := h.2, die := s.dieOf u }
    let s := { s with crews := s.crews ++ [c], others := s.others ++ ws }
    let s := if near then s else s.bind u r.ctx
    (s.flushL1 u).flushIc u

/-- A claimed crew starts (R61, R62). -/
def execCrewStart (unit crew : Nat) (s : State) : Result :=
  .next (match s.crew? crew with
    | none => s
    | some c =>
      if c.unit ≠ unit ∨ c.fault.isSome = true then s
      else s.modWaves (fun w => w.crew == crew && !isHm w.gwn && w.run == .off && w.issued.isNone) fun w =>
        { w with run := .running, ready := s.time })

/-! ## The berth cycle (R311) -/

/-- The answer to a spawn offer (R51): a full queue before a full quota (DESIGN CHOICE, log entry 69). -/
def State.answerOffer (s : State) (b : Nat) (o : Offer) : State :=
  match s.wave? o.gwn with
  | none => s
  | some w =>
    match w.flight? o.flight with
    | none => s
    | some f =>
      match f.body with
      | .spawn d ws =>
        let x := s.berth b
        if 2048 ≤ x.count then s.answer o.gwn f d 1
        else if s.quotaOf w.ctx ≤ x.countOf w.ctx then s.answer o.gwn f d 2
        else
          let launch := ((s.crew? w.crew).map (·.launch)).getD 0
          let s := (s.raiseLive w.ctx launch).enqueue b w.ctx launch (spawnRecord ws launch) none false
          (s.hash w.crew (spawnMessage ws launch)).answer o.gwn f d 0
      | _ => s

/-- The first of some spawn offers: the earliest, and of one clock the lowest spawner (R311). -/
def firstOffer : List Offer → Option Offer
  | [] => none
  | o :: r =>
    match firstOffer r with
    | none => some o
    | some p => if p.time < o.time ∨ (p.time = o.time ∧ p.gwn < o.gwn) then some p else some o

/-- Spawn offers in the order in which a berth takes them; `n` bounds their number. -/
def offerOrder : Nat → List Offer → List Offer
  | 0, _ => []
  | n + 1, l =>
    match firstOffer l with
    | none => []
    | some o => o :: offerOrder n (l.erase o)

/-- A berth takes its spawn offers (R311). -/
def State.takeOffers (s : State) (b : Nat) : State :=
  let l := (s.berth b).offers
  let os := offerOrder l.length l
  let s := s.setBerth { s.berth b with offers := [] }
  os.foldl (fun s o => s.answerOffer b o) s

/-- Where task i of a launch goes (R46): the berth that enumerates it, its anchor base, and its home or the cause and severity of its anchor fault. -/
structure Place where
  owner : Nat
  base : Int
  home : Except (Nat × Nat) Nat

/-- The block coordinates of block i of a chart: dimension 0 fastest, the last dimension unbounded. -/
def blockCoords : List Nat → Nat → List Nat
  | [], _ => []
  | [_], i => [i]
  | n :: r, i => i % n :: blockCoords r (i / n)

/-- The place of task i (R38, R46): where the anchor base of a chart's block faults, the block's owner reports it (DESIGN CHOICE, log entry 71). -/
def State.placeOf (s : State) (ctx : Nat) (l : Launch) (i : Nat) : Place :=
  let f := launchFields l.words
  let low := 64 * s.dies * s.partOfCtx ctx
  if f.chart then
    let ds := chartDims l.chart
    let q := blockCoords (ds.map fun d => ceilDiv d.ext d.blk) i
    let own := mixed (((List.range ds.length).zip ds).map fun a => (q.getD a.1 0 % a.2.grid, a.2.grid))
    let cs := ((List.range ds.length).zip ds).map fun a => q.getD a.1 0 * a.2.blk
    let base := wordBits l.chart 0 0 48 + (chartAddr l.chart cs).2
    ⟨wordBits l.chart 0 48 8 + own, base, (s.anchor hostTlb ctx base f.len).2.map s.berthOf⟩
  else
    let base := (f.base : Int) + f.stride * i
    let a := (s.anchor hostTlb ctx base f.len).2
    match a with
    | .error e => ⟨low, base, .error e⟩
    | .ok g => ⟨s.berthOf g, base, .ok (s.berthOf g)⟩

/-- Has a berth's enumeration of a launch passed an index? -/
def State.passed (s : State) (ctx launch b i : Nat) : Bool :=
  !(s.berth b).enums.any fun e => e.ctx == ctx && e.launch == launch && decide (e.next ≤ i)

/-- The next task, from index i on, that a berth enumerates; `n` indices remain. Its home is decided at this step of this berth, and an index is taken once: where
its page has moved to a berth that has passed it, the berth that comes to it takes it for that home (R46, R69; DESIGN CHOICE, log entry 67). -/
def State.nextTask (s : State) (ctx : Nat) (l : Launch) (b : Nat) : Nat → Nat → Option (Nat × Place)
  | 0, _ => none
  | n + 1, i =>
    let p := s.placeOf ctx l i
    if !l.taken.contains i && (p.owner == b || s.passed ctx l.id p.owner i) then some (i, p) else s.nextTask ctx l b n (i + 1)

/-- The task record of a launch (R37, R46). -/
def launchRecord (l : Launch) (base : Nat) (shadow : Bool) : List Word :=
  let f := launchFields l.words
  BitVec.ofNat 64 (base % 2 ^ 48 + f.ty * 2 ^ 48 + b2n shadow * 2 ^ 61)
    :: BitVec.ofNat 64 (f.len + f.prio * 2 ^ 32 + l.id % 2 ^ 24 * 2 ^ 40) :: (l.words.drop 10).take 6

/-- Has a berth room for the next enumerated task of a context (R50)? A launch with shadow copies needs room for two records. -/
def State.enumRoom (s : State) (b ctx : Nat) (two : Bool) : Bool :=
  let x := s.berth b
  let q := s.quotaOf ctx
  decide (x.count + b2n two < 1792) && decide (x.countOf ctx + b2n two < q - q / 8)

/-- Has a launch a type with no far body? -/
def State.noFar (s : State) (ctx : Nat) (l : Launch) : Bool :=
  match (s.typeEntry ctx (launchFields l.words).ty).2 with
  | none => true
  | some t => t.farPc == 0

/-- Enumerates one task of a launch at a berth, or nothing while it pauses (R46, R50, R52, R319). Of a sum outside 48 bits a report holds the low 48 bits, and 0
for one below 0 (DESIGN CHOICE, log entry 66); a BERTH_SPAN report names the enumerating berth (DESIGN CHOICE, log entry 76). The DETAIL of a report of an anchor
is 0 (DESIGN CHOICE, log entry 111). -/
def State.enumOne (s : State) (b : Nat) (e : Enum) : Option State :=
  match s.launch? e.ctx e.launch with
  | none => some (s.setBerth { s.berth b with enums := (s.berth b).enums.filter (· != e) })
  | some l =>
    let f := launchFields l.words
    match s.nextTask e.ctx l b (f.count - e.next) e.next with
    | none => some (s.setBerth { s.berth b with enums := (s.berth b).enums.filter (· != e) })
    | some (i, p) =>
      let go (s : State) : State :=
        (s.setBerth { s.berth b with enums := mapWhere (· == e) (fun x => { x with next := i + 1 }) (s.berth b).enums }).modLaunch e.ctx e.launch
          fun x => { x with taken := i :: x.taken }
      let rep (cause sev : Nat) : Report := ⟨b, 0, f.ty, p.base.toNat % 2 ^ 48, cause, sev, 0, 0, none⟩
      match p.home with
      | .error (cause, sev) => some ((go s).report e.ctx e.launch (rep cause sev))
      | .ok h =>
        if spans p.base.toNat f.len && s.noFar e.ctx l then some ((go s).report e.ctx e.launch (rep 0x0A 0))
        else if s.enumRoom h e.ctx f.shadow then
          let id := (s.berth h).nextRec
          let s := (go s).enqueue h e.ctx e.launch (launchRecord l p.base.toNat false) none f.shadow
          some (if f.shadow then
            (s.raiseLive e.ctx e.launch).enqueue h e.ctx e.launch (launchRecord l p.base.toNat true) (some id) false
          else s)
        else none

/-- The enumerations of a berth in the order it serves them: the highest priority first, the one flooded earlier on a tie (R50; DESIGN CHOICE, log entry
68). -/
def State.enumOrder (s : State) (b : Nat) : List Enum :=
  let prio (e : Enum) : Nat := ((s.launch? e.ctx e.launch).map fun l => (launchFields l.words).prio).getD 0
  let es := (s.berth b).enums
  (List.range 32).reverse.flatMap fun p => es.filter fun e => prio e == p

/-- One enumerated enqueue (R50, R311). -/
def State.enumStep (s : State) (b : Nat) : State := (firstSome (s.enumOne b) (s.enumOrder b)).getD s

/-- One quay claim (R54). -/
def State.quayClaim (s : State) (b : Nat) : State :=
  let near := (s.clearRecs b).filter fun r => r.primary.isNone && !r.spans && ((s.typeOf r).map fun t => t.nearPc != 0).getD false
  match s.best (near.take 8) with
  | none => s
  | some r =>
    match s.typeOf r with
    | none => s
    | some t => if s.fits (256 + b) t then s.claim (256 + b) b r else s

/-- Can a core take a record (R308)? -/
def State.canTake (s : State) (core : Nat) (r : TaskRec) : Bool :=
  let k := s.core core
  (k.bound.isNone || k.bound == some r.ctx) && ((s.typeOf r).map (s.fits core)).getD false

/-- May a core claim a record as far as its die goes: a shadow copy runs on another die than its primary (R319)? -/
def State.dieAllows (s : State) (core b : Nat) (r : TaskRec) : Bool :=
  match r.primary with
  | none => true
  | some q => ((s.rec? b q).map fun p => p.die != core / 64).getD false

/-- Does a request's core, as it stood when the request was sent, have room for a record (R310)? -/
def State.reqTakes (s : State) (q : StealReq) (r : TaskRec) : Bool :=
  (q.bound.isNone || q.bound == some r.ctx) && (s.typeOf r).any fun t => decide (t.crew ≤ q.slots) && decide (t.scratch ≤ q.units)

/-- The stealable, clear, unclaimed records of a berth. -/
def State.seaList (s : State) (b : Nat) : List TaskRec := (s.clearRecs b).filter (s.stealable (s.berth b))

/-- One steal at a berth (R55, R310): the pilot's request is answered whatever it finds, and a task that the core cannot take, by its request or as it
stands now, or may not claim, counts as not clear. After one that finds nothing the pilot chooses again at a later clock. -/
def State.steal (s : State) (b : Nat) (q : StealReq) : State :=
  let s1 := { s with pilots := mapWhere (·.core == q.core) (fun p => { p with asked := none }) s.pilots }
  match s1.seaward (seaWindow ((s1.seaList b).filter fun r => s1.reqTakes q r && s1.canTake q.core r && s1.dieAllows q.core b r)) with
  | none => { s1 with pilots := mapWhere (·.core == q.core) (fun p => { p with next := s.time + 1 }) s1.pilots }
  | some r => s1.claim q.core b r

/-- The steals of a berth, in ascending physical core number. -/
def State.takeSteals (s : State) (b : Nat) : State :=
  let qs := (List.range 256).filterMap fun c => (s.berth b).steals.find? (·.core == c)
  let s := s.setBerth { s.berth b with steals := [] }
  qs.foldl (fun s q => s.steal b q) s

/-- The berth cycle (R311): offers, one enumerated enqueue, one quay claim where one reaches the berth in this cycle, steals. Retirements and manifest writes
have freed their records when they were made. -/
def execBerthCycle (turn : BerthTurn) (s : State) : Result :=
  let b := turn.berth
  let s1 := (s.takeOffers b).enumStep b
  .next ((if turn.claim then s1.quayClaim b else s1).takeSteals b)

/-! ## The status line (R66, R68) -/

/-- The byte of a context in a berth's status line (R66). -/
def State.statusByte (s : State) (b c : Nat) : Nat :=
  let x := s.berth b
  if 2048 ≤ x.count || ((s.ctx? c).isSome && decide (s.quotaOf c ≤ x.countOf c)) then 255 else min (x.countOf c) 254

/-- The bytes of a berth's status line. -/
def State.statusBytes (s : State) (b : Nat) : Cells 8 :=
  Cells.setMany [] ((List.range 64).map fun c => (c, BitVec.ofNat 8 (s.statusByte b c)))

/-- 256 L2 clocks in arithmetic clocks (R10). -/
def statusGap : Nat := 180

/-- The berth rewrites its status line: at most once every 256 L2 clocks, and when a byte has changed; the rewrite dooms and wakes its readers (R68). -/
def execStatusLineRewrite (b : Nat) (s : State) : Result :=
  .next (
    let x := s.berth b
    let new := s.statusBytes b
    if x.status = new ∨ (x.statusTime.any fun t => decide (s.time < t + statusGap)) = true then s else
    (s.setBerth { x with status := new, statusTime := some s.time }).touchLine noWave (statusLine b))

/-! ## Manifests (R63, R64, R283, R294) -/

/-- Is the work of a faulted crew settled (R63, R283): nothing in flight but register values, and no engine command left? -/
def State.settled (s : State) (c : Crew) : Bool :=
  (s.waves.all fun w => isHm w.gwn || w.crew != c.id || w.flights.all Flight.onlyRegs)
    && (256 ≤ c.unit || !((s.core c.unit).mat.any (·.crew == c.id) || (s.core c.unit).lit.any (·.crew == c.id)))

/-- Frees a faulted crew whose work is settled: its holds, slots and scratch (R63, R283). Its signature stays with the record. -/
def State.freeFaulted (s : State) (c : Crew) : State :=
  if c.fault.isSome && s.settled c then
    ((s.releaseRec c.berth c.record).modRec c.berth c.record fun r => { r with sig := c.sig }).freeCrew c.id
  else s

/-- Frees every settled faulted crew of a launch. -/
def State.freeSettled (s : State) (ctx launch : Nat) : State :=
  (s.crews.filter fun c => c.ctx == ctx && c.launch == launch).foldl (fun s c => s.freeFaulted c) s

/-- Does a crew run the record with a number at a berth? -/
def State.crewOf (s : State) (b id : Nat) : Bool := s.crews.any fun c => c.berth == b && c.record == id

/-- May a report be written: its task's crew is gone (R283)? -/
def State.reportReady (s : State) (r : Report) : Bool := !r.record.any (s.crewOf r.berth)

/-- The words of a manifest entry (R64). -/
def reportWords (r : Report) : List Word :=
  [BitVec.ofNat 64 (2 ^ 63 + r.sev % 8 * 2 ^ 60 + r.type % 4096 * 2 ^ 48 + r.berth % 256 * 2 ^ 40 + r.seq % 2 ^ 40),
   BitVec.ofNat 64 (r.cause % 256 * 2 ^ 48 + r.anchor % 2 ^ 48), BitVec.ofNat 64 (r.pc.toNat % 2 ^ 48), r.detail]

/-- Writes a manifest entry by virtual address: words 1 to 3, then word 0, as a release at system scope (R64, R134). -/
def State.writeEntry (s : State) (t : Target) (ws : List Word) : State :=
  ([1, 2, 3, 0].foldl (fun s i => (s.writeAt noWave { t with at_ := t.at_ + 8 * i } 8 (ws.getD i 0).toNat).1) s.fenceHost).fenceHost

/-- A manifest entry's word 0 reads with VALID = 0 to the harbourmaster of a context's partition. -/
def State.entryFree (s : State) (ctx : Nat) (t : Target) : Bool :=
  let r := s.readAt (s.hmUnit ctx) 0 true false t 8
  r.2.fault.isNone && !bitAt r.2.val 63

/-- A report cannot be written: the failure is recorded once, as an error of severity 0 at the entry's address (R362; DESIGN CHOICE, log entry 113). `out` is what
stands outside when it has been recorded before. -/
def State.noteReport (s : State) (ctx : Nat) (l : Launch) (va : Nat) (out : Outside) : State :=
  if l.noted then { s with out := out } else (s.record va 0).modLaunch ctx l.id fun x => { x with noted := true }

/-- Writes the next report of a launch whose entry is free and whose address translates with write permission (R64, R294). -/
def State.writeReport (s : State) (ctx launch : Nat) : State :=
  match s.launch? ctx launch with
  | none => s
  | some l =>
    match l.reports.find? s.reportReady with
    | none => s
    | some r =>
      let f := launchFields l.words
      let va := f.manifest + 32 * (l.entries % f.cap)
      let tr := s.hmPlace ctx va .w
      match tr.2 with
      | .ok t =>
        if tr.1.entryFree ctx t then
          let s := tr.1.writeEntry t (reportWords r)
          let s := s.modLaunch ctx launch fun x => { x with entries := x.entries + 1, reports := x.reports.erase r, noted := false }
          let s := match r.record with
            | none => s
            | some id => s.freeRec r.berth id
          s.lowerLive ctx launch
        else tr.1.noteReport ctx l va tr.1.out
      | .error _ => tr.1.noteReport ctx l va s.out

/-- The harbourmaster's write of a launch's next report, while a core of the partition runs (R305). -/
def State.manifest (s : State) (ctx launch : Nat) : State :=
  let s := s.freeSettled ctx launch
  if s.hmAlive (s.partOfCtx ctx) then s.writeReport ctx launch else s

/-- The harbourmaster writes a manifest entry when its ring entry is free (R64). -/
def execManifestWrite (ctx launch : Nat) (s : State) : Result := .next (s.manifest ctx launch)

/-- An unwritten manifest entry is tried again (R294): at least once every 100 µs, and after a `tlbi`. -/
def execManifestRetry (ctx launch : Nat) (s : State) : Result := .next (s.manifest ctx launch)

/-! ## Shadow copies (R319 to R322) -/

/-- Has a record ended: it is claimed no more, and its crew is gone? -/
def State.ended (s : State) (b : Nat) (r : TaskRec) : Bool := (r.st == .retired || r.st == .failed) && !s.crewOf b r.id

/-- Is a report of a record still to be written? -/
def State.reported (s : State) (b : Nat) (r : TaskRec) : Bool :=
  (s.launch? r.ctx r.launch).any fun l => l.reports.any fun x => x.berth == b && x.record == some r.id

/-- A shadow copy beside its primary's record: both freed where they agree; a copy that faulted or differs is reported (R322). -/
def State.shadowEnd (s : State) (b : Nat) (r p : TaskRec) : State :=
  let s := s.freeRec b p.id
  if r.st = .retired ∧ r.sig = p.sig then (s.freeRec b r.id).lowerLive r.ctx r.launch
  else (s.modRec b r.id fun x => { x with st := .failed }).report r.ctx r.launch (recReport b r 0x22 0 r.sig)

/-- The comparison of a shadow copy, by its record's number, with its primary (R322). A primary that has been reported is gone, and the copy is dropped once
it has ended, or unclaimed. -/
def State.shadowCompare (s : State) (b : Nat) (r : TaskRec) : State :=
  match s.rec? b (r.primary.getD 0) with
  | some p => if p.st = .retired ∧ s.ended b r = true then s.shadowEnd b r p else s
  | none =>
    if s.reported b r || !(s.ended b r || r.st == .unclaimed) then s else (s.freeRec b r.id).lowerLive r.ctx r.launch

/-- SHADOW_COMPARE (R322). -/
def execShadowCompare (b id : Nat) (s : State) : Result :=
  .next (match s.rec? b id with
    | none => s
    | some r0 =>
      if r0.primary.isNone then s else
      let s := s.freeSettled r0.ctx r0.launch
      match s.rec? b id with
      | none => s
      | some r => s.shadowCompare b r)

end Sys2Proof.Machine
end

