-- ==== Sys2Proof/Decode.lean ====
section
/-! DEFINITION. The decoder, total on every 64-bit word (R158 to R174), and the encoder written from the same tables.
A word that is no instruction decodes to `Instr.illegal`. -/

namespace Sys2Proof

/-- A word cut into its bytes: OP, the five bytes of the body from the top, and the 16 common bits (R158, R160). -/
structure Fields where
  op : Byte
  b6 : Byte
  b5 : Byte
  b4 : Byte
  b3 : Byte
  b2 : Byte
  lo : BitVec 16
  deriving DecidableEq, Repr

def Fields.ofWord (w : Word) : Fields :=
  { op := w.extractLsb' 56 8, b6 := w.extractLsb' 48 8, b5 := w.extractLsb' 40 8, b4 := w.extractLsb' 32 8,
    b3 := w.extractLsb' 24 8, b2 := w.extractLsb' 16 8, lo := w.extractLsb' 0 16 }

def Fields.toWord (f : Fields) : Word :=
  f.op ++ f.b6 ++ f.b5 ++ f.b4 ++ f.b3 ++ f.b2 ++ f.lo

/-- The common fields (R158). -/
def Ctl.ofBits (x : BitVec 16) : Ctl :=
  { pn := x.getLsbD 15, pr := x.extractLsb' 12 3, se := x.getLsbD 11, ss := x.extractLsb' 8 3, wm := x.extractLsb' 0 8 }

def Ctl.toBits (c : Ctl) : BitVec 16 :=
  BitVec.ofBool c.pn ++ c.pr ++ BitVec.ofBool c.se ++ c.ss ++ c.wm

/-- The code of a special value (R163). -/
def Special.code : Special → Byte
  | .lane => 0xC0 | .lanebit => 0xC1 | .slot => 0xC2 | .core => 0xC3 | .die => 0xC4 | .berth => 0xC5
  | .crew => 0xC6 | .crewsz => 0xC7 | .cycle => 0xC8 | .bsw => 0xC9 | .ctx => 0xCA | .scr => 0xCB

def Special.ofCode (b : Byte) : Option Special :=
  match b.toNat with
  | 0xC0 => some .lane | 0xC1 => some .lanebit | 0xC2 => some .slot | 0xC3 => some .core | 0xC4 => some .die
  | 0xC5 => some .berth | 0xC6 => some .crew | 0xC7 => some .crewsz | 0xC8 => some .cycle | 0xC9 => some .bsw
  | 0xCA => some .ctx | 0xCB => some .scr
  | _ => none

/-- An operand byte (R162). -/
def Opnd.ofByte (b : Byte) : Option Opnd :=
  if b.toNat < 0x80 then some (.v (b.extractLsb' 0 7))
  else if b.toNat < 0xC0 then some (.s (b.extractLsb' 0 6))
  else if b.toNat < 0xD0 then (Special.ofCode b).map Opnd.sp
  else if b.toNat < 0xE0 then none
  else if b.toNat < 0xF0 then some (.k (b.extractLsb' 0 4))
  else if b.toNat < 0xF8 then some (.p (b.extractLsb' 0 3))
  else none

def Opnd.toByte : Opnd → Byte
  | .v n => 0#1 ++ n
  | .s n => 0b10#2 ++ n
  | .sp x => x.code
  | .k n => 0xE#4 ++ n
  | .p n => 0b11110#5 ++ n

/-- An operand byte or 0xFF, which reads as none. -/
def Opnd.ofByteOpt (b : Byte) : Option (Option Opnd) :=
  if b = 0xFF then some none else (Opnd.ofByte b).map some

def Opnd.toByteOpt : Option Opnd → Byte
  | none => 0xFF
  | some o => o.toByte

/-- A byte that must name a vector register. -/
def vByte (b : Byte) : Option (BitVec 7) := if b.toNat < 0x80 then some (b.extractLsb' 0 7) else none

/-- A byte that must name a scalar register. -/
def sByte (b : Byte) : Option (BitVec 6) :=
  if 0x80 ≤ b.toNat ∧ b.toNat < 0xC0 then some (b.extractLsb' 0 6) else none

/-- A byte that must name a predicate. -/
def pByte (b : Byte) : Option (BitVec 3) :=
  if 0xF0 ≤ b.toNat ∧ b.toNat < 0xF8 then some (b.extractLsb' 0 3) else none

def encV (n : BitVec 7) : Byte := 0#1 ++ n
def encS (n : BitVec 6) : Byte := 0b10#2 ++ n
def encP (n : BitVec 3) : Byte := 0b11110#5 ++ n

/-- A field that must hold a given byte: 0xFF for an unused operand, 0 for an unused code (R161). -/
def must (b want : Byte) : Option Unit := if b = want then some () else none

/-- The type codes (R166). -/
def Ty.code : Ty → BitVec 5
  | .i8 => 0 | .i16 => 1 | .i32 => 2 | .i64 => 3 | .n8 => 4 | .n16 => 5 | .n32 => 6 | .n64 => 7
  | .b8 => 8 | .b16 => 9 | .b32 => 10 | .b64 => 11 | .b128 => 12 | .f32 => 13 | .bf16 => 14 | .f16 => 15
  | .e4m3 => 16 | .e5m2 => 17 | .e2m3 => 18 | .e3m2 => 19 | .e2m1 => 20 | .cb4 => 21

def Ty.ofCode (x : BitVec 5) : Option Ty :=
  match x.toNat with
  | 0 => some .i8 | 1 => some .i16 | 2 => some .i32 | 3 => some .i64
  | 4 => some .n8 | 5 => some .n16 | 6 => some .n32 | 7 => some .n64
  | 8 => some .b8 | 9 => some .b16 | 10 => some .b32 | 11 => some .b64
  | 12 => some .b128 | 13 => some .f32 | 14 => some .bf16 | 15 => some .f16
  | 16 => some .e4m3 | 17 => some .e5m2 | 18 => some .e2m3 | 19 => some .e3m2
  | 20 => some .e2m1 | 21 => some .cb4
  | _ => none

/-- A type code alone in a byte, as `cvt` and `bdq` carry it in C (R211). -/
def Ty.ofByte (b : Byte) : Option Ty := if b.extractLsb' 5 3 = 0 then Ty.ofCode (b.extractLsb' 0 5) else none

def Ty.toByte (t : Ty) : Byte := 0#3 ++ t.code

/-- The rounding codes (R167). -/
def Rm.code : Rm → BitVec 3
  | .rne => 0 | .rz => 1 | .rd => 2 | .ru => 3 | .sr => 4

def Rm.ofCode (x : BitVec 3) : Option Rm :=
  match x.toNat with
  | 0 => some .rne | 1 => some .rz | 2 => some .rd | 3 => some .ru | 4 => some .sr
  | _ => none

/-- The condition codes (R167). -/
def Cc.code : Cc → BitVec 3
  | .eq => 0 | .ne => 1 | .lt => 2 | .le => 3 | .gt => 4 | .ge => 5 | .un => 6

def Cc.ofCode (x : BitVec 3) : Option Cc :=
  match x.toNat with
  | 0 => some .eq | 1 => some .ne | 2 => some .lt | 3 => some .le | 4 => some .gt | 5 => some .ge | 6 => some .un
  | _ => none

def PermMode.code : PermMode → BitVec 3
  | .idx => 0 | .bcast => 1 | .rot => 2 | .xor => 3

def PermMode.ofCode (x : BitVec 3) : Option PermMode :=
  match x.toNat with
  | 0 => some .idx | 1 => some .bcast | 2 => some .rot | 3 => some .xor
  | _ => none

def RedOp.code : RedOp → BitVec 3
  | .add => 0 | .min => 1 | .max => 2 | .and => 3 | .or => 4 | .xor => 5

def RedOp.ofCode (x : BitVec 3) : Option RedOp :=
  match x.toNat with
  | 0 => some .add | 1 => some .min | 2 => some .max | 3 => some .and | 4 => some .or | 5 => some .xor
  | _ => none

/-- FN of a T row: FN[7:5] is res0 (R167). -/
def fnT (b : Byte) : Option Ty := Ty.ofByte b

/-- FN of an RT row. -/
def fnRT (b : Byte) : Option (Rm × Ty) :=
  match Rm.ofCode (b.extractLsb' 5 3), Ty.ofCode (b.extractLsb' 0 5) with
  | some r, some t => some (r, t)
  | _, _ => none

def encRT (r : Rm) (t : Ty) : Byte := r.code ++ t.code

/-- FN of a CT row. -/
def fnCT (b : Byte) : Option (Cc × Ty) :=
  match Cc.ofCode (b.extractLsb' 5 3), Ty.ofCode (b.extractLsb' 0 5) with
  | some r, some t => some (r, t)
  | _, _ => none

def encCT (r : Cc) (t : Ty) : Byte := r.code ++ t.code

def fnPerm (b : Byte) : Option PermMode :=
  match PermMode.ofCode (b.extractLsb' 5 3), Ty.ofCode (b.extractLsb' 0 5) with
  | some m, some .b32 => some m
  | _, _ => none

def encPerm (m : PermMode) : Byte := m.code ++ Ty.b32.code

def fnRed (b : Byte) : Option (RedOp × Ty) :=
  match RedOp.ofCode (b.extractLsb' 5 3), Ty.ofCode (b.extractLsb' 0 5) with
  | some r, some t => some (r, t)
  | _, _ => none

def encRed (r : RedOp) (t : Ty) : Byte := r.code ++ t.code

/-- A small code field: a byte below 2, 4, 8 or 16 (R162). -/
def codeField (k : Nat) (b : Byte) : Option (BitVec k) := if b.toNat < 2 ^ k then some (b.setWidth k) else none

/-- TY of loads and stores (R168). -/
def LdTy.code : LdTy → BitVec 4
  | .b8 => 0 | .b16 => 1 | .b32 => 2 | .b64 => 3 | .b128 => 4 | .i8 => 5 | .i16 => 6 | .i32 => 7
  | .f32 => 8 | .bf16 => 9 | .f16 => 0xA | .e4m3 => 0xB | .e5m2 => 0xC

def LdTy.ofCode (x : BitVec 4) : Option LdTy :=
  match x.toNat with
  | 0 => some .b8 | 1 => some .b16 | 2 => some .b32 | 3 => some .b64 | 4 => some .b128 | 5 => some .i8
  | 6 => some .i16 | 7 => some .i32 | 8 => some .f32 | 9 => some .bf16 | 10 => some .f16 | 11 => some .e4m3
  | 12 => some .e5m2
  | _ => none

/-- TY[2:0] of atomics (R168). -/
def AtTy.code : AtTy → BitVec 3
  | .b32 => 0 | .b64 => 1 | .i32 => 2 | .i64 => 3 | .n32 => 4 | .n64 => 5 | .f32 => 6

def AtTy.ofCode (x : BitVec 3) : Option AtTy :=
  match x.toNat with
  | 0 => some .b32 | 1 => some .b64 | 2 => some .i32 | 3 => some .i64 | 4 => some .n32 | 5 => some .n64 | 6 => some .f32
  | _ => none

/-- TY[2:0] of the full/empty forms (R168). -/
def FeTy.code : FeTy → BitVec 3
  | .b8 => 0 | .b16 => 1 | .b32 => 2 | .b64 => 3 | .b128 => 4 | .f32 => 5 | .bf16 => 6 | .f16 => 7

def FeTy.ofCode (x : BitVec 3) : FeTy :=
  match x.toNat with
  | 0 => .b8 | 1 => .b16 | 2 => .b32 | 3 => .b64 | 4 => .b128 | 5 => .f32 | 6 => .bf16 | _ => .f16

def Scope.code : Scope → BitVec 2
  | .core => 0 | .pkg => 1 | .sys => 2

def Scope.ofCode (x : BitVec 2) : Option Scope :=
  match x.toNat with
  | 0 => some .core | 1 => some .pkg | 2 => some .sys
  | _ => none

/-- MO (R168): order 0 needs scope 0. -/
def MemOrd.code : MemOrd → BitVec 4
  | .plain => 0
  | .acq s => 1#2 ++ s.code
  | .rel s => 2#2 ++ s.code
  | .full s => 3#2 ++ s.code

def MemOrd.ofCode (x : BitVec 4) : Option MemOrd :=
  match (x.extractLsb' 2 2).toNat with
  | 0 => if x.extractLsb' 0 2 = 0 then some .plain else none
  | 1 => (Scope.ofCode (x.extractLsb' 0 2)).map MemOrd.acq
  | 2 => (Scope.ofCode (x.extractLsb' 0 2)).map MemOrd.rel
  | _ => (Scope.ofCode (x.extractLsb' 0 2)).map MemOrd.full

/-- The TY and MO byte of loads and stores. -/
def ldTyMo (b : Byte) : Option (LdTy × MemOrd) :=
  match LdTy.ofCode (b.extractLsb' 4 4), MemOrd.ofCode (b.extractLsb' 0 4) with
  | some t, some o => some (t, o)
  | _, _ => none

def encLdTyMo (t : LdTy) (o : MemOrd) : Byte := t.code ++ o.code

/-- The TY and MO byte of atomics; TY[3] is the space, 1 for scratch. -/
def atTyMo (b : Byte) : Option (Bool × AtTy × MemOrd) :=
  match AtTy.ofCode (b.extractLsb' 4 3), MemOrd.ofCode (b.extractLsb' 0 4) with
  | some t, some o => some (b.getLsbD 7, t, o)
  | _, _ => none

def encAtTyMo (scr : Bool) (t : AtTy) (o : MemOrd) : Byte := BitVec.ofBool scr ++ t.code ++ o.code

/-- The TY and MO byte of the full/empty forms: TY[3] is 1 and MO is 0 (R244). -/
def feTyMo (b : Byte) : Option FeTy :=
  if b.getLsbD 7 = true ∧ b.extractLsb' 0 4 = 0 then some (FeTy.ofCode (b.extractLsb' 4 3)) else none

def encFeTyMo (t : FeTy) : Byte := 1#1 ++ t.code ++ 0#4

/-- The TY and MO byte of `fence` (R243). -/
def fenceMo (b : Byte) : Option (FenceKind × Scope) :=
  if b.extractLsb' 4 4 = 0 then
    match MemOrd.ofCode (b.extractLsb' 0 4) with
    | some (.acq s) => some (.acq, s)
    | some (.rel s) => some (.rel, s)
    | some (.full s) => some (.full, s)
    | _ => none
  else none

def encFenceMo : FenceKind → Scope → Byte
  | .acq, s => 0#4 ++ (MemOrd.acq s).code
  | .rel, s => 0#4 ++ (MemOrd.rel s).code
  | .full, s => 0#4 ++ (MemOrd.full s).code

/-- The memory operand: A, X and OFS8 (R33, R161). -/
def memArg (f : Fields) : Option MemArg :=
  match sByte f.b4, Opnd.ofByteOpt f.b3 with
  | some a, some x => some { base := a, index := x, ofs := f.b2 }
  | _, _ => none

/-- IMM16, OFF24 and IMM32 (R160). -/
def Fields.imm16 (f : Fields) : BitVec 16 := f.b3 ++ f.b2
def Fields.off24 (f : Fields) : BitVec 24 := f.b4 ++ f.b3 ++ f.b2
def Fields.imm32 (f : Fields) : BitVec 32 := f.b5 ++ f.b4 ++ f.b3 ++ f.b2

/-- CC and A of `br` (R169). -/
def brCond (cc a : Byte) : Option BrCond :=
  match cc.toNat with
  | 0 => (must a 0xFF).map fun _ => .always
  | 1 => (sByte a).map .z
  | 2 => (sByte a).map .nz
  | 3 => (sByte a).map .ltz
  | 4 => (sByte a).map .gez
  | 5 => (pByte a).map .any
  | 6 => (pByte a).map .all
  | 7 => (pByte a).map .none
  | _ => none

def encBr : BrCond → Byte × Byte
  | .always => (0, 0xFF)
  | .z s => (1, encS s)
  | .nz s => (2, encS s)
  | .ltz s => (3, encS s)
  | .gez s => (4, encS s)
  | .any p => (5, encP p)
  | .all p => (6, encP p)
  | .none p => (7, encP p)

/-- The five body bytes of each format (R160). -/
def body (op b6 b5 b4 b3 b2 : Byte) (c : Ctl) : Fields :=
  { op := op, b6 := b6, b5 := b5, b4 := b4, b3 := b3, b2 := b2, lo := c.toBits }

def bodyI (op b6 b5 b4 : Byte) (imm : BitVec 16) (c : Ctl) : Fields :=
  body op b6 b5 b4 (imm.extractLsb' 8 8) (imm.extractLsb' 0 8) c

def bodyK (op b6 : Byte) (imm : BitVec 32) (c : Ctl) : Fields :=
  body op b6 (imm.extractLsb' 24 8) (imm.extractLsb' 16 8) (imm.extractLsb' 8 8) (imm.extractLsb' 0 8) c

def bodyB (op b6 b5 : Byte) (off : BitVec 24) (c : Ctl) : Fields :=
  body op b6 b5 (off.extractLsb' 16 8) (off.extractLsb' 8 8) (off.extractLsb' 0 8) c

def bodyM (op b6 b5 : Byte) (m : MemArg) (c : Ctl) : Fields :=
  body op b6 b5 (encS m.base) (Opnd.toByteOpt m.index) m.ofs c

/-- The instruction a word's fields name, by the tables of R170, R178, R211, R235 to R247, R256, R265, R270, R275 and R295,
before the checks of `Instr.wf`. -/
def decodeRow (f : Fields) : Option Instr :=
  let c := Ctl.ofBits f.lo
  match f.op.toNat with
  | 0x01 => do
    let _ ← must f.b6 0
    let _ ← must f.b5 0xFF
    let _ ← must f.b4 0xFF
    let _ ← must f.b3 0xFF
    let _ ← must f.b2 0xFF
    pure (.nop c)
  | 0x02 => do
    let cond ← brCond f.b6 f.b5
    pure (.br c cond f.off24)
  | 0x03 => do
    let a ← sByte f.b5
    let _ ← must f.b6 0
    pure (.call c a f.off24)
  | 0x04 => do
    let a ← sByte f.b4
    let _ ← must f.b6 0
    let _ ← must f.b5 0xFF
    let _ ← must f.b3 0xFF
    let _ ← must f.b2 0xFF
    pure (.jr c a)
  | 0x05 => do
    let d ← sByte f.b5
    let a ← sByte f.b4
    let _ ← must f.b6 0
    let _ ← must f.b3 0xFF
    let _ ← must f.b2 0xFF
    pure (.jalr c d a)
  | 0x06 => do
    let lc ← codeField 1 f.b6
    let n ← Opnd.ofByte f.b5
    pure (.loop c (lc == 1) n f.off24)
  | 0x07 => do
    let d ← Opnd.ofByte f.b6
    pure (.li c d f.imm32)
  | 0x08 => do
    let d ← sByte f.b6
    pure (.lih c d f.imm32)
  | 0x09 => do
    let a ← sByte f.b5
    let _ ← must f.b6 0
    pure (.lea c a f.off24)
  | 0x0A => do
    let t ← fnT f.b6
    let d ← sByte f.b5
    let a ← Opnd.ofByte f.b4
    let b ← Opnd.ofByte f.b3
    let _ ← must f.b2 0xFF
    pure (.mulh c t d a b)
  | 0x0B => do
    let d ← Opnd.ofByte f.b5
    let a ← Opnd.ofByte f.b4
    let b ← Opnd.ofByte f.b3
    let k ← Opnd.ofByte f.b2
    let _ ← must f.b6 0
    pure (.csel c d a b k)
  | 0x20 => do
    let t ← fnT f.b6
    let d ← Opnd.ofByte f.b5
    let a ← Opnd.ofByte f.b4
    let b ← Opnd.ofByte f.b3
    let _ ← must f.b2 0xFF
    pure (.add c t d a b)
  | 0x22 => do
    let t ← fnT f.b6
    let d ← Opnd.ofByte f.b5
    let a ← Opnd.ofByte f.b4
    let b ← Opnd.ofByte f.b3
    let _ ← must f.b2 0xFF
    pure (.sub c t d a b)
  | 0x23 => do
    let t ← fnT f.b6
    let d ← Opnd.ofByte f.b5
    let a ← Opnd.ofByte f.b4
    let b ← Opnd.ofByte f.b3
    let _ ← must f.b2 0xFF
    pure (.mul c t d a b)
  | 0x27 => do
    let t ← fnT f.b6
    let d ← Opnd.ofByte f.b5
    let a ← Opnd.ofByte f.b4
    let b ← Opnd.ofByte f.b3
    let _ ← must f.b2 0xFF
    pure (.and c t d a b)
  | 0x29 => do
    let t ← fnT f.b6
    let d ← Opnd.ofByte f.b5
    let a ← Opnd.ofByte f.b4
    let b ← Opnd.ofByte f.b3
    let _ ← must f.b2 0xFF
    pure (.or c t d a b)
  | 0x2B => do
    let t ← fnT f.b6
    let d ← Opnd.ofByte f.b5
    let a ← Opnd.ofByte f.b4
    let b ← Opnd.ofByte f.b3
    let _ ← must f.b2 0xFF
    pure (.xor c t d a b)
  | 0x2E => do
    let t ← fnT f.b6
    let d ← Opnd.ofByte f.b5
    let a ← Opnd.ofByte f.b4
    let b ← Opnd.ofByte f.b3
    let _ ← must f.b2 0xFF
    pure (.shl c t d a b)
  | 0x30 => do
    let t ← fnT f.b6
    let d ← Opnd.ofByte f.b5
    let a ← Opnd.ofByte f.b4
    let b ← Opnd.ofByte f.b3
    let _ ← must f.b2 0xFF
    pure (.lsr c t d a b)
  | 0x32 => do
    let t ← fnT f.b6
    let d ← Opnd.ofByte f.b5
    let a ← Opnd.ofByte f.b4
    let b ← Opnd.ofByte f.b3
    let _ ← must f.b2 0xFF
    pure (.asr c t d a b)
  | 0x34 => do
    let t ← fnT f.b6
    let d ← Opnd.ofByte f.b5
    let a ← Opnd.ofByte f.b4
    let b ← Opnd.ofByte f.b3
    let _ ← must f.b2 0xFF
    pure (.min c t d a b)
  | 0x35 => do
    let t ← fnT f.b6
    let d ← Opnd.ofByte f.b5
    let a ← Opnd.ofByte f.b4
    let b ← Opnd.ofByte f.b3
    let _ ← must f.b2 0xFF
    pure (.max c t d a b)
  | 0x21 => do
    let t ← fnT f.b6
    let d ← Opnd.ofByte f.b5
    let a ← Opnd.ofByte f.b4
    pure (.addImm c t d a f.imm16)
  | 0x24 => do
    let t ← fnT f.b6
    let d ← Opnd.ofByte f.b5
    let a ← Opnd.ofByte f.b4
    pure (.mulImm c t d a f.imm16)
  | 0x28 => do
    let t ← fnT f.b6
    let d ← Opnd.ofByte f.b5
    let a ← Opnd.ofByte f.b4
    pure (.andImm c t d a f.imm16)
  | 0x2A => do
    let t ← fnT f.b6
    let d ← Opnd.ofByte f.b5
    let a ← Opnd.ofByte f.b4
    pure (.orImm c t d a f.imm16)
  | 0x2C => do
    let t ← fnT f.b6
    let d ← Opnd.ofByte f.b5
    let a ← Opnd.ofByte f.b4
    pure (.xorImm c t d a f.imm16)
  | 0x2F => do
    let t ← fnT f.b6
    let d ← Opnd.ofByte f.b5
    let a ← Opnd.ofByte f.b4
    pure (.shlImm c t d a f.imm16)
  | 0x31 => do
    let t ← fnT f.b6
    let d ← Opnd.ofByte f.b5
    let a ← Opnd.ofByte f.b4
    pure (.lsrImm c t d a f.imm16)
  | 0x33 => do
    let t ← fnT f.b6
    let d ← Opnd.ofByte f.b5
    let a ← Opnd.ofByte f.b4
    pure (.asrImm c t d a f.imm16)
  | 0x25 => do
    let t ← fnT f.b6
    let d ← Opnd.ofByte f.b5
    let a ← Opnd.ofByte f.b4
    let b ← Opnd.ofByte f.b3
    let x ← Opnd.ofByte f.b2
    pure (.mad c t d a b x)
  | 0x26 => do
    let d ← Opnd.ofByte f.b5
    let a ← Opnd.ofByte f.b4
    let _ ← must f.b6 0
    let _ ← must f.b3 0xFF
    let _ ← must f.b2 0xFF
    pure (.mov c d a)
  | 0x2D => do
    let t ← fnT f.b6
    let d ← Opnd.ofByte f.b5
    let a ← Opnd.ofByte f.b4
    let _ ← must f.b3 0xFF
    let _ ← must f.b2 0xFF
    pure (.not c t d a)
  | 0x36 => do
    let (cc, t) ← fnCT f.b6
    let d ← Opnd.ofByte f.b5
    let a ← Opnd.ofByte f.b4
    let b ← Opnd.ofByte f.b3
    let _ ← must f.b2 0xFF
    pure (.cmp c cc t d a b)
  | 0x37 => do
    let (cc, t) ← fnCT f.b6
    let d ← Opnd.ofByte f.b5
    let a ← Opnd.ofByte f.b4
    pure (.cmpImm c cc t d a f.imm16)
  | 0x38 => do
    let t ← fnT f.b6
    let d ← Opnd.ofByte f.b5
    let a ← Opnd.ofByte f.b4
    let b ← Opnd.ofByte f.b3
    let x ← Opnd.ofByte f.b2
    pure (.bfx c t d a b x)
  | 0x39 => do
    let t ← fnT f.b6
    let d ← Opnd.ofByte f.b5
    let a ← Opnd.ofByte f.b4
    let b ← Opnd.ofByte f.b3
    let x ← Opnd.ofByte f.b2
    pure (.bfi c t d a b x)
  | 0x3A => do
    let t ← fnT f.b6
    let d ← Opnd.ofByte f.b5
    let a ← Opnd.ofByte f.b4
    let _ ← must f.b3 0xFF
    let _ ← must f.b2 0xFF
    pure (.popc c t d a)
  | 0x3B => do
    let t ← fnT f.b6
    let d ← Opnd.ofByte f.b5
    let a ← Opnd.ofByte f.b4
    let _ ← must f.b3 0xFF
    let _ ← must f.b2 0xFF
    pure (.clz c t d a)
  | 0x3C => do
    let m ← fnPerm f.b6
    let d ← vByte f.b5
    let a ← vByte f.b4
    let b ← Opnd.ofByte f.b3
    let _ ← must f.b2 0xFF
    pure (.perm c m d a b)
  | 0x3D => do
    let (op, t) ← fnRed f.b6
    let d ← Opnd.ofByte f.b5
    let a ← vByte f.b4
    let _ ← must f.b3 0xFF
    let _ ← must f.b2 0xFF
    pure (.red c op t d a)
  | 0x3E => do
    let d ← Opnd.ofByte f.b5
    let a ← Opnd.ofByte f.b4
    let b ← Opnd.ofByte f.b3
    let x ← Opnd.ofByteOpt f.b2
    let _ ← must f.b6 0
    pure (.gaddr c d a b x)
  | 0x40 => do
    let (rm, t) ← fnRT f.b6
    let d ← vByte f.b5
    let a ← Opnd.ofByte f.b4
    let b ← Opnd.ofByte f.b3
    let g ← Opnd.ofByteOpt f.b2
    pure (.addFloat c t rm d a b g)
  | 0x41 => do
    let (rm, t) ← fnRT f.b6
    let d ← vByte f.b5
    let a ← Opnd.ofByte f.b4
    let b ← Opnd.ofByte f.b3
    let g ← Opnd.ofByteOpt f.b2
    pure (.subFloat c t rm d a b g)
  | 0x42 => do
    let (rm, t) ← fnRT f.b6
    let d ← vByte f.b5
    let a ← Opnd.ofByte f.b4
    let b ← Opnd.ofByte f.b3
    let g ← Opnd.ofByteOpt f.b2
    pure (.mulFloat c t rm d a b g)
  | 0x49 => do
    let (rm, t) ← fnRT f.b6
    let d ← vByte f.b5
    let a ← Opnd.ofByte f.b4
    let b ← Opnd.ofByte f.b3
    let g ← Opnd.ofByteOpt f.b2
    pure (.div c t rm d a b g)
  | 0x43 => do
    let (rm, t) ← fnRT f.b6
    let d ← vByte f.b5
    let a ← Opnd.ofByte f.b4
    let b ← Opnd.ofByte f.b3
    let x ← Opnd.ofByte f.b2
    pure (.fma c t rm d a b x)
  | 0x44 => do
    let (rm, t) ← fnRT f.b6
    let d ← vByte f.b5
    let a ← Opnd.ofByte f.b4
    let b ← Opnd.ofByte f.b3
    let x ← Opnd.ofByte f.b2
    pure (.fms c t rm d a b x)
  | 0x45 => do
    let t ← fnT f.b6
    let d ← vByte f.b5
    let a ← Opnd.ofByte f.b4
    let b ← Opnd.ofByte f.b3
    let _ ← must f.b2 0xFF
    pure (.minFloat c t d a b)
  | 0x46 => do
    let t ← fnT f.b6
    let d ← vByte f.b5
    let a ← Opnd.ofByte f.b4
    let b ← Opnd.ofByte f.b3
    let _ ← must f.b2 0xFF
    pure (.maxFloat c t d a b)
  | 0x47 => do
    let t ← fnT f.b6
    let d ← vByte f.b5
    let a ← Opnd.ofByte f.b4
    let _ ← must f.b3 0xFF
    let _ ← must f.b2 0xFF
    pure (.abs c t d a)
  | 0x48 => do
    let t ← fnT f.b6
    let d ← vByte f.b5
    let a ← Opnd.ofByte f.b4
    let _ ← must f.b3 0xFF
    let _ ← must f.b2 0xFF
    pure (.neg c t d a)
  | 0x4B => do
    let t ← fnT f.b6
    let d ← vByte f.b5
    let a ← Opnd.ofByte f.b4
    let _ ← must f.b3 0xFF
    let _ ← must f.b2 0xFF
    pure (.rcp c t d a)
  | 0x4C => do
    let t ← fnT f.b6
    let d ← vByte f.b5
    let a ← Opnd.ofByte f.b4
    let _ ← must f.b3 0xFF
    let _ ← must f.b2 0xFF
    pure (.rsqrt c t d a)
  | 0x4D => do
    let t ← fnT f.b6
    let d ← vByte f.b5
    let a ← Opnd.ofByte f.b4
    let _ ← must f.b3 0xFF
    let _ ← must f.b2 0xFF
    pure (.exp2 c t d a)
  | 0x4E => do
    let t ← fnT f.b6
    let d ← vByte f.b5
    let a ← Opnd.ofByte f.b4
    let _ ← must f.b3 0xFF
    let _ ← must f.b2 0xFF
    pure (.log2 c t d a)
  | 0x4F => do
    let t ← fnT f.b6
    let d ← vByte f.b5
    let a ← Opnd.ofByte f.b4
    let _ ← must f.b3 0xFF
    let _ ← must f.b2 0xFF
    pure (.sin c t d a)
  | 0x50 => do
    let t ← fnT f.b6
    let d ← vByte f.b5
    let a ← Opnd.ofByte f.b4
    let _ ← must f.b3 0xFF
    let _ ← must f.b2 0xFF
    pure (.cos c t d a)
  | 0x51 => do
    let t ← fnT f.b6
    let d ← vByte f.b5
    let a ← Opnd.ofByte f.b4
    let _ ← must f.b3 0xFF
    let _ ← must f.b2 0xFF
    pure (.tanh c t d a)
  | 0x5A => do
    let t ← fnT f.b6
    let d ← vByte f.b5
    let a ← Opnd.ofByte f.b4
    let _ ← must f.b3 0xFF
    let _ ← must f.b2 0xFF
    pure (.fclass c t d a)
  | 0x4A => do
    let (rm, t) ← fnRT f.b6
    let d ← vByte f.b5
    let a ← Opnd.ofByte f.b4
    let g ← Opnd.ofByteOpt f.b3
    let _ ← must f.b2 0xFF
    pure (.sqrt c t rm d a g)
  | 0x5B => do
    let (rm, t) ← fnRT f.b6
    let d ← vByte f.b5
    let a ← Opnd.ofByte f.b4
    let g ← Opnd.ofByteOpt f.b3
    let _ ← must f.b2 0xFF
    pure (.frnd c t rm d a g)
  | 0x52 => do
    let (rm, t) ← fnRT f.b6
    let d ← vByte f.b5
    let a ← Opnd.ofByte f.b4
    let g ← Opnd.ofByteOpt f.b3
    let st ← Ty.ofByte f.b2
    pure (.cvt c t st rm d a g)
  | 0x53 => do
    let t ← fnT f.b6
    let d ← vByte f.b5
    let a ← vByte f.b4
    let _ ← must f.b3 0xFF
    let _ ← must f.b2 0xFF
    pure (.bq c t d a)
  | 0x54 => do
    let (rm, t) ← fnRT f.b6
    let d ← vByte f.b5
    let a ← Opnd.ofByte f.b4
    let b ← Opnd.ofByte f.b3
    let et ← Ty.ofByte f.b2
    pure (.bdq c t et rm d a b)
  | 0x55 => do
    let tab ← codeField 3 f.b6
    let d ← vByte f.b5
    let a ← Opnd.ofByte f.b4
    let b ← Opnd.ofByte f.b3
    let _ ← must f.b2 0xFF
    pure (.cbq c tab d a b)
  | 0x56 => do
    let tab ← codeField 3 f.b6
    let d ← vByte f.b5
    let a ← Opnd.ofByte f.b4
    let b ← Opnd.ofByte f.b3
    let _ ← must f.b2 0xFF
    pure (.cbl c tab d a b)
  | 0x57 => do
    let d ← vByte f.b5
    let a ← vByte f.b4
    let b ← sByte f.b3
    let _ ← must f.b6 0
    let _ ← must f.b2 0xFF
    pure (.rnd128 c d a b)
  | 0x58 => do
    let d ← sByte f.b5
    let _ ← must f.b6 0
    let _ ← must f.b4 0xFF
    let _ ← must f.b3 0xFF
    let _ ← must f.b2 0xFF
    pure (.flget c d)
  | 0x59 => do
    let m ← Opnd.ofByte f.b4
    let _ ← must f.b6 0
    let _ ← must f.b5 0xFF
    let _ ← must f.b3 0xFF
    let _ ← must f.b2 0xFF
    pure (.flclr c m)
  | 0x60 => do
    let (t, o) ← ldTyMo f.b6
    let d ← Opnd.ofByte f.b5
    let m ← memArg f
    pure (.ldG c t o d m)
  | 0x61 => do
    let (t, o) ← ldTyMo f.b6
    let d ← Opnd.ofByte f.b5
    let m ← memArg f
    pure (.stG c t o d m)
  | 0x62 => do
    let (t, o) ← ldTyMo f.b6
    let d ← Opnd.ofByte f.b5
    let m ← memArg f
    pure (.ldS c t o d m)
  | 0x63 => do
    let (t, o) ← ldTyMo f.b6
    let d ← Opnd.ofByte f.b5
    let m ← memArg f
    pure (.stS c t o d m)
  | 0x64 => do
    let m ← memArg f
    let _ ← must f.b6 0
    let _ ← must f.b5 0xFF
    pure (.pfG c m)
  | 0x80 => do
    let (scr, t, o) ← atTyMo f.b6
    let d ← Opnd.ofByte f.b5
    let m ← memArg f
    pure (.atomAdd c scr t o d m)
  | 0x81 => do
    let (scr, t, o) ← atTyMo f.b6
    let d ← Opnd.ofByte f.b5
    let m ← memArg f
    pure (.atomMin c scr t o d m)
  | 0x82 => do
    let (scr, t, o) ← atTyMo f.b6
    let d ← Opnd.ofByte f.b5
    let m ← memArg f
    pure (.atomMax c scr t o d m)
  | 0x83 => do
    let (scr, t, o) ← atTyMo f.b6
    let d ← Opnd.ofByte f.b5
    let m ← memArg f
    pure (.atomAnd c scr t o d m)
  | 0x84 => do
    let (scr, t, o) ← atTyMo f.b6
    let d ← Opnd.ofByte f.b5
    let m ← memArg f
    pure (.atomOr c scr t o d m)
  | 0x85 => do
    let (scr, t, o) ← atTyMo f.b6
    let d ← Opnd.ofByte f.b5
    let m ← memArg f
    pure (.atomXor c scr t o d m)
  | 0x86 => do
    let (scr, t, o) ← atTyMo f.b6
    let d ← Opnd.ofByte f.b5
    let m ← memArg f
    pure (.atomXchg c scr t o d m)
  | 0x87 => do
    let (scr, t, o) ← atTyMo f.b6
    let d ← Opnd.ofByte f.b5
    let m ← memArg f
    pure (.atomCas c scr t o d m)
  | 0x88 => do
    let (k, sc) ← fenceMo f.b6
    let _ ← must f.b5 0xFF
    let _ ← must f.b4 0xFF
    let _ ← must f.b3 0xFF
    let _ ← must f.b2 0
    pure (.fence c k sc)
  | 0x89 => do
    let t ← feTyMo f.b6
    let d ← Opnd.ofByte f.b5
    let m ← memArg f
    pure (.ldf c t d m)
  | 0x8A => do
    let t ← feTyMo f.b6
    let d ← Opnd.ofByte f.b5
    let m ← memArg f
    pure (.ldfc c t d m)
  | 0x8B => do
    let t ← feTyMo f.b6
    let d ← Opnd.ofByte f.b5
    let m ← memArg f
    pure (.stf c t d m)
  | 0x8C => do
    let a ← Opnd.ofByte f.b4
    let n ← Opnd.ofByte f.b3
    let _ ← must f.b6 0
    let _ ← must f.b5 0xFF
    let _ ← must f.b2 0xFF
    pure (.feset c a n)
  | 0x8D => do
    let a ← Opnd.ofByte f.b4
    let n ← Opnd.ofByte f.b3
    let _ ← must f.b6 0
    let _ ← must f.b5 0xFF
    let _ ← must f.b2 0xFF
    pure (.feclr c a n)
  | 0x8E => do
    let a ← sByte f.b4
    let n ← Opnd.ofByte f.b3
    let _ ← must f.b6 0
    let _ ← must f.b5 0xFF
    let _ ← must f.b2 0xFF
    pure (.discard c a n)
  | 0x90 => do
    let _ ← must f.b6 0
    let _ ← must f.b5 0xFF
    pure (.xbegin c f.off24)
  | 0x91 => do
    let _ ← must f.b6 0
    let _ ← must f.b5 0xFF
    let _ ← must f.b4 0xFF
    let _ ← must f.b3 0xFF
    let _ ← must f.b2 0xFF
    pure (.xend c)
  | 0x92 => do
    let _ ← must f.b6 0
    let _ ← must f.b5 0xFF
    let _ ← must f.b4 0xFF
    let _ ← must f.b3 0xFF
    let _ ← must f.b2 0xFF
    pure (.retry c)
  | 0x93 => do
    let _ ← must f.b6 0
    let _ ← must f.b5 0xFF
    pure (.otherwise c f.off24)
  | 0x94 => do
    let _ ← must f.b6 0
    let _ ← must f.b5 0xFF
    let _ ← must f.b4 0xFF
    pure (.xabort c f.imm16)
  | 0x95 => do
    let d ← sByte f.b5
    let _ ← must f.b6 0
    let _ ← must f.b4 0xFF
    let _ ← must f.b3 0xFF
    let _ ← must f.b2 0xFF
    pure (.xstat c d)
  | 0x96 => do
    let d ← sByte f.b5
    let q ← sByte f.b4
    let _ ← must f.b6 0
    let _ ← must f.b3 0xFF
    let _ ← must f.b2 0xFF
    pure (.spawn c d q)
  | 0x97 => do
    let _ ← must f.b6 0
    let _ ← must f.b5 0xFF
    let _ ← must f.b4 0xFF
    let _ ← must f.b3 0xFF
    let _ ← must f.b2 0xFF
    pure (.tret c)
  | 0x98 => do
    let _ ← must f.b6 0
    let _ ← must f.b5 0xFF
    let _ ← must f.b4 0xFF
    let _ ← must f.b3 0xFF
    let _ ← must f.b2 0xFF
    pure (.progress c)
  | 0x99 => do
    let e ← Opnd.ofByte f.b4
    let _ ← must f.b6 0
    let _ ← must f.b5 0xFF
    let _ ← must f.b3 0xFF
    let _ ← must f.b2 0xFF
    pure (.evset c e)
  | 0x9A => do
    let e ← Opnd.ofByte f.b4
    let _ ← must f.b6 0
    let _ ← must f.b5 0xFF
    let _ ← must f.b3 0xFF
    let _ ← must f.b2 0xFF
    pure (.evclr c e)
  | 0x9B => do
    let d ← sByte f.b5
    let a ← sByte f.b4
    let _ ← must f.b6 0
    let _ ← must f.b3 0xFF
    let _ ← must f.b2 0xFF
    pure (.launch c d a)
  | 0xA0 => do
    let q ← sByte f.b4
    let _ ← must f.b6 0
    let _ ← must f.b5 0xFF
    let _ ← must f.b3 0xFF
    let _ ← must f.b2 0xFF
    pure (.mxc c q)
  | 0xA1 => do
    let q ← sByte f.b4
    let _ ← must f.b6 0
    let _ ← must f.b5 0xFF
    let _ ← must f.b3 0xFF
    let _ ← must f.b2 0xFF
    pure (.cpc c q)
  | 0xA2 => do
    let a ← sByte f.b4
    let b ← codeField 1 f.b3
    let n ← codeField 3 f.b2
    let _ ← must f.b6 0
    let _ ← must f.b5 0xFF
    pure (.ctld c a (b == 1) n)
  | 0xA3 => do
    let _ ← must f.b6 0
    let _ ← must f.b5 0xFF
    let _ ← must f.b4 0xFF
    let _ ← must f.b3 0xFF
    pure (.ctswap c f.b2)
  | 0xA4 => do
    let a ← sByte f.b4
    let n ← codeField 4 f.b2
    let _ ← must f.b6 0
    let _ ← must f.b5 0xFF
    let _ ← must f.b3 0xFF
    pure (.chartld c a n)
  | 0xA5 => do
    let d ← vByte f.b5
    let a ← Opnd.ofByte f.b4
    let b ← codeField 2 f.b3
    let _ ← must f.b6 0
    let _ ← must f.b2 0xFF
    pure (.accrd c d a b)
  | 0xA6 => do
    let a ← Opnd.ofByte f.b4
    let b ← codeField 2 f.b3
    let x ← Opnd.ofByte f.b2
    let _ ← must f.b6 0
    let _ ← must f.b5 0xFF
    pure (.accwr c a b x)
  | 0xB0 => do
    let _ ← must f.b6 0
    let _ ← must f.b5 0xFF
    let _ ← must f.b4 0xFF
    pure (.trap c f.imm16)
  | 0xB1 => do
    let _ ← must f.b6 0
    let _ ← must f.b5 0xFF
    let _ ← must f.b4 0xFF
    let _ ← must f.b3 0xFF
    let _ ← must f.b2 0xFF
    pure (.eret c)
  | 0xB2 => do
    let d ← sByte f.b5
    let _ ← must f.b6 0
    let _ ← must f.b4 0xFF
    pure (.srr c d f.imm16)
  | 0xB3 => do
    let a ← sByte f.b4
    let _ ← must f.b6 0
    let _ ← must f.b5 0xFF
    pure (.srw c f.imm16 a)
  | 0xB4 => do
    let a ← sByte f.b4
    let b ← sByte f.b3
    let _ ← must f.b6 0
    let _ ← must f.b5 0xFF
    let _ ← must f.b2 0xFF
    pure (.tlbi c a b)
  | 0xB5 => do
    let _ ← must f.b6 0
    let _ ← must f.b5 0xFF
    let _ ← must f.b4 0xFF
    let _ ← must f.b3 0xFF
    let _ ← must f.b2 0xFF
    pure (.tlbsync c)
  | 0xB6 => do
    let a ← sByte f.b4
    let _ ← must f.b6 0
    let _ ← must f.b5 0xFF
    let _ ← must f.b3 0xFF
    let _ ← must f.b2 0xFF
    pure (.sighost c a)
  | 0xB7 => do
    let _ ← must f.b6 0
    let _ ← must f.b5 0xFF
    let _ ← must f.b4 0xFF
    let _ ← must f.b3 0xFF
    let _ ← must f.b2 0xFF
    pure (.halt c)
  | _ => none

/-- The fields of an instruction's word; a step without a word gives the all-zero word, which is ILLEGAL (R173). -/
def encodeFields : Instr → Fields
  | .nop c => body 0x01 0 0xFF 0xFF 0xFF 0xFF c
  | .br c cond off => bodyB 0x02 (encBr cond).1 (encBr cond).2 off c
  | .call c a off => bodyB 0x03 0 (encS a) off c
  | .jr c a => body 0x04 0 0xFF (encS a) 0xFF 0xFF c
  | .jalr c d a => body 0x05 0 (encS d) (encS a) 0xFF 0xFF c
  | .loop c lc n off => bodyB 0x06 ((BitVec.ofBool lc).setWidth 8) n.toByte off c
  | .li c d imm => bodyK 0x07 d.toByte imm c
  | .lih c d imm => bodyK 0x08 (encS d) imm c
  | .lea c a off => bodyB 0x09 0 (encS a) off c
  | .mulh c t d a b => body 0x0A t.toByte (encS d) a.toByte b.toByte 0xFF c
  | .csel c d a b k => body 0x0B 0 d.toByte a.toByte b.toByte k.toByte c
  | .add c t d a b => body 0x20 t.toByte d.toByte a.toByte b.toByte 0xFF c
  | .sub c t d a b => body 0x22 t.toByte d.toByte a.toByte b.toByte 0xFF c
  | .mul c t d a b => body 0x23 t.toByte d.toByte a.toByte b.toByte 0xFF c
  | .and c t d a b => body 0x27 t.toByte d.toByte a.toByte b.toByte 0xFF c
  | .or c t d a b => body 0x29 t.toByte d.toByte a.toByte b.toByte 0xFF c
  | .xor c t d a b => body 0x2B t.toByte d.toByte a.toByte b.toByte 0xFF c
  | .shl c t d a b => body 0x2E t.toByte d.toByte a.toByte b.toByte 0xFF c
  | .lsr c t d a b => body 0x30 t.toByte d.toByte a.toByte b.toByte 0xFF c
  | .asr c t d a b => body 0x32 t.toByte d.toByte a.toByte b.toByte 0xFF c
  | .min c t d a b => body 0x34 t.toByte d.toByte a.toByte b.toByte 0xFF c
  | .max c t d a b => body 0x35 t.toByte d.toByte a.toByte b.toByte 0xFF c
  | .addImm c t d a imm => bodyI 0x21 t.toByte d.toByte a.toByte imm c
  | .mulImm c t d a imm => bodyI 0x24 t.toByte d.toByte a.toByte imm c
  | .andImm c t d a imm => bodyI 0x28 t.toByte d.toByte a.toByte imm c
  | .orImm c t d a imm => bodyI 0x2A t.toByte d.toByte a.toByte imm c
  | .xorImm c t d a imm => bodyI 0x2C t.toByte d.toByte a.toByte imm c
  | .shlImm c t d a imm => bodyI 0x2F t.toByte d.toByte a.toByte imm c
  | .lsrImm c t d a imm => bodyI 0x31 t.toByte d.toByte a.toByte imm c
  | .asrImm c t d a imm => bodyI 0x33 t.toByte d.toByte a.toByte imm c
  | .mad c t d a b x => body 0x25 t.toByte d.toByte a.toByte b.toByte x.toByte c
  | .mov c d a => body 0x26 0 d.toByte a.toByte 0xFF 0xFF c
  | .not c t d a => body 0x2D t.toByte d.toByte a.toByte 0xFF 0xFF c
  | .cmp c cc t d a b => body 0x36 (encCT cc t) d.toByte a.toByte b.toByte 0xFF c
  | .cmpImm c cc t d a imm => bodyI 0x37 (encCT cc t) d.toByte a.toByte imm c
  | .bfx c t d a b x => body 0x38 t.toByte d.toByte a.toByte b.toByte x.toByte c
  | .bfi c t d a b x => body 0x39 t.toByte d.toByte a.toByte b.toByte x.toByte c
  | .popc c t d a => body 0x3A t.toByte d.toByte a.toByte 0xFF 0xFF c
  | .clz c t d a => body 0x3B t.toByte d.toByte a.toByte 0xFF 0xFF c
  | .perm c m d a b => body 0x3C (encPerm m) (encV d) (encV a) b.toByte 0xFF c
  | .red c op t d a => body 0x3D (encRed op t) d.toByte (encV a) 0xFF 0xFF c
  | .gaddr c d a b x => body 0x3E 0 d.toByte a.toByte b.toByte (Opnd.toByteOpt x) c
  | .addFloat c t rm d a b g => body 0x40 (encRT rm t) (encV d) a.toByte b.toByte (Opnd.toByteOpt g) c
  | .subFloat c t rm d a b g => body 0x41 (encRT rm t) (encV d) a.toByte b.toByte (Opnd.toByteOpt g) c
  | .mulFloat c t rm d a b g => body 0x42 (encRT rm t) (encV d) a.toByte b.toByte (Opnd.toByteOpt g) c
  | .div c t rm d a b g => body 0x49 (encRT rm t) (encV d) a.toByte b.toByte (Opnd.toByteOpt g) c
  | .fma c t rm d a b x => body 0x43 (encRT rm t) (encV d) a.toByte b.toByte x.toByte c
  | .fms c t rm d a b x => body 0x44 (encRT rm t) (encV d) a.toByte b.toByte x.toByte c
  | .minFloat c t d a b => body 0x45 t.toByte (encV d) a.toByte b.toByte 0xFF c
  | .maxFloat c t d a b => body 0x46 t.toByte (encV d) a.toByte b.toByte 0xFF c
  | .abs c t d a => body 0x47 t.toByte (encV d) a.toByte 0xFF 0xFF c
  | .neg c t d a => body 0x48 t.toByte (encV d) a.toByte 0xFF 0xFF c
  | .rcp c t d a => body 0x4B t.toByte (encV d) a.toByte 0xFF 0xFF c
  | .rsqrt c t d a => body 0x4C t.toByte (encV d) a.toByte 0xFF 0xFF c
  | .exp2 c t d a => body 0x4D t.toByte (encV d) a.toByte 0xFF 0xFF c
  | .log2 c t d a => body 0x4E t.toByte (encV d) a.toByte 0xFF 0xFF c
  | .sin c t d a => body 0x4F t.toByte (encV d) a.toByte 0xFF 0xFF c
  | .cos c t d a => body 0x50 t.toByte (encV d) a.toByte 0xFF 0xFF c
  | .tanh c t d a => body 0x51 t.toByte (encV d) a.toByte 0xFF 0xFF c
  | .fclass c t d a => body 0x5A t.toByte (encV d) a.toByte 0xFF 0xFF c
  | .sqrt c t rm d a g => body 0x4A (encRT rm t) (encV d) a.toByte (Opnd.toByteOpt g) 0xFF c
  | .frnd c t rm d a g => body 0x5B (encRT rm t) (encV d) a.toByte (Opnd.toByteOpt g) 0xFF c
  | .cvt c t st rm d a g => body 0x52 (encRT rm t) (encV d) a.toByte (Opnd.toByteOpt g) st.toByte c
  | .bq c t d a => body 0x53 t.toByte (encV d) (encV a) 0xFF 0xFF c
  | .bdq c t et rm d a b => body 0x54 (encRT rm t) (encV d) a.toByte b.toByte et.toByte c
  | .cbq c tab d a b => body 0x55 (tab.setWidth 8) (encV d) a.toByte b.toByte 0xFF c
  | .cbl c tab d a b => body 0x56 (tab.setWidth 8) (encV d) a.toByte b.toByte 0xFF c
  | .rnd128 c d a b => body 0x57 0 (encV d) (encV a) (encS b) 0xFF c
  | .flget c d => body 0x58 0 (encS d) 0xFF 0xFF 0xFF c
  | .flclr c m => body 0x59 0 0xFF m.toByte 0xFF 0xFF c
  | .ldG c t o d m => bodyM 0x60 (encLdTyMo t o) d.toByte m c
  | .stG c t o d m => bodyM 0x61 (encLdTyMo t o) d.toByte m c
  | .ldS c t o d m => bodyM 0x62 (encLdTyMo t o) d.toByte m c
  | .stS c t o d m => bodyM 0x63 (encLdTyMo t o) d.toByte m c
  | .pfG c m => bodyM 0x64 0 0xFF m c
  | .atomAdd c scr t o d m => bodyM 0x80 (encAtTyMo scr t o) d.toByte m c
  | .atomMin c scr t o d m => bodyM 0x81 (encAtTyMo scr t o) d.toByte m c
  | .atomMax c scr t o d m => bodyM 0x82 (encAtTyMo scr t o) d.toByte m c
  | .atomAnd c scr t o d m => bodyM 0x83 (encAtTyMo scr t o) d.toByte m c
  | .atomOr c scr t o d m => bodyM 0x84 (encAtTyMo scr t o) d.toByte m c
  | .atomXor c scr t o d m => bodyM 0x85 (encAtTyMo scr t o) d.toByte m c
  | .atomXchg c scr t o d m => bodyM 0x86 (encAtTyMo scr t o) d.toByte m c
  | .atomCas c scr t o d m => bodyM 0x87 (encAtTyMo scr t o) d.toByte m c
  | .fence c k sc => body 0x88 (encFenceMo k sc) 0xFF 0xFF 0xFF 0 c
  | .ldf c t d m => bodyM 0x89 (encFeTyMo t) d.toByte m c
  | .ldfc c t d m => bodyM 0x8A (encFeTyMo t) d.toByte m c
  | .stf c t d m => bodyM 0x8B (encFeTyMo t) d.toByte m c
  | .feset c a n => body 0x8C 0 0xFF a.toByte n.toByte 0xFF c
  | .feclr c a n => body 0x8D 0 0xFF a.toByte n.toByte 0xFF c
  | .discard c a n => body 0x8E 0 0xFF (encS a) n.toByte 0xFF c
  | .xbegin c off => bodyB 0x90 0 0xFF off c
  | .xend c => body 0x91 0 0xFF 0xFF 0xFF 0xFF c
  | .retry c => body 0x92 0 0xFF 0xFF 0xFF 0xFF c
  | .otherwise c off => bodyB 0x93 0 0xFF off c
  | .xabort c imm => bodyI 0x94 0 0xFF 0xFF imm c
  | .xstat c d => body 0x95 0 (encS d) 0xFF 0xFF 0xFF c
  | .spawn c d q => body 0x96 0 (encS d) (encS q) 0xFF 0xFF c
  | .tret c => body 0x97 0 0xFF 0xFF 0xFF 0xFF c
  | .progress c => body 0x98 0 0xFF 0xFF 0xFF 0xFF c
  | .evset c e => body 0x99 0 0xFF e.toByte 0xFF 0xFF c
  | .evclr c e => body 0x9A 0 0xFF e.toByte 0xFF 0xFF c
  | .launch c d a => body 0x9B 0 (encS d) (encS a) 0xFF 0xFF c
  | .mxc c q => body 0xA0 0 0xFF (encS q) 0xFF 0xFF c
  | .cpc c q => body 0xA1 0 0xFF (encS q) 0xFF 0xFF c
  | .ctld c a b n => body 0xA2 0 0xFF (encS a) ((BitVec.ofBool b).setWidth 8) (n.setWidth 8) c
  | .ctswap c m => body 0xA3 0 0xFF 0xFF 0xFF m c
  | .chartld c a n => body 0xA4 0 0xFF (encS a) 0xFF (n.setWidth 8) c
  | .accrd c d a b => body 0xA5 0 (encV d) a.toByte (b.setWidth 8) 0xFF c
  | .accwr c a b x => body 0xA6 0 0xFF a.toByte (b.setWidth 8) x.toByte c
  | .trap c imm => bodyI 0xB0 0 0xFF 0xFF imm c
  | .eret c => body 0xB1 0 0xFF 0xFF 0xFF 0xFF c
  | .srr c d reg => bodyI 0xB2 0 (encS d) 0xFF reg c
  | .srw c reg a => bodyI 0xB3 0 0xFF (encS a) reg c
  | .tlbi c a b => body 0xB4 0 0xFF (encS a) (encS b) 0xFF c
  | .tlbsync c => body 0xB5 0 0xFF 0xFF 0xFF 0xFF c
  | .sighost c a => body 0xB6 0 0xFF (encS a) 0xFF 0xFF c
  | .halt c => body 0xB7 0 0xFF 0xFF 0xFF 0xFF c
  | .illegal w => Fields.ofWord w
  | _ => Fields.ofWord 0

/-- The word of an instruction (R158). -/
def encode (i : Instr) : Word := (encodeFields i).toWord

/-- Decode any 64-bit word (R173, R174). -/
def decode (w : Word) : Instr :=
  match decodeRow (Fields.ofWord w) with
  | some i => if i.wf then i else .illegal w
  | none => .illegal w

/-- A little-endian word of 8 bytes (R4, R158). -/
def wordOfBytes (b : List Byte) : Word :=
  b.foldr (fun x acc => acc <<< 8 ||| x.setWidth 64) 0

/-- The instruction read from bits numbered as spec/opcode_table.json numbers them; an ILLEGAL word gives none. -/
def decodeTableWord (nbits w : Nat) : Option Instr :=
  match decode (BitVec.ofNat 64 (w % 2 ^ nbits)) with
  | .illegal _ => none
  | i => some i

end Sys2Proof
end

