-- ==== Sys2Proof/Machine/Clock.lean ====
section
/-! DEFINITION. The clocks of the schedulers: which waves are eligible to issue, and which schedulers have a clock now (R312 to R317, R376). -/

namespace Sys2Proof.Machine

/-- May the executing agent fetch at all? -/
def State.active (s : State) : Bool := decide (s.me.run = .running) && !s.frozen s.me

/-- The scheduler of a wave in its unit (R312). -/
def schedOf (g : Nat) : Nat := if isFar g then slotOf g / 8 else 0

/-- Would a fetch and the waits let a wave issue now, its spacing apart (R313)? A fault, a park or an abort that awaits it at the boundary lifts none of the waits. -/
def State.canIssue (s : State) (g : Nat) : Bool :=
  let s := s.focus g
  s.me.gwn == g && s.active &&
    match s.fetch with
    | (s, .word x) => s.gate (decode x) != .hold
    | (_, .fault ..) => s.me.slotsZero

/-- Is a wave eligible at this clock (R313)? -/
def State.eligible (s : State) (w : Wave) : Bool := decide (w.ready ≤ s.time) && s.canIssue w.gwn

/-- The clocks of a wave's own core that pass in d clocks of the arithmetic cores from a time on: a quay unit has five in seven (R6, R312). -/
def clocksIn (g t d : Nat) : Nat := if isQuay g then 5 * (t + d) / 7 - 5 * t / 7 else d

/-- Does the throttle withhold issue at this clock: so many sixteenths of the clocks of far cores and quay units (R376)? -/
def State.withheld (s : State) (u : Nat) : Bool := decide (u < 512) && decide (s.time % 16 < s.out.throttle.toNat)

/-- Has a unit's scheduler a clock now in which it may issue (R312, R315, R376)? -/
def State.ticks (s : State) (u : Nat) : Bool := clocksIn (gwnOf u 0) s.time 1 != 0 && !s.withheld u

/-- The schedulers that have yet to issue at this clock (R315). -/
def State.owing (s : State) : List (Nat × Nat) :=
  ((s.waves.filter s.eligible).map fun w => (unitOf w.gwn, schedOf w.gwn)).eraseDups.filter fun p => s.ticks p.1 && !s.clocked.contains p

/-- What d clocks of the arithmetic cores do to the counts of a wave: its age and its watchdog advance while it is eligible and not issued, the watchdog
while it backs off too (R314, R317). -/
def Wave.grow (eligible : Bool) (n : Nat) (w : Wave) : Wave :=
  match w.run with
  | .backoff _ => { w with watch := w.watch + n }
  | _ => if eligible then { w with age := w.age + n, watch := w.watch + n } else w

/-- The counts of every wave after d clocks (R314, R317). -/
def State.growAll (s : State) (d : Nat) : State :=
  let f (w : Wave) : Wave := w.grow (s.eligible w) (clocksIn w.gwn s.time d)
  { s with me := f s.me, others := s.others.map f }

/-- The least of some times. -/
def leastOf (l : List Nat) : Option Nat := l.foldl (fun m x => match m with | none => some x | some y => some (min x y)) none

/-- The next time at which a wave that could issue has its spacing behind it (R18, R183). -/
def State.nextReady (s : State) : Option Nat :=
  leastOf ((s.waves.filter fun w => decide (s.time < w.ready) && s.canIssue w.gwn).map (·.ready))

end Sys2Proof.Machine
end

