-- ==== Sys2Proof/Machine/Pilot.lean ====
section
/-! DEFINITION. Pilots, the passing of time, and ageing (R53, R306 to R310, R314, R317). -/

namespace Sys2Proof.Machine

/-! ## Pilots (R306 to R310) -/

/-- What a berth's signals offer a core: the highest TOP among the contexts whose next stolen task the core can take (R306, R309). The task
that a steal would claim now is chosen from a window of that context's tasks alone (DESIGN CHOICE, log entry 119). -/
def State.signalTop (s : State) (core b : Nat) : Option Nat :=
  let all := s.seaList b
  let ctxs := (all.map (·.ctx)).eraseDups
  let tops := ctxs.filterMap fun c =>
    let l := all.filter (·.ctx == c)
    match s.seaward (seaWindow l) with
    | none => none
    | some r => if s.canTake core r then some ((l.map s.recPrio).foldl max 0) else none
  if tops.isEmpty then none else some (tops.foldl max 0)

/-- The candidate of highest TOP in chart order (R309). -/
def State.bestBerth (s : State) (core : Nat) : List Nat → Option (Nat × Nat)
  | [] => none
  | b :: r =>
    match s.signalTop core b, s.bestBerth core r with
    | none, q => q
    | some t, none => some (b, t)
    | some t, some q => if q.2 ≤ t then some (b, t) else some q

/-- Is there a task that a core can take (R308): one wave slot suffices for the smallest (DEDUCED, log entry 91)? -/
def State.coreOpen (s : State) (core : Nat) : Bool := decide ((s.slotsUsed core).length < 32)

/-- The pilot of a core. -/
def State.pilot? (s : State) (core : Nat) : Option PilotCore := s.pilots.find? (·.core == core)

/-- Changes a core's pilot state. -/
def State.modPilot (s : State) (core : Nat) (f : PilotCore → PilotCore) : State := { s with pilots := mapWhere (·.core == core) f s.pilots }

/-- The local candidate of a core's pilot (R309). -/
def State.localBerth (s : State) (p : PilotCore) : Option (Nat × Nat) := s.bestBerth p.core (p.chart.filter fun b => b / 64 == p.core / 64)

/-- The remote candidate, once remote berths may be tried (R309). -/
def State.remoteBerth (s : State) (p : PilotCore) : Option (Nat × Nat) :=
  if p.remote then s.bestBerth p.core (p.chart.filter fun b => b / 64 != p.core / 64) else none

/-- The berth to which a core would be sent now (R308, R309, R310). -/
def State.pilotGoal (s : State) (p : PilotCore) : Option Nat :=
  if p.asked.isSome || decide (s.time < p.next) || !s.coreOpen p.core then none
  else match s.localBerth p with
    | some q => some q.1
    | none => (s.remoteBerth p).map (·.1)

/-- The wait for remote berths runs only while the core can take a task and has no local candidate (R309). -/
def State.pilotCount (s : State) (p : PilotCore) : PilotCore :=
  if !s.coreOpen p.core || (s.localBerth p).isSome then { p with since := s.time, remote := false } else p

/-- The core that a die's pilot considers next: the first after the one last served, in round-robin order, that would be sent (R308). -/
def State.pilotNext (s : State) (die : Nat) : Option Nat :=
  let last := ((s.pilotTurn.find? (·.1 == die)).map (·.2)).getD (64 * die + 63)
  ((List.range 64).map fun i => 64 * die + (last % 64 + 1 + i) % 64).find? fun c => (s.pilot? c).any fun p => (s.pilotGoal p).isSome

/-- A steal request of a core as it stands (R310). -/
def State.stealReq (s : State) (core : Nat) : StealReq := ⟨core, 32 - (s.slotsUsed core).length, 14 - s.unitsUsed core, (s.core core).bound⟩

/-- The pilot sends a core to steal, when it is that core's turn (R308, R309, R310). -/
def execPilotSend (core : Nat) (s : State) : Result :=
  .next (match s.pilot? core with
    | none => s
    | some p =>
      match s.pilotGoal p with
      | none => s
      | some b =>
        if s.pilotNext (core / 64) ≠ some core then s else
        let x := s.berth b
        let s1 := { s with pilotTurn := putWhere (·.1 == core / 64) (core / 64, core) s.pilotTurn }
        (s1.modPilot core fun y => { s.pilotCount y with asked := some b }).setBerth { x with steals := x.steals ++ [s.stealReq core] })

/-- 2 µs in arithmetic clocks (R309). -/
def remoteWait : Nat := 2800

/-- The wait for remote berths has run out (R309). -/
def execRemoteWaitExpiry (core : Nat) (s : State) : Result :=
  .next (match s.pilot? core with
    | none => s
    | some p =>
      let q := s.pilotCount p
      if p.since = q.since ∧ p.since + remoteWait ≤ s.time then s.modPilot core fun x => { x with remote := true } else s)

/-! ## Time -/

/-- d clocks of the arithmetic cores pass: the counts of waves and pilots advance, and every scheduler may issue again (R309, R314, R315, R317). -/
def State.elapse (s : State) (d : Nat) : State :=
  let s := { s.growAll d with time := s.time + d, clocked := [] }
  { s with pilots := s.pilots.map s.pilotCount }

/-! ## Ageing (R53, R314) -/

/-- TASK_PRIORITY_AGE: the clock passes in which a queued task gains 1 of effective priority (R53), once every scheduler has issued. -/
def execTaskPriorityAge (b id : Nat) (s : State) : Result :=
  .next (match s.rec? b id with
    | none => s
    | some r =>
      if r.st = .unclaimed ∧ (taskFields r.words).prio < 28 ∧ s.recPrio r < 27 ∧ (s.time + 1 - r.time) % 4096 = 0 ∧ s.owing = [] then s.elapse 1 else s)

/-- WAVE_PRIORITY_AGE: the clock passes in which a wave, eligible and not issued, gains 1 of effective priority (R314), once every scheduler has issued. -/
def execWavePriorityAge (g : Nat) (s : State) : Result :=
  .next (match s.wave? g with
    | none => s
    | some w =>
      if isHm g = false ∧ w.prio < 28 ∧ w.effPrio < 27 ∧ (w.age + 1) % 4096 = 0 ∧ s.eligible w = true ∧ clocksIn g s.time 1 = 1 ∧ s.owing = []
      then s.elapse 1 else s)

end Sys2Proof.Machine
end

