-- ==== Sys2Proof/Machine/Image.lean ====
section
/-! DEFINITION. Core images in the memory of a partition: their sections, the lines of layout CONTEXT that hold them, and the parts that are lost (R348,
R359, R361). The order of the sections and what each holds are the specification's; where each value stands in its section is the model's (DESIGN CHOICE,
log entry 85). -/

namespace Sys2Proof.Machine

/-- A section of an image: what it holds, its size in bytes, and its bytes that are not zero, each with its offset. -/
structure Section where
  part : ImagePart
  size : Nat
  data : List (Nat × Byte)
  deriving DecidableEq, Repr

/-- The bytes of some words that are not zero. -/
def wordsData (ws : List Word) : List (Nat × Byte) :=
  ((ws.flatMap fun x => toBytes 8 x.toNat).zipIdx.filter (·.1 != 0)).map fun p => (p.2, p.1)

/-- A section of whole words. -/
def wordSection (p : ImagePart) (ws : List Word) : Section := ⟨p, 8 * ws.length, wordsData ws⟩

/-- The words of a loop entry. -/
def LoopEntry.words (e : LoopEntry) : List Word := [BitVec.ofNat 64 (e.count.toNat + 2 ^ 32 * b2n e.armed), e.start, e.stop]

/-- The number of a run state in a wave record. -/
def Run.number : Run → Nat
  | .off => 0
  | .running => 1
  | .asleep => 2
  | .woken _ => 3
  | .feAsleep _ => 4
  | .feWoken _ => 5
  | .backoff _ => 6
  | .parked => 7
  | .halted => 8
  | .stalled _ => 9

/-- The record of a wave (R359). -/
def State.waveRecord (s : State) (w : Wave) : List Word :=
  let c := s.crew? w.crew
  let n (x : Nat) : Word := BitVec.ofNat 64 x
  [w.pc] ++ (List.range 64).map w.sreg ++ (List.range 7).map (fun i => (w.preg i).setWidth 64)
    ++ (List.range (16 * w.vregs)).map (fun i => (w.vreg (i / 16) (2 * (i % 16) + 1)) ++ (w.vreg (i / 16) (2 * (i % 16))))
    ++ [w.flags.setWidth 64, w.txs, n ((w.tx.stamp.map (·.1)).getD 0), n ((w.tx.stamp.map (·.2)).getD 0), n w.run.number, n (match w.run with
      | .backoff due => due
      | _ => 0)] ++ w.loops.l0.words ++ w.loops.l1.words
    ++ [n (b2n w.loops.inner1), s.mxp w.gwn] ++ (List.range 8).map (fun i => (w.slot i).setWidth 64)
    ++ (match w.park with
      | none => [0, 0, 0]
      | some p => [n (p.kind + 256 * p.engine), p.addr, p.pc])
    ++ [n w.watch, n w.crewIx, n ((c.map (·.berth)).getD 0), n ((c.map (·.seq)).getD 0), n ((c.map (·.launch)).getD 0),
      n (w.bankUse.toNat + 16 * w.tabUse.toNat)]

/-- The scratch of a crew: the units' data and one bit for each granule (R359). -/
def Crew.section (i : Nat) (c : Crew) : Section :=
  let n := c.size
  let gs := (c.full.map fun p => p.1 / 8).eraseDups
  ⟨.scratch i, n + n / 128, c.scratch ++ gs.map fun g =>
    (n + g, BitVec.ofNat 8 (maskOf ((c.full.filter fun p => p.1 / 8 == g).map fun p => p.1 % 8)))⟩

/-- A bank of an engine (R359). -/
def FarCore.bankSection (k : FarCore) (b : Nat) : Section :=
  ⟨.bank b, 65536, ((k.banks.filter fun p => p.1 / 16384 == b).flatMap fun p =>
    (toBytes 4 p.2.toNat).zipIdx.map fun q => (4 * (p.1 % 16384) + q.2, q.1)).filter (·.2 != 0)⟩

/-- Both banks of a code table, with its active, sorted and emax state (R75, R359): word 8 holds the active bank, the two sorted bits, and of each bank emax in
two's complement. -/
def FarCore.tableSection (k : FarCore) (t : Nat) : Section :=
  wordSection (.table t) ((List.range 8).map (fun i => BitVec.ofNat 64 (ofBytes ((List.range 4).flatMap fun j => toBytes 2 (Cells.get k.tables (32 * t + 4 * i + j)).toNat)))
    ++ [BitVec.ofNat 64 (bits k.active.toNat t 1 + 2 * bits k.sorted.toNat (2 * t) 2
      + 2 ^ 16 * (BitVec.ofInt 16 (Elem.cb4 (k.table t 0)).emax).toNat + 2 ^ 32 * (BitVec.ofInt 16 (Elem.cb4 (k.table t 1)).emax).toNat)])

/-- The unfinished commands of an engine, in issue order (R359). -/
def FarCore.commandSections (k : FarCore) : List Section :=
  k.mat.map (fun m => wordSection (.command m.gwn) (m.words ++ [BitVec.ofNat 64 m.gwn, BitVec.ofNat 64 m.done, BitVec.ofNat 64 (b2n m.reserved)]))
    ++ k.lit.map fun l => wordSection (.command l.gwn) (l.words ++ [BitVec.ofNat 64 l.gwn])

/-- The lines of a section. -/
def Section.lines (x : Section) : Nat := (x.size + 63) / 64

/-- The lines of several sections. -/
def linesOf (l : List Section) : Nat := (l.map Section.lines).foldl (· + ·) 0

/-- The sections of an image of a unit in the order of R359. The header's first two words name the context slot, the source unit, whether the image is far, the berth of a
near one, and the wave count; then each of the wave records, the scratch and the engine state has its offset and its size in bytes. -/
def State.imageSections (s : State) (ctx unit : Nat) (ws : List Wave) (cs : List Crew) (k : Option FarCore) : List Section :=
  let waves := ws.zipIdx.map fun p => wordSection (.wave p.2) (s.waveRecord p.1)
  let scratch := cs.zipIdx.map fun p => p.1.section p.2
  let engine := match k with
    | none => []
    | some k => (List.range 4).map k.bankSection ++ (List.range 8).map k.tableSection ++ k.commandSections
  let w (n : Nat) : Word := BitVec.ofNat 64 n
  let a := 1 + linesOf waves
  let b := a + linesOf scratch
  let near : Nat := if unit < 256 then 0 else unit - 256
  wordSection .header [w (ctx + 2 ^ 8 * unit + 2 ^ 24 * b2n (decide (unit < 256)) + 2 ^ 32 * near), w ws.length,
    w 64, w (64 * linesOf waves), w (64 * a), w (64 * linesOf scratch), w (64 * b), w (64 * linesOf engine)] :: waves ++ scratch ++ engine

/-- The sections with their first line, from a line on, and their lengths in lines. -/
def placeSections : Nat → List Section → List (ImagePart × Nat × Nat)
  | _, [] => []
  | n, x :: r => (x.part, n, x.lines) :: placeSections (n + x.lines) r

/-- The lines of a section that are not zero: each with its data. -/
def Section.lineData (x : Section) : List (Nat × Nat) :=
  ((x.data.map fun p => p.1 / 64).eraseDups).map fun l =>
    (l, ((x.data.filter fun p => p.1 / 64 == l).map fun p => p.2.toNat * 2 ^ (8 * (p.1 % 64))).foldl (· + ·) 0)

/-- A run of n lines is written at its homes: every copy of them goes, and who registered one is doomed or woken (R151, R336). -/
def State.touchRun (s : State) (line n : Nat) : State :=
  let inside (l : Nat) : Bool := decide (line ≤ l) && decide (l < line + n)
  let regs := if s.waves.any (!·.tx.coarse.isEmpty) then (List.range n).map (line + ·)
    else (s.waves.flatMap (·.tx.lines)).eraseDups.filter inside
  let s := { s with caches := { s.caches with replicas := s.caches.replicas.filter fun r => !inside r.line } }
  regs.foldl (fun s l => s.touchLine noWave l) s

/-- Zeroes n lines in both copies under layout CONTEXT (R348). -/
def State.zeroContext (s : State) (line n : Nat) : State :=
  { s with
    store := {
      data := Cells.clear s.store.data (64 * line) (64 * n)
      side := Cells.clear s.store.side line n
      data2 := Cells.clear s.store.data2 (64 * line) (64 * n)
      side2 := Cells.clear s.store.side2 line n
      code := Cells.putDense s.store.code line (List.replicate n 12) } }.touchRun line n

/-- Writes the sections of an image from a line on. -/
def State.putSections (s : State) (line : Nat) (xs : List Section) : State :=
  let n := linesOf xs
  ((placeSections 0 xs).zip xs).foldl (fun s p =>
    p.2.lineData.foldl (fun s d => s.homeWrite noWave (line + p.1.2.1 + d.1) (2 ^ 512 - 1) d.2 none 12) s) (s.zeroContext line n)

/-- Is a line of an image uncorrectable in both copies (R348)? A line that holds nothing reads as zero. -/
def State.lineLost (s : State) (line : Nat) : Bool :=
  let at_ (m : Memory) : Bool := m.any fun p => p.1 / 64 == line
  (at_ s.store.data || at_ s.store.data2 || (s.store.side ++ s.store.side2).any (·.1 == line)) && !(s.decodeLine line 12).clean

/-- The parts of an image that have a lost line (R361). -/
def State.lostParts (s : State) (img : CoreImage) : List ImagePart :=
  (img.sections.filter fun x => (List.range x.2.2).any fun i => s.lineLost (img.line + x.2.1 + i)).map (·.1)

end Sys2Proof.Machine
end

