-- ==== Sys2Proof/Machine/Preempt.lean ====
section
/-! DEFINITION. Pre-emption, core images, restore, and the watchdog (R157, R317, R318, R357 to R361). -/

namespace Sys2Proof.Machine

/-! ## Pre-emption (R157, R357 to R359) -/

/-- What a pre-emption does to a wave at once (R157, R358): an active transaction aborts with status 5, also of a wave parked in it; a sleeping one keeps its age stamp and loses its
registrations, a back-off ends, and a full/empty instruction will execute again. An instruction that has issued and not yet acted will issue again (DESIGN CHOICE,
log entry 114). -/
def Wave.freeze (w : Wave) : Wave :=
  let w := if w.tx.depth ≠ 0 then w.enterHandler 5 0 0 else w
  match w.run with
  | .asleep => { w with tx := w.tx.leave }
  | .woken _ => { w with tx := w.tx.leave }
  | .backoff _ => { w with run := .running }
  | .stalled _ => { w with run := .running }
  | _ => w.feBack

/-- Is it a wave of a context? -/
def Wave.ofCtx (ctx : Nat) (w : Wave) : Bool := w.ctx == ctx && !isHm w.gwn

/-- Claims of a context stop and its waves stop at their instruction boundaries (R358, steps 1 to 3). -/
def State.preempt (s : State) (ctx : Nat) : State :=
  match s.ctx? ctx with
  | none => s
  | some c =>
    if c.frozen then s
    else (s.modCtx ctx fun c => { c with preempted := true, frozen := true }).modWaves (Wave.ofCtx ctx) Wave.freeze

/-- Harbourmaster work for a context is done while a core of its partition runs (R305). -/
def State.byHm (s : State) (ctx : Nat) (t : State) : State := if s.hmAlive (s.partOfCtx ctx) then t else s

/-- PREEMPT (R358). -/
def execPreempt (ctx : Nat) (s : State) : Result := .next (s.byHm ctx (s.preempt ctx))

/-- A wave as an image holds it (R358, R359): a parked one executes its instruction again or has its engine command translated again. -/
def Wave.saved (w : Wave) : Wave :=
  let w := match w.run with
    | .parked => { w with run := .running, park := none }
    | .woken _ => { w with run := .asleep }
    | _ => w
  { w with duePark := none, coreSeen := [] }

/-- An engine as an image holds it: a parked command is translated again (R358). -/
def FarCore.saved (k : FarCore) : FarCore :=
  { k with
    mat := k.mat.map fun m => if m.state = 4 then { m with state := if m.reserved then 3 else 0 } else m
    lit := k.lit.map fun l => { l with parked := false } }

/-- Has a unit finished what a pre-emption waits for (R358, steps 4 to 6): nothing is in flight, nor anything that a wave's acquire
has seen and its releases wait for (R130), no matrix command runs, no lighter command has started? -/
def State.drainedUnit (s : State) (ctx unit : Nat) : Bool :=
  (s.waves.all fun w => !(w.ofCtx ctx && unitOf w.gwn == unit) || (w.flights.isEmpty && !s.owes w w.nextOp))
    && (256 ≤ unit || ((s.core unit).mat.all (·.state != 2) && (s.core unit).lit.all (!·.started)))

/-- A claimed task ends in a report without running on: its holds are released, and its record is failed; a shadow copy is reported when it is compared
(R63, R64, R322). -/
def State.loseTask (s : State) (c : Crew) (info : FaultInfo) : State :=
  let s := (s.releaseRec c.berth c.record).modRec c.berth c.record fun r => { r with st := .failed, sig := c.sig }
  if c.shadow then s else s.report c.ctx c.launch (reportOf s c info)

/-- The wave of lowest crew index. -/
def lowestWave : List Wave → Option Wave
  | [] => none
  | w :: r =>
    match lowestWave r with
    | none => some w
    | some x => if w.crewIx ≤ x.crewIx then some w else some x

/-- The clocks of a wave's core in a watchdog window: WDOG counts µs (R6, R297, R317). -/
def windowOf (wdog g : Nat) : Nat := (if isQuay g then 1000 else 1400) * wdog

/-- The report of a claimed task of a context that hangs (R318): of its hung waves the one of lowest crew index, and its saved PC; PC 0 where none of its waves
has started. -/
def hangInfo (wdog : Nat) (ws : List Wave) : FaultInfo :=
  let hung := ws.filter fun w => decide (windowOf wdog w.gwn ≤ w.watch)
  let ix := ((lowestWave hung).map (·.crewIx)).getD 0
  let pc : Word := match ws.find? fun w => w.crewIx == ix with
    | none => 0
    | some w => if w.run = .off then 0 else w.pc
  ⟨0x21, 0, pc, BitVec.ofNat 64 (ix % 16 + 16 * b2n (!hung.isEmpty))⟩

/-- Once every unit of a context that hangs is saved, every claimed task is reported and the context is resident again (R318, steps 2 and 3). -/
def State.endHang (s : State) (ctx : Nat) : State :=
  match s.ctx? ctx with
  | none => s
  | some c =>
    match c.hang with
    | none => s
    | some wdog =>
      if s.waves.any (Wave.ofCtx ctx) then s else
      let lost := c.images.flatMap fun i => i.crews.map fun k => (k, hangInfo wdog (i.waves.filter (·.crew == k.id)))
      (lost.foldl (fun s p => s.loseTask p.1 p.2) s).modCtx ctx fun c =>
        { c with images := [], preempted := false, frozen := false, hang := none }

/-- The image of a unit is written at a physical address of the partition, which the harbourmaster holds for it below the launch pages
(R367), and the unit is freed (R358, R359); tasks that
have faulted are settled first (R283). -/
def State.saveUnit (s : State) (ctx unit pa : Nat) : State :=
  let s := (s.crews.filter fun c => c.ctx == ctx && c.unit == unit).foldl (fun s c => s.freeFaulted c) s
  match s.ctx? ctx with
  | none => s
  | some c =>
    let mine := s.waves.filter fun w => w.ofCtx ctx && unitOf w.gwn == unit
    let crews := s.crews.filter fun x => x.ctx == ctx && x.unit == unit
    let k := s.core unit
    let engine := if unit < 256 then some k.saved else none
    let ws := mine.map Wave.saved
    let xs := s.imageSections ctx unit mine crews engine
    let lines := linesOf xs
    if c.frozen && mine.isEmpty then s.endHang ctx
    else if !c.frozen || mine.isEmpty || !s.drainedUnit ctx unit || pa % 64 != 0 || !s.inPart pa (64 * lines + 2 ^ 19) then s
    else
      let line := (s.partBase (s.partOfCtx ctx) + pa) / 64
      let img : CoreImage := ⟨c.nextImage, unit, line, placeSections 0 xs, ws, crews, engine⟩
      let s := (s.putSections line xs).modCtx ctx fun c => { c with images := c.images ++ [img], nextImage := c.nextImage + 1 }
      let s := s.dropWaves fun w => w.ofCtx ctx && unitOf w.gwn == unit
      let s := { s with crews := s.crews.filter fun x => !(x.ctx == ctx && x.unit == unit) }
      (if unit < 256 then s.setCore { k with mat := [], lit := [], bound := none, served := some ctx } else s).endHang ctx

/-- PREEMPT_IMAGE_WRITE (R359). -/
def execPreemptImageWrite (ctx : Nat) (place : SavePlace) (s : State) : Result := .next (s.byHm ctx (s.saveUnit ctx place.unit place.pa))

/-! ## Restore (R360, R361) -/

/-- The waves of an image that a lost section affects (R361). -/
def lostWaves (img : CoreImage) : ImagePart → List Wave
  | .header => img.waves
  | .wave n => (img.waves[n]?).toList
  | .scratch i =>
    match img.crews[i]? with
    | none => []
    | some c => img.waves.filter (·.crew == c.id)
  | .bank b => img.waves.filter fun w => w.bankUse.getLsbD b
  | .table t => img.waves.filter fun w => w.tabUse.getLsbD t
  | .command g => img.waves.filter (·.gwn == g)

/-- The tasks of an image that its lost sections affect, each with its lowest affected wave: a lost bank or table affects every task with a wave that
has used it, as a whole (R361). -/
def lostCrews (img : CoreImage) (lost : List ImagePart) : List (Crew × Wave) :=
  img.crews.filterMap fun c => (lowestWave ((lost.flatMap (lostWaves img)).filter (·.crew == c.id))).map fun w => (c, w)

/-- Reports a task whose image lines are lost (R361): its holds are released and none of its waves is restored. -/
def State.reportLost (s : State) (c : Crew) (w : Wave) : State := s.loseTask c ⟨0x20, 5, w.pc, BitVec.ofNat 64 w.crewIx⟩

/-- The charts of a context that fail are unloaded and recorded when it is restored (R361). -/
def State.dropLostCharts (s : State) (ctx : Nat) : State :=
  match s.ctx? ctx with
  | none => s
  | some c => c.badCharts.foldl (fun s n => (s.modCtx ctx (Context.dropChart n)).record n 5) s

/-- A wave as it runs again (R360): a sleeping one is woken with LAST = 7, its age count starts at 0, and what is left of its spacing stays (R18). -/
def Wave.restored (t g : Nat) (w : Wave) : Wave :=
  let w := { w with gwn := g, age := 0, ready := max w.ready t }
  match w.run with
  | .asleep => { w with run := .woken none, tx := { w.tx with last := 7 } }
  | _ => w

/-- May an image be placed on a unit (R360)? A far image needs a far core that holds no wave; a near image goes to the quay unit of its berth. -/
def State.placeable (s : State) (ctx : Nat) (img : CoreImage) (unit : Nat) : Bool :=
  let used := s.slotsUsed unit
  let need : Nat := (img.crews.map Crew.units).foldl (· + ·) 0
  if img.unit < 256 then
    decide (unit < 256) && s.partOf unit == s.partOfCtx ctx && used.isEmpty && s.unitsUsed unit == 0 && decide (need ≤ 14)
  else unit == img.unit && decide (used.length + img.waves.length ≤ 4) && decide (s.unitsUsed unit + need ≤ 4)

/-- Loads an image on a unit (R360): the lost tasks are reported, the waves take free slots, the commands keep their order, DONE and reservations, and
the restore is an acquire (R136, R378). -/
def State.loadImage (s : State) (ctx : Nat) (img : CoreImage) (unit : Nat) : State :=
  let gone := lostCrews img (s.lostParts img)
  let s := gone.foldl (fun s p => s.reportLost p.1 p.2) s
  let live := img.crews.filter fun c => !gone.any (·.1.id == c.id)
  let ws := img.waves.filter fun w => live.any (·.id == w.crew)
  let names : List (Nat × Nat) := (ws.map (·.gwn)).zip ((crewSlots unit ws.length (s.slotsUsed unit)).map (gwnOf unit))
  let new (g : Nat) : Nat := ((names.find? (·.1 == g)).map Prod.snd).getD g
  let s := { s with
    others := s.others ++ ws.map fun (w : Wave) => w.restored s.time (new w.gwn)
    crews := s.crews ++ live.map fun (c : Crew) => { c with unit := unit, waves := c.waves.map new } }
  let s := match img.engine with
    | none => s
    | some k =>
      if ws.isEmpty then s
      else s.setCore { k with
        core := unit
        mat := (k.mat.filter fun (m : MatCmd) => live.any (·.id == m.crew)).map fun (m : MatCmd) =>
          { m with gwn := new m.gwn, state := if m.state = 5 then 3 else m.state }
        lit := (k.lit.filter fun (l : LitCmd) => live.any (·.id == l.crew)).map fun (l : LitCmd) => { l with gwn := new l.gwn }
        bound := some ctx
        served := some ctx }
  (s.flushL1 unit).flushIc unit

/-- Claims of a context are granted again once every image is restored (R360). -/
def State.resumeClaims (s : State) (ctx : Nat) : State :=
  s.modCtx ctx fun c => if c.images.isEmpty then { c with preempted := false, frozen := false } else { c with frozen := false }

/-- Restores one image of a pre-empted context whose save is complete; without an image its claims resume. What the image has lost follows from its lines
(R348, R361). -/
def State.restore (s : State) (ctx image unit : Nat) : State :=
  match s.ctx? ctx with
  | none => s
  | some c =>
    if !c.preempted || c.hang.isSome || (c.frozen && s.waves.any (Wave.ofCtx ctx)) then s
    else
      match c.images.find? (·.id == image) with
      | none => if c.images.isEmpty then s.resumeClaims ctx else s
      | some img =>
        if s.placeable ctx img unit then
          (((s.dropLostCharts ctx).modCtx ctx fun c => { c with images := c.images.filter (·.id != image) }).loadImage ctx img unit).resumeClaims ctx
        else s

/-- RESTORE (R360, R361): the harbourmaster of the partition places an image of one of its own contexts (R303). -/
def execRestore (part slot image unit : Nat) (s : State) : Result :=
  .next (if s.slotIn part slot then s.byHm slot (s.restore slot image unit) else s)

/-! ## The watchdog (R317, R318) -/

/-- A wave whose count has reached its context's window is hung: the harbourmaster pre-empts the context, and reports its claimed tasks once it is saved
(R318). -/
def State.hang (s : State) (g : Nat) : State :=
  match s.wave? g with
  | none => s
  | some w =>
    match s.ctx? w.ctx with
    | none => s
    | some c =>
      if isHm g || w.run == .off || c.frozen || decide (w.watch < windowOf c.wdog g) then s
      else s.byHm w.ctx ((s.preempt w.ctx).modCtx w.ctx fun x => { x with hang := some c.wdog })

/-- WATCHDOG_HANG (R318). -/
def execWatchdogHang (g : Nat) (s : State) : Result := .next (s.hang g)

end Sys2Proof.Machine
end

