-- ==== Sys2Proof/Machine/Upkeep.lean ====
section
/-! DEFINITION. What the harbourmaster and the sweepers do for pages and lines: the fault queue, replicated pages, migration, relayout, sweeping, error
injection, and TLBs that drop entries (R300, R330, R335 to R344, R352, R353). -/

namespace Sys2Proof.Machine

/-! ## The fault queue (R300) -/

/-- The words of a fault-queue entry. -/
def fqWords (e : FqEntry) : List Word :=
  [BitVec.ofNat 64 (2 ^ 63 + e.kind % 256 * 2 ^ 40 + e.engine % 4 * 2 ^ 38 + e.ctx % 64 * 2 ^ 32 + e.gwn % 2 ^ 14), e.addr, e.pc, 0]

/-- The place of entry i of a partition's fault queue. -/
def State.fqPlace (s : State) (p i : Nat) : Nat := s.partBase p + (s.part p).fqbase.toNat + 32 * i

/-- The ring index of the next entry: it stays below the FQCAP of the moment. -/
def Partition.fqIndex (x : Partition) : Nat := if x.fqNext < x.fqcap.toNat then x.fqNext else 0

/-- Is the next ring entry free? It lies in the partition's memory (R303). -/
def State.fqFree (s : State) (p : Nat) : Bool :=
  let x := s.part p
  x.fqcap != 0 && s.inPart (x.fqbase.toNat + 32 * x.fqIndex) 32 && !bitAt (s.readPhys (s.fqPlace p x.fqIndex) 8).1 63

/-- The oldest waiting entry is written, words 1 to 3 and then word 0 (R300); waiting notices that find the ring full are dropped and recorded. -/
def State.fqWrite (s : State) (p : Nat) : State :=
  let x := s.part p
  match x.fqWait with
  | [] => s
  | e :: r =>
    if s.fqFree p then
      let at_ := s.fqPlace p x.fqIndex
      let s := [1, 2, 3, 0].foldl (fun s i => s.writePhys noWave (at_ + 8 * i) 8 ((fqWords e).getD i 0).toNat) s
      let s := s.modPart p fun x => { x with fqWait := r, fqNext := if x.fqIndex + 1 < x.fqcap.toNat then x.fqIndex + 1 else 0 }
      if e.kind = 4 then s else s.modWave e.gwn fun w => { w with park := w.park.map fun k => { k with entered := true } }
    else
      let notes := x.fqWait.filter (·.kind == 4)
      if notes.isEmpty then s
      else
        let s := s.modPart p fun x => { x with fqWait := x.fqWait.filter (·.kind != 4) }
        notes.foldl (fun s _ => s.record (s.fqPlace p 0) 0) s

/-- FAULT_QUEUE_ENTRY_WRITE (R300). -/
def execFaultQueueEntryWrite (part : Nat) (s : State) : Result := .next (s.fqWrite part)

/-! ## Table entries by physical address (R323, R324) -/

/-- The leaf of a virtual address as memory holds it: its level, the place of its entry, and the entry. -/
def State.leafFrom (s : State) (p va : Nat) : Nat → Nat → Option (Nat × Nat × Word)
  | 0, _ => none
  | n + 1, table =>
    let level := 3 - n
    let idx := va / 2 ^ levelShift level % (if level = 1 then 2 ^ 18 else if level = 2 then 2 ^ 9 else 2 ^ 5)
    let place := s.partBase p + table + 8 * idx
    let r := s.readPhys place 8
    let e : Word := BitVec.ofNat 64 r.1
    if !s.inPart (table + 8 * idx) 8 || r.2 || !pteBit e 63 || malformed s.partSize level e then none
    else if pteBit e 62 then (if badLayout level e then none else some (level, place, e))
    else State.leafFrom s p va n (pte e 0 40 * 256)

/-- The leaf of a context's virtual address; no leaf counts at or above the unwalked base (R67). -/
def State.leafOf (s : State) (ctx va : Nat) : Option (Nat × Nat × Word) :=
  if unwalkedBase ≤ va then none else
  match s.ctx? ctx with
  | none => none
  | some c => s.leafFrom (s.partOfCtx ctx) va 3 c.ptroot

/-- An entry with a field replaced. -/
def pteSet (e : Word) (lo len v : Nat) : Word := BitVec.ofNat 64 (putBits e.toNat lo len v)

/-- Writes a table entry. -/
def State.putEntry (s : State) (place : Nat) (e : Word) : State := s.writePhys noWave place 8 e.toNat

/-- Every TLB drops the entries that translate the page of an address at a level (R295, R331). -/
def State.dropPage (s : State) (ctx level va : Nat) : State :=
  s.tlbDrop fun t => t.ctx == ctx && t.index * 2 ^ levelShift t.level / 2 ^ levelShift level == va / 2 ^ levelShift level
    || t.ctx == ctx && va / 2 ^ levelShift t.level == t.index

/-- Is an access that was translated to some lines still to be performed, a transaction's buffered store among them, so that `tlbsync` waits (R295)? -/
def State.linesBusy (s : State) (line n : Nat) : Bool :=
  let hit (k : Nat × Nat) : Bool := k.1 == 0 && decide (line ≤ k.2) && decide (k.2 < line + n)
  s.waves.any (fun w => (w.flights.any fun f => f.body.keys.any hit) || w.tx.buf.any fun b => !b.scratch && hit (0, b.line))
    || s.cores.any fun k => k.lit.any fun l => l.started && l.pages.any fun p => hit (0, p.tgt.at_ / 64)

/-! ## Replicated pages and migration (R338 to R341) -/

/-- A microsecond, and a millisecond, in arithmetic clocks (R10). -/
def usClocks : Nat := 1400
/-- A millisecond in arithmetic clocks. -/
def msClocks : Nat := 1400000

/-- A migration record as time leaves it: a pin that has ended restarts the moves and doubles the window up to 64 ms, and 64 ms unpinned and unmoved bring
the window back to 1 ms (R341). -/
def Migration.settle (t : Nat) (m : Migration) : Migration :=
  let m := match m.pinned with
    | none => m
    | some e => if e ≤ t then { m with pinned := none, moves := [], window := min (2 * m.window) (64 * msClocks), last := e } else m
  if m.pinned.isNone && decide (m.last + 64 * msClocks ≤ t) then { m with window := msClocks } else m

/-- The migration record of a page now, as it is before any move where there is none (R341). -/
def State.migration (s : State) (ctx va : Nat) : Migration :=
  (((s.migrations.find? fun m => m.ctx == ctx && m.va == va / 65536 * 65536).getD ⟨ctx, va / 65536 * 65536, msClocks, [], none, none, 0⟩)).settle s.time

/-- Replaces a migration record. -/
def State.setMigration (s : State) (m : Migration) : State :=
  { s with migrations := m :: s.migrations.filter fun x => !(x.ctx == m.ctx && x.va == m.va) }

/-- Counts a move at a time: the fourth within the window of the first of those four pins the page (R341). -/
def Migration.move (t : Nat) (m : Migration) : Migration :=
  let ms := m.moves ++ [t]
  let ms := ms.drop (ms.length - 4)
  { m with moves := ms, last := t, pinned := if ms.length = 4 ∧ t ≤ ms.headD 0 + m.window then some (t + m.window) else m.pinned }

/-- The lines of a 64 KiB frame copied into another: data, check bits and layout code (R338). -/
def Store.copyFrame (st : Store) (src dst : Nat) : Store :=
  let mv {w : Nat} (c : Cells w) (a b n : Nat) : Cells w := Cells.putDense c b (Cells.dense (c.filter fun p => decide (a ≤ p.1)) a n)
  { data := mv st.data (64 * src) (64 * dst) 65536
    side := mv st.side src dst 1024
    data2 := mv st.data2 (64 * src) (64 * dst) 65536
    side2 := mv st.side2 src dst 1024
    code := mv st.code src dst 1024 }

/-- Splits a 2 MiB replicated leaf into 32 leaves of a level-3 table at a physical address (R339). -/
def State.splitLeaf (s : State) (p ctx va place table : Nat) (e : Word) : State :=
  let s := (List.range 32).foldl (fun s i => s.putEntry (s.partBase p + 256 * table + 8 * i) (pteSet e 8 32 (pte e 8 32 + i))) s
  (s.putEntry place (BitVec.ofNat 64 (2 ^ 63 + table % 2 ^ 40))).dropPage ctx 2 va

/-- Resumes every wave that is parked as WRITE_PROTECT on the 64 KiB page of an address (R338). -/
def State.resumeWriters (s : State) (ctx va : Nat) : State :=
  ((s.waves.filter fun w => w.ofCtx ctx && (match w.park with
      | none => false
      | some p => p.kind == 2 && p.addr.toNat / 65536 == va / 65536)).map (·.gwn)).foldl (fun s g => s.resumeWave g) s

/-- Does a relayout entry cover part of a run of lines (R343)? -/
def State.relaying (s : State) (line n : Nat) : Bool :=
  s.berths.any fun b => b.relayouts.any fun r => decide (r.line < line + n) && decide (line < r.line + r.lines)

/-- Collapses a replicated 64 KiB page for a writer on a die, into a frame that the harbourmaster has taken there unless the page stays (R338). It waits while a
relayout of the page stands, since the copy is made in the page's one layout (DESIGN CHOICE, log entry 92). A move dooms or wakes who registered a line of
either frame (DESIGN CHOICE, log entry 93). -/
def State.collapse (s : State) (ctx va die place frame : Nat) (e : Word) : State :=
  let p := s.partOfCtx ctx
  let old := (s.partBase p + pte e 8 32 * 65536) / 64
  let new := (s.partBase p + frame * 65536) / 64
  let m := s.migration ctx va
  let stay := m.pinned.isSome || s.berthOf (64 * old) / 64 == die
  if s.linesBusy old 1024 || s.relaying old 1024 then s
  else if !stay && (decide (s.partSize < frame * 65536 + 65536 + 2 ^ 19) || s.berthOf (64 * new) / 64 != die) then s
  else
    let m := { (if stay then m else m.move s.time) with collapsed := some s.time }
    let s := if stay then s else (({ s with
      store := s.store.copyFrame old new
      caches := { s.caches with replicas := s.caches.replicas.filter fun r => !(decide (old ≤ r.line) && decide (r.line < old + 1024)) } }).touchRun old 1024).touchRun new 1024
    let e := pteSet (pteSet (pteSet (pteSet e 8 32 (if stay then pte e 8 32 else frame)) 56 1 0) 60 1 1) 40 1 1
    (((s.setMigration m).putEntry place e).dropPage ctx 3 va).resumeWriters ctx va

/-- WRITE_PROTECT_COLLAPSE (R338, R339): for a wave parked as WRITE_PROTECT; `frame` is the frame that the harbourmaster takes for a move, `table` the
place of a level-3 table for a split; neither lies in the launch pages (R367). -/
def State.resolveWrite (s : State) (g frame table : Nat) : State :=
  match s.wave? g with
  | none => s
  | some w =>
    match w.park with
    | none => s
    | some p =>
      let va := p.addr.toNat
      if p.kind ≠ 2 then s else
      match s.leafOf w.ctx va with
      | none => s.resumeWave g
      | some (level, place, e) =>
        if !(pteBit e 56 && pteBit e 40) then s.resumeWriters w.ctx va
        else if level = 3 then s.collapse w.ctx va (s.dieOf (unitOf g)) place frame e
        else if s.partSize < 256 * table + 256 + 2 ^ 19 ∨ s.linesBusy ((s.partBase (s.partOfCtx w.ctx) + pte e 8 32 * 65536) / 64) 32768 = true then s
        else
          let s := s.splitLeaf (s.partOfCtx w.ctx) w.ctx va place table e
          match s.leafOf w.ctx va with
          | none => s
          | some (_, place, e) => s.collapse w.ctx va (s.dieOf (unitOf g)) place frame e

/-- WRITE_PROTECT_COLLAPSE (R338). -/
def execWriteProtectCollapse (g frame table : Nat) (s : State) : Result :=
  .next (match s.wave? g with
    | none => s
    | some w => s.byHm w.ctx (s.resolveWrite g frame table))

/-- Once 100 µs have passed since its collapse an unpinned page is marked replicated again (R340). -/
def State.replicateAgain (s : State) (ctx va : Nat) : State :=
  let m := s.migration ctx va
  match m.collapsed, m.pinned, s.leafOf ctx va with
  | some t, none, some (_, place, e) =>
    if s.time < t + 100 * usClocks ∨ s.linesBusy ((s.partBase (s.partOfCtx ctx) + pte e 8 32 * 65536) / 64) 1024 = true then s
    else
      let s := s.setMigration { m with collapsed := none }
      if pteBit e 40 && !pteBit e 56 then (s.putEntry place (pteSet (pteSet e 56 1 1) 60 1 0)).dropPage ctx 3 va else s
  | _, _, _ => s

/-- RE_REPLICATE (R340). -/
def execReReplicate (ctx va : Nat) (s : State) : Result := .next (s.byHm ctx (s.replicateAgain ctx va))

/-- Puts the record of a page that has moved in the state that time has brought it to (R341). -/
def State.settlePage (s : State) (ctx va : Nat) : State :=
  if s.migrations.any fun m => m.ctx == ctx && m.va == va / 65536 * 65536 then s.setMigration (s.migration ctx va) else s

/-- PIN_EXPIRY (R341): the pin ends when its window has passed; every use of the record sees that from then on. -/
def execPinExpiry (ctx va : Nat) (s : State) : Result := .next (s.settlePage ctx va)

/-- MIGRATION_WINDOW_RESET (R341): the window is 1 ms again once the page has been unpinned and unmoved for 64 ms. -/
def execMigrationWindowReset (ctx va : Nat) (s : State) : Result := .next (s.settlePage ctx va)

/-! ## Relayout (R342 to R344) -/

/-- May a page's layout change between two codes (R342)? A code is not changed into itself. -/
def relayoutPair (a b : Nat) : Bool :=
  let plain (c : Nat) : Bool := c ≤ 5 || c == 11
  a != b && ((plain a && plain b) || ((a == 7 || a == 8) && (b == 7 || b == 8)) || ((a == 9 || a == 10) && (b == 9 || b == 10)))

/-- The berths that home part of a run of lines. -/
def State.homesOf (s : State) (line n : Nat) : List Nat :=
  ((List.range (min ((n + 255) / 256) (64 * s.dies))).map fun i => s.berthOf (64 * line + 16384 * i)).eraseDups

/-- Places relayout entries at the homes of a page and writes its leaf (R343, steps 1 and 2): none while a berth has no free entry, an
earlier relayout of the page stands, or an access translated through the old leaf is not performed. -/
def State.startRelayout (s : State) (ctx level va place code : Nat) (e : Word) : Option State :=
  let line := (s.partBase (s.partOfCtx ctx) + pte e 8 32 * 65536) / 64
  let n := 2 ^ levelShift level / 64
  let homes := s.homesOf line n
  if homes.any (fun b => 16 ≤ (s.berth b).relayouts.length) || s.relaying line n || s.linesBusy line n then none
  else
    let r : Relayout := ⟨line, n, pte e 52 4, code, 0⟩
    let s := homes.foldl (fun s b => s.setBerth { s.berth b with relayouts := (s.berth b).relayouts ++ [r] }) s
    some ((s.putEntry place (pteSet e 52 4 code)).dropPage ctx level va)

/-- The next line of a berth's own at or above a pointer; `n` lines remain. -/
def State.ownLine (s : State) (b line : Nat) : Nat → Nat → Option Nat
  | 0, _ => none
  | n + 1, i => if s.berthOf (64 * (line + i)) = b then some i else s.ownLine b line n (i + 1)

/-- Re-encodes a line under a new code: only its check bits change, and an uncorrectable line keeps its error (R343, R344). Copies are invalidated
(R336). -/
def State.reencode (s : State) (line old new : Nat) : State :=
  let lo := lineFmt old (lineInUnit line)
  let ln := lineFmt new (lineInUnit line)
  let d := lo.decode (s.store.bits1 line)
  let st := if d.clean then s.store.put1 line (ln.fresh d.bits.data (ln.scaleBase.map fun _ => lo.scaleOf d.bits)) else s.store
  { s with
    store := { st with code := Cells.set st.code line (BitVec.ofNat 4 new) }
    caches := { s.caches with replicas := s.caches.replicas.filter fun r => r.line != line } }

/-- Removes a relayout's entries once every pointer has passed the page's end (R343). -/
def State.endRelayout (s : State) (line : Nat) : State :=
  if s.berths.all fun b => b.relayouts.all fun r => r.line != line || decide (r.lines ≤ r.ptr) then
    { s with berths := s.berths.map fun b => { b with relayouts := b.relayouts.filter fun r => r.line != line } }
  else s

/-- RELAYOUT_REENCODE (R343): the sweeper of a berth re-encodes the next line of an entry and moves its pointer past it. -/
def execRelayoutReencode (b entry : Nat) (s : State) : Result :=
  .next (match (s.berth b).relayouts[entry]? with
    | none => s
    | some r =>
      let move (s : State) (p : Nat) : State :=
        (s.setBerth { s.berth b with relayouts := mapWhere (·.line == r.line) (fun x => { x with ptr := p }) (s.berth b).relayouts }).endRelayout r.line
      match s.ownLine b r.line (r.lines - r.ptr) r.ptr with
      | none => move s r.lines
      | some i => move (s.reencode (r.line + i) r.oldCode r.newCode) (i + 1))

/-! ## Sweeping and injection (R352, R353) -/

/-- The highest severity that any element of a line has. -/
def lineSev (lf : LineFmt) (d : Decoded) : Nat :=
  let els := lf.elemsOf 0 512
  let many := manyGroups ((els.flatMap fun e => failingGroups lf d e.1 e.2).map fun g => (0, g))
  (els.map fun e => elemSev lf d many e.1 e.2).foldl max 0

/-- A corrected line as it is written back: its check bits afresh, its spare side-band bits zero (R345). -/
def LineFmt.tidy (lf : LineFmt) (d : Decoded) : LineBits := ⟨d.bits.data, (lf.write d.bits 0 0 none).side⟩

/-- A sweeper visits a line: a correctable line is written back corrected, a CONTEXT copy that fails is restored from the other, and an uncorrectable
line stands and is recorded. It is no write (R151). -/
def State.sweep (s : State) (line : Nat) : State :=
  let code := s.ownCode line
  let lf := lineFmt code (lineInUnit line)
  let d := lf.decode (s.store.bits1 line)
  if code = 12 then
    let e := lf.decode (s.store.bits2 line)
    let a := lf.tidy d
    let b := lf.tidy e
    if d.clean then { s with store := (s.store.put1 line a).put2 line (if e.clean then b else a) }
    else if e.clean then { s with store := (s.store.put1 line b).put2 line b }
    else s.record (64 * line) 5
  else if d.clean then { s with store := s.store.put1 line (lf.tidy d) }
  else s.record (64 * line) (lineSev lf d)

/-- MEMORY_SWEEP (R352). -/
def execMemorySweep (line : Nat) (s : State) : Result := .next (s.sweep line)

/-- L2_SWEEP (R352): the line's one stored form is corrected. -/
def execL2Sweep (line : Nat) (s : State) : Result := .next (s.sweep line)

/-- Every copy of a line goes (R336). -/
def State.dropReplicas (s : State) (line : Nat) : State :=
  { s with caches := { s.caches with replicas := s.caches.replicas.filter fun r => r.line != line } }

/-- A line with masks applied. -/
def LineBits.flip (l : LineBits) (side data : Nat) : LineBits := ⟨l.data ^^^ data, l.side ^^^ side⟩

/-- ERROR_INJECTION (R353): the masks are applied to the stored bits, and copies of the line go; a request that names a copy the line does not have is refused. -/
def execErrorInjection (part pa : Nat) (side : Word) (data : BitVec 512) (first second : Bool) (s : State) : Result :=
  .next (
    let line := (s.partBase part + pa) / 64
    let refuse := s.modOut fun o => { o with reports := o.reports ++ [.injectionRefused] }
    if pa % 64 ≠ 0 ∨ s.partSize ≤ pa ∨ 4 ≤ part * s.dies then refuse
    else if s.ownCode line = 12 then
      if !first && !second then refuse
      else
        let st := if first then s.store.put1 line ((s.store.bits1 line).flip side.toNat data.toNat) else s.store
        { s with store := if second then st.put2 line ((s.store.bits2 line).flip side.toNat data.toNat) else st }.dropReplicas line
    else if second || !first then refuse
    else { s with store := s.store.put1 line ((s.store.bits1 line).flip side.toNat data.toNat) }.dropReplicas line)

/-- TLB_ENTRY_DROP (R330): a TLB drops a cached entry of its own accord. -/
def execTlbEntryDrop (entry : Nat) (s : State) : Result :=
  .next { s with caches := { s.caches with tlb := s.caches.tlb.eraseIdx entry } }

end Sys2Proof.Machine
end

