-- ==== Sys2Proof/Machine/HostPort.lean ====
section
/-! DEFINITION. The launch pages, the host port, the network port, boot, attestation and power (R135, R282, R354, R366 to R377). -/

namespace Sys2Proof.Machine

/-! ## Launch pages (R367 to R370) -/

/-- The words of entry i of a launch page's records, and whether one is uncorrectable. -/
def State.pageRecord (s : State) (c i : Nat) : List Word × Bool :=
  let rs := (List.range 16).map fun k => s.readPhys (s.launchPage c + 4096 + 128 * i + 8 * k) 8
  (rs.map fun r => BitVec.ofNat 64 r.1, rs.any (·.2))

/-- The harbourmaster takes the next entry of a resident context's launch page: the record is checked, an uncorrectable one recorded (R43), its status is
written, TAKEN advances, and the host is signalled when NS = 1 (R368). -/
def State.takeEntry (s : State) (c : Nat) : State :=
  let submit := s.pageWord c 0
  let taken := s.pageWord c 1
  if (s.ctx? c).isNone ∨ submit = taken then s
  else
    let i := taken.toNat % 32
    let rec_ := s.pageRecord c i
    let r := (if rec_.2 then s.record (s.launchPage c + 4096 + 128 * i) 5 else s).submit c rec_.1 rec_.2
    let s := r.1.writePhys noWave (r.1.launchPage c + 256 + 8 * i) 8 r.2
    let s := s.setPageWord c 1 (taken + 1)
    if bitAt (s.pageWord c 2).toNat 63 then s.signalPage c else s

/-- LAUNCH_PAGE_TAKE (R368). -/
def execLaunchPageTake (ctx : Nat) (s : State) : Result := .next (s.byHm ctx (s.takeEntry ctx))

/-- A request of a launch page that has not been acted on: OP, CODE, REQVA and REQSEQ; OP 0 stands for one that is refused whatever it asks (R370). -/
def State.request (s : State) (c : Nat) : Option (Nat × Nat × Nat × Word) :=
  let q := s.pageWord c 10
  if 64 ≤ c ∨ q = s.pageWord c 11 then none
  else
    let w := (s.pageWord c 8).toNat
    let op := bits w 56 8
    some (if bits w 0 52 ≠ 0 ∨ 3 < op then 0 else op, bits w 52 4, (s.pageWord c 9).toNat, q)

/-- Answers a request: REQRES, then REQACK, as one release at system scope (R370). -/
def State.ackRequest (s : State) (c : Nat) (res : Word) (seq : Word) : State :=
  (s.fenceHost.setPageWord c 12 res).setPageWord c 11 seq

/-- PREEMPT_REQUEST (R370): OP 1, which changes nothing of a context already pre-empted, and any request that is refused as malformed. -/
def State.preemptRequest (s : State) (c : Nat) : State :=
  match s.request c with
  | none => s
  | some (op, _, _, q) =>
    if op = 0 then s.ackRequest c 1 q
    else if op = 1 then
      match s.ctx? c with
      | none => s.ackRequest c 1 q
      | some x => (if x.preempted then s else s.preempt c).ackRequest c 0 q
    else s

/-- PREEMPT_REQUEST (R370). -/
def execPreemptRequest (ctx : Nat) (s : State) : Result := .next (s.byHm ctx (s.preemptRequest ctx))

/-- The unit that takes an image: a near image's own, else the core asked for where it can, else the lowest far core that can (R360). -/
def State.imageUnit (s : State) (c : Nat) (img : CoreImage) (unit : Nat) : Option Nat :=
  if 256 ≤ img.unit then (if s.placeable c img img.unit then some img.unit else none)
  else if s.placeable c img unit then some unit
  else (List.range 256).find? (s.placeable c img)

/-- Restores a list of images, by id; none when one finds no room. -/
def State.restoreAll (s : State) (c unit : Nat) : List Nat → Option State
  | [] => some s
  | i :: r =>
    match (s.ctx? c).bind fun x => x.images.find? (·.id == i) with
    | none => none
    | some img => (s.imageUnit c img unit).bind fun u => State.restoreAll (s.restore c i u) c unit r

/-- RESTORE_REQUEST (R370): OP 2 is done once every image of the context stands on a unit, and is refused when there is none. It waits while the save is
not complete or an image finds no room. -/
def State.restoreRequest (s : State) (c unit : Nat) : State :=
  match s.request c with
  | none => s
  | some (op, _, _, q) =>
    if op = 0 then s.ackRequest c 1 q
    else if op ≠ 2 then s
    else match s.ctx? c with
      | none => s.ackRequest c 1 q
      | some x =>
        if x.hang.isSome || (x.frozen && s.waves.any (Wave.ofCtx c)) then s
        else if x.images.isEmpty then s.ackRequest c 1 q
        else match s.restoreAll c unit (x.images.map (·.id)) with
          | none => s
          | some s => s.ackRequest c 0 q

/-- RESTORE_REQUEST (R370). -/
def execRestoreRequest (ctx unit : Nat) (s : State) : Result := .next (s.byHm ctx (s.restoreRequest ctx unit))

/-- RELAYOUT_REQUEST (R342, R370): refused when R342 refuses the pair or REQVA does not translate to device memory; it waits for a free entry. -/
def State.relayoutRequest (s : State) (c : Nat) : State :=
  match s.request c with
  | none => s
  | some (op, code, va, q) =>
    if op = 0 then s.ackRequest c 1 q
    else if op ≠ 3 then s
    else match s.leafOf c va with
      | none => s.ackRequest c 1 q
      | some (level, place, e) =>
        if pteBit e 58 || !relayoutPair (pte e 52 4) code then s.ackRequest c 1 q
        else match s.startRelayout c level va place code e with
          | none => s
          | some s => s.ackRequest c 0 q

/-- RELAYOUT_REQUEST (R342, R370). -/
def execRelayoutRequest (ctx : Nat) (s : State) : Result := .next (s.byHm ctx (s.relayoutRequest ctx))

/-! ## The host port (R135, R282, R366, R374) -/

/-- The place that a host address of a partition reaches for n bytes: before the hand-over only the staging window of 256 MiB (R366, R374). -/
def State.hostPlace (s : State) (part pa n : Nat) : Option Nat :=
  if s.out.booted then
    if part * s.dies < 4 ∧ pa + n ≤ s.partSize then some (s.partBase part + pa) else none
  else if part = 0 ∧ pa + n ≤ 2 ^ 28 then some pa else none

/-- The host's own copies of lines that it writes go. -/
def State.dropHostLines (s : State) (line n : Nat) : State :=
  s.modOut fun o => { o with hostLines := o.hostLines.filter fun l => !(decide (line ≤ l.1) && decide (l.1 < line + n)) }

/-- Bytes written at their homes by physical place, each line once (R97, R151). -/
def State.portWrite (s : State) (place : Nat) (bs : List Byte) : State :=
  s.homeWrites noWave ((linePieces place bs.length).map fun p =>
    let x := ofBytes ((bs.drop (p.1 - place)).take p.2)
    ⟨p.1 / 64, byteMask (p.1 % 64) p.2, x <<< (8 * (p.1 % 64)), s.ownCode (p.1 / 64)⟩)

/-- A host write, in posted order at the homes (R135). -/
def State.hostWrite (s : State) (part pa : Nat) (data : List Byte) : State :=
  match s.hostPlace part pa data.length with
  | none => s
  | some at_ => (s.dropHostLines (at_ / 64) ((at_ % 64 + data.length + 63) / 64)).portWrite at_ data

/-- The loader writes a block whole with scale 0x7F (R282). -/
def State.loaderBlock (s : State) (part pa : Nat) (data : List Byte) (code : Nat) : State :=
  match s.hostPlace part pa data.length with
  | none => s
  | some at_ =>
    let o := at_ % 65536
    if code < 6 ∨ 10 < code ∨ data.length ≠ b128Bytes code ∨ o % b128Bytes code ≠ 0 ∨ b128Blocks code ≤ o / b128Bytes code then s
    else (s.dropHostLines (at_ / 64) ((at_ % 64 + data.length + 63) / 64)).writeBlock noWave at_ code (ofBytes data) 127

/-- The byte a host read sees: from the host's own copy of the line, else from the home. -/
def State.hostByte (s : State) (at_ : Nat) : Byte :=
  match s.out.hostLines.find? (·.1 == at_ / 64) with
  | some l => BitVec.ofNat 8 (l.2 >>> (8 * (at_ % 64)))
  | none => BitVec.ofNat 8 (s.readPhys at_ 1).1

/-- A host read: the value at the home, or of a copy that the host holds (R135); a cached read leaves copies of the lines it reaches. -/
def State.hostRead (s : State) (part pa len : Nat) (cached : Bool) : State :=
  match s.hostPlace part pa len with
  | none => s
  | some at_ =>
    let bs := (List.range len).map fun i => s.hostByte (at_ + i)
    let ls := if cached then (linePieces at_ len).map fun p => p.1 / 64 else []
    let new := (ls.filter fun l => !s.out.hostLines.any (·.1 == l)).map fun l => (l, (s.readPhys (64 * l) 64).1)
    s.modOut fun o => { o with hostData := bs, hostLines := o.hostLines ++ new }

/-! ## BAR0 and the boot mailbox (R366, R374; log entry 80) -/

/-- A report on the management port. -/
def State.manage (s : State) (r : MgmtReport) : State := s.modOut fun o => { o with reports := o.reports ++ [r] }

/-- Sets BOOTSTAT and signals BOOTVEC where it changes (R374). -/
def State.bootStat (s : State) (x : Word) : State :=
  if s.out.bootStat = x then s else (s.modOut fun o => { o with bootStat := x }).sendMsix 0 s.out.bootVec.toNat

/-- The boot ROM refuses an image for a cause, and reports it (R373, R374). -/
def State.bootRefuse (s : State) (cause : Nat) : State := (s.bootStat (BitVec.ofNat 64 (cause * 256 + 3))).manage (.bootFailed cause)

/-- The verification of an image of some length at the start of the staging window begins, or a length out of range is refused (R374). -/
def State.verifyImage (s : State) (n : Nat) : State :=
  if n = 0 ∨ 2 ^ 28 < n then s.bootRefuse 3 else (s.modOut fun o => { o with imageLen := n }).bootStat 1

/-- GO (R374): the image of length BOOTLEN is verified, unless one is being verified. -/
def State.bootGo (s : State) : State :=
  if s.out.booted || s.out.bootStat == 1 then s else s.verifyImage s.out.bootLen.toNat

/-- Does the port present function f: the boot function before the hand-over, afterwards one for each partition (R366, R374)? -/
def State.hasFunction (s : State) (f : Nat) : Bool := if s.out.booted then decide (f * s.dies < 4) else f == 0

/-- Word k of BAR0 of a function: the MSI-X table, its pending-bit array and, in the boot function, the mailbox; other words read as zero. -/
def State.bar0 (s : State) (f k : Nat) : Word :=
  if k < 4096 then s.out.msixWord f k
  else if k < 4128 then BitVec.ofNat 64 (maskOf ((s.out.pending.filter fun p => p.1 == f && p.2 / 64 == k - 4096).map fun p => p.2 % 64))
  else if s.out.booted then 0
  else match k with
    | 7680 => s.out.bootLen
    | 7681 => s.out.bootCmd.setWidth 64
    | 7682 => s.out.bootStat
    | 7683 => s.out.bootVec.setWidth 64
    | _ => 0

/-- Writes word k of BAR0: the table, which may unmask a vector held pending, or in the boot function BOOTLEN, BOOTCMD or BOOTVEC; other writes are
discarded. -/
def State.putBar0 (s : State) (f k : Nat) (x : Word) : State :=
  if k < 4096 then (s.modOut fun o => o.setMsix f k x).sendPending
  else if s.out.booted then s
  else match k with
    | 7680 => s.modOut fun o => { o with bootLen := x }
    | 7681 => let t := s.modOut fun o => { o with bootCmd := x.setWidth 1 }; if x.getLsbD 0 then t.bootGo else t
    | 7683 => s.modOut fun o => { o with bootVec := x.setWidth 11 }
    | _ => s

/-- Bytes written to BAR0 of a function, word by word in ascending order; those that do not reach GO write nothing of BOOTCMD. -/
def State.bar0Write (s : State) (f at_ : Nat) (bs : List Byte) : State :=
  if !s.hasFunction f || decide (65536 < at_ + bs.length) then s
  else ((List.range (bs.length / 8 + 2)).map (at_ / 8 + ·)).foldl (fun s k =>
    let lo := max at_ (8 * k)
    let hi := min (at_ + bs.length) (8 * k + 8)
    if hi ≤ lo ∨ (k = 7681 ∧ 8 * k < lo) then s
    else s.putBar0 f k (BitVec.ofNat 64 (putBits (s.bar0 f k).toNat (8 * (lo - 8 * k)) (8 * (hi - lo))
      (ofBytes ((bs.drop (lo - at_)).take (hi - lo)))))) s

/-- Bytes of BAR0 of a function; a function that the port does not present reads as zero. -/
def State.bar0Bytes (s : State) (f at_ n : Nat) : List Byte :=
  (List.range n).map fun i => if s.hasFunction f then BitVec.ofNat 8 ((s.bar0 f ((at_ + i) / 8)).toNat >>> (8 * ((at_ + i) % 8))) else 0

/-- A function's MSI-X is enabled, or disabled and masked as a whole (R295). -/
def State.msixEnable (s : State) (f : Nat) (on : Bool) : State :=
  if s.hasFunction f then
    (s.modOut fun o => { o with msixOn := if on then addOnce f o.msixOn else o.msixOn.filter (· != f) }).sendPending
  else s

/-- HOST_WRITE (R135): performed at the homes in posted order; the loader writes a block whole with scale 0x7F (R282); BAR0 and the function's MSI-X are
the port's own (R366). -/
def execHostWrite (part pa : Nat) (data : List Byte) (form : HostForm) (s : State) : Result :=
  .next (match form with
    | .bar0 => s.bar0Write part pa data
    | .msixEnable on => s.msixEnable part on
    | .plain => s.hostWrite part pa data
    | .loaderBlock c => s.loaderBlock part pa data c.toNat)

/-- HOST_READ (R135): the value at the home, or of a copy that the host holds; a cached read leaves copies of the lines it reaches. BAR0 is the port's
own (R366). -/
def execHostRead (part pa len : Nat) (how : HostRead) (s : State) : Result :=
  .next (match how with
    | .bar0 => s.modOut fun o => { o with hostData := s.bar0Bytes part pa len }
    | .plain => s.hostRead part pa len false
    | .cached => s.hostRead part pa len true)

/-- MSIX_VECTOR_UNMASK (R295): the mask bit of the vector's entry is cleared, and a message held pending for it is sent once it may be. -/
def execMsixVectorUnmask (fn : Nat) (vec : BitVec 11) (s : State) : Result :=
  .next (
    let k := 2 * vec.toNat + 1
    (s.modOut fun o => o.setMsix fn k (o.msixWord fn k &&& ~~~0x100000000)).sendPending)

/-! ## The network port (R337, R371, R372) -/

/-- The targets of a Juwin write, or the cause that drops it: a write through a replicated leaf with WREPL = 1 goes to the home (R337), which the network port reaches
from the partition's first die (R354; log entry 20). -/
def State.juwinTargets (s : State) (ctx : Nat) : List (Nat × Nat) → State × Except Nat (List (Target × Nat))
  | [] => (s, .ok [])
  | (va, n) :: r =>
    if 2 ^ 48 ≤ va then (s, .error 0x05)
    else if statusBase ≤ va then (s, .error 0x04)
    else if unwalkedBase ≤ va then (s, .error 0x05)
    else
      let a := s.translate netTlb ctx va .w
      let res : Except Nat Target := match a.2 with
        | .ok t => if t.space = .wide then .error 0x04 else .ok t
        | .missing => .error 0x05
        | .badLayout => .error 0x0B
        | .ue => .error 0x15
        | .access => .error 0x04
        | .writeProtect =>
          match (a.1.walk netTlb ctx va).2 with
          | .leaf level e => .ok (a.1.leafTarget ctx level e va)
          | _ => .error 0x04
      match res with
      | .error c => (a.1, .error c)
      | .ok t =>
        if a.1.cutOff (a.1.hmDie ctx) n t then (a.1, .error 0x15) else
        let b := State.juwinTargets a.1 ctx r
        (b.1, b.2.map fun ts => (t, n) :: ts)

/-- A connection is made: it is bound to one context of one partition, and its sequence starts at 0 (R372; log entry 82). -/
def State.connect (s : State) (conn part ctx : Nat) : State :=
  s.modOut fun o => { o with conns := ⟨conn, part, ctx, 0⟩ :: o.conns.filter (·.conn != conn) }

/-- A Juwin write that faults is dropped, and reported to its sender and on the management port (R372). -/
def State.juwinFault (s : State) (conn cause : Nat) : State :=
  (s.modOut fun o => { o with nacks := o.nacks ++ [(conn, cause)] }).manage (.juwinFault conn cause)

/-- The write of a packet for a context (R372): performed at its homes, or dropped for a cause. -/
def State.juwinWrite (s : State) (c : Conn) (addr : Nat) (data : List Byte) : State :=
  if !s.slotIn c.part c.ctx then s.juwinFault c.conn 0x04
  else
    let r := s.juwinTargets c.ctx (linePieces addr data.length)
    match r.2 with
    | .error e => r.1.juwinFault c.conn e
    | .ok ts => ts.foldl (fun s t => (s.writeAt noWave t.1 t.2 (ofBytes ((data.drop (t.1.va - addr)).take t.2))).1) r.1

/-- JUWIN_PACKET (R371, R372): a packet of no connection, one that fails its CRC or one out of sequence is dropped; the others are performed at their
homes in sequence, so that a release flag finds every earlier packet performed. -/
def execJuwinPacket (p : Packet) (s : State) : Result :=
  .next (match s.out.conns.find? (·.conn == p.conn) with
    | none => s
    | some c =>
      if !p.crcOk || p.seq != c.next then s
      else (s.modOut fun o => { o with conns := mapWhere (·.conn == p.conn) (fun c => { c with next := p.seq + 1 }) o.conns }).juwinWrite
        c p.addr.toNat p.data)

/-! ## Links, boot, attestation, power (R354, R373 to R377) -/

/-- LINK_RETRAIN (R354): a link that fails to retrain is reported, and accesses that need it fault. -/
def execLinkRetrain (link : Nat) (ok : Bool) (s : State) : Result :=
  .next (if ok then s.modOut fun o => { o with linksDown := o.linksDown.filter (· != link) }
    else (s.modOut fun o => { o with linksDown := addOnce link o.linksDown }).manage (.linkFailed link))

/-- RESET (R373, R377): the device is as after every reset; what is outside it, the host's memory and the messages and reports that have been sent, stays. -/
def execReset (s : State) : Result :=
  .next { State.reset with
    out := { Outside.reset with
      hostMem := s.out.hostMem
      sent := s.out.sent
      hostData := s.out.hostData
      nacks := s.out.nacks
      reports := s.out.reports }
    fresh := s.fresh
    agenda := s.agenda }

/-- BOOTCMD_GO (R374): the host writes BOOTLEN and then GO. -/
def execBootcmdGo (length : Word) (s : State) : Result :=
  .next (if s.out.booted then s else (s.modOut fun o => { o with bootLen := length, bootCmd := 1 }).bootGo)

/-- An image fetched over the management port is placed where the host would write it, and verified (R373, R374). -/
def State.mgmtFetch (s : State) (image : List Byte) : State :=
  if s.out.booted || s.out.bootStat == 1 then s
  else (s.portWrite 0 (image.take (2 ^ 28))).verifyImage image.length

/-- A digest as bytes. -/
def digestBytes (d : BitVec 256) : List Byte := toBytes 32 d.toNat

/-- The measurement register extended by the digest of the staged image (R373). -/
def State.measured (s : State) : BitVec 256 :=
  Config.sm3 (digestBytes s.out.measure ++ digestBytes (Config.sm3 (s.readPhysBytes 0 s.out.imageLen)))

/-- The host port is handed over to the functions of the partitioning that an image sets, and harbourmaster core 0 starts at its entry (R373, R374); the boot
function's table goes with it. -/
def State.handOver (s : State) (mode : BitVec 2) (entry : Nat) : State :=
  ((s.bootStat 2).modOut fun o =>
    { o with booted := true, mode := mode, msix := [], msixOn := [], pending := [], hostLines := [] }).modWave 9216 fun w =>
      { w with pc := BitVec.ofNat 64 entry, run := .running, ready := s.time }

/-- BOOT_VERIFY_DONE (R373, R374; log entry 81): the staged image is measured; one whose signature does not verify under a key of the fused hash, or that sets the MODE that is never
written (R302), is refused with cause 1, one older than the fused version with cause 2, and any other is handed over to. -/
def execBootVerifyDone (key : List Byte) (s : State) : Result :=
  .next (
    if s.out.booted || s.out.bootStat != 1 then s
    else
      let image := s.readPhysBytes 0 s.out.imageLen
      let m := s.measured
      let s := s.modOut fun o => { o with measure := m }
      let signed := Config.sm3 key == Config.fusedKey && Config.imageSigned key (Config.sm3 image) image
      if !signed || Config.imageMode image == 3 then s.bootRefuse 1
      else if Config.imageVersion image < Config.fusedVersion then s.bootRefuse 2
      else s.handOver (Config.imageMode image) (Config.imageEntry image))

/-- ATTESTATION (R375): nonce, measurement, PARTCFG and the fused version, with their signature. -/
def execAttestation (nonce : BitVec 256) (s : State) : Result :=
  .next (
    let body := digestBytes nonce ++ digestBytes s.out.measure ++ toBytes 8 s.out.mode.toNat ++ toBytes 8 Config.fusedVersion
    s.manage (.attestation (body ++ Config.sm2 body)))

/-- THROTTLE (R376): far cores and quay units withhold issue in so many sixteenths of their clocks (`State.withheld`). -/
def execThrottle (sixteenths : BitVec 4) (s : State) : Result := .next (s.modOut fun o => { o with throttle := sixteenths })

/-- THERMAL_SHUTDOWN (R376): the module stops and reports; no work in flight is preserved. -/
def execThermalShutdown (s : State) : Result :=
  .next (
    let s := s.dropWaves fun _ => true
    let s := s.modWaves (fun _ => true) fun w => { w with run := .halted, flights := [], tx := Tx.zero }
    ({ s with cores := [], crews := [], berths := [], ctxs := [], subs := [], out := { s.out with stopped := true } }).manage .thermal)

/-- A word that is no instruction (R173, R174). -/
def execIllegal (w : Word) (s : State) : Result := s.perform (.illegal w) id

end Sys2Proof.Machine
end

