-- ==== Sys2Proof/Machine/Dispatch.lean ====
section
/-! DEFINITION. The meaning of every instruction and of every other step of the device: one arm for each row of the opcode table. -/

namespace Sys2Proof.Machine

/-- The outcome of one instruction or step. -/
def exec (i : Instr) (s : State) : Host.Outcome State Fault Refusal :=
  match i with
  | .nop c => Sys2Proof.Machine.execNop c s
  | .br c cond off => Sys2Proof.Machine.execBr c cond off s
  | .call c link off => Sys2Proof.Machine.execCall c link off s
  | .lea c d off => Sys2Proof.Machine.execLea c d off s
  | .jr c a => Sys2Proof.Machine.execJr c a s
  | .jalr c d a => Sys2Proof.Machine.execJalr c d a s
  | .loop c lc1 count off => Sys2Proof.Machine.execLoop c lc1 count off s
  | .li c d imm => Sys2Proof.Machine.execLi c d imm s
  | .lih c d imm => Sys2Proof.Machine.execLih c d imm s
  | .mulh c t d a b => Sys2Proof.Machine.execMulh c t d a b s
  | .csel c d a b k => Sys2Proof.Machine.execCsel c d a b k s
  | .add c t d a b => Sys2Proof.Machine.execAdd c t d a b s
  | .addImm c t d a imm => Sys2Proof.Machine.execAddImm c t d a imm s
  | .sub c t d a b => Sys2Proof.Machine.execSub c t d a b s
  | .mul c t d a b => Sys2Proof.Machine.execMul c t d a b s
  | .mulImm c t d a imm => Sys2Proof.Machine.execMulImm c t d a imm s
  | .mad c t d a b x => Sys2Proof.Machine.execMad c t d a b x s
  | .mov c d a => Sys2Proof.Machine.execMov c d a s
  | .and c t d a b => Sys2Proof.Machine.execAnd c t d a b s
  | .andImm c t d a imm => Sys2Proof.Machine.execAndImm c t d a imm s
  | .or c t d a b => Sys2Proof.Machine.execOr c t d a b s
  | .orImm c t d a imm => Sys2Proof.Machine.execOrImm c t d a imm s
  | .xor c t d a b => Sys2Proof.Machine.execXor c t d a b s
  | .xorImm c t d a imm => Sys2Proof.Machine.execXorImm c t d a imm s
  | .not c t d a => Sys2Proof.Machine.execNot c t d a s
  | .shl c t d a b => Sys2Proof.Machine.execShl c t d a b s
  | .shlImm c t d a imm => Sys2Proof.Machine.execShlImm c t d a imm s
  | .lsr c t d a b => Sys2Proof.Machine.execLsr c t d a b s
  | .lsrImm c t d a imm => Sys2Proof.Machine.execLsrImm c t d a imm s
  | .asr c t d a b => Sys2Proof.Machine.execAsr c t d a b s
  | .asrImm c t d a imm => Sys2Proof.Machine.execAsrImm c t d a imm s
  | .min c t d a b => Sys2Proof.Machine.execMin c t d a b s
  | .max c t d a b => Sys2Proof.Machine.execMax c t d a b s
  | .cmp c cc t d a b => Sys2Proof.Machine.execCmp c cc t d a b s
  | .cmpImm c cc t d a imm => Sys2Proof.Machine.execCmpImm c cc t d a imm s
  | .bfx c t d a pos len => Sys2Proof.Machine.execBfx c t d a pos len s
  | .bfi c t d a pos len => Sys2Proof.Machine.execBfi c t d a pos len s
  | .popc c t d a => Sys2Proof.Machine.execPopc c t d a s
  | .clz c t d a => Sys2Proof.Machine.execClz c t d a s
  | .perm c m d a b => Sys2Proof.Machine.execPerm c m d a b s
  | .red c op t d a => Sys2Proof.Machine.execRed c op t d a s
  | .gaddr c d a b x => Sys2Proof.Machine.execGaddr c d a b x s
  | .addFloat c t rm d a b g => Sys2Proof.Machine.execAddFloat c t rm d a b g s
  | .subFloat c t rm d a b g => Sys2Proof.Machine.execSubFloat c t rm d a b g s
  | .mulFloat c t rm d a b g => Sys2Proof.Machine.execMulFloat c t rm d a b g s
  | .fma c t rm d a b x => Sys2Proof.Machine.execFma c t rm d a b x s
  | .fms c t rm d a b x => Sys2Proof.Machine.execFms c t rm d a b x s
  | .minFloat c t d a b => Sys2Proof.Machine.execMinFloat c t d a b s
  | .maxFloat c t d a b => Sys2Proof.Machine.execMaxFloat c t d a b s
  | .abs c t d a => Sys2Proof.Machine.execAbs c t d a s
  | .neg c t d a => Sys2Proof.Machine.execNeg c t d a s
  | .div c t rm d a b g => Sys2Proof.Machine.execDiv c t rm d a b g s
  | .sqrt c t rm d a g => Sys2Proof.Machine.execSqrt c t rm d a g s
  | .rcp c t d a => Sys2Proof.Machine.execRcp c t d a s
  | .rsqrt c t d a => Sys2Proof.Machine.execRsqrt c t d a s
  | .exp2 c t d a => Sys2Proof.Machine.execExp2 c t d a s
  | .log2 c t d a => Sys2Proof.Machine.execLog2 c t d a s
  | .sin c t d a => Sys2Proof.Machine.execSin c t d a s
  | .cos c t d a => Sys2Proof.Machine.execCos c t d a s
  | .tanh c t d a => Sys2Proof.Machine.execTanh c t d a s
  | .cvt c dt st rm d a g => Sys2Proof.Machine.execCvt c dt st rm d a g s
  | .bq c t d a => Sys2Proof.Machine.execBq c t d a s
  | .bdq c t et rm d a b => Sys2Proof.Machine.execBdq c t et rm d a b s
  | .cbq c tab d a b => Sys2Proof.Machine.execCbq c tab d a b s
  | .cbl c tab d a b => Sys2Proof.Machine.execCbl c tab d a b s
  | .rnd128 c d a b => Sys2Proof.Machine.execRnd128 c d a b s
  | .flget c d => Sys2Proof.Machine.execFlget c d s
  | .flclr c m => Sys2Proof.Machine.execFlclr c m s
  | .fclass c t d a => Sys2Proof.Machine.execFclass c t d a s
  | .frnd c t rm d a g => Sys2Proof.Machine.execFrnd c t rm d a g s
  | .ldG c t o d m => Sys2Proof.Machine.execLdG c t o d m s
  | .stG c t o d m => Sys2Proof.Machine.execStG c t o d m s
  | .ldS c t o d m => Sys2Proof.Machine.execLdS c t o d m s
  | .stS c t o d m => Sys2Proof.Machine.execStS c t o d m s
  | .pfG c m => Sys2Proof.Machine.execPfG c m s
  | .atomAdd c scr t o d m => Sys2Proof.Machine.execAtomAdd c scr t o d m s
  | .atomMin c scr t o d m => Sys2Proof.Machine.execAtomMin c scr t o d m s
  | .atomMax c scr t o d m => Sys2Proof.Machine.execAtomMax c scr t o d m s
  | .atomAnd c scr t o d m => Sys2Proof.Machine.execAtomAnd c scr t o d m s
  | .atomOr c scr t o d m => Sys2Proof.Machine.execAtomOr c scr t o d m s
  | .atomXor c scr t o d m => Sys2Proof.Machine.execAtomXor c scr t o d m s
  | .atomXchg c scr t o d m => Sys2Proof.Machine.execAtomXchg c scr t o d m s
  | .atomCas c scr t o d m => Sys2Proof.Machine.execAtomCas c scr t o d m s
  | .fence c k sc => Sys2Proof.Machine.execFence c k sc s
  | .ldf c t d m => Sys2Proof.Machine.execLdf c t d m s
  | .ldfc c t d m => Sys2Proof.Machine.execLdfc c t d m s
  | .stf c t d m => Sys2Proof.Machine.execStf c t d m s
  | .feset c a n => Sys2Proof.Machine.execFeset c a n s
  | .feclr c a n => Sys2Proof.Machine.execFeclr c a n s
  | .discard c a n => Sys2Proof.Machine.execDiscard c a n s
  | .xbegin c off => Sys2Proof.Machine.execXbegin c off s
  | .xend c => Sys2Proof.Machine.execXend c s
  | .retry c => Sys2Proof.Machine.execRetry c s
  | .otherwise c off => Sys2Proof.Machine.execOtherwise c off s
  | .xabort c imm => Sys2Proof.Machine.execXabort c imm s
  | .xstat c d => Sys2Proof.Machine.execXstat c d s
  | .spawn c d q => Sys2Proof.Machine.execSpawn c d q s
  | .tret c => Sys2Proof.Machine.execTret c s
  | .progress c => Sys2Proof.Machine.execProgress c s
  | .evset c e => Sys2Proof.Machine.execEvset c e s
  | .evclr c e => Sys2Proof.Machine.execEvclr c e s
  | .launch c d a => Sys2Proof.Machine.execLaunch c d a s
  | .mxc c q => Sys2Proof.Machine.execMxc c q s
  | .cpc c q => Sys2Proof.Machine.execCpc c q s
  | .ctld c a sorted n => Sys2Proof.Machine.execCtld c a sorted n s
  | .ctswap c mask => Sys2Proof.Machine.execCtswap c mask s
  | .chartld c a n => Sys2Proof.Machine.execChartld c a n s
  | .accrd c d index bank => Sys2Proof.Machine.execAccrd c d index bank s
  | .accwr c index bank data => Sys2Proof.Machine.execAccwr c index bank data s
  | .trap c imm => Sys2Proof.Machine.execTrap c imm s
  | .eret c => Sys2Proof.Machine.execEret c s
  | .srr c d reg => Sys2Proof.Machine.execSrr c d reg s
  | .srw c reg a => Sys2Proof.Machine.execSrw c reg a s
  | .tlbi c a b => Sys2Proof.Machine.execTlbi c a b s
  | .tlbsync c => Sys2Proof.Machine.execTlbsync c s
  | .sighost c a => Sys2Proof.Machine.execSighost c a s
  | .halt c => Sys2Proof.Machine.execHalt c s
  | .illegal w => Sys2Proof.Machine.execIllegal w s
  | .slotCompletion gwn flight => Sys2Proof.Machine.execSlotCompletion gwn flight s
  | .storePerformedAtHome gwn flight line => Sys2Proof.Machine.execStorePerformedAtHome gwn flight line s
  | .atomicAtHome gwn flight line => Sys2Proof.Machine.execAtomicAtHome gwn flight line s
  | .wakeRestart gwn => Sys2Proof.Machine.execWakeRestart gwn s
  | .backoffExpiry gwn => Sys2Proof.Machine.execBackoffExpiry gwn s
  | .feReexecute gwn => Sys2Proof.Machine.execFeReexecute gwn s
  | .faultQueueEntryWrite part => Sys2Proof.Machine.execFaultQueueEntryWrite part s
  | .matrixMma core => Sys2Proof.Machine.execMatrixMma core s
  | .matrixMmaz core => Sys2Proof.Machine.execMatrixMmaz core s
  | .matrixZero core => Sys2Proof.Machine.execMatrixZero core s
  | .matrixKstep core => Sys2Proof.Machine.execMatrixKstep core s
  | .lighterStart core cmd => Sys2Proof.Machine.execLighterStart core cmd s
  | .lighterTurn core => Sys2Proof.Machine.execLighterTurn core s
  | .convNone core cmd => Sys2Proof.Machine.execConvNone core cmd s
  | .convElementwise core cmd => Sys2Proof.Machine.execConvElementwise core cmd s
  | .expandBf16 core cmd => Sys2Proof.Machine.execExpandBf16 core cmd s
  | .expandF32 core cmd => Sys2Proof.Machine.execExpandF32 core cmd s
  | .packIn core cmd => Sys2Proof.Machine.execPackIn core cmd s
  | .packOut core cmd => Sys2Proof.Machine.execPackOut core cmd s
  | .quantBf16 core cmd => Sys2Proof.Machine.execQuantBf16 core cmd s
  | .quantF32 core cmd => Sys2Proof.Machine.execQuantF32 core cmd s
  | .requantBf16 core cmd => Sys2Proof.Machine.execRequantBf16 core cmd s
  | .launchCheck part => Sys2Proof.Machine.execLaunchCheck part s
  | .berthCycle turn => Sys2Proof.Machine.execBerthCycle turn s
  | .statusLineRewrite berth => Sys2Proof.Machine.execStatusLineRewrite berth s
  | .taskPriorityAge berth record => Sys2Proof.Machine.execTaskPriorityAge berth record s
  | .pilotSend core => Sys2Proof.Machine.execPilotSend core s
  | .remoteWaitExpiry core => Sys2Proof.Machine.execRemoteWaitExpiry core s
  | .crewStart unit crew => Sys2Proof.Machine.execCrewStart unit crew s
  | .wavePriorityAge gwn => Sys2Proof.Machine.execWavePriorityAge gwn s
  | .manifestWrite ctx launch => Sys2Proof.Machine.execManifestWrite ctx launch s
  | .manifestRetry ctx launch => Sys2Proof.Machine.execManifestRetry ctx launch s
  | .watchdogHang gwn => Sys2Proof.Machine.execWatchdogHang gwn s
  | .shadowCompare berth record => Sys2Proof.Machine.execShadowCompare berth record s
  | .preempt ctx => Sys2Proof.Machine.execPreempt ctx s
  | .preemptImageWrite ctx place => Sys2Proof.Machine.execPreemptImageWrite ctx place s
  | .restore part slot image unit => Sys2Proof.Machine.execRestore part slot image unit s
  | .ctxload part slot => Sys2Proof.Machine.execCtxload part slot s
  | .ctxset part slot => Sys2Proof.Machine.execCtxset part slot s
  | .stealload part core => Sys2Proof.Machine.execStealload part core s
  | .ctxunload part slot => Sys2Proof.Machine.execCtxunload part slot s
  | .resume gwn => Sys2Proof.Machine.execResume gwn s
  | .fault gwn cause => Sys2Proof.Machine.execFault gwn cause s
  | .sysregWrite reg value => Sys2Proof.Machine.execSysregWrite reg value s
  | .writeProtectCollapse gwn frame table => Sys2Proof.Machine.execWriteProtectCollapse gwn frame table s
  | .reReplicate ctx va => Sys2Proof.Machine.execReReplicate ctx va s
  | .pinExpiry ctx va => Sys2Proof.Machine.execPinExpiry ctx va s
  | .migrationWindowReset ctx va => Sys2Proof.Machine.execMigrationWindowReset ctx va s
  | .relayoutReencode berth entry => Sys2Proof.Machine.execRelayoutReencode berth entry s
  | .memorySweep line => Sys2Proof.Machine.execMemorySweep line s
  | .l2Sweep line => Sys2Proof.Machine.execL2Sweep line s
  | .errorInjection part pa side data first second => Sys2Proof.Machine.execErrorInjection part pa side data first second s
  | .launchPageTake ctx => Sys2Proof.Machine.execLaunchPageTake ctx s
  | .preemptRequest ctx => Sys2Proof.Machine.execPreemptRequest ctx s
  | .restoreRequest ctx unit => Sys2Proof.Machine.execRestoreRequest ctx unit s
  | .relayoutRequest ctx => Sys2Proof.Machine.execRelayoutRequest ctx s
  | .hostWrite part pa data form => Sys2Proof.Machine.execHostWrite part pa data form s
  | .hostRead part pa len how => Sys2Proof.Machine.execHostRead part pa len how s
  | .juwinPacket p => Sys2Proof.Machine.execJuwinPacket p s
  | .linkRetrain link ok => Sys2Proof.Machine.execLinkRetrain link ok s
  | .reset => Sys2Proof.Machine.execReset s
  | .bootcmdGo length => Sys2Proof.Machine.execBootcmdGo length s
  | .bootVerifyDone key => Sys2Proof.Machine.execBootVerifyDone key s
  | .attestation nonce => Sys2Proof.Machine.execAttestation nonce s
  | .throttle sixteenths => Sys2Proof.Machine.execThrottle sixteenths s
  | .thermalShutdown => Sys2Proof.Machine.execThermalShutdown s
  | .msixVectorUnmask fn vec => Sys2Proof.Machine.execMsixVectorUnmask fn vec s
  | .tlbEntryDrop entry => Sys2Proof.Machine.execTlbEntryDrop entry s

end Sys2Proof.Machine
end

