-- ==== Sys2Proof/Machine/Parity.lean ====
section
/-! DEFINITION. Cells that fail: what makes stored state fail its parity or its SEC-DED check (R354, R355). What a failing place does when it is read is with the
operation that reads it. -/

namespace Sys2Proof.Machine

/-- A place of stored state fails from now on, until it is written again (R354, R355; log entry 77); a line that a base-die link delivers with errors stands at
its home as it arrived, and a read of it is classified as any other (R349, R354; log entry 94). -/
def State.upset (s : State) : Upset → State
  | .reg g r => s.modWave g fun w => { w with bad := addOnce r w.bad }
  | .scratch c k => s.modCrew c fun x => { x with bad := addOnce k x.bad }
  | .bank c k => s.setCore { s.core c with badBanks := addOnce k (s.core c).badBanks }
  | .table c k => s.setCore { s.core c with badTables := addOnce k (s.core c).badTables }
  | .chart c n => s.modCtx c fun x => if (x.chart? n).isSome then { x with badCharts := addOnce n x.badCharts } else x
  | .record b i => s.modRec b i fun r => { r with bad := true }
  | .line l data side => { s with store := s.store.put1 l ((s.store.bits1 l).flip side data) }

end Sys2Proof.Machine
end

