-- ==== Sys2Proof/Machine/Turn.lean ====
section
/-! DEFINITION. What moves next: the fetch and issue of one wave (R174), the clock of a scheduler (R312 to R315), the device's own steps, and the default
order when the agenda names none (log entries 1 and 2). -/

namespace Sys2Proof.Machine

/-! ## One issue -/

/-- The fetch has failed: the wave's decode cause, with PC and DETAIL equal to the fetch address (R64, R174). What stands before a decode cause of an
instruction stands before this one, and it waits as that does until every slot reads zero (DEDUCED, log entry 110). -/
def State.fetchFault (s : State) (cause sev : Nat) : State :=
  let w := s.me
  if w.hasDue then s.takeDue
  else if w.tx.depth ≠ 0 ∧ w.tx.doom = true then s.mapMe (Wave.conflictAbort s.time)
  else if w.slotsZero then s.raise cause sev w.pc
  else s

/-- The executing agent fetches its next instruction, and it issues. -/
def State.issue (s : State) : Result :=
  let r := s.fetch
  match r.2 with
  | .word x => exec (decode x) r.1
  | .fault cause sev => .next (r.1.fetchFault cause sev)

/-! ## What needs no issue (R143, R153, R243, R263) -/

/-- An instruction that had issued has acted: its issue is the one of then, and a branch or progress it makes counts from now (R18, R183, R314, R317). -/
def Wave.keepIssue (t : Nat) (w0 w : Wave) : Wave :=
  { w with
    issued := w0.issued
    age := w0.age
    ready := if w.ready = clocksOn w.gwn t 4 then w0.ready else w.ready
    watch := if w.watch = 0 then 0 else w0.watch }

/-- Is the word that the executing agent would issue next a `retry`? -/
def State.atRetry (s : State) : Bool :=
  match s.fetch.2 with
  | .word x => match decode x with
    | .retry _ => true
    | _ => false
  | _ => false

/-- A wave goes on with what it need not issue for: an instruction that has issued acts once it may (R143, R243, R295), reading its registers then (DEDUCED, log
entry 116); a fault or park of an engine command is taken at a boundary, and so is one that comes while an issued instruction still waits (R263, R269, R283;
DEDUCED, log entry 117); a doomed attempt aborts (R153). -/
def State.advance (s : State) (g : Nat) : Result :=
  let s1 := s.focus g
  let w := s1.me
  if w.gwn ≠ g ∨ s1.frozen w = true then .next s else
  match w.run with
  | .stalled i =>
    match exec i (s1.mapMe fun x => { x with run := .running }) with
    | .next t =>
      let u := if t.me.gwn = g then t.mapMe (Wave.keepIssue s.time w) else t
      .next (if u = s1 then s else u)
    | r => r
  | .running =>
    .next (if w.hasDue then s1.takeDue else if w.tx.depth != 0 && w.tx.doom && !s1.atRetry then s1.mapMe (Wave.conflictAbort s.time) else s)
  | _ => .next s

/-- May a wave go on without an issue? -/
def Wave.mayAdvance (w : Wave) : Bool :=
  match w.run with
  | .stalled _ => true
  | .running => w.hasDue || (w.tx.depth != 0 && w.tx.doom)
  | _ => false

/-! ## Schedulers (R312 to R315) -/

/-- Does a wave go before another at a scheduler (R315): by effective priority, then the earlier last issue, then the lower slot? -/
def Wave.before (a b : Wave) : Bool :=
  if a.effPrio ≠ b.effPrio then decide (b.effPrio < a.effPrio)
  else match a.issued, b.issued with
    | none, none => decide (a.gwn < b.gwn)
    | none, some _ => true
    | some _, none => false
    | some x, some y => decide (x < y) || (x == y && decide (a.gwn < b.gwn))

/-- Puts a wave in its place among ordered ones. -/
def insertWave (w : Wave) : List Wave → List Wave
  | [] => [w]
  | v :: r => if w.before v then w :: v :: r else v :: insertWave w r

/-- Waves in the order of a scheduler (R315). -/
def orderWaves (l : List Wave) : List Wave := l.foldr insertWave []

/-- The clock of a scheduler (R315): its first eligible wave issues, where the scheduler has a clock now and has not issued in it (R312, R376). -/
def State.clock (s : State) (unit sched : Nat) : Result :=
  if s.clocked.contains (unit, sched) || !s.ticks unit then .next s
  else
    let s := { s with clocked := (unit, sched) :: s.clocked }
    match orderWaves (s.waves.filter fun w => unitOf w.gwn == unit && schedOf w.gwn == sched && s.eligible w) with
    | [] => .next s
    | w :: _ => (s.focus w.gwn).issue

/-- Time passes up to n clocks, every scheduler issuing at each clock at which one of its waves is eligible (R315): one scheduler's clock, or the clocks in which
none issues. What is left stays on the agenda. -/
def State.passTime (s : State) (n : Nat) : Result :=
  let rest (t : State) (m : Nat) : State := if m = 0 then t else { t with agenda := .pass m :: t.agenda }
  match s.owing with
  | p :: _ =>
    match s.clock p.1 p.2 with
    | .next t => .next (rest t n)
    | r => r
  | [] =>
    let d := if s.waves.any s.eligible then min n 1 else min n ((s.nextReady.map (· - s.time)).getD n)
    .next (rest (s.elapse d) (n - d))

/-! ## Actions -/

/-- Is it one of the device's own steps, and no instruction word's meaning? -/
def deviceStep : Instr → Bool
  | .slotCompletion .. | .storePerformedAtHome .. | .atomicAtHome .. | .wakeRestart .. | .backoffExpiry .. | .feReexecute ..
  | .faultQueueEntryWrite .. | .matrixMma .. | .matrixMmaz .. | .matrixZero .. | .matrixKstep .. | .lighterStart .. | .lighterTurn ..
  | .convNone .. | .convElementwise .. | .expandBf16 .. | .expandF32 .. | .packIn .. | .packOut .. | .quantBf16 .. | .quantF32 ..
  | .requantBf16 .. | .launchCheck .. | .berthCycle .. | .statusLineRewrite .. | .taskPriorityAge .. | .pilotSend ..
  | .remoteWaitExpiry .. | .crewStart .. | .wavePriorityAge .. | .manifestWrite .. | .manifestRetry .. | .watchdogHang ..
  | .shadowCompare .. | .preempt .. | .preemptImageWrite .. | .restore .. | .ctxload .. | .ctxset .. | .stealload .. | .ctxunload ..
  | .resume .. | .fault .. | .sysregWrite .. | .writeProtectCollapse .. | .reReplicate .. | .pinExpiry .. | .migrationWindowReset ..
  | .relayoutReencode .. | .memorySweep .. | .l2Sweep .. | .errorInjection .. | .launchPageTake .. | .preemptRequest ..
  | .restoreRequest .. | .relayoutRequest .. | .hostWrite .. | .hostRead .. | .juwinPacket .. | .linkRetrain .. | .reset
  | .bootcmdGo .. | .bootVerifyDone .. | .attestation .. | .throttle .. | .thermalShutdown | .msixVectorUnmask ..
  | .tlbEntryDrop .. => true
  | _ => false

/-- The host's copy of a line goes (R135). -/
def State.backInvalidate (s : State) (line : Nat) : State :=
  s.modOut fun o => { o with hostLines := o.hostLines.filter fun l => l.1 != line }

/-- Performs one action; an instruction word is no device step. -/
def State.act (s : State) : Action → Result
  | .clock u n => s.clock u n
  | .event i => if deviceStep i then exec i s else .next s
  | .pass n => s.passTime n
  | .lane g id lane => .next (s.doLane g id lane)
  | .advance g => s.advance g
  | .dropL1 core line => .next { s with caches := { s.caches with l1 := s.caches.l1.filter fun l => !(l.core == core && l.line == line) } }
  | .dropIc unit at_ => .next { s with caches := { s.caches with ic := s.caches.ic.filter fun c => !(c.unit == unit && c.at_ == at_) } }
  | .backInvalidate line => .next (s.backInvalidate line)
  | .upset p => .next (s.upset p)
  | .connect conn part ctx => .next (s.connect conn part ctx)
  | .mgmtFetch image => .next (s.mgmtFetch image)

/-! ## The default order (log entry 2) -/

/-- Where the default order has a context's image of a unit written (R359). -/
def State.imagePlace (s : State) (ctx unit : Nat) : Nat := s.partSize - 2 ^ 19 - 2 ^ 22 * (512 * (ctx % (16 * s.dies)) + unit + 1)

/-- The device steps that the default order takes as soon as they change anything. -/
def State.eager (s : State) : List Instr :=
  let ws := s.waves
  let cores := (s.cores.map (·.core)).eraseDups
  let ctxs := s.ctxs.map (·.slot)
  let waited (r : Run) : Bool := match r with
    | .backoff due => decide (due ≤ s.time)
    | _ => false
  List.flatten [
    ws.flatMap fun w => w.flights.map fun f => Instr.slotCompletion w.gwn f.id,
    ws.flatMap fun w => [Instr.wakeRestart w.gwn, Instr.feReexecute w.gwn, Instr.watchdogHang w.gwn],
    s.subs.map fun x => Instr.launchCheck (s.partOfCtx x.ctx),
    (s.ctxs.filter fun c => c.launches.any fun l => c.ready l || l.over).map fun c => Instr.launchCheck (s.partOfCtx c.slot),
    ctxs.flatMap fun c => [Instr.launchPageTake c, .preemptRequest c, .restoreRequest c 0, .relayoutRequest c],
    s.berths.map fun b => Instr.berthCycle ⟨b.n, true⟩,
    s.crews.map fun c => Instr.crewStart c.unit c.id,
    cores.flatMap fun k => (List.range 4).map (Instr.lighterStart k),
    s.berths.flatMap fun b => (b.recs.filter (·.primary.isSome)).map fun r => Instr.shadowCompare b.n r.id,
    s.ctxs.flatMap fun c => c.launches.map fun l => Instr.manifestWrite c.slot l.id,
    (List.range 4).map Instr.faultQueueEntryWrite,
    s.ctxs.flatMap fun c => if c.frozen then
        (0 :: s.crews.map (·.unit)).map fun u => Instr.preemptImageWrite c.slot ⟨u, s.imagePlace c.slot u⟩ else [],
    s.pilots.map fun p => Instr.pilotSend p.core,
    (ws.filter fun w => waited w.run).map fun w => Instr.backoffExpiry w.gwn,
    s.pilots.map fun p => Instr.remoteWaitExpiry p.core,
    s.berths.map fun b => Instr.statusLineRewrite b.n,
    s.berths.flatMap fun b => if b.relayouts.isEmpty then [] else [Instr.relayoutReencode b.n 0],
    s.migrations.flatMap fun m => [Instr.pinExpiry m.ctx m.va, .migrationWindowReset m.ctx m.va, .reReplicate m.ctx m.va]]

/-- The turns of the engines; which core's come first changes from clock to clock. -/
def State.engineTurns (s : State) : List Instr :=
  let cs := (s.cores.map (·.core)).eraseDups
  let k := s.time % max 1 cs.length
  (cs.drop k ++ cs.take k).flatMap fun k => [.lighterTurn k, .matrixKstep k]

/-- The times at which something that waits for time falls due. -/
def State.dues (s : State) : List Nat :=
  let backoffs := s.waves.filterMap fun w => match w.run with
    | .backoff due => some due
    | _ => none
  List.flatten [
    s.nextReady.toList, backoffs, s.pilots.flatMap fun p => [p.since + remoteWait, p.next], s.berths.filterMap fun b => b.statusTime.map (· + statusGap),
    s.migrations.flatMap fun m => (m.collapsed.map (· + 100 * usClocks)).toList ++ m.pinned.toList ++ [m.last + 64 * msClocks]]

/-- The state after the first of some device steps that changes the state. -/
def State.firstChange (s : State) : List Instr → Option State
  | [] => none
  | i :: r =>
    match exec i s with
    | .next t => if t = s then State.firstChange s r else some t
    | _ => State.firstChange s r

/-- The state after the first of some waves has gone on that can without an issue. -/
def State.firstAdvance (s : State) : List Wave → Option State
  | [] => none
  | w :: r =>
    match s.advance w.gwn with
    | .next t => if t = s then State.firstAdvance s r else some t
    | _ => State.firstAdvance s r

/-- A host copy that is older than its home's value. -/
def State.staleCopy (s : State) : Option Nat := (s.out.hostLines.find? fun l => l.2 != (s.readPhys (64 * l.1) 64).1).map (·.1)

/-- The default order: an old host copy goes; else a wave goes on that need not issue for it; else an eager step; else the clock of a scheduler that has yet to issue; else an engine's turn, which takes a
clock; else time passes to where something falls due. -/
def State.ownStep (s : State) : Result :=
  match s.staleCopy, (s.firstAdvance (s.waves.filter Wave.mayAdvance)).or (s.firstChange s.eager), s.owing with
  | some l, _, _ => .next (s.backInvalidate l)
  | none, some t, _ => .next t
  | none, none, p :: _ => s.clock p.1 p.2
  | none, none, [] =>
    match s.firstChange s.engineTurns with
    | some t => .next (if t.owing.isEmpty then t.elapse 1 else t)
    | none =>
      let d := if s.waves.any s.eligible then 1 else ((leastOf (s.dues.filter fun t => decide (s.time < t))).map (· - s.time)).getD 1
      .next (s.elapse d)

/-! ## Placing one instruction -/

/-- A wave at a far core's slot 0, or harbourmaster core 0 for the two forms that only such a core has (R295): running, nothing in flight. -/
def loaderWave (i : Instr) : Wave :=
  match i with
  | .eret _ | .halt _ => { Wave.hmReset 0 with run := .running, pc := 0x10000 }
  | _ => { Wave.hmReset 0 with gwn := 0, run := .running, pc := 0x10000, crew := 1, vregs := 128, prio := 8 }

/-- The task of the loader's wave: one record of one launch of a context, claimed by far core 0. -/
def loaderTask : TaskRec where
  id := 1
  ctx := 0
  seq := 1
  launch := 1
  words := List.replicate 8 0
  time := 0
  spans := false
  st := .running 1
  holds := []
  primary := none
  hasShadow := false
  die := 0
  sig := 0
  bad := false

/-- The launch of the loader's task. -/
def loaderLaunch : Launch where
  id := 1
  words := List.replicate 16 0
  admitted := true
  chart := []
  live := 1
  taken := []
  entries := 0
  reports := []
  noted := false

/-- The resident context of the loader's task. -/
def loaderContext : Context where
  slot := 0
  priv := true
  ntypes := 0
  typetab := 0
  quota := 0
  ptroot := 0
  wdog := 10000000
  events := 0
  charts := []
  launches := [loaderLaunch]
  nextLaunch := 2
  preempted := false
  frozen := false
  images := []
  nextImage := 0
  badCharts := []
  hang := none

/-- The crew of the loader's task. -/
def loaderCrew : Crew where
  id := 1
  unit := 0
  ctx := 0
  berth := 0
  record := 1
  seq := 1
  launch := 1
  type := 0
  waves := [0]
  alive := 1
  units := 0
  scratch := []
  full := []
  bad := []
  fault := none
  shadow := false
  sig := 0

/-- A leaf of 1 GiB at the start of a partition's memory: every access allowed, RAW, no error policy (R324, R325). -/
def loaderLeaf : Word := 0xF800000000000000

/-- What the loader's wave needs besides itself: its crew, task and context where the state has none of them. -/
def State.withTask (s : State) : State :=
  if isHm s.me.gwn then s else
  let s := if (s.ctx? s.me.ctx).isSome then s else { s with ctxs := s.ctxs ++ [{ loaderContext with slot := s.me.ctx }] }
  let s := s.modCtx s.me.ctx fun c => { c with frozen := false }
  if (s.crew? s.me.crew).isSome then s else
  let b := s.berth 0
  let s := s.setBerth { b with
    recs := b.recs ++ [{ loaderTask with id := b.nextRec, ctx := s.me.ctx, st := .running s.me.crew }]
    nextSeq := max b.nextSeq 2
    nextRec := b.nextRec + 1 }
  let s := if (s.core (unitOf s.me.gwn)).bound.isSome then s else
    s.setCore { s.core (unitOf s.me.gwn) with bound := some s.me.ctx, served := some s.me.ctx }
  { s with crews := s.crews ++ [{ loaderCrew with
      id := s.me.crew, unit := unitOf s.me.gwn, ctx := s.me.ctx, record := b.nextRec, waves := [s.me.gwn] }] }

/-- The place that the executing agent fetches from once its page is mapped by `loaderLeaf`. -/
def State.fetchPlace (s : State) : Nat :=
  if isHm s.me.gwn then s.partBase (s.partOf (unitOf s.me.gwn)) + s.me.pc.toNat
  else s.partBase (s.partOfCtx s.me.ctx) + s.me.pc.toNat % 2 ^ 30

/-- Stores a word at a place with the check bits of its line and maps the executing agent's page; no cache holds an older word. -/
def State.putWord (s : State) (x : Word) : State :=
  let at_ := s.fetchPlace
  let line := at_ / 64
  let code := if isHm s.me.gwn then s.ownCode line else s.codeAt line 0
  let old := lineData s.store.data line
  let new := (lineFmt code (lineInUnit line)).write ⟨0, 0⟩ (2 ^ 512 - 1) (putBits old (8 * (at_ % 64)) 64 x.toNat) none
  let st := (s.store.put1 line new).put2 line (if code = 12 then new else s.store.bits2 line)
  let s := { s with
    store := { st with code := Cells.set st.code line (BitVec.ofNat 4 code) }
    caches := { s.caches with ic := s.caches.ic.filter fun c => !(c.unit == unitOf s.me.gwn && c.at_ == at_) } }
  if isHm s.me.gwn then s else s.tlbAdd (unitOf s.me.gwn) s.me.ctx 1 s.me.pc.toNat loaderLeaf

/-- The running wave that the loader takes: the executing agent where it runs, with nothing due; else the loader's own. -/
def State.withRunner (s : State) (i : Instr) : State :=
  if s.active then
    s.mapMe fun w => { w with pc := BitVec.ofNat 64 (w.pc.toNat % 2 ^ 38 / 8 * 8), dueFault := none, duePark := none, tx := { w.tx with doom := false } }
  else
    let w := loaderWave i
    let old := if s.me.gwn = w.gwn ∨ s.me.run = .off ∧ isHm s.me.gwn = false then [] else [s.me]
    { s with me := w, others := old ++ s.others.filter (·.gwn != w.gwn) }

/-- The executing agent is the one that its scheduler issues at this clock: the clock is one that the scheduler has (R312, R376) and in which it has not issued,
and no other wave of the scheduler is ready. -/
def State.withTurn (s : State) : State :=
  let u := unitOf s.me.gwn
  let n := schedOf s.me.gwn
  let t := if s.ticks u then s.time else s.time + (127 - s.time % 112) % 112
  { s with
    time := t
    clocked := if t = s.time then s.clocked.filter (· != (u, n)) else []
    me := { s.me with ready := min s.me.ready t }
    others := mapWhere (fun w => unitOf w.gwn == u && schedOf w.gwn == n) (fun w => { w with ready := max w.ready (t + 1) }) s.others }

/-- The state in which the next step issues the instruction of a word (log entry 10). -/
def State.place (s : State) (x : Word) : State :=
  let s := (((s.withRunner (decode x)).withTask).putWord x).withTurn
  { s with agenda := .clock (unitOf s.me.gwn) (schedOf s.me.gwn) :: s.agenda }

end Sys2Proof.Machine
end

