-- ==== Sys2Proof/Machine/Step.lean ====
section
/-! DEFINITION. One step of the device, and the state that issues a given instruction next. -/

namespace Sys2Proof.Machine

/-- The first action of the agenda has been taken from it. -/
def State.took (s : State) : State := { s with agenda := s.agenda.drop 1 }

/-- One step: the agenda's next action, or one of the device's own choosing (log entries 1 and 2). Above its shutdown temperature the module has stopped, and only
a reset acts on it (R373, R376). -/
def step (s : State) : Host.Outcome State Fault Refusal :=
  match s.out.stopped, s.agenda with
  | true, .event .reset :: _ => s.took.act (.event .reset)
  | true, _ => .fault .moduleStopped
  | false, a :: _ => s.took.act a
  | false, [] => s.ownStep

/-- The state with an instruction stored where the next step fetches it (log entry 10). -/
def State.withFetchWord (s : State) (nbits w : Nat) : State := s.place (BitVec.ofNat 64 (w % 2 ^ nbits))

end Sys2Proof.Machine
end

