-- ==== Sys2Proof/Safety.lean ====
section
/-! DEFINITION. The terms in which claims are stated: what an issue leaves alone, what an instruction has written, the values the specification gives
the integer operations, the canonical form of memory, and which rows of the opcode table are instruction words. -/

namespace Sys2Proof.Machine

/-! ## Instruction words -/

/-- A row that an instruction word can encode; `illegal` stands for every other word. -/
def isWord (i : Instr) : Bool := !deviceStep i && match i with
  | .illegal _ => false
  | _ => true

/-- The OPs that the opcode map assigns (R170). -/
def assignedOps : List Nat :=
  (List.range 11).map (0x01 + ·) ++ (List.range 31).map (0x20 + ·) ++ (List.range 28).map (0x40 + ·) ++ (List.range 5).map (0x60 + ·)
    ++ (List.range 15).map (0x80 + ·) ++ (List.range 12).map (0x90 + ·) ++ (List.range 7).map (0xA0 + ·) ++ (List.range 8).map (0xB0 + ·)

/-! ## Frames -/

/-- A wave without what every issue changes: the program counter, the loop entries of the end check (R188), and the bookkeeping of the issue schedulers
(R18, R314, R317). -/
def Wave.bare (w : Wave) : Wave :=
  { w with pc := 0, loops := .zero, issued := none, ready := 0, age := 0, watch := 0 }

/-- Nothing but the executing wave differs: no other wave, register of the harbourmaster, byte of memory, queue or table. -/
def onlyMe (s t : State) : Prop := t = { s with me := t.me }

/-- Nothing but what a walk of page tables changes differs: the caches, and the errors recorded (R329, R330, R350). -/
def onlyWalked (s t : State) : Prop := t = { s with caches := t.caches, out := { s.out with errors := t.out.errors } }

/-- Nothing but the executing wave and what reads change differs: the caches, what is kept of errors, and the count of free values. -/
def onlyRead (s t : State) : Prop :=
  t = { s with me := t.me, caches := t.caches, fresh := t.fresh, out := { s.out with errors := t.out.errors, errCount := t.out.errCount } }

/-- Is a lane active under an instruction's predicate (R31, R172)? -/
def laneOn (s : State) (c : Ctl) (l : Nat) : Prop := l < 32 ∧ (s.me.act c).getLsbD l = true

/-- The instruction issued and took the wave elsewhere: no loop entry changes, and the target issues no sooner than 8 clocks later (R183, R188). -/
def jumped (s t : State) (target : Word) : Prop :=
  onlyMe s t ∧ t.me.pc = target ∧ t.me.loops = s.me.loops ∧ t.me.ready = clocksOn s.me.gwn s.time 8

/-- The instruction issued and fell through: the program counter and the loop entries are what the end check leaves (R188). -/
def fellThrough (s t : State) : Prop := t.me.pc = s.me.fallThrough.pc ∧ t.me.loops = s.me.fallThrough.loops

/-- The instruction issued, changed no register, flag or byte of memory, and fell through. -/
def onlyIssued (s t : State) : Prop := onlyMe s t ∧ t.me.bare = s.me.bare ∧ fellThrough s t

/-- Which register places are no longer bad: the parity of a register written is computed afresh (R355). -/
def mended (s t : State) (p : RegPlace → Bool) : Prop := t.me.bad = s.me.bad.filter (!p ·)

/-- The places of the active lanes of a vector register. -/
def lanesOf (s : State) (c : Ctl) (n : Nat) : RegPlace → Bool
  | .v m l => m == n && decide (l < 32) && (s.me.act c).getLsbD l
  | _ => false

/-- The places of n whole vector registers. -/
def regsFrom (d n : Nat) : RegPlace → Bool
  | .v m l => decide (d ≤ m) && decide (m < d + n) && decide (l < 32)
  | _ => false

/-- The two halves of a scalar register. -/
def halvesOf (n : Nat) : RegPlace → Bool
  | .s m _ => m == n
  | _ => false

/-- A predicate register. -/
def predOf (n : Nat) : RegPlace → Bool
  | .p m => m == n
  | _ => false

/-- The instruction issued, wrote nothing but the destination, whose parity is afresh, changed nothing else, and fell through: in a vector the active lanes
of one register, in a scalar or predicate the whole register, p7 staying as it is; `value` is the result at the type's width for a lane (R176). -/
def wrote (s t : State) (c : Ctl) (ty : Ty) (d : Opnd) (value : Nat → BitVec (tyWidth ty)) : Prop :=
  onlyMe s t ∧ fellThrough s t ∧
  match d with
  | .v n =>
    t.me.bare = { s.me with v := t.me.v, bad := t.me.bad }.bare ∧ mended s t (lanesOf s c n.toNat) ∧
    (∀ l, laneOn s c l → t.me.vreg n.toNat l = (value l).setWidth 32) ∧
    ∀ m l, l < 32 → (m ≠ n.toNat ∨ ¬ laneOn s c l) → t.me.vreg m l = s.me.vreg m l
  | .s n =>
    t.me.bare = { s.me with s := t.me.s, bad := t.me.bad }.bare ∧ mended s t (halvesOf n.toNat) ∧
    t.me.sreg n.toNat = (if tyWidth ty = 64 then (value 0).setWidth 64 else if ty = .i32 then (value 0).signExtend 64 else (value 0).setWidth 64) ∧
    ∀ m, m ≠ n.toNat → t.me.sreg m = s.me.sreg m
  | .p n =>
    t.me.bare = { s.me with p := t.me.p, bad := t.me.bad }.bare ∧ mended s t (fun r => n != 7 && predOf n.toNat r) ∧
    t.me.preg n.toNat = (if n = 7 then BitVec.allOnes 32 else (value 0).setWidth 32) ∧
    ∀ m, m ≠ n.toNat → t.me.preg m = s.me.preg m
  | _ => t.me.bare = s.me.bare

/-- The instruction issued, wrote one scalar register whole, and changed nothing else but the program counter and the loop entries of the end check. -/
def wroteScalar (s t : State) (n : BitVec 6) (x : Word) : Prop :=
  onlyMe s t ∧ t.me.bare = { s.me with s := t.me.s, bad := t.me.bad }.bare ∧ mended s t (halvesOf n.toNat) ∧ t.me.sreg n.toNat = x ∧ ∀ m, m ≠ n.toNat → t.me.sreg m = s.me.sreg m

/-- The instruction issued and reports through its slot: one operation more is in flight, its slot is one higher (R17), and no register, flag or byte of
memory has changed yet. -/
def inFlight (s t : State) (c : Ctl) (cls : OrdClass) (body : Pending) : Prop :=
  onlyMe s t ∧ t.me.bare = { s.me with
    flights := s.me.flights ++ [Flight.mk s.me.nextOp cls (if c.se then some c.ss.toNat else none) s.me.pc body false]
    nextOp := s.me.nextOp + 1
    sb := if c.se then Cells.set s.me.sb c.ss.toNat (s.me.slot c.ss.toNat + 1) else s.me.sb }.bare

/-- The instruction has issued and waits: nothing else of its wave differs, and nothing besides the wave. -/
def stalled (s t : State) (i : Instr) : Prop := onlyMe s t ∧ t.me.bare = { s.me with run := .stalled i }.bare ∧ t.me.pc = s.me.pc ∧ t.me.loops = s.me.loops

/-- The wave's operation in flight has left it with its slot one lower, after a last change of the wave (R17). -/
def landed (s t : State) (g : Nat) (f : Flight) (upd : Wave → Wave) : Prop :=
  t = s.modWave g fun w => ({ upd w with flights := w.flights.filter (·.id != f.id) }).slotDown f.slot

/-- The executing wave's task faults at its instruction with a cause and DETAIL (R63, R64). -/
def faults (s : State) (cause : Nat) (detail : Word) : State := s.failTask s.me.crew ⟨cause, 0, s.me.pc, detail⟩

/-! ## The integer operations (R193 to R197, R200) -/

/-- The two-operand integer operations. -/
inductive IntOp where
  | add | sub | mul | and | or | xor | shl | lsr | asr | min | max
  deriving DecidableEq, Repr

/-- Their results over words of a width: sums and products modulo 2^w (R193), bits (R196), shifts whose amount is the whole second operand (R197), and
the lesser or greater by the type's sign (R195). -/
def IntOp.value (op : IntOp) (signed : Bool) {w : Nat} (x y : BitVec w) : BitVec w :=
  match op with
  | .add => x + y
  | .sub => x - y
  | .mul => x * y
  | .and => x &&& y
  | .or => x ||| y
  | .xor => x ^^^ y
  | .shl => if y.toNat < w then x <<< y.toNat else 0
  | .lsr => x >>> y.toNat
  | .asr => x.sshiftRight y.toNat
  | .min => if (if signed then x.slt y else x.ult y) then x else y
  | .max => if (if signed then y.slt x else y.ult x) then x else y

/-- A source at a width for a lane (R175). -/
def src (s : State) (w : Nat) (x : Opnd) (l : Nat) : BitVec w := (s.opnd x l).setWidth w

/-- The literal of the I form at a width (R161, R177). -/
def lit (w : Nat) (imm : BitVec 16) : BitVec w := (imm.signExtend 64).setWidth w

/-- A two-operand integer instruction taken apart: operation, control fields, type, destination, first source, and second source or literal. -/
def intParts : Instr → Option (IntOp × Ctl × Ty × Opnd × Opnd × (Opnd ⊕ BitVec 16))
  | .add c t d a b => some (.add, c, t, d, a, .inl b)
  | .addImm c t d a i => some (.add, c, t, d, a, .inr i)
  | .sub c t d a b => some (.sub, c, t, d, a, .inl b)
  | .mul c t d a b => some (.mul, c, t, d, a, .inl b)
  | .mulImm c t d a i => some (.mul, c, t, d, a, .inr i)
  | .and c t d a b => some (.and, c, t, d, a, .inl b)
  | .andImm c t d a i => some (.and, c, t, d, a, .inr i)
  | .or c t d a b => some (.or, c, t, d, a, .inl b)
  | .orImm c t d a i => some (.or, c, t, d, a, .inr i)
  | .xor c t d a b => some (.xor, c, t, d, a, .inl b)
  | .xorImm c t d a i => some (.xor, c, t, d, a, .inr i)
  | .shl c t d a b => some (.shl, c, t, d, a, .inl b)
  | .shlImm c t d a i => some (.shl, c, t, d, a, .inr i)
  | .lsr c t d a b => some (.lsr, c, t, d, a, .inl b)
  | .lsrImm c t d a i => some (.lsr, c, t, d, a, .inr i)
  | .asr c t d a b => some (.asr, c, t, d, a, .inl b)
  | .asrImm c t d a i => some (.asr, c, t, d, a, .inr i)
  | .min c t d a b => some (.min, c, t, d, a, .inl b)
  | .max c t d a b => some (.max, c, t, d, a, .inl b)
  | _ => none

/-- The second source of an integer instruction. -/
def rhs (s : State) (w : Nat) (b : Opnd ⊕ BitVec 16) (l : Nat) : BitVec w :=
  match b with
  | .inl x => src s w x l
  | .inr i => lit w i

/-- The number of set bits. -/
def ones {w : Nat} (x : BitVec w) : Nat := (List.range w).countP fun i => x.getLsbD i

/-- The condition that `cmp` tests over integers read by the type's sign (R198); `.un` is none of them. -/
def ccValue (cc : Cc) (signed : Bool) {w : Nat} (x y : BitVec w) : Bool :=
  match cc with
  | .eq => x == y
  | .ne => x != y
  | .lt => if signed then x.slt y else x.ult y
  | .le => if signed then x.sle y else x.ule y
  | .gt => if signed then y.slt x else y.ult x
  | .ge => if signed then y.sle x else y.ule x
  | .un => false

/-! ## Floating point -/

/-- The formats of R71. -/
def floatFormats : List Fmt := [fmtF32, fmtBF16, fmtF16, fmtE5M2, fmtE4M3, fmtE3M2, fmtE2M3, fmtE2M1]

/-- The rational number of a finite exact value (R72). -/
def ratOf : FVal → Option ℚ
  | .num neg m e => some ((if neg then -1 else 1) * (m : ℚ) * 2 ^ e)
  | _ => none

/-- The elements of a lane under a float type (R207): one of 32 bits, or two of 16. -/
def elemCount (t : Ty) : Nat := if t = .f32 then 1 else 2

/-- An element of a lane's 32 bits. -/
def elemAt (t : Ty) (x h : Nat) : Nat := if t = .f32 then x % 2 ^ 32 else x / 2 ^ (16 * h) % 2 ^ 16

/-- The lane that holds the elements. -/
def joinElems (t : Ty) (f : Nat → Nat) : Lane :=
  if t = .f32 then BitVec.ofNat 32 (f 0) else BitVec.ofNat 16 (f 1) ++ BitVec.ofNat 16 (f 0)

/-- A value rounded once, with the flags of the exact operation (R78 to R83, R212). -/
def roundOnce (f : Fmt) (rm : Rm) (g : Nat) (x : FVal × Flags) : Nat × Flags := ((f.round rm false g x.1).1, x.2 ||| (f.round rm false g x.1).2)

/-- The random operand of an element under `.sr` (R208). -/
def randAt (s : State) (g : Option Opnd) (l h : Nat) : Nat := s.randOf g l / 2 ^ (16 * h) % 2 ^ 16

/-- A fixed-latency float instruction taken apart: control fields, type, destination, and the result of element h of lane l with its flags (R212 to R219). -/
def floatParts (s : State) : Instr → Option (Ctl × Ty × BitVec 7 × (Nat → Nat → Nat × Flags))
  | .addFloat c t rm d a b g => some (c, t, d, fun l h => roundOnce (fltFmt t) rm (randAt s g l h)
      (FVal.add rm ((fltFmt t).dec (elemAt t (s.opndF t a l) h)) ((fltFmt t).dec (elemAt t (s.opndF t b l) h))))
  | .subFloat c t rm d a b g => some (c, t, d, fun l h => roundOnce (fltFmt t) rm (randAt s g l h)
      (FVal.add rm ((fltFmt t).dec (elemAt t (s.opndF t a l) h)) ((fltFmt t).dec (elemAt t (s.opndF t b l) h)).negate))
  | .mulFloat c t rm d a b g => some (c, t, d, fun l h => roundOnce (fltFmt t) rm (randAt s g l h)
      (FVal.mul ((fltFmt t).dec (elemAt t (s.opndF t a l) h)) ((fltFmt t).dec (elemAt t (s.opndF t b l) h))))
  | .fma c t rm d a b x => some (c, t, d, fun l h => (fltFmt t).fma rm false (elemAt t (s.opndF t a l) h) (elemAt t (s.opndF t b l) h)
      (elemAt t (s.opndF t x l) h))
  | .fms c t rm d a b x => some (c, t, d, fun l h => (fltFmt t).fma rm true (elemAt t (s.opndF t a l) h) (elemAt t (s.opndF t b l) h)
      (elemAt t (s.opndF t x l) h))
  | .minFloat c t d a b => some (c, t, d, fun l h => ((fltFmt t).minMax false (elemAt t (s.opndF t a l) h) (elemAt t (s.opndF t b l) h), 0))
  | .maxFloat c t d a b => some (c, t, d, fun l h => ((fltFmt t).minMax true (elemAt t (s.opndF t a l) h) (elemAt t (s.opndF t b l) h), 0))
  | .abs c t d a => some (c, t, d, fun l h => ((fltFmt t).absNeg false (elemAt t (s.opndF t a l) h), 0))
  | .neg c t d a => some (c, t, d, fun l h => ((fltFmt t).absNeg true (elemAt t (s.opndF t a l) h), 0))
  | .fclass c t d a => some (c, t, d, fun l h => ((fltFmt t).classMask (elemAt t (s.opndF t a l) h), 0))
  | .frnd c t rm d a g => some (c, t, d, fun l h => (fltFmt t).frnd rm (randAt s g l h) (elemAt t (s.opndF t a l) h))
  | _ => none

/-- An instruction of the transcendental pipe taken apart in the same way (R209, R214, R220). -/
def pipeParts (s : State) : Instr → Option (Ctl × Ty × BitVec 7 × (Nat → Nat → Nat × Flags))
  | .div c t rm d a b g => some (c, t, d, fun l h => (fltFmt t).fdiv rm (randAt s g l h) (elemAt t (s.opndF t a l) h) (elemAt t (s.opndF t b l) h))
  | .sqrt c t rm d a g => some (c, t, d, fun l h => (fltFmt t).fsqrt rm (randAt s g l h) (elemAt t (s.opndF t a l) h))
  | .rcp c t d a => some (c, t, d, fun l h => (fltFmt t).approx .rcp (elemAt t (s.opndF t a l) h))
  | .rsqrt c t d a => some (c, t, d, fun l h => (fltFmt t).approx .rsqrt (elemAt t (s.opndF t a l) h))
  | .exp2 c t d a => some (c, t, d, fun l h => (fltFmt t).approx .exp2 (elemAt t (s.opndF t a l) h))
  | .log2 c t d a => some (c, t, d, fun l h => (fltFmt t).approx .log2 (elemAt t (s.opndF t a l) h))
  | .sin c t d a => some (c, t, d, fun l h => (fltFmt t).approx .sin (elemAt t (s.opndF t a l) h))
  | .cos c t d a => some (c, t, d, fun l h => (fltFmt t).approx .cos (elemAt t (s.opndF t a l) h))
  | .tanh c t d a => some (c, t, d, fun l h => (fltFmt t).approx .tanh (elemAt t (s.opndF t a l) h))
  | _ => none

/-! ## Memory -/

/-- The address of a lane's field of some size: base + index × size + OFS8 × size modulo 2^64 (R161, R232). -/
def memAt (s : State) (m : MemArg) (size l : Nat) : Nat :=
  (s.me.sreg m.base.toNat + (match m.index with
    | none => 0
    | some x => s.opnd x l) * BitVec.ofNat 64 size + m.ofs.signExtend 64 * BitVec.ofNat 64 size).toNat

/-- The lanes that an access serves, ascending: the active ones where its data or its index is per-lane, else one (R172, R232, R234). -/
def memLanes (s : State) (c : Ctl) (d : Opnd) (m : MemArg) : List Nat :=
  if d.isV || m.perLane then (List.range 32).filter fun l => (s.me.act c).getLsbD l else [0]

/-- The bytes that a store takes for a lane, as a number (R232, R237). -/
def dataAt (s : State) (t : LdTy) (d : Opnd) (l : Nat) : Nat := s.storeData (ldWords t) d l % 2 ^ (8 * ldBytes t)

/-- An atomic taken apart: operation, control fields, scratch or global, type, order, data and address. -/
def atomParts : Instr → Option (AtomOp × Ctl × Bool × AtTy × MemOrd × Opnd × MemArg)
  | .atomAdd c scr t o d m => some (.add, c, scr, t, o, d, m)
  | .atomMin c scr t o d m => some (.min, c, scr, t, o, d, m)
  | .atomMax c scr t o d m => some (.max, c, scr, t, o, d, m)
  | .atomAnd c scr t o d m => some (.and, c, scr, t, o, d, m)
  | .atomOr c scr t o d m => some (.or, c, scr, t, o, d, m)
  | .atomXor c scr t o d m => some (.xor, c, scr, t, o, d, m)
  | .atomXchg c scr t o d m => some (.xchg, c, scr, t, o, d, m)
  | .atomCas c scr t o d m => some (.cas, c, scr, t, o, d, m)
  | _ => none

/-- A wave's transaction ended in an abort that enters the handler: the checkpoint's registers, nothing buffered or registered, and the status (R144). -/
def abortedWave (w x : Wave) (status code cause : Nat) : Prop :=
  x.pc = w.tx.handler ∧ x.s = w.tx.cp.s ∧ x.p = w.tx.cp.p ∧ x.loops = w.tx.cp.loops ∧
  x.flags = w.tx.cp.flags ∧ x.tx.depth = 0 ∧ x.tx.buf = [] ∧ x.tx.lines = [] ∧ x.tx.granules = [] ∧
  x.tx.last = status ∧ x.tx.code = code ∧ x.tx.cause = cause

/-- The executing wave's transaction ended in such an abort, and nothing else differs. -/
def aborted (s t : State) (status code cause : Nat) : Prop := onlyMe s t ∧ abortedWave s.me t.me status code cause

/-- What a transactional access of a target reads stands in the read set of the executing wave: its granules, or its lines, each by itself or with its
slice (R141, R150, R152). -/
def registered (s t : State) (n : Nat) (a : Target) : Prop :=
  if a.space = .scr then ∀ g ∈ granules a.at_ n, t.me.tx.coarseCore = true ∨ granuleKey s.me.crew g ∈ t.me.tx.granules
  else ∀ l ∈ a.devLines n, l ∈ t.me.tx.lines ∨ s.sliceOf l ∈ t.me.tx.coarse

/-- Bit i of a line as buffered writes leave it, the later over the earlier (R141, R143). -/
def bufBit (b : List TxWrite) (scratch : Bool) (line i : Nat) (old : Bool) : Bool :=
  b.foldl (fun x w => if w.scratch = scratch ∧ w.line = line ∧ w.mask.testBit i = true then w.value.testBit i else x) old

/-- Every array of device memory is in its canonical form: addresses rising, no entry equal to what an unlisted address reads as. -/
def Store.wf (st : Store) : Bool := Memory.wf st.data && Cells.wf st.side && Memory.wf st.data2 && Cells.wf st.side2 && Cells.wf st.code

/-- A crew's scratch and its full bits are canonical arrays. -/
def Crew.wf (c : Crew) : Bool := Cells.wf c.scratch && Cells.wf c.full

/-- The invariant that every step keeps: device memory and the scratch of every crew, running or in a saved image, are in their canonical form. -/
def memOk (s : State) : Prop :=
  s.store.wf = true ∧ (∀ c ∈ s.crews, c.wf = true) ∧ ∀ x ∈ s.ctxs, ∀ i ∈ x.images, ∀ c ∈ i.crews, c.wf = true

/-- A checkpoint's registers are canonical arrays. -/
def Checkpoint.wf (c : Checkpoint) : Bool := Cells.wf c.s && Cells.wf c.p

/-- A write buffer holds writes that lie under their masks, on at most 64 lines (R137, R141). -/
def bufOk (b : List TxWrite) : Bool := (b.all fun w => w.value &&& w.mask == w.value) && decide ((bufLines b).length ≤ 64)

/-- A wave's registers, slots and checkpoints are canonical arrays, and its write buffer is as `bufOk` says. -/
def Wave.wf (w : Wave) : Bool :=
  Cells.wf w.s && Cells.wf w.v && Cells.wf w.p && Cells.wf w.sb && w.tx.cp.wf && (w.tx.alts.all fun a => a.cp.wf) && bufOk w.tx.buf

/-- The invariant that every step keeps: the registers of every wave, in the device or in a saved image, are in their canonical form, and its write buffer
holds at most 64 lines. -/
def regsOk (s : State) : Prop :=
  (∀ w ∈ s.waves, w.wf = true) ∧ ∀ c ∈ s.ctxs, ∀ i ∈ c.images, ∀ w ∈ i.waves, w.wf = true

/-- The byte of device memory at a place, as stored. -/
def byteAt (s : State) (a : Nat) : Byte := Memory.read s.store.data a

/-- What a read of a field of device memory gives an agent of a unit, with the severity of its fault: 5 where only a failed link reaches the field, else what
its home delivers, or the copy that serves it (R335, R350, R354). -/
def fieldRead (s : State) (unit : Nat) (nan many : Bool) (n : Nat) (a : Target) : Nat × Option Nat :=
  if s.cutOff (s.dieOf unit) n a then (0, some 5)
  else
    let r := (s.viewFrom (s.dieOf unit) a).readFieldAs nan many a.at_ n a.code a.pol
    (r.1, r.2.1)

/-- Does a line decode without error under the layout of an access: its stored bits are its data? -/
def cleanLine (s : State) (line code : Nat) : Prop :=
  let d := (lineFmt (s.codeAt line code) (lineInUnit line)).decode (s.store.bits1 line)
  d.bits.data = (s.store.bits1 line).data ∧ d.sFail.all (· == false) = true

/-- Buffered writes stand in scratch: each bit of the crew's scratch and each full/empty bit is as the last of them leaves it, and no other crew's
differs (R111, R141, R143). -/
def performedScratch (s t : State) (crew : Nat) (b : List TxWrite) : Prop :=
  (∀ n, n ≠ crew → t.crew? n = s.crew? n) ∧ ∀ k, s.crew? crew = some k → ∃ k', t.crew? crew = some k' ∧
    (∀ a j, j < 8 → (Cells.get k'.scratch a).getLsbD j = bufBit b true (a / 64) (8 * (a % 64) + j) ((Cells.get k.scratch a).getLsbD j)) ∧
    ∀ g, k'.isFull g = ((b.filter (·.scratch)).flatMap (·.full)).foldl (fun x p => if p.1 = g then p.2 else x) (k.isFull g)

/-- Buffered writes stand in device memory: each bit of a line without error is as the last of them leaves it, and no line without one differs (R97, R141,
R143). -/
def performedGlobal (s t : State) (b : List TxWrite) : Prop :=
  (∀ a, (∀ w ∈ b, w.scratch = false → w.line ≠ a / 64) → byteAt t a = byteAt s a) ∧
  ∀ line code, (∀ w ∈ b, w.scratch = false → w.line = line → w.code = code) → cleanLine s line code →
    ∀ i, i < 512 → (byteAt t (64 * line + i / 8)).getLsbD (i % 8) = bufBit b false line i ((byteAt s (64 * line + i / 8)).getLsbD (i % 8))

end Sys2Proof.Machine
end

