-- ==== Sys2Proof/Certificates/Slice0/Obligations.lean ====
section
/-! DEFINITION. The statements for the provers, in the order of the specification's chapters. A hypothesis `s.verdict i = .go` says that the
instruction may issue and act with its own effect: `Obligations.WhenAnInstructionGoes` spells it out. `s.me.wf` says that the wave's registers are canonical
arrays, an invariant of every step (`Obligations.RegistersStayCanonical`). A statement of several parts names each part. -/

open Sys2Proof Sys2Proof.Machine

/-! ## Words (R158 to R174) -/

/-- R158 to R171: an instruction's word decodes to that instruction, with every operand at every value its encoding admits. -/
def Obligations.DecodeEncode : Prop := ∀ i : Instr, isWord i = true → i.wf = true → decode (encode i) = i

/-- R158, R161, R173: a word has one meaning: a word that decodes to an instruction is that instruction's word, bit for bit. -/
def Claim.EncodeDecode : Prop := ∀ w : Word, isWord (decode w) = true → encode (decode w) = w ∧ (decode w).wf = true

/-- R170, R173: a word whose OP the opcode map does not list is ILLEGAL, and so is OP 0x00. -/
def Claim.UnassignedOpcodes : Prop :=
  ∀ w : Word, (w.extractLsb' 56 8).toNat ∉ assignedOps → decode w = .illegal w

/-- R158, R161, R170, R173: a word has one meaning, and a word whose OP is not assigned is ILLEGAL. -/
def Obligations.WordsHaveOneMeaning : Prop := Claim.EncodeDecode ∧ Claim.UnassignedOpcodes

/-- The lines of the specification's listing whose words it works out, and three changes of them that are ILLEGAL (R174). -/
def Obligations.WorkedWords : Prop :=
  decode 0x0798400000007000 = .li ⟨false, 7, false, 0, 0⟩ (.s 24) 0x40000000 ∧
  decode 0x0600940000077000 = .loop ⟨false, 7, false, 0, 0⟩ false (.s 20) 7 ∧
  decode 0x60800196C0007800 = .ldG ⟨false, 7, true, 0, 0⟩ .f32 .plain (.v 1) ⟨22, some (.sp .lane), 0⟩ ∧
  decode 0x430D030198027003 = .fma ⟨false, 7, false, 0, 3⟩ .f32 .rne 3 (.v 1) (.s 24) (.v 2) ∧
  decode 0x26000399FFFF1000 = .mov ⟨false, 1, false, 0, 0⟩ (.v 3) (.s 25) ∧
  decode 0x438D030198027003 = .illegal 0x438D030198027003 ∧
  decode 0x26000399FFFF1800 = .illegal 0x26000399FFFF1800 ∧
  decode 0x0600940000071000 = .illegal 0x0600940000071000

/-! ## The step, the fetch and the issue (R17, R172, R174) -/

/-- R158, R174, R312, R313, R315: at a clock of a scheduler, the first of its eligible waves runs the instruction whose word its fetch reads, whatever it does. Waves
stand in the scheduler's order: none stands after one that it goes before. An instruction that has issued and waits runs when its wave goes on, which counts as no
second issue. -/
def Claim.IssueRunsDecoded : Prop :=
  (∀ (s f : State) (u n : Nat) (rest : List Action) (after : List Wave) (w : Wave) (x : Word) (i : Instr),
    s.out.stopped = false → s.agenda = .clock u n :: rest → (u, n) ∉ s.clocked → s.ticks u = true →
    let s1 := { s with agenda := rest, clocked := (u, n) :: s.clocked }
    orderWaves (s.waves.filter fun v => unitOf v.gwn == u && schedOf v.gwn == n && s1.eligible v) = w :: after →
    (s1.focus w.gwn).fetch = (f, .word x) → decode x = i →
    step s = exec i f) ∧
  (∀ l : List Wave, (orderWaves l).Perm l ∧ (orderWaves l).Pairwise fun a b => b.before a = false) ∧
  ∀ (s t : State) (g : Nat) (rest : List Action) (i : Instr), s.out.stopped = false → s.agenda = .advance g :: rest →
    let s1 := ({ s with agenda := rest } : State).focus g
    s1.me.gwn = g → s1.frozen s1.me = false → s1.me.run = .stalled i →
    exec i { s1 with me := { s1.me with run := .running } } = .next t → t.me.gwn = g →
    let u : State := { t with me := { t.me with
      issued := s1.me.issued
      age := s1.me.age
      ready := if t.me.ready = clocksOn t.me.gwn s.time 4 then s1.me.ready else t.me.ready
      watch := if t.me.watch = 0 then 0 else s1.me.watch } }
    step s = .next (if u = s1 then { s with agenda := rest } else u)

/-- R174, R330, R350, R378: a fetch changes nothing but the caches and what is kept of errors. -/
def Claim.FetchFrame : Prop :=
  ∀ s : State, s.fetch.1 = { s with
    caches := s.fetch.1.caches, out := { s.out with errors := s.fetch.1.out.errors, errCount := s.fetch.1.out.errCount } }

/-- R158, R174, R330, R378: a step that issues a wave runs the instruction that its fetch decodes, and the fetch itself changes nothing but the caches and the record
of errors.
The agenda that says what moves next, and that a clock passes when every scheduler has issued, are the model's, and so is what an instruction that has issued and waits reads when it acts (log entries 1, 18, 78, 116). -/
def Obligations.StepRunsDecoded : Prop := Claim.IssueRunsDecoded ∧ Claim.FetchFrame

/-- R17, R158, R172, R174, R263, R355: when an instruction goes. It waits for the slots that WM names, for room in the slot that it raises, and for what else
its own entry drains; neither its predicate nor another register that it reads fails its parity. One that then waits for more before it acts has issued.
That a full slot holds an instruction back, and that one which a transaction forbids makes its wait for issue first, are the model's (log entries 59, 107). -/
def Obligations.WhenAnInstructionGoes : Prop :=
  ∀ (s : State) (i : Instr),
    let issues : Prop := s.me.run = .running ∧ s.frozen s.me = false ∧ s.me.dueFault = none ∧ s.me.duePark = none ∧
      (s.me.tx.depth ≠ 0 → s.me.tx.doom = true → ∃ c, i = .retry c) ∧
      s.illegalHere i = false ∧ ¬ (isQuay s.me.gwn = true ∧ farOnly i = true) ∧
      (∀ n, n < 8 → (ctlOf i).wm.getLsbD n = true → s.me.slot n = 0) ∧ .p (ctlOf i).pr.toNat ∉ s.me.bad ∧
      s.me.act (ctlOf i) ≠ 0 ∧
      ((ctlOf i).se = true → s.me.slot (ctlOf i).ss.toNat ≠ 63) ∧ s.drained i = true ∧
      ¬ (s.me.tx.depth ≠ 0 ∧ txForbids i = true) ∧ s.readsBad i = false
    (s.verdict i = .go ↔ issues ∧ s.acts i = true) ∧ (s.verdict i = .stall ↔ issues ∧ s.acts i = false)

/-- R17, R172, R142, R153, R154, R263, R269, R283, R300, R355: what an instruction word does when it may not act. One that waits changes nothing; one that has issued and may not act yet
changes nothing but that its wave waits with it; one whose act is
empty changes no register, flag or byte of memory, its slot raised and fallen, and falls through, but a per-lane one waits while its slot reads 63, and one at the end
of a loop whose counter fails its parity does not fall through; one that a
transaction forbids aborts it with status 6 and CAUSE BAD_COMMAND; one that reads a register that fails its parity faults the task with cause 0x15, severity 5
and DETAIL 0, transaction or not. At the boundary before any word of a running wave, ILLEGAL or not, the fault that an engine command has raised faults the task
with the command's cause and PC, its park parks the wave and asks for a fault-queue entry, and a doomed transaction aborts with status 1 but for `retry`: its
checkpoint is restored, nothing stays buffered or registered, the age stamp stays, and the wave backs off.
What an empty act does with its slot, that a fault which is due inside a transaction faults the task, and that a fault or park which is due is taken before the instruction that waits, are the model's (log entries 27, 96, 117). -/
def Obligations.InstructionsThatDoNotAct : Prop :=
  (∀ (s : State) (i : Instr), deviceStep i = false → s.me.run = .running → s.frozen s.me = false →
    (∀ f, s.me.dueFault = some f → exec i s = .next (s.failTask s.me.crew f)) ∧
    (∀ p, s.me.dueFault = none → s.me.duePark = some p → isHm s.me.gwn = false → s.parts.length = 4 → ∃ u, exec i s = .next u ∧
      u = { s with me := u.me, parts := u.parts } ∧
      u.me = { s.me with duePark := none, run := .parked, park := some ⟨p.kind, p.engine, p.addr, p.pc, false⟩ } ∧
      (u.part (s.partOf (unitOf s.me.gwn))).fqWait =
        (s.part (s.partOf (unitOf s.me.gwn))).fqWait ++ [⟨s.me.gwn, p.kind, p.engine, s.me.ctx, p.addr, p.pc⟩]) ∧
    (s.me.dueFault = none → s.me.duePark = none → s.me.tx.depth ≠ 0 → s.me.tx.doom = true → (∀ c, i ≠ .retry c) → ∃ u, exec i s = .next u ∧ onlyMe s u ∧
      u.me.tx.depth = 0 ∧ u.me.tx.last = 1 ∧ u.me.tx.buf = [] ∧ u.me.tx.lines = [] ∧ u.me.tx.granules = [] ∧ u.me.s = s.me.tx.cp.s ∧
      u.me.p = s.me.tx.cp.p ∧ u.me.loops = s.me.tx.cp.loops ∧ u.me.flags = s.me.tx.cp.flags ∧ u.me.pc = s.me.tx.begin_ ∧ u.me.tx.stamp = s.me.tx.stamp ∧
      (s.me.flights = [] → u.me.v = s.me.v) ∧ u.me.tx.confl = min (s.me.tx.confl + 1) 63 ∧
      u.me.run = .backoff (s.time + (64 * 2 ^ min (min (s.me.tx.confl + 1) 63 - 1) 8 + 37 * s.me.gwn % 64)))) ∧
  ∀ (s : State) (i : Instr), isWord i = true →
    (s.verdict i = .hold → exec i s = .next s) ∧
    (s.verdict i = .stall → ∃ u, exec i s = .next u ∧ stalled s u i) ∧
    (∀ k, .lc k ∈ s.me.bad → s.me.loops.reads s.me.pc k = true → s.verdict i ≠ .idle) ∧
    (s.verdict i = .idle → ∃ u, exec i s = .next u ∧ onlyIssued s u) ∧
    (perLaneForm i = true → (ctlOf i).se = true → s.me.slot (ctlOf i).ss.toNat = 63 → s.verdict i ≠ .idle) ∧
    (s.verdict i = .forbidden → ∃ u, exec i s = .next u ∧ onlyMe s u ∧
      u.me.pc = s.me.tx.handler ∧ u.me.tx.depth = 0 ∧ u.me.tx.last = 6 ∧ u.me.tx.code = 0 ∧ u.me.tx.cause = 0x09) ∧
    (s.verdict i = .parity → isHm s.me.gwn = false → exec i s = .next (s.failTask s.me.crew ⟨0x15, 5, s.me.pc, 0⟩))

/-- R173, R174, R63, R293: a word that is no instruction, once every slot of the wave reads zero, faults the wave's task with cause ILLEGAL and the word's
address, transaction or not; a harbourmaster core takes an exception. -/
def Claim.IllegalWords : Prop :=
  ∀ (s : State) (w : Word), s.me.run = .running → s.frozen s.me = false → s.me.dueFault = none → s.me.duePark = none →
    (s.me.tx.depth = 0 ∨ s.me.tx.doom = false) →
    (s.me.slotsZero = false → exec (.illegal w) s = .next s) ∧
    (s.me.slotsZero = true → isHm s.me.gwn = false → exec (.illegal w) s = .next (s.failTask s.me.crew ⟨0x01, 0, s.me.pc, 0⟩)) ∧
    (s.me.slotsZero = true → isHm s.me.gwn = true →
      exec (.illegal w) s = .next ((s.mapMe (Wave.stamp s.time)).hmException s.me.pc 0x01 0))

/-! ## Integer instructions (R175 to R204) -/

/-- R193, R195, R197: the sums and products wrap modulo 2^w and set no flag, the lesser and greater follow the type's sign, and a shift takes its
amount from the whole second operand; R176, R177: the result is written under the class of the destination, and nothing else is. `and`, `or` and `xor`
(R196) are written in the same way. -/
def Obligations.IntegerOperations : Prop :=
  (∀ (i : Instr) (op : IntOp) (c : Ctl) (t : Ty) (d a : Opnd) (b : Opnd ⊕ BitVec 16) (s : State),
    intParts i = some (op, c, t, d, a, b) → s.me.wf = true → s.verdict i = .go →
    ∃ u, exec i s = .next u ∧ wrote s u c t d fun l => op.value t.signed (src s (tyWidth t) a l) (rhs s (tyWidth t) b l)) ∧
  ∀ (c : Ctl) (t : Ty) (d a b x : Opnd) (s : State), s.me.wf = true → s.verdict (.mad c t d a b x) = .go →
    ∃ u, exec (.mad c t d a b x) s = .next u ∧
      wrote s u c t d fun l => src s (tyWidth t) a l * src s (tyWidth t) b l + src s (tyWidth t) x l

/-- R200, R196: `popc` counts the set bits, `clz` the zero bits above the highest one, and `not` inverts every bit. -/
def Claim.BitCounts : Prop :=
  ∀ (c : Ctl) (t : Ty) (d a : Opnd) (s : State), s.me.wf = true →
    (s.verdict (.popc c t d a) = .go → ∃ u, exec (.popc c t d a) s = .next u ∧
      wrote s u c t d fun l => BitVec.ofNat _ (ones (src s (tyWidth t) a l))) ∧
    (s.verdict (.clz c t d a) = .go → ∃ u, exec (.clz c t d a) s = .next u ∧ wrote s u c t d fun l => (src s (tyWidth t) a l).clz) ∧
    (s.verdict (.not c t d a) = .go → ∃ u, exec (.not c t d a) s = .next u ∧ wrote s u c t d fun l => ~~~(src s (tyWidth t) a l))

/-- R199: every bit of what `bfx` and `bfi` write. The field's position and length are bits [7:0] of their operands, a length above w counts as w. -/
def Claim.BitFields : Prop :=
  ∀ (c : Ctl) (t : Ty) (d a pos len : Opnd) (s : State), s.me.wf = true →
    let w := tyWidth t
    let p (l : Nat) : Nat := (src s w pos l).toNat % 256
    let n (l : Nat) : Nat := min ((src s w len l).toNat % 256) w
    (s.verdict (.bfx c t d a pos len) = .go → ∃ u r, exec (.bfx c t d a pos len) s = .next u ∧ wrote s u c t d r ∧
      ∀ l i, i < w → (r l).getLsbD i =
        if n l = 0 then false
        else if i < n l ∨ t.signed = true then
          let j := p l + min i (n l - 1)
          if j < w then (src s w a l).getLsbD j else t.signed && (src s w a l).msb
        else false) ∧
    (s.verdict (.bfi c t d a pos len) = .go → ∃ u r, exec (.bfi c t d a pos len) s = .next u ∧ wrote s u c t d r ∧
      ∀ l i, i < w → (r l).getLsbD i =
        if p l ≤ i ∧ i < p l + n l then (src s w a l).getLsbD (i - p l) else (src s w d l).getLsbD i)

/-- R190, R191, R192: `li` and `lih` write their literal, `mov` copies its source at the destination's width, and `csel` selects one of two sources by
a predicate's bit or a scalar's being nonzero. -/
def Claim.MovesAndSelects : Prop :=
  ∀ (c : Ctl) (d a b k : Opnd) (n : BitVec 6) (imm : BitVec 32) (s : State), s.me.wf = true →
    (s.verdict (.li c d imm) = .go → ∃ u, exec (.li c d imm) s = .next u ∧ wrote s u c .b32 d fun _ => imm) ∧
    (s.verdict (.lih c n imm) = .go → ∃ u, exec (.lih c n imm) s = .next u ∧ fellThrough s u ∧
      onlyMe s u ∧ u.me.bare = { s.me with s := u.me.s, bad := u.me.bad }.bare ∧ mended s u (· == .s n.toNat true) ∧
      u.me.sreg n.toNat = imm ++ (s.me.sreg n.toNat).extractLsb' 0 32 ∧ ∀ m, m ≠ n.toNat → u.me.sreg m = s.me.sreg m) ∧
    (s.verdict (.mov c d a) = .go → ∃ u, exec (.mov c d a) s = .next u ∧ wrote s u c (destTy d) d fun l => src s _ a l) ∧
    (s.verdict (.csel c d a b k) = .go → ∃ u, exec (.csel c d a b k) s = .next u ∧ wrote s u c (destTy d) d fun l =>
      let first : Bool := match k with
        | .p q => if d.isS then (s.me.preg q.toNat &&& s.me.act c) != 0 else decide (l < 32) && (s.me.preg q.toNat).getLsbD l
        | k => s.opnd k 0 != 0
      if first then src s _ a l else src s _ b l)

/-- R198, R217: what `cmp` and its I form write. `cond` is the condition for a lane: integers by the type's sign, or element 0 of floats by their exact
values, in which a NaN is unordered. -/
def Obligations.Comparisons : Prop :=
  ∀ (i : Instr) (c : Ctl) (cc : Cc) (t : Ty) (d a : Opnd) (b : Opnd ⊕ BitVec 16) (s : State), s.me.wf = true →
    (i = match b with
      | .inl x => Instr.cmp c cc t d a x
      | .inr m => Instr.cmpImm c cc t d a m) → i.wf = true → s.verdict i = .go →
    let cond (l : Nat) : Bool :=
      if t.flt then
        match b with
        | .inl x => ccFloat cc (((fltFmt t).dec ((s.opndF t a l) % 2 ^ (fltFmt t).width)).cmp ((fltFmt t).dec ((s.opndF t x l) % 2 ^ (fltFmt t).width)))
        | .inr _ => false
      else ccValue cc t.signed (src s (tyWidth t) a l) (rhs s (tyWidth t) b l)
    let lanes : Bool := a.perLane || (match b with
      | .inl x => x.perLane
      | .inr _ => false)
    ∃ u, exec i s = .next u ∧ onlyMe s u ∧ fellThrough s u ∧
      match d with
      | .p n => u.me.bare = { s.me with p := u.me.p, bad := u.me.bad }.bare ∧
          mended s u (fun r => n != 7 && s.me.act c == BitVec.allOnes 32 && predOf n.toNat r) ∧ (∀ m, m ≠ n.toNat → u.me.preg m = s.me.preg m) ∧
          ∀ l, l < 32 → (u.me.preg n.toNat).getLsbD l =
            if n = 7 then true else if (s.me.act c).getLsbD l then cond l else (s.me.preg n.toNat).getLsbD l
      | .s n => u.me.bare = { s.me with s := u.me.s, bad := u.me.bad }.bare ∧ mended s u (halvesOf n.toNat) ∧
          (∀ m, m ≠ n.toNat → u.me.sreg m = s.me.sreg m) ∧
          ∀ l, l < 64 → (u.me.sreg n.toNat).getLsbD l =
            if lanes then decide (l < 32) && (s.me.act c).getLsbD l && cond l else cond 0
      | _ => False

/-- R201, R202: `perm` moves lanes of its source, active or not; `red` combines the active lanes in ascending order, and its result is written when its
slot falls.
Per-lane special values as an index are read per lane (log entry 28). -/
def Obligations.LaneMovement : Prop :=
  ∀ (c : Ctl) (m : PermMode) (op : RedOp) (t : Ty) (d a : BitVec 7) (e b : Opnd) (s : State), s.me.wf = true →
    (s.verdict (.perm c m d a b) = .go → ∃ u, exec (.perm c m d a b) s = .next u ∧ wrote s u c .b32 (.v d) fun l =>
      let x := (src s 32 b l).toNat
      s.me.vreg a.toNat (match m with
        | .idx | .bcast => x % 32
        | .rot => (l + x) % 32
        | .xor => l ^^^ (x % 32))) ∧
    (s.verdict (.red c op t e a) = .go → t.wide = false → ∃ u r, exec (.red c op t e a) s = .next u ∧
      (∃ first rest, (List.range 32).filter (fun l => (s.me.act c).getLsbD l) = first :: rest ∧
        r = rest.foldl (fun (x : BitVec 32) l =>
          let y := s.me.vreg a.toNat l
          match op with
          | .add => x + y
          | .min => IntOp.min.value t.signed x y
          | .max => IntOp.max.value t.signed x y
          | .and => x &&& y
          | .or => x ||| y
          | .xor => x ^^^ y) (s.me.vreg a.toNat first)) ∧
      inFlight s u c .other (.regs (match e with
        | .v n => ((List.range 32).filter fun l => (s.me.act c).getLsbD l).map fun l => .v n.toNat l r
        | .s n => [.s n.toNat (if t = .i32 then r.signExtend 64 else r.setWidth 64)]
        | _ => []) 0))

/-- R203, R204: `gaddr` with a loaded chart of number 0 to 15 writes berth and offset of each active lane's element into its pair of registers, or of the
lowest active lane's into a scalar pair; any other chart number faults BAD_COMMAND, and a chart that fails its parity (R355) as a register does. -/
def Claim.ChartAddresses : Prop :=
  ∀ (c : Ctl) (d a b : Opnd) (x : Option Opnd) (s : State), s.me.wf = true → (Instr.gaddr c d a b x).wf = true →
    s.verdict (.gaddr c d a b x) = .go →
    let chart := (s.ctx? s.me.ctx).bind fun k => (k.charts.find? (·.1 == (s.opnd a 0).toNat)).map Prod.snd
    let pair (r : List Word) (l : Nat) : Nat × Nat := chartAddr r (coords (src s 32 b l).toNat (match x with
      | none => 0
      | some y => (src s 32 y l).toNat))
    let failing : Prop := ∃ k, s.ctx? s.me.ctx = some k ∧ (s.opnd a 0).toNat ∈ k.badCharts
    (∀ r, chart = some r → (s.opnd a 0).toNat ≤ 15 → failing → isHm s.me.gwn = false →
      exec (.gaddr c d a b x) s = .next (s.failTask s.me.crew ⟨0x15, 5, s.me.pc, 0⟩)) ∧
    (∀ r, chart = some r → (s.opnd a 0).toNat ≤ 15 → ¬ failing → ∃ u, exec (.gaddr c d a b x) s = .next u ∧ onlyMe s u ∧ fellThrough s u ∧
      match d with
      | .v n => u.me.bare = { s.me with v := u.me.v, bad := u.me.bad }.bare ∧
          mended s u (fun r => lanesOf s c n.toNat r || lanesOf s c (n.toNat + 1) r) ∧ ∀ m l, l < 32 → u.me.vreg m l =
          if (s.me.act c).getLsbD l = true ∧ m = n.toNat then BitVec.ofNat 32 (pair r l).1
          else if (s.me.act c).getLsbD l = true ∧ m = n.toNat + 1 then BitVec.ofNat 32 (pair r l).2 else s.me.vreg m l
      | .s n => u.me.bare = { s.me with s := u.me.s, bad := u.me.bad }.bare ∧
          mended s u (fun r => halvesOf n.toNat r || halvesOf (n.toNat + 1) r) ∧ ∃ low, laneOn s c low ∧ (∀ l, laneOn s c l → low ≤ l) ∧
          ∀ m, u.me.sreg m = if m = n.toNat then BitVec.ofNat 64 (pair r low).1
            else if m = n.toNat + 1 then BitVec.ofNat 64 (pair r low).2 else s.me.sreg m
      | _ => False) ∧
    (chart = none ∨ 15 < (s.opnd a 0).toNat → s.me.tx.depth = 0 → isHm s.me.gwn = false →
      exec (.gaddr c d a b x) s = .next (s.failTask s.me.crew ⟨0x09, 0, s.me.pc, 0⟩))

/-- R204: an element of a chart inside its extents lies at the owner and offset that the block arithmetic gives; one outside them is marked by all ones. One
dimension: berth first + (c / b) mod P, offset own × share + ((c / b) / P × b + c mod b) × z modulo 2^32. -/
def Claim.ChartArithmetic : Prop :=
  ∀ (r : List Word) (x : Nat), wordBits r 0 62 2 = 0 →
    let ext := wordBits r 2 0 16 + 1
    let blk := wordBits r 2 16 16 + 1
    let grid := wordBits r 2 32 8 + 1
    (x < ext → chartAddr r [x, 0, 0, 0] =
      (wordBits r 0 48 8 + x / blk % grid,
       (x / blk % grid * wordBits r 1 0 32 + (x / blk / grid * blk + x % blk) * 2 ^ wordBits r 0 59 3) % 2 ^ 32)) ∧
    (ext ≤ x → chartAddr r [x, 0, 0, 0] = (0xFFFFFFFF, 0xFFFFFFFF)) ∧
    ∀ y z w, (y ≠ 0 ∨ z ≠ 0 ∨ w ≠ 0) → chartAddr r [x, y, z, w] = (0xFFFFFFFF, 0xFFFFFFFF)

/-- R203, R204: `gaddr`, and the block arithmetic of one dimension.
A scalar chart number is read in all its bits, whatever the destination (log entry 118), and which charts fail their parity is data of the state (log entries 21, 77). -/
def Obligations.Charts : Prop := Claim.ChartAddresses ∧ Claim.ChartArithmetic

/-- R194: `mulh` writes the upper half of the exact 128-bit product, signed for i64. -/
def Claim.UpperProduct : Prop :=
  ∀ (c : Ctl) (t : Ty) (d : BitVec 6) (a b : Opnd) (s : State), s.me.wf = true → s.verdict (.mulh c t d a b) = .go →
    ∃ u, exec (.mulh c t d a b) s = .next u ∧ fellThrough s u ∧ wroteScalar s u d
      (if t = .i64 then ((s.opnd a 0).signExtend 128 * (s.opnd b 0).signExtend 128).extractLsb' 64 64
       else ((s.opnd a 0).setWidth 128 * (s.opnd b 0).setWidth 128).extractLsb' 64 64)

/-- R194, R196, R199, R200: the bit counts, the inversion, the bit fields and the upper half of a product. -/
def Obligations.ScalarHelpers : Prop := Claim.BitCounts ∧ Claim.BitFields ∧ Claim.UpperProduct

/-! ## Control (R179 to R189) -/

/-- R180: `br` goes to PC + 8 + 8 × OFF24 when its condition holds over the active lanes or the scalar, and falls through when not. -/
def Claim.Branches : Prop :=
  ∀ (c : Ctl) (cond : BrCond) (off : BitVec 24) (s : State), s.verdict (.br c cond off) = .go →
    let taken : Prop := match cond with
      | .always => True
      | .z n => s.me.sreg n.toNat = 0
      | .nz n => s.me.sreg n.toNat ≠ 0
      | .ltz n => (s.me.sreg n.toNat).toInt < 0
      | .gez n => 0 ≤ (s.me.sreg n.toNat).toInt
      | .any p => ∃ l, laneOn s c l ∧ (s.me.preg p.toNat).getLsbD l = true
      | .all p => ∀ l, laneOn s c l → (s.me.preg p.toNat).getLsbD l = true
      | .none p => ¬ ∃ l, laneOn s c l ∧ (s.me.preg p.toNat).getLsbD l = true
    (taken → ∃ u, exec (.br c cond off) s = .next u ∧ jumped s u (s.me.pc + 8 + 8 * off.signExtend 64) ∧ u.me.bare = s.me.bare) ∧
    (¬ taken → ∃ u, exec (.br c cond off) s = .next u ∧ onlyIssued s u)

/-- R181, R182: the links and targets of `call`, `lea`, `jr` and `jalr`; `jr` and `jalr` to an address that is not a multiple of 8 fault MISALIGNED
at themselves. `nop` (R179) only falls through. -/
def Claim.CallsAndJumps : Prop :=
  ∀ (c : Ctl) (d a : BitVec 6) (off : BitVec 24) (s : State), s.me.wf = true →
    (s.verdict (.nop c) = .go → ∃ u, exec (.nop c) s = .next u ∧ onlyIssued s u) ∧
    (s.verdict (.lea c d off) = .go → ∃ u, exec (.lea c d off) s = .next u ∧ fellThrough s u ∧
      wroteScalar s u d (s.me.pc + 8 + 8 * off.signExtend 64)) ∧
    (s.verdict (.call c d off) = .go → ∃ u, exec (.call c d off) s = .next u ∧
      wroteScalar s u d (s.me.pc + 8) ∧ jumped s u (s.me.pc + 8 + 8 * off.signExtend 64)) ∧
    (s.verdict (.jr c a) = .go → (s.me.sreg a.toNat).toNat % 8 = 0 → ∃ u, exec (.jr c a) s = .next u ∧
      jumped s u (s.me.sreg a.toNat) ∧ u.me.bare = s.me.bare) ∧
    (s.verdict (.jalr c d a) = .go → (s.me.sreg a.toNat).toNat % 8 = 0 → ∃ u, exec (.jalr c d a) s = .next u ∧
      wroteScalar s u d (s.me.pc + 8) ∧ jumped s u (s.me.sreg a.toNat)) ∧
    ((s.me.sreg a.toNat).toNat % 8 ≠ 0 → s.me.tx.depth = 0 → isHm s.me.gwn = false →
      (s.verdict (.jr c a) = .go → exec (.jr c a) s = .next (s.failTask s.me.crew ⟨0x03, 0, s.me.pc, 0⟩)) ∧
      (s.verdict (.jalr c d a) = .go → exec (.jalr c d a) s = .next (s.failTask s.me.crew ⟨0x03, 0, s.me.pc, 0⟩)))

/-- R179 to R183: where branches, calls and jumps go, and what they link. -/
def Obligations.ControlTransfer : Prop := Claim.Branches ∧ Claim.CallsAndJumps

/-- R186, R187: what `loop` does at PC, with END = PC + 8 + 8 × OFF24 and the count at most 0xFFFF_FFFF: it arms its counter, which becomes the inner one, or
skips the body for a count of 0; a counter that it replaces goes with the one armed after it; a `loop` inside its own counter's body, as a body's last
word, or improperly nested faults LOOP_DEPTH and leaves every entry as it is. -/
def Claim.LoopArms : Prop :=
  ∀ (c : Ctl) (k : Bool) (count : Opnd) (off : BitVec 24) (s : State), s.verdict (.loop c k count off) = .go →
    let pc := s.me.pc
    let stop := pc + 8 + 8 * off.signExtend 64
    let own := if k then s.me.loops.l1 else s.me.loops.l0
    let other := if k then s.me.loops.l0 else s.me.loops.l1
    let n := min (s.opnd count 0).toNat 0xFFFFFFFF
    let inside (e : LoopEntry) : Prop := e.armed = true ∧ e.start.toNat ≤ pc.toNat ∧ pc.toNat ≤ e.stop.toNat
    let bad : Prop := inside own ∨ (own.armed = true ∧ own.stop = pc) ∨ (other.armed = true ∧ other.stop = pc) ∨
      (inside other ∧ other.stop.toNat < stop.toNat)
    let goes : Bool := own.armed && other.armed && (s.me.loops.inner1 != k)
    (bad → isHm s.me.gwn = false → exec (.loop c k count off) s = .next (s.failTask s.me.crew ⟨0x08, 0, pc, 0⟩)) ∧
    (¬ bad → ∃ u, exec (.loop c k count off) s = .next u ∧ onlyMe s u ∧ u.me.bare = { s.me with bad := u.me.bad }.bare ∧
      mended s u (fun r => n != 0 && r == .lc k) ∧
      (if k then u.me.loops.l0 else u.me.loops.l1) = (if goes then { other with armed := false } else other) ∧
      (if n = 0 then u.me.pc = stop + 8 ∧ (if k then u.me.loops.l1 else u.me.loops.l0).armed = false
       else u.me.pc = pc + 8 ∧ u.me.loops.inner1 = k ∧ (if k then u.me.loops.l1 else u.me.loops.l0) = ⟨true, BitVec.ofNat 32 n, pc + 8, stop⟩))

/-- R188: the end check of an instruction that falls through at the last word of the inner entry's body: the count goes down by one; while it is not
zero the body starts again, and at zero the entry is disarmed and the outer entry is checked in the same step. -/
def Claim.LoopEnds : Prop :=
  ∀ (w : Wave), let inner := if w.loops.inner1 then w.loops.l1 else w.loops.l0
    let outer := if w.loops.inner1 then w.loops.l0 else w.loops.l1
    let innerNow := if w.fallThrough.loops.inner1 then w.fallThrough.loops.l1 else w.fallThrough.loops.l0
    let outerNow := if w.fallThrough.loops.inner1 then w.fallThrough.loops.l0 else w.fallThrough.loops.l1
    let ends (e : LoopEntry) : Prop := e.armed = true ∧ e.stop = w.pc
    w.fallThrough.loops.inner1 = w.loops.inner1 ∧
    (ends inner → 2 ≤ inner.count.toNat → w.fallThrough.pc = inner.start ∧ innerNow = { inner with count := inner.count - 1 } ∧ outerNow = outer) ∧
    (ends inner → inner.count = 1 → innerNow.armed = false) ∧
    ((ends inner ∧ inner.count = 1) ∨ ¬ ends inner → ends outer → 2 ≤ outer.count.toNat →
      w.fallThrough.pc = outer.start ∧ outerNow = { outer with count := outer.count - 1 }) ∧
    ((ends inner ∧ inner.count = 1) ∨ ¬ ends inner → ends outer → outer.count = 1 →
      w.fallThrough.pc = w.pc + 8 ∧ outerNow.armed = false) ∧
    ((ends inner ∧ inner.count = 1) ∨ ¬ ends inner → ¬ ends outer → w.fallThrough.pc = w.pc + 8 ∧ outerNow = outer) ∧
    (¬ ends inner → innerNow = inner)

/-- R185 to R188: how a hardware loop is armed, and the end check. -/
def Obligations.HardwareLoops : Prop := Claim.LoopArms ∧ Claim.LoopEnds

/-! ## Floating point (R70 to R94, R206 to R231) -/

/-- R212, R213, R88: a fixed-latency float instruction writes, in each element of each active lane, its exact result rounded once, and ORs the flags of
every active lane into FLAGS; nothing else changes. -/
def Obligations.FloatArithmetic : Prop :=
  ∀ (i : Instr) (c : Ctl) (t : Ty) (d : BitVec 7) (f : Nat → Nat → Nat × Flags) (s : State),
    floatParts s i = some (c, t, d, f) → s.me.wf = true → s.verdict i = .go →
    ∃ u, exec i s = .next u ∧ onlyMe s u ∧ fellThrough s u ∧
      u.me.bare = { s.me with v := u.me.v, flags := u.me.flags, bad := u.me.bad }.bare ∧ mended s u (lanesOf s c d.toNat) ∧
      (∀ l, laneOn s c l → u.me.vreg d.toNat l = joinElems t fun h => (f l h).1) ∧
      (∀ m l, l < 32 → (m ≠ d.toNat ∨ ¬ laneOn s c l) → u.me.vreg m l = s.me.vreg m l) ∧
      ∀ k, k < 5 → (u.me.flags.getLsbD k = true ↔
        s.me.flags.getLsbD k = true ∨ ∃ l h, laneOn s c l ∧ h < elemCount t ∧ (f l h).2.getLsbD k = true)

/-- R79, R80: a rounded value that does not overflow keeps the direction of its mode: `.rz` goes no further from zero, `.rd` no higher and `.ru` no lower
than the exact value, and `.rne` takes a value that no value of the format is nearer than. Without INX the value is exact. -/
def Claim.RoundingIsCorrect : Prop :=
  ∀ (f : Fmt) (rm : Rm) (sat neg : Bool) (g m : Nat) (e : Int), f ∈ floatFormats → m ≠ 0 → g < 2 ^ 16 →
    let r := f.round rm sat g (.num neg m e)
    let x := (if neg then -1 else 1) * (m : ℚ) * 2 ^ e
    r.2 &&& fOVF = 0 →
    ∃ v, ratOf (f.dec r.1) = some v ∧
      (r.2 &&& fINX = 0 → v = x) ∧
      (rm = .rz → |v| ≤ |x|) ∧ (rm = .rd → v ≤ x) ∧ (rm = .ru → x ≤ v) ∧
      (rm = .rne → ∀ y q, ratOf (f.dec y) = some q → |x - v| ≤ |x - q|)

/-- R72, R79: every encoding of a finite value rounds to itself in every mode and sets no flag. -/
def Claim.FiniteValuesAreExact : Prop :=
  ∀ (f : Fmt) (rm : Rm) (sat : Bool) (g x : Nat), f ∈ floatFormats → x < 2 ^ f.width → (ratOf (f.dec x)).isSome = true →
    f.round rm sat g (f.dec x) = (x, 0)

/-- R72, R79, R80: a value is rounded in the direction of its mode, and a value of the format not at all. -/
def Obligations.Rounding : Prop := Claim.RoundingIsCorrect ∧ Claim.FiniteValuesAreExact

/-- R83, R212 to R216: a NaN operand gives the canonical NaN and no flag; ∞ − ∞, 0 × ∞, 0 / 0, ∞ / ∞ by either sign and the root of a negative value give it
and set INV; `min` and `max` of one NaN, first or second, give the other operand, and of two the canonical NaN. -/
def Claim.NanResults : Prop :=
  ∀ (f : Fmt) (rm : Rm) (g a b : Nat), f ∈ [fmtF32, fmtBF16, fmtF16] →
    ((f.dec a = .nan ∨ f.dec b = .nan) →
      f.fadd rm g a b = (f.cnan, 0) ∧ f.fsub rm g a b = (f.cnan, 0) ∧ f.fmul rm g a b = (f.cnan, 0) ∧ f.fdiv rm g a b = (f.cnan, 0)) ∧
    (f.dec a = .nan → f.fsqrt rm g a = (f.cnan, 0) ∧ f.absNeg false a = f.cnan ∧ f.absNeg true a = f.cnan) ∧
    (∀ greater, (f.dec a = .nan → f.dec b ≠ .nan → f.minMax greater a b = b % 2 ^ f.width) ∧
      (f.dec a ≠ .nan → f.dec b = .nan → f.minMax greater a b = a % 2 ^ f.width) ∧
      (f.dec a = .nan → f.dec b = .nan → f.minMax greater a b = f.cnan)) ∧
    (∀ n k, f.dec a = .inf n → f.dec b = .inf k → f.fdiv rm g a b = (f.cnan, fINV) ∧
      (n = k → f.fsub rm g a b = (f.cnan, fINV)) ∧ (n ≠ k → f.fadd rm g a b = (f.cnan, fINV))) ∧
    (∀ n p k, f.dec a = .inf n → f.dec b = .num p 0 k → f.fmul rm g a b = (f.cnan, fINV) ∧ f.fmul rm g b a = (f.cnan, fINV)) ∧
    (∀ n k p q, f.dec a = .num n 0 k → f.dec b = .num p 0 q → f.fdiv rm g a b = (f.cnan, fINV)) ∧
    (∀ m k, f.dec a = .num true m k → m ≠ 0 → f.fsqrt rm g a = (f.cnan, fINV))

/-- R209, R214, R220, R19, R88: the functions of the transcendental pipe are in flight with the result of each element of each active lane, correctly rounded
for `div` and `sqrt`, and with the flags of all of them. -/
def Claim.TranscendentalPipe : Prop :=
  ∀ (i : Instr) (c : Ctl) (t : Ty) (d : BitVec 7) (f : Nat → Nat → Nat × Flags) (s : State),
    pipeParts s i = some (c, t, d, f) → s.verdict i = .go →
    ∃ u fl, exec i s = .next u ∧
      inFlight s u c .other (.regs (((List.range 32).filter fun l => (s.me.act c).getLsbD l).map fun l =>
        .v d.toNat l (joinElems t fun h => (f l h).1)) fl) ∧
      ∀ k, k < 5 → (fl.getLsbD k = true ↔ ∃ l h, laneOn s c l ∧ h < elemCount t ∧ (f l h).2.getLsbD k = true)

/-- R220, R221: the exact results that the table of R220 lists for F32 operands, and its invalid operands. That an infinity of a finite operand sets OVF and INX,
and a subnormal one UNF and INX, where the table lists the result, is the model's reading of R221 (DEDUCED, log entry 22). -/
def Claim.ApproximateSpecialCases : Prop :=
  (∀ fn x, fmtF32.dec x = .nan → fmtF32.approx fn x = (0x7FC00000, 0)) ∧
  fmtF32.approx .rcp 0x00000000 = (0x7F800000, fINX ||| fOVF) ∧ fmtF32.approx .rcp 0x80000000 = (0xFF800000, fINX ||| fOVF) ∧
  fmtF32.approx .rcp 0x7F800000 = (0, 0) ∧ fmtF32.approx .rcp 0xFF800000 = (0x80000000, 0) ∧
  (∀ k, 1 ≤ k → k ≤ 253 → fmtF32.approx .rcp (k * 2 ^ 23) = ((254 - k) * 2 ^ 23, 0)) ∧
  fmtF32.approx .rcp 0x7F000000 = (0x00400000, fINX ||| fUNF) ∧ fmtF32.approx .exp2 0xC3020000 = (0x00080000, fINX ||| fUNF) ∧
  fmtF32.approx .rsqrt 0 = (0x7F800000, fINX ||| fOVF) ∧ fmtF32.approx .rsqrt 0x80000000 = (0xFF800000, fINX ||| fOVF) ∧ fmtF32.approx .rsqrt 0x7F800000 = (0, 0) ∧
  fmtF32.approx .rsqrt 0x40800000 = (0x3F000000, 0) ∧ fmtF32.approx .rsqrt 0xBF800000 = (0x7FC00000, fINV) ∧
  fmtF32.approx .exp2 0 = (0x3F800000, 0) ∧ fmtF32.approx .exp2 0x80000000 = (0x3F800000, 0) ∧ fmtF32.approx .exp2 0xFF800000 = (0, 0) ∧
  fmtF32.approx .exp2 0x7F800000 = (0x7F800000, 0) ∧ fmtF32.approx .exp2 0x40400000 = (0x41000000, 0) ∧
  fmtF32.approx .exp2 0x43000000 = (0x7F800000, fINX ||| fOVF) ∧
  (∀ k, 1 ≤ k → k ≤ 254 → fmtF32.approx .log2 (k * 2 ^ 23) = ((fmtF32.round .rne false 0 (FVal.ofInt ((k : Int) - 127))).1, 0)) ∧
  fmtF32.approx .log2 0 = (0xFF800000, fINX ||| fOVF) ∧ fmtF32.approx .log2 0x7F800000 = (0x7F800000, 0) ∧
  fmtF32.approx .log2 0xBF800000 = (0x7FC00000, fINV) ∧
  fmtF32.approx .sin 0 = (0, 0) ∧ fmtF32.approx .sin 0x80000000 = (0x80000000, 0) ∧ fmtF32.approx .sin 0x7F800000 = (0x7FC00000, fINV) ∧
  fmtF32.approx .cos 0 = (0x3F800000, 0) ∧ fmtF32.approx .cos 0x80000000 = (0x3F800000, 0) ∧ fmtF32.approx .cos 0xFF800000 = (0x7FC00000, fINV) ∧
  fmtF32.approx .tanh 0 = (0, 0) ∧ fmtF32.approx .tanh 0x80000000 = (0x80000000, 0) ∧ fmtF32.approx .tanh 0x7F800000 = (0x3F800000, 0) ∧
  fmtF32.approx .tanh 0xFF800000 = (0xBF800000, 0) ∧ fmtF32.approx .tanh 0x41200000 = (0x3F800000, 0)

/-- R83, R212 to R216, R220, R221: the results of NaNs, infinities and zeros. -/
def Obligations.SpecialFloatResults : Prop := Claim.NanResults ∧ Claim.ApproximateSpecialCases

/-- R222, R223: `cvt` converts one element of a lane, or two where both types have 16 bits, and clears the rest of the lane; it ORs the flags of every active
lane. An integer source or destination saturates at the destination's range, and a NaN gives 0 with INV (R86): a float is rounded to an integer under the mode, and one
that is out of range, an infinity too, gives the nearest bound with SAT. -/
def Obligations.Conversions : Prop :=
  (∀ (c : Ctl) (dt st : Ty) (rm : Rm) (d : BitVec 7) (a : Opnd) (g : Option Opnd) (s : State), s.me.wf = true →
    s.verdict (.cvt c dt st rm d a g) = .go →
    let half (t : Ty) : Bool := t == .bf16 || t == .f16
    let n : Nat := if half dt && half st then 2 else 1
    let r (l h : Nat) : Nat × Flags := cvtElem dt st rm (s.randOf g l / 2 ^ (16 * h) % 2 ^ 16)
      (if n = 2 then s.cvtSrc st a l / 2 ^ (16 * h) % 2 ^ 16 else s.cvtSrc st a l)
    ∃ u, exec (.cvt c dt st rm d a g) s = .next u ∧ onlyMe s u ∧ fellThrough s u ∧
      u.me.bare = { s.me with v := u.me.v, flags := u.me.flags, bad := u.me.bad }.bare ∧ mended s u (lanesOf s c d.toNat) ∧
      (∀ l, laneOn s c l → u.me.vreg d.toNat l = BitVec.ofNat 32 ((r l 0).1 + if n = 2 then (r l 1).1 * 2 ^ 16 else 0)) ∧
      (∀ m l, l < 32 → (m ≠ d.toNat ∨ ¬ laneOn s c l) → u.me.vreg m l = s.me.vreg m l) ∧
      ∀ k, k < 5 → (u.me.flags.getLsbD k = true ↔ s.me.flags.getLsbD k = true ∨ ∃ l h, laneOn s c l ∧ h < n ∧ (r l h).2.getLsbD k = true)) ∧
  (∀ st rm g, (Fmt.ofTy st).isSome = true → ∀ x, cvtValue st x = .nan → cvtElem .n32 st rm g x = (0, fINV) ∧ cvtElem .i32 st rm g x = (0, fINV)) ∧
  (∀ dt st rm g x, (dt = .i32 ∨ dt = .n32) → (Fmt.ofTy st).isSome = true →
    let top : Int := if dt = .i32 then 2 ^ 31 - 1 else 2 ^ 32 - 1
    let low : Int := if dt = .i32 then -2 ^ 31 else 0
    (∀ neg, cvtValue st x = .inf neg → cvtElem dt st rm g x = (((if neg then low else top) % 2 ^ 32).toNat, fSAT)) ∧
    ∀ neg m e, cvtValue st x = .num neg m e →
      let v := (if neg then -1 else 1) * (m : ℚ) * 2 ^ e
      ∃ n : Int, |v - n| < 1 ∧ (rm = .rz → |(n : ℚ)| ≤ |v|) ∧ (rm = .rd → (n : ℚ) ≤ v) ∧ (rm = .ru → v ≤ n) ∧ (rm = .rne → |v - n| ≤ 1 / 2) ∧
        cvtElem dt st rm g x = (if top < n then (top.toNat, fSAT) else if n < low then ((low % 2 ^ 32).toNat, fSAT)
          else ((n % 2 ^ 32).toNat, if (n : ℚ) = v then 0 else fINX))) ∧
  (∀ rm g x, x < 2 ^ 32 → cvtElem .n32 .i32 rm g x = (if 2 ^ 31 ≤ x then (0, fSAT) else (x, 0))) ∧
  ∀ rm g x, x < 2 ^ 32 → cvtElem .i32 .n32 rm g x = (if 2 ^ 31 ≤ x then (2 ^ 31 - 1, fSAT) else (x, 0))

/-- R224 to R229: a block quantized into an element field and its scale (`bq`), a block expanded (`bdq`), an index into an existing scale (`cbq`) and two
entries of a code table (`cbl`): which registers and lanes each writes, every other register and all of memory unchanged. No entry of the active bank fails its parity (R355; log entry
77); one that does, and is read, faults as a register does.
What an infinity and a table without a finite entry give is the model's (log entries 72, 73). -/
def Obligations.BlocksAndCodebooks : Prop :=
  ∀ (c : Ctl) (t et : Ty) (rm : Rm) (tab : BitVec 3) (d a : BitVec 7) (x y : Opnd) (s : State), s.me.wf = true →
    let q := (Elem.float (fltFmt t)).quantBlock ((List.range 128).map fun j => fmtF32.dec (s.me.vreg (a.toNat + j / 32) (j % 32)).toNat)
    let table (n : Nat) : List (BitVec 16) := (s.core (unitOf s.me.gwn)).table n ((s.core (unitOf s.me.gwn)).activeBank n)
    let kept (u : State) : Prop := onlyMe s u ∧ fellThrough s u ∧
      u.me.bare = { s.me with v := u.me.v, flags := u.me.flags, tabUse := u.me.tabUse, bad := u.me.bad }.bare
    let good (n : Nat) : Prop := s.tableBad n (fun _ => true) = false
    (s.verdict (.bq c t d a) = .go → ∃ u, exec (.bq c t d a) s = .next u ∧ kept u ∧ u.me.flags = s.me.flags ||| q.flags ∧
      u.me.tabUse = s.me.tabUse ∧ mended s u (regsFrom d.toNat 2) ∧
      ∀ m l, l < 32 → u.me.vreg m l = if m = d.toNat then BitVec.ofNat 32 (packField (narWidth t) q.elems >>> (32 * l))
        else if m = d.toNat + 1 then (if l = 0 then BitVec.ofNat 32 q.scale else 0) else s.me.vreg m l) ∧
    (s.verdict (.bdq c t et rm d x y) = .go →
      let k : BitVec 32 := BitVec.ofNat 32 (s.opndF t y 0)
      let el : Elem := if et = .cb4 then .cb4 (table ((k.toNat / 256) % 8)) else .float (fltFmt et)
      let field := lanesToNat ((List.range 32).map fun l => BitVec.ofNat 32 (s.opndF t x l))
      (et = .cb4 → good ((k.toNat / 256) % 8)) → ∃ u, exec (.bdq c t et rm d x y) s = .next u ∧ kept u ∧
        mended s u (regsFrom d.toNat (if t = .f32 then 4 else 2)) ∧
        ∀ m l, l < 32 → u.me.vreg m l =
          if t = .f32 then (if d.toNat ≤ m ∧ m < d.toNat + 4 then
            BitVec.ofNat 32 (el.toF32 rm (k.toNat % 256) (fieldElem (narWidth et) field (32 * (m - d.toNat) + l))).1 else s.me.vreg m l)
          else if d.toNat ≤ m ∧ m < d.toNat + 2 then
            let half (h : Nat) : Nat := (el.toBf16 (k.toNat % 256) (fieldElem (narWidth et) field (64 * (m - d.toNat) + 2 * l + h))).1
            BitVec.ofNat 32 (half 0 + half 1 * 2 ^ 16)
          else s.me.vreg m l) ∧
    (s.verdict (.cbq c tab d x y) = .go → good tab.toNat → ∃ u, exec (.cbq c tab d x y) s = .next u ∧ kept u ∧
      mended s u (lanesOf s c d.toNat) ∧
      ∀ m l, l < 32 → u.me.vreg m l = if m = d.toNat ∧ (s.me.act c).getLsbD l = true then
        BitVec.ofNat 32 ((Elem.cb4 (table tab.toNat)).quantInto ((src s 32 y l).toNat % 256) (fmtF32.dec (src s 32 x l).toNat)).1 else s.me.vreg m l) ∧
    (s.verdict (.cbl c tab d x y) = .go → good tab.toNat → ∃ u, exec (.cbl c tab d x y) s = .next u ∧ kept u ∧
      u.me.flags = s.me.flags ∧ mended s u (lanesOf s c d.toNat) ∧
      ∀ m l, l < 32 → u.me.vreg m l = if m = d.toNat ∧ (s.me.act c).getLsbD l = true then
        let byte := (src s 32 x l >>> (8 * ((src s 32 y l).toNat % 4))).toNat % 256
        (table tab.toNat).getD (byte / 16) 0 ++ (table tab.toNat).getD (byte % 16) 0 else s.me.vreg m l) ∧
    (s.verdict (.cbq c tab d x y) = .go → ¬ good tab.toNat → isHm s.me.gwn = false →
      exec (.cbq c tab d x y) s = .next (s.failTask s.me.crew ⟨0x15, 5, s.me.pc, 0⟩))

/-- R230: one round of `rnd128`, iterated twelve times from the counter and the key, gives the words that are in flight for each active lane. -/
def Claim.RandomNumbers : Prop :=
  ∀ (c : Ctl) (d a : BitVec 7) (b : BitVec 6) (s : State), s.verdict (.rnd128 c d a b) = .go →
    let k := s.me.sreg b.toNat
    let round (x : Lane × Lane × Lane × Lane × Lane × Lane) : Lane × Lane × Lane × Lane × Lane × Lane :=
      let y0 := x.1 + (x.2.1 ^^^ x.2.2.2.2.1)
      let y1 := x.2.1.rotateLeft 7 ^^^ y0
      let y2 := x.2.2.1 + (x.2.2.2.1 ^^^ x.2.2.2.2.2)
      let y3 := x.2.2.2.1.rotateLeft 13 ^^^ y2
      (y0, y3, y2, y1, x.2.2.2.2.1 + 0x9E6C63D1, x.2.2.2.2.2 + 0xB5A30F27)
    let out (l : Nat) : List Lane :=
      let x := (List.range 12).foldl (fun x _ => round x) (s.me.vreg a.toNat l, s.me.vreg (a.toNat + 1) l, s.me.vreg (a.toNat + 2) l,
        s.me.vreg (a.toNat + 3) l, k.extractLsb' 0 32, k.extractLsb' 32 32)
      [x.1 ^^^ x.2.2.2.2.2, x.2.1 ^^^ x.2.2.2.2.1, x.2.2.1 ^^^ x.2.2.2.2.2, x.2.2.2.1 ^^^ x.2.2.2.2.1]
    ∃ u, exec (.rnd128 c d a b) s = .next u ∧
      inFlight s u c .other (.regs (((List.range 32).filter fun l => (s.me.act c).getLsbD l).flatMap fun l =>
        (List.range 4).map fun i => .v (d.toNat + i) l ((out l).getD i 0)) 0)

/-- R209, R214, R220, R230: what the transcendental pipe and `rnd128` put in flight.
Which registers fail their parity is data of the state (log entries 21, 77). -/
def Obligations.VariableLatencyVectors : Prop := Claim.TranscendentalPipe ∧ Claim.RandomNumbers

/-- R231: `flget` writes FLAGS, zero-extended, to its scalar; `flclr` clears the bits of FLAGS that bits [4:0] of its operand set, at its issue. `xstat` (R138,
R247) writes TXS to its scalar and changes nothing else. -/
def Claim.FlagsAndStatus : Prop :=
  ∀ (c : Ctl) (d : BitVec 6) (m : Opnd) (s : State), s.me.wf = true →
    (s.verdict (.flget c d) = .go → ∃ u, exec (.flget c d) s = .next u ∧ fellThrough s u ∧ wroteScalar s u d (s.me.flags.setWidth 64)) ∧
    (s.verdict (.flclr c m) = .go → ∃ u, exec (.flclr c m) s = .next u ∧ onlyMe s u ∧ fellThrough s u ∧
      u.me.bare = { s.me with flags := u.me.flags, bad := u.me.bad }.bare ∧
      mended s u (fun r => (s.opnd m 0).setWidth 5 == BitVec.allOnes 5 && r == .flags) ∧
      ∀ k, k < 5 → u.me.flags.getLsbD k = (s.me.flags.getLsbD k && !(s.opnd m 0).getLsbD k)) ∧
    (s.verdict (.xstat c d) = .go → ∃ u, exec (.xstat c d) s = .next u ∧ fellThrough s u ∧ wroteScalar s u d s.me.txs ∧
      (s.me.tx.last < 8 → u.me.sreg d.toNat &&& 7 = BitVec.ofNat 64 s.me.tx.last) ∧
      (s.me.tx.last < 8 → s.me.tx.depth < 16 → (u.me.sreg d.toNat >>> 16) &&& 15 = BitVec.ofNat 64 s.me.tx.depth))

/-- R190, R191, R192, R231, R247: literals, moves, selections, and the reads and the clearing of the status.
What a harbourmaster core reads of itself is the model's reading (log entry 30). -/
def Obligations.MovesSelectsAndStatus : Prop := Claim.MovesAndSelects ∧ Claim.FlagsAndStatus

/-! ## Memory (R95 to R136, R232 to R246) -/

/-- R161, R232, R234, R236, R237, R119, R17: outside a transaction a load or store of scratch whose addresses are aligned and inside the allocation is in
flight with one field for each active lane, or one for scalar data, at base + index × size + OFS8 × size; a store's data are read at issue. A misaligned field
faults MISALIGNED, one past the allocation SCRATCH_RANGE (R233). -/
def Claim.ScratchAccesses : Prop :=
  ∀ (c : Ctl) (t : LdTy) (o : MemOrd) (d : Opnd) (m : MemArg) (s : State), s.me.tx.depth = 0 → isHm s.me.gwn = false →
    let n := ldBytes t
    let ls := memLanes s c d m
    let fits : Prop := ∀ l ∈ ls, memAt s m n l % n = 0 ∧ memAt s m n l + n ≤ s.scrSize
    (fits → s.verdict (.ldS c t o d m) = .go → ∃ u, exec (.ldS c t o d m) s = .next u ∧
      inFlight s u c (if MemOrd.isAcq o then .acq else .ld) (.load d t (ls.map fun l => (l, scrTarget (memAt s m n l))) (MemOrd.isAcq o)
        (ls.map fun l => scrTarget (memAt s m n l)) [] 0)) ∧
    (fits → s.verdict (.stS c t o d m) = .go → ∃ u, exec (.stS c t o d m) s = .next u ∧
      inFlight s u c (if o = .plain then .st else if MemOrd.isCore o then .relc else .rel)
        (.store n (ls.map fun l => (l, scrTarget (memAt s m n l), dataAt s t d l)) (MemOrd.isSys o))) ∧
    (∀ l ∈ ls, memAt s m n l % n ≠ 0 → (∀ k ∈ ls, k < l → memAt s m n k % n = 0) →
      (s.verdict (.ldS c t o d m) = .go →
        exec (.ldS c t o d m) s = .next (s.failTask s.me.crew ⟨0x03, 0, s.me.pc, BitVec.ofNat 64 (memAt s m n l)⟩)) ∧
      (s.verdict (.stS c t o d m) = .go →
        exec (.stS c t o d m) s = .next (s.failTask s.me.crew ⟨0x03, 0, s.me.pc, BitVec.ofNat 64 (memAt s m n l)⟩))) ∧
    ((∀ l ∈ ls, memAt s m n l % n = 0) → ∀ l ∈ ls, s.scrSize < memAt s m n l + n → (∀ k ∈ ls, k < l → memAt s m n k + n ≤ s.scrSize) →
      (s.verdict (.ldS c t o d m) = .go →
        exec (.ldS c t o d m) s = .next (s.failTask s.me.crew ⟨0x06, 0, s.me.pc, BitVec.ofNat 64 (memAt s m n l)⟩)) ∧
      (s.verdict (.stS c t o d m) = .go →
        exec (.stS c t o d m) s = .next (s.failTask s.me.crew ⟨0x06, 0, s.me.pc, BitVec.ofNat 64 (memAt s m n l)⟩)))

/-- R161, R232, R233, R236, R237: outside a transaction a load or store of global memory whose lanes pass the checks of R233 is in flight, one field for each
lane at its target, and the checks have changed nothing but the caches and the errors recorded. `pf.g` (R239) changes nothing else either. -/
def Claim.GlobalAccesses : Prop :=
  ∀ (c : Ctl) (t : LdTy) (o : MemOrd) (d : Opnd) (m : MemArg) (s f : State) (ts : List (Nat × Target)), s.me.tx.depth = 0 →
    let n := ldBytes t
    let as := (memLanes s c d m).map fun l => (l, memAt s m n l)
    (s.checkGlobal ⟨.r, n, ldWide t, true, true⟩ as = (f, .ok ts) → s.verdict (.ldG c t o d m) = .go →
      ∃ u, exec (.ldG c t o d m) s = .next u ∧ onlyWalked s f ∧ ts.map Prod.fst = memLanes s c d m ∧
        inFlight f u c (if MemOrd.isAcq o then .acq else .ld) (.load d t ts (MemOrd.isAcq o) (ts.map Prod.snd) [] 0)) ∧
    (s.checkGlobal ⟨.w, n, ldWide t, true, false⟩ as = (f, .ok ts) → s.verdict (.stG c t o d m) = .go →
      ∃ u, exec (.stG c t o d m) s = .next u ∧ onlyWalked s f ∧ ts.map Prod.fst = memLanes s c d m ∧
        inFlight f u c (if o = .plain then .st else if MemOrd.isCore o then .relc else .rel)
          (.store n (ts.map fun p => (p.1, p.2, dataAt s t d p.1)) (MemOrd.isSys o))) ∧
    (s.verdict (.pfG c m) = .go → ∃ u, exec (.pfG c m) s = .next u ∧
      u = { s with me := u.me, caches := u.caches, out := { s.out with errors := u.out.errors } } ∧
      u.me.bare = s.me.bare ∧ fellThrough s u)

/-- R233, R300, R67: what becomes of a load or store of global memory by a wave whose address is refused. The lowest lane that is misaligned faults MISALIGNED;
with none misaligned, the lowest one at or past 2^48 faults UNMAPPED. An access of one lane to a page that is missing parks the wave with KIND 1; to one
without the permission it faults ACCESS_FAULT; a write to a page without W whose leaf has REPL and WREPL parks the wave with KIND 2; a layout that is not
defined faults BAD_LAYOUT; an uncorrectable entry faults with severity 5; an address of the 48 KiB below the status window faults UNMAPPED. The wave's
registers and memory are as before. -/
def Claim.RefusedGlobalAccesses : Prop :=
  ∀ (c : Ctl) (t : LdTy) (o : MemOrd) (d : Opnd) (m : MemArg) (s : State) (l : Nat), s.me.tx.depth = 0 → isHm s.me.gwn = false →
    l ∈ memLanes s c d m →
    let n := ldBytes t
    let ls := memLanes s c d m
    let va := memAt s m n l
    let stop (f : State) (cause sev : Nat) : State := f.failTask f.me.crew ⟨cause, sev, f.me.pc, BitVec.ofNat 64 va⟩
    let both (r : State) : Prop := (s.verdict (.ldG c t o d m) = .go → exec (.ldG c t o d m) s = .next r) ∧
      (s.verdict (.stG c t o d m) = .go → exec (.stG c t o d m) s = .next r)
    (va % n ≠ 0 → (∀ k ∈ ls, k < l → memAt s m n k % n = 0) → both (stop s 0x03 0)) ∧
    ((∀ k ∈ ls, memAt s m n k % n = 0) → 2 ^ 48 ≤ va → (∀ k ∈ ls, k < l → memAt s m n k < 2 ^ 48) → both (stop s 0x05 0)) ∧
    (ls = [l] → va % n = 0 → unwalkedBase ≤ va → va < statusBase → both (stop s 0x05 0)) ∧
    (ls = [l] → va % n = 0 → statusBase ≤ va → va < 2 ^ 48 → s.verdict (.stG c t o d m) = .go →
      exec (.stG c t o d m) s = .next (stop s 0x04 0)) ∧
    ∀ (write : Bool) (f : State) (r : TrRes), ls = [l] → va % n = 0 → va < unwalkedBase →
      s.translate (unitOf s.me.gwn) s.me.ctx va (if write then .w else .r) = (f, r) →
      let i := if write then Instr.stG c t o d m else Instr.ldG c t o d m
      let parks (kind : Nat) : State := (f.mapMe (Wave.stamp f.time)).parkWave f.me.gwn kind 0 (BitVec.ofNat 64 va) f.me.pc
      s.verdict i = .go → onlyWalked s f ∧
        (r = .missing → exec i s = .next (parks 1)) ∧
        (r = .access → exec i s = .next (stop f 0x04 0)) ∧
        (r = .writeProtect → exec i s = .next (parks 2)) ∧
        (r = .badLayout → exec i s = .next (stop f 0x0B 0)) ∧
        (r = .ue → exec i s = .next (stop f 0x15 5))

/-- R232 to R239: loads, stores and the prefetch, of scratch and of global memory, as they issue.
The order of the checks is the model's reading (log entry 35). -/
def Obligations.LoadsAndStores : Prop := Claim.ScratchAccesses ∧ Claim.GlobalAccesses ∧ Claim.RefusedGlobalAccesses

/-- R119, R232, R240, R241: outside a transaction each of the eight atomics whose lanes pass their checks is in flight with its operation, each lane's
target and operands read at issue, and the class of its order: a release of core scope is a class of its own (R120). -/
def Claim.AtomicsIssue : Prop :=
  ∀ (i : Instr) (op : AtomOp) (c : Ctl) (scr : Bool) (t : AtTy) (o : MemOrd) (d : Opnd) (m : MemArg) (s f : State) (ts : List (Nat × Target)),
    atomParts i = some (op, c, scr, t, o, d, m) → s.me.tx.depth = 0 → s.verdict i = .go →
    let n := atBytes t
    let as := (memLanes s c d m).map fun l => (l, memAt s m n l)
    (if scr then (s, s.checkScratch n as) else s.checkGlobal ⟨.w, n, false, atomHostOk op t, false⟩ as) = (f, .ok ts) →
    ∃ u, exec i s = .next u ∧ inFlight f u c
      (match o with
        | .plain => .ra
        | .acq _ => .acq
        | .rel sc => if sc = .core then .arlc else .arl
        | .full sc => if sc = .core then .arac else .ara)
      (.atomic op t d (ts.map fun p => (p.1, p.2, s.atomOpnd t d p.1 0, s.atomOpnd t d p.1 1)) (MemOrd.isAcq o) (MemOrd.isSys o)
        (ts.map Prod.snd) [] 0)

/-- R240: the new value at the address of an integer atomic: sums wrap, the lesser and greater follow the type's sign, `xchg` takes the operand, and `cas` takes
the new value where the old one equals the comparand. -/
def Claim.AtomicValues : Prop :=
  ∀ (t : AtTy) (old a b : Nat), t ≠ .f32 → let w := 8 * atBytes t
    old < 2 ^ w → a < 2 ^ w → b < 2 ^ w →
    let signed : Bool := t == .i32 || t == .i64
    let x := BitVec.ofNat w old
    let y := BitVec.ofNat w a
    atomNew .add t old a b = ((x + y).toNat, 0) ∧
    atomNew .min t old a b = ((IntOp.min.value signed x y).toNat, 0) ∧ atomNew .max t old a b = ((IntOp.max.value signed x y).toNat, 0) ∧
    atomNew .and t old a b = ((x &&& y).toNat, 0) ∧ atomNew .or t old a b = ((x ||| y).toNat, 0) ∧ atomNew .xor t old a b = ((x ^^^ y).toNat, 0) ∧
    atomNew .xchg t old a b = (a, 0) ∧ atomNew .cas t old a b = (if old = a then b else old, 0)

/-- R240, R241: the eight atomics as they issue, and the values of the integer ones. -/
def Obligations.Atomics : Prop := Claim.AtomicsIssue ∧ Claim.AtomicValues

/-- R236, R17, R118, R121, R125: a load of scratch that nothing holds back completes: each lane's bytes are written to its register as the type requires, the
operation leaves the wave and its slot falls, an acquire drops the unit's L1 copies and notes what it has seen (R130), and no memory, flag or other wave changes. A lane whose bytes are
uncorrectable faults the task at the load with severity 5 and its offset, the first such lane's. -/
def Claim.ScratchLoadsComplete : Prop :=
  ∀ (s : State) (g id : Nat) (w : Wave) (f : Flight) (k : Crew) (d : Opnd) (t : LdTy) (ls : List (Nat × Target)) (acq : Bool) (all : List Target)
    (got : List RegWrite) (fl : Flags),
    s.wave? g = some w → w.flight? id = some f → s.blocked w f = false → f.cls = .ld ∨ f.cls = .acq →
    f.body = .load d t ls acq all got fl → (∀ p ∈ ls, p.2.space = .scr) → (∀ a ∈ all, a.space = .scr) → s.crew? w.crew = some k →
    ((∀ p ∈ ls, k.fails p.2.at_ (ldBytes t) = false) → ∃ u, exec (.slotCompletion g id) s = .next u ∧
      landed (if acq then s.flushL1 (unitOf g) else s) u g f
        fun x => s.acquired acq f ((x.writes (got ++ ls.flatMap fun p => loadWrites t d p.1 (k.read p.2.at_ (ldBytes t)))).orFlags fl)) ∧
    ∀ pre p post, ls = pre ++ p :: post → (∀ q ∈ pre, k.fails q.2.at_ (ldBytes t) = false) → k.fails p.2.at_ (ldBytes t) = true →
      exec (.slotCompletion g id) s = .next (s.flightFault g f 0x15 5 (BitVec.ofNat 64 p.2.va))

/-- R236, R103, R109, R17, R88, R118, R121, R125, R66: a load that nothing holds back and whose lanes meet no error that faults completes, whatever its lanes
reach: each lane's value is written to its register as the type requires. In main memory the value is what its home delivers at its address, or what the
copy in the unit's L1 holds, which an acquire never takes; lanes of one line may take the copy that one of them has fetched, under its layout. In a wide view
it is the fields of its elements with their flags, under free table entries for CB4 (log entry 23); in host memory the host's bytes; in the status window the
berth's field; in scratch the bytes there. Of a replicated page the copy on the unit's die serves it (R335). The operation leaves the wave with its slot one lower, and no
memory changes. Where an error faults, or a failed link (R354), it faults at the load, with the highest severity of the lanes that are left (R350). -/
def Claim.GlobalLoadsComplete : Prop :=
  ∀ (s : State) (g id : Nat) (w : Wave) (f : Flight) (d : Opnd) (t : LdTy) (ls : List (Nat × Target)) (acq : Bool) (all : List Target)
    (got : List RegWrite) (fl : Flags),
    s.wave? g = some w → w.flight? id = some f → s.blocked w f = false → f.cls = .ld ∨ f.cls = .acq → f.body = .load d t ls acq all got fl →
    let u := unitOf g
    let n := ldBytes t
    let home (l : List Target) : List Target := l.filter fun a => (s.l1Copy u (!acq) a).isNone
    let many := s.manyOver u n (home all)
    let stops (r : State) (now : List (Nat × Target)) (sev va : Nat) : Prop :=
      r = ((s.recordUnread u n (home all)).recordReads u w.crew true many n (home (now.map Prod.snd))).flightFault g f
        (if sev = 3 then 0x13 else if sev = 4 then 0x14 else 0x15) sev (BitVec.ofNat 64 va)
    let delivers (p : Nat × Target) (x : Nat × Flags) : Prop :=
      match p.2.space with
      | .dev => x.2 = 0 ∧ ((∃ c, s.l1Copy u (!acq) p.2 = some c ∧ x.1 = c.data / 2 ^ (8 * (p.2.at_ % 64)) % 2 ^ (8 * n)) ∨
          ∃ q ∈ ls, q.2.space = .dev ∧ q.2.at_ / 64 = p.2.at_ / 64 ∧
            x.1 = ((s.viewFrom (s.dieOf u) q.2).readFieldAs true many p.2.at_ n q.2.code p.2.pol).1)
      | .wide => ∃ m, x = ((s.wideFields many p.2 (freeTable m) (n / 2) 0).1.val, (s.wideFields many p.2 (freeTable m) (n / 2) 0).1.flags)
      | .host => x = (ofBytes (Cells.range s.out.hostMem p.2.at_ n), 0)
      | .status => x = (s.readStatus (s.partOf u) p.2.at_ n, 0)
      | .scr => x = (((s.crew? w.crew).map fun c => c.read p.2.at_ n).getD 0, 0)
    (s.judge u w.crew true many n (home (ls.map Prod.snd)) = none → ∃ r xs, exec (.slotCompletion g id) s = .next r ∧ xs.length = ls.length ∧
      (∀ q ∈ ls.zip xs, delivers q.1 q.2) ∧ r.store = s.store ∧ r.crews = s.crews ∧ r.out.hostMem = s.out.hostMem ∧
      (acq = true → ∀ x ∈ r.caches.l1, x.core ≠ u) ∧
      r.wave? g = some (Wave.slotDown { s.acquired acq f ((w.writes (got ++ (ls.zip xs).flatMap fun q => loadWrites t d q.1.1 q.2.1)).orFlags
        ((xs.map Prod.snd).foldl (· ||| ·) fl)) with flights := w.flights.filter (·.id != f.id) } f.slot)) ∧
    ∀ sev va, s.judge u w.crew true many n (home (ls.map Prod.snd)) = some (sev, va) →
      (∃ r, exec (.slotCompletion g id) s = .next r ∧ stops r ls sev va) ∧
      ∀ lane, let now := ls.filter fun p => p.1 == lane
        (s.judge u w.crew true many n (home (now.map Prod.snd))).isSome = true → stops (s.doLane g id lane) now sev va

/-- R236: what one lane of a load writes: the field's bytes zero-extended, or sign-extended for i8, i16 and i32, in a scalar; the low word, the sign-extended
byte or half, or the words from D upward, in a vector. -/
def Claim.LoadedValues : Prop :=
  ∀ (t : LdTy) (n : BitVec 7) (m : BitVec 6) (l x : Nat), x < 2 ^ (8 * ldBytes t) →
    let w := 8 * ldBytes t
    let signed : Bool := t == .i8 || t == .i16 || t == .i32
    (t ≠ .b128 → loadWrites t (.s m) l x = [.s m.toNat (if signed then (BitVec.ofNat w x).signExtend 64 else (BitVec.ofNat w x).setWidth 64)]) ∧
    (ldBytes t ≤ 4 → loadWrites t (.v n) l x =
      [.v n.toNat l (if signed then (BitVec.ofNat w x).signExtend 32 else (BitVec.ofNat w x).setWidth 32)]) ∧
    (4 < ldBytes t → loadWrites t (.v n) l x =
      (List.range (ldBytes t / 4)).map fun i => .v (n.toNat + i) l ((BitVec.ofNat w x).extractLsb' (32 * i) 32))

/-- R236: a load completes, and the values that it writes.
Each lane that the agenda has not read before reads when the slot falls (log entry 32), the entries of a CB4 table in a wide view are free values (log entry 23), which words fail their check is data of the state (log entry 21), a failed link is met where a lane is performed, and a copy delivers the line as stored (log entries 120, 121). -/
def Obligations.LoadsComplete : Prop := Claim.ScratchLoadsComplete ∧ Claim.GlobalLoadsComplete ∧ Claim.LoadedValues

/-- R237, R234, R111, R121: a store to scratch that nothing holds back completes: each stored byte is the byte of the last lane that covers it, every
other byte of scratch and every full/empty bit is as before, and so is all of device memory.
The lanes are performed in the step that lowers the slot (log entry 32), and at a release of core scope the earlier stores are marked as performed at their core (log entries 31, 79). -/
def Obligations.ScratchStoresComplete : Prop :=
  ∀ (s : State) (g id : Nat) (w : Wave) (f : Flight) (k : Crew) (n : Nat) (ls : List (Nat × Target × Nat)) (sys : Bool),
    s.wave? g = some w → w.flight? id = some f → s.blocked w f = false → f.body = .store n ls sys → (∀ p ∈ ls, p.2.1.space = .scr) →
    s.crew? w.crew = some k → Cells.wf k.scratch = true →
    let covers (p : Nat × Target × Nat) (a : Nat) : Prop := p.2.1.at_ ≤ a ∧ a < p.2.1.at_ + n
    ∃ u k', exec (.slotCompletion g id) s = .next u ∧ u.crew? w.crew = some k' ∧ k' = { k with scratch := k'.scratch, bad := k'.bad } ∧ u.store = s.store ∧
      (∀ j, j ≠ w.crew → u.crew? j = s.crew? j) ∧
      (∀ a, (∀ p ∈ ls, ¬ covers p a) → Cells.get k'.scratch a = Cells.get k.scratch a) ∧
      (∀ a pre p post, ls = pre ++ p :: post → covers p a → (∀ q ∈ post, ¬ covers q a) →
        Cells.get k'.scratch a = BitVec.ofNat 8 (p.2.2 / 2 ^ (8 * (a - p.2.1.at_)))) ∧
      (u.wave? g).map (fun x => (x.flights, x.sb)) =
        some (((if f.cls.coreOnly then w.markCore f.id else w).flights.filter (·.id != f.id)), (w.slotDown f.slot).sb)

/-- R97, R351: a write performed at a line's home merges the bits under its mask into a line that decodes without error, and changes no other line: no byte, no
check bit, no recorded layout code; every stale replica copy of the line is gone (R336). -/
def Claim.LinesWritten : Prop :=
  ∀ (s : State) (writer line mask value code : Nat), memOk s →
    let lf := lineFmt (s.codeAt line code) (lineInUnit line)
    let old := s.store.bits1 line
    let u := s.homeWrite writer line mask value none code
    (∀ a, a / 64 ≠ line → byteAt u a = byteAt s a ∧ Memory.read u.store.data2 a = Memory.read s.store.data2 a) ∧
    (∀ l, l ≠ line → Cells.get u.store.side l = Cells.get s.store.side l ∧ Cells.get u.store.side2 l = Cells.get s.store.side2 l ∧
      Cells.get u.store.code l = Cells.get s.store.code l) ∧
    (∀ r ∈ u.caches.replicas, r.line ≠ line) ∧
    ((lf.decode old).bits.data = old.data → (lf.decode old).sFail.all (· == false) = true →
      ∀ a k, a / 64 = line → k < 8 → (byteAt u a).getLsbD k =
        if mask.testBit (8 * (a % 64) + k) then value.testBit (8 * (a % 64) + k) else (byteAt s a).getLsbD k)

/-- R97, R121, R234: the lanes of a store that reach one line are performed at its home: no byte outside that line changes, the lanes that remain stay in flight,
and with none left the operation completes and its slot falls. In a line without error each byte is the byte of the last lane that covers it, and every other
byte stays. A shadow copy's lanes write nothing (R320). A lane that only a failed link reaches faults the task with severity 5 and its address (R354).
The lanes of one line are written in one step, the code kept for it is the model's, and a failed link is met where a lane is performed (log entries 5, 31, 32, 120). -/
def Obligations.StoresAtHome : Prop :=
  ∀ (s : State) (g id line : Nat) (w : Wave) (f : Flight) (n : Nat) (ls : List (Nat × Target × Nat)) (sys : Bool), memOk s →
    s.wave? g = some w → w.flight? id = some f → s.blocked w f = false → f.body = .store n ls sys → (∀ p ∈ ls, p.2.1.space = .dev ∧ p.2.1.at_ % 64 + n ≤ 64) →
    let now := ls.filter fun p => p.2.1.at_ / 64 == line
    let later := ls.filter fun p => p.2.1.at_ / 64 != line
    let fs := (if f.cls.coreOnly then w.markCore f.id else w).flights
    let covers (p : Nat × Target × Nat) (a : Nat) : Prop := p.2.1.at_ ≤ a ∧ a < p.2.1.at_ + n
    let s0 := if f.cls.coreOnly then s.modWave g (Wave.markCore f.id) else s
    let cut (p : Nat × Target × Nat) : Prop := s.isShadow w.crew = false ∧ s.cutOff (s.dieOf (unitOf g)) n p.2.1 = true
    (∀ pre p post, now = pre ++ p :: post → cut p → (∀ q ∈ pre, ¬ cut q) →
      exec (.storePerformedAtHome g id line) s = .next (s0.flightFault g f 0x15 5 (BitVec.ofNat 64 p.2.1.va))) ∧
    ((∀ p ∈ now, ¬ cut p) → ∃ u, exec (.storePerformedAtHome g id line) s = .next u ∧
      (∀ a, a / 64 ≠ line → byteAt u a = byteAt s a) ∧ (s.isShadow w.crew = true → u.store = s.store) ∧
      (later = [] → (u.wave? g).map (fun x => (x.flights, x.sb)) = some (fs.filter (·.id != f.id), (w.slotDown f.slot).sb)) ∧
      (later ≠ [] → (u.wave? g).map (fun x => (x.flights, x.sb)) =
        some (mapWhere (·.id == f.id) (fun x => { x with body := .store n later sys }) fs, w.sb)) ∧
      ∀ code, s.isShadow w.crew = false → (∀ p ∈ now, p.2.1.code = code) →
        let lf := lineFmt (s.codeAt line code) (lineInUnit line)
        (lf.decode (s.store.bits1 line)).bits.data = (s.store.bits1 line).data → (lf.decode (s.store.bits1 line)).sFail.all (· == false) = true →
        (∀ a, (∀ p ∈ now, ¬ covers p a) → byteAt u a = byteAt s a) ∧
        ∀ a pre p post, now = pre ++ p :: post → covers p a → (∀ q ∈ post, ¬ covers q a) →
          byteAt u a = BitVec.ofNat 8 (p.2.2 / 2 ^ (8 * (a - p.2.1.at_))))

/-- R129, R234, R240, R241, R117, R118: an atomic executes at its home, its lanes in ascending order. In scratch each lane reads what the lanes before it left,
its new value stands, its old value goes to its register with the operation's flags, and the operation completes. In device memory one lane does the same as
one step: the bytes of its field are the new value, in a line without error, and no other byte changes; of two lanes at one address the second reads what the
first left. A lane whose element is uncorrectable, where its page's policy poisons or faults it, or that only a failed link reaches (R354), faults the task at the
atomic with the cause of its severity and its address, its target unchanged, and its operation has left the wave.
The lanes of one line execute in one step, in their order (log entry 32), the result reaches its register when the slot falls (log entry 31), and a failed link is met there (log entry 120). -/
def Obligations.AtomicsAtHome : Prop :=
  ∀ (s : State) (g id line : Nat) (w : Wave) (f : Flight) (k : Crew) (op : AtomOp) (t : AtTy) (d : Opnd) (ls : List (Nat × Target × Nat × Nat))
    (acq sys : Bool) (all : List Target) (got : List RegWrite) (fl : Flags), memOk s →
    s.wave? g = some w → w.flight? id = some f → s.blocked w f = false → f.body = .atomic op t d ls acq sys all got fl →
    s.crew? w.crew = some k →
    let n := atBytes t
    let fs := (if f.cls.coreOnly then w.markCore f.id else w).flights
    let s0 := if f.cls.coreOnly then s.modWave g (Wave.markCore f.id) else s
    let ends (u : State) (ws : List RegWrite) (fs' : Flags) : Prop := u.wave? g =
      some (Wave.slotDown { s0.acquired acq f ((w.writes ws).orFlags fs') with flights := fs.filter (·.id != f.id) } f.slot)
    let cleanIn (s : State) (a : Target) : Prop :=
      ((lineFmt (s.codeAt line a.code) (lineInUnit line)).decode (s.store.bits1 line)).bits.data = (s.store.bits1 line).data ∧
      ((lineFmt (s.codeAt line a.code) (lineInUnit line)).decode (s.store.bits1 line)).sFail.all (· == false) = true
    let many := s.manyOver (unitOf g) n all
    let reads (s : State) (a : Target) : Nat × Option Nat := fieldRead s (unitOf g) false many n a
    ((∀ p ∈ ls, p.2.1.space = .scr ∧ k.fails p.2.1.at_ n = false) →
      let r := ls.foldl (fun (z : Crew × List RegWrite × Flags) p =>
        let old := z.1.read p.2.1.at_ n
        (z.1.write p.2.1.at_ n (atomNew op t old p.2.2.1 p.2.2.2).1, z.2.1 ++ atomWrites t d p.1 old, z.2.2 ||| (atomNew op t old p.2.2.1 p.2.2.2).2)) (k, got, fl)
      ∃ u, exec (.slotCompletion g id) s = .next u ∧ u.crew? w.crew = some r.1 ∧ u.store = s.store ∧ ends u r.2.1 r.2.2) ∧
    (∀ l a x y, ls = [(l, a, x, y)] → a.space = .dev → a.at_ / 64 = line → a.at_ % 64 + n ≤ 64 →
      (∀ sev, (reads s a).2 = some sev → ∃ v : State,
        v = { s0 with out := { s0.out with errors := v.out.errors, errCount := v.out.errCount } } ∧
        exec (.atomicAtHome g id line) s = .next (v.flightFault g f (if sev = 3 then 0x13 else if sev = 4 then 0x14 else 0x15) sev (BitVec.ofNat 64 a.va))) ∧
      ((reads s a).2 = none → let new := atomNew op t (reads s a).1 x y
        ∃ u, exec (.atomicAtHome g id line) s = .next u ∧ ends u (got ++ atomWrites t d l (reads s a).1) (fl ||| new.2) ∧
          (∀ b, b / 64 ≠ line → byteAt u b = byteAt s b) ∧ (s.isShadow w.crew = true → u.store = s.store) ∧
          (s.isShadow w.crew = false → cleanIn s a →
            ∀ b, byteAt u b = if a.at_ ≤ b ∧ b < a.at_ + n then BitVec.ofNat 8 (new.1 / 2 ^ (8 * (b - a.at_))) else byteAt s b))) ∧
    ∀ l1 l2 a x1 y1 x2 y2 s1, ls = [(l1, a, x1, y1), (l2, a, x2, y2)] → l1 < l2 → a.space = .dev → a.at_ / 64 = line → a.at_ % 64 + n ≤ 64 →
      (reads s a).2 = none → s.isShadow w.crew = false → s.doLane g id l1 = s1 → cleanIn s1 a →
      let old := (reads s1 a).1
      ∃ u, exec (.atomicAtHome g id line) s = .next u ∧
        ends u (got ++ atomWrites t d l1 (reads s a).1 ++ atomWrites t d l2 old)
          (fl ||| (atomNew op t (reads s a).1 x1 y1).2 ||| (atomNew op t old x2 y2).2) ∧
        ∀ b, byteAt u b = if a.at_ ≤ b ∧ b < a.at_ + n then BitVec.ofNat 8 ((atomNew op t old x2 y2).1 / 2 ^ (8 * (b - a.at_))) else byteAt s1 b

/-- R120, R121, R127, R243: a fence waits for the wave's engine commands, an acquire fence for every earlier load, atomic and `ldf` to have its value, and one that releases at
package or system scope for everything earlier; until then it has issued and its wave issues nothing more. Then it invalidates the unit's L1 if it acquires, and its instruction cache at package
or system scope; it sets no slot and changes nothing else but the host's stale copies at a release of system scope (R135). One that releases at core scope
waits only until everything earlier is performed there, and leaves it marked so. Releases are cumulative (R130): one that acquires knows every store that the other
waves of its unit have performed at core scope only, and a release of wider scope, a fence or an instruction in flight, waits until those are at their homes.
What the caches keep, what a fence of core scope orders, and which stores an acquire may have seen are the model's (log entries 31, 33, 79). -/
def Obligations.Fences : Prop :=
  (∀ (c : Ctl) (k : FenceKind) (sc : Scope) (s : State), s.verdict (.fence c k sc) = .go →
    let u0 := unitOf s.me.gwn
    let atCore : Bool := decide (sc = .core ∧ k ≠ .acq)
    s.commandsOf s.me.gwn = [] ∧
    (k = .acq → ∀ x ∈ s.me.flights, x.cls ∉ [OrdClass.ld, .acq, .ra, .ara, .arl, .ldf, .arac, .arlc]) ∧
    (atCore = true → s.released s.me .relc s.me.nextOp = false → ∃ u, exec (.fence c k sc) s = .next u ∧ stalled s u (.fence c k sc)) ∧
    (atCore = false ∨ s.released s.me .relc s.me.nextOp = true → ∃ u, exec (.fence c k sc) s = .next u ∧ fellThrough s u ∧
      u.me.bare = { (if atCore then s.me.markCore s.me.nextOp else s.me) with coreSeen := u.me.coreSeen }.bare ∧
      (k = .rel → u.me.coreSeen = s.me.coreSeen) ∧
      (k ≠ .rel → ∀ x ∈ s.waves, x.gwn ≠ s.me.gwn → unitOf x.gwn = u0 → ∀ y ∈ x.flights, y.core = true → (x.gwn, y.id, s.me.nextOp) ∈ u.me.coreSeen) ∧
      (k ≠ .acq → sc ≠ .core → ∀ e ∈ s.me.coreSeen, e.2.2 ≤ s.me.nextOp → s.stillCore e.1 e.2.1 = false) ∧
      u = { s with me := u.me, caches := { s.caches with l1 := u.caches.l1, ic := u.caches.ic }, out := { s.out with hostLines := u.out.hostLines } } ∧
      (k ≠ .rel → ∀ x ∈ u.caches.l1, x.core ≠ u0) ∧ (k = .rel → u.caches.l1 = s.caches.l1) ∧
      (k ≠ .rel → sc ≠ .core → ∀ x ∈ u.caches.ic, x.unit ≠ u0) ∧ (sc = .core → u.caches.ic = s.caches.ic) ∧
      (∀ x ∈ s.caches.l1, x.core ≠ u0 → x ∈ u.caches.l1) ∧
      (k ≠ .acq → sc = .sys → u.out.hostLines = []) ∧
      (k ≠ .acq → sc ≠ .core → s.me.flights = []) ∧
      (atCore = true → ∀ x ∈ u.me.flights, x.id < s.me.nextOp → x.onlyRegs = true ∨ x.core = true))) ∧
  (∀ (c : Ctl) (k : FenceKind) (sc : Scope) (s : State), s.verdict (.fence c k sc) = .go ∨ s.verdict (.fence c k sc) = .stall →
    (s.commandsOf s.me.gwn ≠ [] ∨ (k = .acq ∧ ∃ x ∈ s.me.flights, x.cls ∈ [OrdClass.ld, .acq, .ra, .ara, .arl, .ldf, .arac, .arlc]) ∨
      (k ≠ .acq ∧ sc ≠ .core ∧ s.me.flights ≠ [])) →
    ∃ u, exec (.fence c k sc) s = .next u ∧ stalled s u (.fence c k sc)) ∧
  ∀ (s : State) (g id : Nat) (w v : Wave) (f y : Flight) (from_ : Nat), s.wave? g = some w → w.flight? id = some f → f.cls.releases = true →
    f.cls.coreOnly = false → (v.gwn, y.id, from_) ∈ w.coreSeen → from_ ≤ f.id → s.wave? v.gwn = some v → y ∈ v.flights → y.core = true →
    exec (.slotCompletion g id) s = .next s

/-- The buffered write of a field of device memory or scratch (R141). -/
def Claim.buffered (a : Target) (n x : Nat) : TxWrite :=
  ⟨a.space == .scr, a.at_ / 64, byteMask (a.at_ % 64) n, (x % 2 ^ (8 * n)) <<< (8 * (a.at_ % 64)), if a.space = .scr then 0 else a.code,
    if a.space = .scr then 0 else a.va / 64 * 64, if a.space = .scr then 0 else a.level, []⟩

/-- The lines of a write buffer with some lines beside them, of scratch or of memory. -/
def Claim.linesWith (s : State) (ls : List (Bool × Nat)) : Nat := ((s.me.tx.buf.map fun (w : TxWrite) => (w.scratch, w.line)) ++ ls).eraseDups.length

/-- The lines of some targets, of scratch or of memory. -/
def Claim.linesOf (ts : List Target) : List (Bool × Nat) := ts.map fun a => (a.space == Space.scr, a.at_ / 64)

/-- The full/empty instruction of a kind. -/
def Claim.feInstr (k : FeKind) (c : Ctl) (t : FeTy) (d : Opnd) (m : MemArg) : Instr :=
  match k with
  | .ldf => .ldf c t d m
  | .ldfc => .ldfc c t d m
  | .stf => .stf c t d m

/-- A full/empty form whose granules pass has acted (R112, R244): the bits change as the form says, `stf` has stored each lane's data, and one operation
more is in flight, with the values of a load. -/
def Claim.feActed (k : FeKind) (c : Ctl) (t : FeTy) (d : Opnd) (m : MemArg) (s u : State) (q : Crew) : Prop :=
  let n := ldBytes (feLdTy t)
  let ls := memLanes s c d m
  let named (x : Nat) : Prop := ∃ l ∈ ls, memAt s m n l / 16 = x
  let covers (l a : Nat) : Prop := memAt s m n l ≤ a ∧ a < memAt s m n l + n
  ∃ q', u.crew? s.me.crew = some q' ∧ u.store = s.store ∧
    (∀ x, q'.isFull x = true ↔ if k = .ldf then q.isFull x = true else if k = .ldfc then q.isFull x = true ∧ ¬ named x else q.isFull x = true ∨ named x) ∧
    (k ≠ .stf → q'.scratch = q.scratch) ∧
    (k = .stf → (∀ a, (∀ l ∈ ls, ¬ covers l a) → Cells.get q'.scratch a = Cells.get q.scratch a) ∧
      ∀ a pre l post, ls = pre ++ l :: post → covers l a → (∀ j ∈ post, ¬ covers j a) →
        Cells.get q'.scratch a = BitVec.ofNat 8 (dataAt s (feLdTy t) d l / 2 ^ (8 * (a - memAt s m n l)))) ∧
    u.me.flights = s.me.flights ++ [Flight.mk s.me.nextOp (if k = .stf then .st else .ldf) (if c.se then some c.ss.toNat else none) s.me.pc
      (.regs (if k = .stf then [] else ls.flatMap fun l => loadWrites (feLdTy t) d l (q.read (memAt s m n l) n)) 0) false] ∧
    u.me.run = .running ∧ fellThrough s u ∧ u.me.s = s.me.s ∧ u.me.v = s.me.v ∧ u.me.flags = s.me.flags

/-- R244, R112, R118, R156, R17: `ldf`, `ldfc` and `stf` outside a transaction, with aligned fields inside the allocation and no earlier access of the wave in
the way. Where every granule passes its test the form acts, its slot raised; a load of uncorrectable scratch faults with severity 5 and its first such lane's
offset. Where not, the wave sleeps with its slot raised and its granules registered, and no bit or byte changes. With an earlier access in the way it has issued and
waits. -/
def Claim.FullEmptyForms : Prop :=
  ∀ (k : FeKind) (c : Ctl) (t : FeTy) (d : Opnd) (m : MemArg) (s : State) (q : Crew), s.me.tx.depth = 0 → s.me.wf = true →
    s.crew? s.me.crew = some q → Cells.wf q.full = true → Cells.wf q.scratch = true →
    let i := Claim.feInstr k c t d m
    let n := ldBytes (feLdTy t)
    let ls := memLanes s c d m
    s.verdict i = .go → (∀ l ∈ ls, memAt s m n l % n = 0 ∧ memAt s m n l + n ≤ s.scrSize) →
    (s.busyWith (ls.flatMap fun l => (scrTarget (memAt s m n l)).keys n) = true → ∃ u, exec i s = .next u ∧ stalled s u i) ∧
    (s.busyWith (ls.flatMap fun l => (scrTarget (memAt s m n l)).keys n) = false →
    let named (x : Nat) : Prop := ∃ l ∈ ls, memAt s m n l / 16 = x
    let passes : Prop := ∀ x, named x → s.fePass k (q.isFull x) x = true
    let raised (u : State) : Prop := c.se = true → u.me.slot c.ss.toNat = s.me.slot c.ss.toNat + 1
    (passes → (k ≠ .stf → ∀ l ∈ ls, q.fails (memAt s m n l) n = false) →
      ∃ u, exec i s = .next u ∧ Claim.feActed k c t d m s u q ∧ raised u) ∧
    (passes → k ≠ .stf → ∀ l ∈ ls, q.fails (memAt s m n l) n = true → (∀ j ∈ ls, j < l → q.fails (memAt s m n j) n = false) →
      exec i s = .next (s.failTask s.me.crew ⟨0x15, 5, s.me.pc, BitVec.ofNat 64 (memAt s m n l)⟩)) ∧
    (¬ passes → ∃ u, exec i s = .next u ∧ onlyMe s u ∧ u.me.run = .feAsleep i ∧ u.me.pc = s.me.pc ∧ u.me.s = s.me.s ∧ u.me.v = s.me.v ∧
      u.me.flags = s.me.flags ∧ u.me.flights = s.me.flights ∧ raised u ∧
      ∀ x, named x → u.me.tx.coarseCore = true ∨ granuleKey s.me.crew x ∈ u.me.tx.granules))

/-- R141, R147, R152, R156, R244: inside a transaction a full/empty form tests the bits as the wave's own writes leave them. Where every granule passes, its
granules stand registered and its bits are buffered, as the wave then sees them, and `stf` buffers the data of each lane before them; an `ldfc` or `stf` that would need a
65th line aborts with status 2 instead; no byte or bit of scratch changes. A load form whose scratch is uncorrectable aborts with status 6 and cause 0x15. Where not every
granule passes, it has issued and waits until its slots read zero and then acts as `retry` does: at the most recent alternative, or asleep on its read set, in
which its granules stand. -/
def Claim.FullEmptyInTransactions : Prop :=
  ∀ (k : FeKind) (c : Ctl) (t : FeTy) (d : Opnd) (m : MemArg) (s : State) (q : Crew), s.me.tx.depth ≠ 0 → s.me.tx.doom = false → s.me.wf = true → memOk s →
    s.overlay.crew? s.me.crew = some q →
    let i := Claim.feInstr k c t d m
    let n := ldBytes (feLdTy t)
    let ls := memLanes s c d m
    s.verdict i = .go → (∀ l ∈ ls, memAt s m n l % n = 0 ∧ memAt s m n l + n ≤ s.scrSize) →
    s.busyWith (ls.flatMap fun l => (scrTarget (memAt s m n l)).keys n) = false →
    let named (x : Nat) : Prop := ∃ l ∈ ls, memAt s m n l / 16 = x
    let passes : Prop := ∀ x, named x → s.fePass k (q.isFull x) x = true
    let registered (u : State) : Prop := ∀ x, named x → u.me.tx.coarseCore = true ∨ granuleKey s.me.crew x ∈ u.me.tx.granules
    let tgs := ls.map fun l => scrTarget (memAt s m n l)
    let good : Prop := passes ∧ (k ≠ .stf → ∀ l ∈ ls, q.fails (memAt s m n l) n = false)
    (good → k = .ldf ∨ Claim.linesWith s (Claim.linesOf tgs) ≤ 64 → ∃ u, exec i s = .next u ∧ onlyMe s u ∧
        registered u ∧ fellThrough s u ∧ u.me.tx.depth = s.me.tx.depth ∧ u.me.flights.length = s.me.flights.length + 1 ∧
        (c.se = true → u.me.slot c.ss.toNat = s.me.slot c.ss.toNat + 1) ∧
        (k ≠ .stf → ∃ f ∈ u.me.flights, f.id = s.me.nextOp ∧
          f.body = .regs (ls.flatMap fun l => loadWrites (feLdTy t) d l (q.read (memAt s m n l) n)) 0) ∧
        (∃ ws, (∀ x ∈ ws, x.scratch = true ∧ x.mask = 0) ∧ u.me.tx.buf = s.me.tx.buf ++
          (if k = .stf then ls.map fun l => Claim.buffered (scrTarget (memAt s m n l)) n (dataAt s (feLdTy t) d l) else []) ++ ws) ∧
        ∃ q', u.overlay.crew? s.me.crew = some q' ∧ ∀ x, q'.isFull x = true ↔
          if k = .ldf then q.isFull x = true else if k = .ldfc then q.isFull x = true ∧ ¬ named x else q.isFull x = true ∨ named x) ∧
    (good → k ≠ .ldf → 64 < Claim.linesWith s (Claim.linesOf tgs) → ∃ u, exec i s = .next u ∧ aborted s u 2 0 0) ∧
    (passes → k ≠ .stf → (∃ l ∈ ls, q.fails (memAt s m n l) n = true) → ∃ u, exec i s = .next u ∧ aborted s u 6 0 0x15) ∧
    (¬ passes → s.me.slotsZero = false → ∃ u, exec i s = .next u ∧ stalled s u i) ∧
    (¬ passes → s.me.slotsZero = true → s.me.flights = [] → (∀ a r, s.me.tx.alts = a :: r →
        ∃ u, exec i s = .next u ∧ onlyMe s u ∧ u.me.pc = a.target ∧ u.me.s = a.cp.s ∧ u.me.tx.depth = a.depth ∧ u.me.tx.alts = r ∧ registered u) ∧
      (s.me.tx.alts = [] → ∃ u, exec i s = .next u ∧ onlyMe s u ∧ u.me.run = .asleep ∧ u.me.pc = s.me.tx.begin_ ∧ u.me.s = s.me.tx.cp.s ∧
        u.me.tx.depth = 0 ∧ u.me.tx.buf = [] ∧ registered u))

/-- R156: a woken full/empty instruction is executed again, whole: where its granules pass it acts, its slot, raised before the sleep, raised no second time, and
its registrations gone; where not, the wave sleeps again on its granules. -/
def Claim.WokenFullEmpty : Prop :=
  ∀ (k : FeKind) (c : Ctl) (t : FeTy) (d : Opnd) (m : MemArg) (s : State) (q : Crew),
    let i := Claim.feInstr k c t d m
    s.me.run = .feWoken i → s.me.tx.depth = 0 → s.crew? s.me.crew = some q → Cells.wf q.full = true → Cells.wf q.scratch = true →
    let n := ldBytes (feLdTy t)
    let ls := memLanes s c d m
    (∀ l ∈ ls, memAt s m n l % n = 0 ∧ memAt s m n l + n ≤ s.scrSize) →
    s.busyWith (ls.flatMap fun l => (scrTarget (memAt s m n l)).keys n) = false →
    let named (x : Nat) : Prop := ∃ l ∈ ls, memAt s m n l / 16 = x
    let passes : Prop := ∀ x, named x → s.fePass k (q.isFull x) x = true
    (passes → (k ≠ .stf → ∀ l ∈ ls, q.fails (memAt s m n l) n = false) →
      ∃ u, exec (.feReexecute s.me.gwn) s = .next u ∧ Claim.feActed k c t d m s u q ∧ u.me.sb = s.me.sb ∧ u.me.tx.granules = [] ∧
        (k = .ldf → onlyMe s u)) ∧
    (¬ passes → ∃ u, exec (.feReexecute s.me.gwn) s = .next u ∧ onlyMe s u ∧ u.me.run = .feAsleep i ∧ u.me.pc = s.me.pc ∧ u.me.sb = s.me.sb ∧
      u.me.flights = s.me.flights ∧ ∀ x, named x → u.me.tx.coarseCore = true ∨ granuleKey s.me.crew x ∈ u.me.tx.granules)

/-- R112, R156, R244: the full/empty instructions as they issue and as they execute again.
The lanes of a form act in one step (log entry 32), and one that an earlier access keeps waiting has issued (log entry 116). -/
def Obligations.FullEmpty : Prop := Claim.FullEmptyForms ∧ Claim.FullEmptyInTransactions ∧ Claim.WokenFullEmpty

/-- R245, R246, R119, R233: `feset` and `feclr` of a range inside the allocation, and `discard` of lines that pass the checks of R233, are in flight; an address or
length that is not a multiple of 16, or of 64, faults MISALIGNED; a range past the allocation faults SCRATCH_RANGE; a length above 65,536 faults BAD_COMMAND. A
line of a `discard` in a page without write permission, in host memory or in a wide view faults ACCESS_FAULT; a page that is missing or write-protected parks
the wave. -/
def Claim.BitAndDiscardIssue : Prop :=
  ∀ (c : Ctl) (a n : Opnd) (r : BitVec 6) (s f : State) (ts : List (Nat × Target)), s.me.tx.depth = 0 → isHm s.me.gwn = false →
    let ofs := (s.opnd a 0).toNat
    let len := (s.opnd n 0).toNat
    let va := (s.me.sreg r.toNat).toNat
    let kind : AccKind := ⟨.w, 1, false, false, false⟩
    let lines := (List.range (len / 64)).map fun i => (i, va + 64 * i)
    let discards (u : State) : Prop := s.verdict (.discard c r n) = .go → exec (.discard c r n) s = .next u
    let parks (k v : Nat) : State := (f.mapMe (Wave.stamp f.time)).parkWave f.me.gwn k 0 (BitVec.ofNat 64 v) f.me.pc
    (ofs % 16 = 0 → len % 16 = 0 → (len = 0 ∨ ofs + len ≤ s.scrSize) →
      (s.verdict (.feset c a n) = .go → ∃ u, exec (.feset c a n) s = .next u ∧ inFlight s u c .st (.setFull ofs len true)) ∧
      (s.verdict (.feclr c a n) = .go → ∃ u, exec (.feclr c a n) s = .next u ∧ inFlight s u c .st (.setFull ofs len false))) ∧
    (∀ cause, ((ofs % 16 ≠ 0 ∨ len % 16 ≠ 0) ∧ cause = 0x03) ∨ (ofs % 16 = 0 ∧ len % 16 = 0 ∧ len ≠ 0 ∧ s.scrSize < ofs + len ∧ cause = 0x06) →
      (s.verdict (.feset c a n) = .go → exec (.feset c a n) s = .next (s.failTask s.me.crew ⟨cause, 0, s.me.pc, s.opnd a 0⟩)) ∧
      (s.verdict (.feclr c a n) = .go → exec (.feclr c a n) s = .next (s.failTask s.me.crew ⟨cause, 0, s.me.pc, s.opnd a 0⟩))) ∧
    (va % 64 = 0 → len % 64 = 0 → len ≤ 65536 → s.checkGlobal kind lines = (f, .ok ts) →
      s.verdict (.discard c r n) = .go → ∃ u, exec (.discard c r n) s = .next u ∧ inFlight f u c .st (.discard (ts.map Prod.snd))) ∧
    ((va % 64 ≠ 0 ∨ len % 64 ≠ 0) → discards (s.failTask s.me.crew ⟨0x03, 0, s.me.pc, s.me.sreg r.toNat⟩)) ∧
    (va % 64 = 0 → len % 64 = 0 → 65536 < len → discards (s.failTask s.me.crew ⟨0x09, 0, s.me.pc, 0⟩)) ∧
    (va % 64 = 0 → len % 64 = 0 → len ≤ 65536 → ∀ x, s.checkGlobal kind lines = (f, .fail x) → discards (match x with
      | .trap cause sev v => f.failTask f.me.crew ⟨cause, sev, f.me.pc, BitVec.ofNat 64 v⟩
      | .park k v => parks k v)) ∧
    (va % 64 = 0 → len = 64 → va < unwalkedBase → ∀ x, s.translate (unitOf s.me.gwn) s.me.ctx va .w = (f, x) →
      (x = .access ∨ (∃ t, x = .ok t ∧ (t.space = .host ∨ t.space = .wide)) → discards (f.failTask f.me.crew ⟨0x04, 0, f.me.pc, BitVec.ofNat 64 va⟩)) ∧
      (x = .missing → discards (parks 1 va)) ∧ (x = .writeProtect → discards (parks 2 va)))

/-- R115, R121, R245, R246: what the slot of a bit operation or a `discard` leaves when it falls. Every granule of the range is full, or empty, and every
other granule and every byte of scratch is as before. Every byte of a discarded line reads as zero, and no line changes but those and, in a B128-E4M3 page,
the other line of a discarded line's block, whose scale changes; a shadow copy drops nothing (R320). The operation has left the wave with its slot one
lower. A line that only a failed link reaches faults the task with severity 5 and its address (R354). -/
def Claim.BitAndDiscardComplete : Prop :=
  ∀ (s : State) (g id : Nat) (w : Wave) (f : Flight), memOk s → s.wave? g = some w → w.flight? id = some f → s.blocked w f = false → f.cls = .st →
    (∀ ofs len full k, f.body = .setFull ofs len full → ofs % 16 = 0 → len % 16 = 0 → s.crew? w.crew = some k →
      ∃ u k', exec (.slotCompletion g id) s = .next u ∧ u.crew? w.crew = some k' ∧ k' = { k with full := k'.full } ∧ u.store = s.store ∧
        (∀ x, k'.isFull x = if ofs ≤ 16 * x ∧ 16 * x < ofs + len then full else k.isFull x) ∧
        u.wave? g = some (Wave.slotDown { w with flights := w.flights.filter (·.id != f.id) } f.slot)) ∧
    ∀ ts, f.body = .discard ts → (∀ t ∈ ts, t.space = .dev) →
      let cut (t : Target) : Prop := s.isShadow w.crew = false ∧ s.cutOff (s.dieOf (unitOf g)) 1 t = true
      (∀ pre t post, ts = pre ++ t :: post → cut t → (∀ q ∈ pre, ¬ cut q) →
        exec (.slotCompletion g id) s = .next (s.flightFault g f 0x15 5 (BitVec.ofNat 64 t.va))) ∧
      ((∀ t ∈ ts, ¬ cut t) → ∃ u, exec (.slotCompletion g id) s = .next u ∧
        u.wave? g = some (Wave.slotDown { w with flights := w.flights.filter (·.id != f.id) } f.slot) ∧
        (s.isShadow w.crew = true → u.store = s.store) ∧
        (s.isShadow w.crew = false → (∀ t ∈ ts, s.codeAt (t.at_ / 64) t.code ≠ 6) ∨ ts.length = 1 →
          ∀ t ∈ ts, ∀ a, a / 64 = t.at_ / 64 → byteAt u a = 0) ∧
        ∀ a, (∀ t ∈ ts, a / 64 ≠ t.at_ / 64 ∧ (s.codeAt (t.at_ / 64) t.code = 6 → a / 64 ≠ (t.at_ / 64) ^^^ 1)) → byteAt u a = byteAt s a)

/-- R115, R245, R246: the bit operations and `discard` as they issue, and what they leave when their slots fall.
The order of the checks is the model's reading (log entry 35), and a failed link is met where the slot falls (log entry 120). -/
def Obligations.BitAndDiscardForms : Prop := Claim.BitAndDiscardIssue ∧ Claim.BitAndDiscardComplete

/-! ## Transactions (R137 to R157) -/

/-- R137, R140: an outermost `xbegin` takes the checkpoint of s0 to s63, p0 to p6, the loops and FLAGS, notes its handler and begins at depth 1 with an
empty buffer and read set, its age stamp the package time and the wave's global number, or the one that a restart left; a nested one adds 1 to the depth, and at depth 15 it aborts with status 4, code 0xFD, and
its handler issues no sooner than 4 clocks later (R18). -/
def Claim.TransactionBegins : Prop :=
  ∀ (c : Ctl) (off : BitVec 24) (s : State), s.verdict (.xbegin c off) = .go →
    (s.me.tx.depth = 0 → ∃ u, exec (.xbegin c off) s = .next u ∧ onlyMe s u ∧ fellThrough s u ∧
      u.me.bare = { s.me with tx := u.me.tx, bad := u.me.bad }.bare ∧ mended s u (· == .txs) ∧ u.me.tx.depth = 1 ∧
      u.me.tx.cp = ⟨s.me.s, s.me.p, s.me.loops, s.me.flags, s.me.bad.filter RegPlace.saved⟩ ∧
      u.me.tx.handler = s.me.pc + 8 + 8 * off.signExtend 64 ∧ u.me.tx.begin_ = s.me.pc ∧ u.me.tx.buf = [] ∧ u.me.tx.lines = [] ∧
      u.me.tx.granules = [] ∧ u.me.tx.alts = [] ∧ u.me.tx.doom = false ∧ u.me.tx.stamp = some (s.me.tx.stamp.getD (s.time, s.me.gwn))) ∧
    (1 ≤ s.me.tx.depth → s.me.tx.depth < 15 → ∃ u, exec (.xbegin c off) s = .next u ∧ onlyMe s u ∧ fellThrough s u ∧
      u.me.bare = { s.me with tx := { s.me.tx with depth := s.me.tx.depth + 1 }, bad := u.me.bad }.bare ∧ mended s u (· == .txs)) ∧
    (15 ≤ s.me.tx.depth → ∃ u, exec (.xbegin c off) s = .next u ∧ aborted s u 4 0xFD 0 ∧ u.me.ready = clocksOn s.me.gwn s.time 4)

/-- R143: an inner `xend` lowers the depth by 1 and drops the alternatives pushed deeper; the outermost one, with no older active transaction registered on a
line or granule that it writes, and none of its changes waiting for a reservation (R245), ends the transaction with every register as it stands, invalidates L1, and with an empty buffer changes no memory; with such an older
one it aborts with status 1, restores its checkpoint and backs off (R154). Where a change waits for a reservation it has issued and waits. A buffered line of memory whose home
only a failed link reaches aborts it with status 6 and cause 0x15 (R354). -/
def Claim.TransactionEnds : Prop :=
  ∀ (c : Ctl) (s : State), s.verdict (.xend c) = .go →
    (2 ≤ s.me.tx.depth → ∃ u, exec (.xend c) s = .next u ∧ onlyMe s u ∧ fellThrough s u ∧
      u.me.bare = { s.me with tx := { s.me.tx with
        depth := s.me.tx.depth - 1, alts := s.me.tx.alts.filter fun a => decide (a.depth ≤ s.me.tx.depth - 1) }, bad := u.me.bad }.bare ∧
      mended s u (· == .txs)) ∧
    let cut : Prop := s.isShadow s.me.crew = false ∧
      ∃ x ∈ s.me.tx.buf, x.scratch = false ∧ s.linkBroken (s.dieOf (unitOf s.me.gwn)) (64 * x.line) = true
    (s.me.tx.depth = 1 → cut → ∃ u, exec (.xend c) s = .next u ∧ aborted s u 6 0 0x15) ∧
    (s.me.tx.depth = 1 → ¬ cut → s.mustYield = false → s.commitHeld = true → ∃ u, exec (.xend c) s = .next u ∧ stalled s u (.xend c)) ∧
    (s.me.tx.depth = 1 → ¬ cut → s.mustYield = false → s.commitHeld = false → ∃ u, exec (.xend c) s = .next u ∧ u.me.tx = Tx.zero ∧ u.me.watch = 0 ∧ fellThrough s u ∧
      u.me.s = s.me.s ∧ u.me.v = s.me.v ∧ u.me.p = s.me.p ∧ u.me.flags = s.me.flags ∧ (∀ x ∈ u.caches.l1, x.core ≠ unitOf s.me.gwn) ∧
      (s.me.tx.buf = [] → u.store = s.store ∧ u.crews = s.crews)) ∧
    (s.me.tx.depth = 1 → ¬ cut → s.mustYield = true → ∃ u, exec (.xend c) s = .next u ∧ onlyMe s u ∧ u.me.tx.depth = 0 ∧ u.me.tx.last = 1 ∧ u.me.tx.buf = [] ∧
      u.me.s = s.me.tx.cp.s ∧ u.me.p = s.me.tx.cp.p ∧ u.me.loops = s.me.tx.cp.loops ∧ u.me.flags = s.me.tx.cp.flags ∧ u.me.pc = s.me.tx.begin_ ∧
      u.me.tx.stamp = s.me.tx.stamp ∧ u.me.tx.confl = min (s.me.tx.confl + 1) 63 ∧
      u.me.run = .backoff (s.time + (64 * 2 ^ min (min (s.me.tx.confl + 1) 63 - 1) 8 + 37 * s.me.gwn % 64)))

/-- R133, R141, R143, R151, R152: what the commit of an outermost transaction performs: every bit that its buffer holds, in scratch and, but for a shadow copy
(R320), in device memory, the later write over the earlier, with the full/empty bits, and no other bit of a line without error; every other active transaction
registered on a line or granule that it writes is doomed, of a parked wave too, every sleeper on one woken, and no other wave changes. -/
def Claim.CommitPerforms : Prop :=
  ∀ (c : Ctl) (s : State), memOk s → s.me.wf = true → s.verdict (.xend c) = .go → s.me.tx.depth = 1 → s.commitCut = none → s.mustYield = false → s.commitHeld = false →
    let b := s.me.tx.buf
    let shadow := s.isShadow s.me.crew
    ∃ u, exec (.xend c) s = .next u ∧ performedScratch s u s.me.crew b ∧ (shadow = true → u.store = s.store) ∧ (shadow = false → performedGlobal s u b) ∧
      ∀ w ∈ s.others, w.gwn ≠ s.me.gwn →
        let hit : Prop := (shadow = false ∧ ∃ x ∈ b, x.scratch = false ∧ (x.line ∈ w.tx.lines ∨ s.sliceOf x.line ∈ w.tx.coarse)) ∨
          ∃ x ∈ b, ∃ g ∈ x.granules, granuleKey s.me.crew g ∈ w.tx.granules ∨ (w.tx.coarseCore = true ∧ unitOf w.gwn = unitOf s.me.gwn)
        (¬ hit → w ∈ u.waves) ∧
        (hit → w.run ≠ .asleep → (∀ i, w.run ≠ .feAsleep i) → w.tx.depth ≠ 0 → { w with tx := { w.tx with doom := true } } ∈ u.waves) ∧
        (hit → w.run = .asleep → w.tx.depth = 0 → ∃ k, { w with run := .woken k } ∈ u.waves) ∧
        ∀ i, hit → w.run = .feAsleep i → w.tx.depth = 0 → { w with run := .feWoken i } ∈ u.waves

/-- R133, R137, R140, R143, R151, R152: how a transaction begins and ends, and what its commit performs.
The code under which a line stands is kept by the model (log entry 5), a commit yields for granules of scratch as for lines (log entry 106), and meets a failed link as it locks (log entry 120). -/
def Obligations.TransactionBounds : Prop := Claim.TransactionBegins ∧ Claim.TransactionEnds ∧ Claim.CommitPerforms

/-- R141: inside a transaction no store, atomic or full/empty form writes a byte or bit of device memory or scratch, whatever becomes of it: it buffers, waits,
aborts or parks. -/
def Claim.TransactionalWritesAreBuffered : Prop :=
  ∀ (s : State) (i : Instr), s.me.tx.depth ≠ 0 → s.verdict i = .go →
    (match i with
      | .stG .. | .stS .. | .ldG .. | .ldS .. | .ldf .. | .ldfc .. | .stf .. | .feset .. | .feclr .. => True
      | i => (atomParts i).isSome = true) →
    ∃ u, exec i s = .next u ∧ u.store = s.store ∧ u.crews = s.crews ∧ u.out.hostMem = s.out.hostMem ∧ u.berths = s.berths

/-- R141: the wave's own buffered bytes and bits stand in what its transactional accesses read. -/
def Claim.OwnWritesAreRead : Prop :=
  ∀ s : State, memOk s → s.me.wf = true → performedScratch s s.overlay s.me.crew s.me.tx.buf ∧ performedGlobal s s.overlay s.me.tx.buf

/-- The coarse list of a line's slice is full for an access (R150). -/
def Claim.coarseFull (s : State) (n : Nat) (ts : List Target) : Prop :=
  ∃ a ∈ ts, ∃ l ∈ a.devLines n, 64 ≤ (s.waves.filter fun w => w.tx.coarse.contains (s.sliceOf l)).length

/-- A transactional access has issued: some registers are still to be written, its slot is raised, and of the transaction only the buffer differs, which has
some writes more, and the read set, which has nothing more than what a read of some targets reaches (R141). -/
def Claim.txIssued (s u : State) (c : Ctl) (cls : OrdClass) (n : Nat) (reads : List Target) (ws : List TxWrite) (regs : List RegWrite) (fl : Flags) : Prop :=
  fellThrough s u ∧ (∀ l ∈ u.me.tx.lines, l ∈ s.me.tx.lines ∨ ∃ a ∈ reads, a.space ≠ .scr ∧ l ∈ a.devLines n) ∧
  (∀ g ∈ u.me.tx.granules, g ∈ s.me.tx.granules ∨ ∃ a ∈ reads, a.space = .scr ∧ ∃ x ∈ granules a.at_ n, g = granuleKey s.me.crew x) ∧
  u.me.tx = { s.me.tx with
    buf := s.me.tx.buf ++ ws
    lines := u.me.tx.lines
    granules := u.me.tx.granules
    coarse := u.me.tx.coarse
    coarseCore := u.me.tx.coarseCore } ∧
  u.me.bare = { s.me with
    tx := u.me.tx
    flights := s.me.flights ++ [Flight.mk s.me.nextOp cls (if c.se then some c.ss.toNat else none) s.me.pc (.regs regs fl) false]
    nextOp := s.me.nextOp + 1
    sb := if c.se then Cells.set s.me.sb c.ss.toNat (s.me.slot c.ss.toNat + 1) else s.me.sb }.bare

/-- What a transactional read of a target gives: the value and its flags, from memory with the wave's own buffered writes in it. -/
def Claim.txReads (v : State) (many nan : Bool) (n : Nat) (a : Target) (x : Nat × Flags) : Prop :=
  match a.space with
  | .dev => x = ((fieldRead v (unitOf v.me.gwn) nan many n a).1, 0)
  | .scr => x = (((v.crew? v.me.crew).map fun k => k.read a.at_ n).getD 0, 0)
  | .wide => ∃ m, x = ((v.wideFields many a (freeTable m) (n / 2) 0).1.val, (v.wideFields many a (freeTable m) (n / 2) 0).1.flags)
  | .status => x = (v.readStatus (v.partOf (unitOf v.me.gwn)) a.at_ n, 0)
  | .host => False

/-- R119, R133, R137, R141, R150, R152, R232, R236, R237: what a load and a store of scratch or global memory do inside a transaction once their checks pass. A
store places each lane's bytes in the write buffer, and aborts with status 2 where that would be a 65th line; one through a wide view registers the lines of its
element and scale and buffers the element's bits as rounded under the scale that the wave sees, and aborts with status 2 where those would need a 65th line, with status 6
where only a failed link reaches one. A load stands registered on the lines or granules of every lane,
and returns what memory holds at its home with the wave's own buffered bytes over it; it aborts with status 3 where a slice's coarse list is full, and at no other
time; an uncorrectable element, or one that only a failed link reaches (R354), aborts it with status 6. It reads the home of a replicated page. No memory changes. An access of a line
that an earlier one of the wave still reaches has issued and waits. -/
def Claim.TransactionalAccesses : Prop :=
  ∀ (c : Ctl) (t : LdTy) (o : MemOrd) (d : Opnd) (m : MemArg) (scr : Bool) (s f : State) (ts : List (Nat × Target)), s.me.tx.depth ≠ 0 →
    s.me.wf = true →
    let n := ldBytes t
    let tgs := ts.map Prod.snd
    let as := (memLanes s c d m).map fun l => (l, memAt s m n l)
    let ld : Instr := if scr then .ldS c t o d m else .ldG c t o d m
    let st : Instr := if scr then .stS c t o d m else .stG c t o d m
    let busy := f.busyWith (ts.flatMap fun p => p.2.keys n)
    let v := f.overlay
    let hs := tgs.map Target.atHome
    let unit := unitOf s.me.gwn
    let many := v.manyOver unit n hs
    let faulty := v.judge unit s.me.crew true many n hs
    ((if scr then (s, s.checkScratch n as) else s.checkGlobal ⟨.w, n, ldWide t, true, false⟩ as) = (f, .ok ts) → s.verdict st = .go → onlyWalked s f ∧
      (busy = true → ∃ u, exec st s = .next u ∧ stalled f u st) ∧
      (busy = false → (∀ a ∈ tgs, a.space = .dev ∨ a.space = .scr) → ∃ u, exec st s = .next u ∧ onlyMe f u ∧
        (64 < Claim.linesWith s (Claim.linesOf tgs) → abortedWave s.me u.me 2 0 0) ∧
        (Claim.linesWith s (Claim.linesOf tgs) ≤ 64 → Claim.txIssued s u c .st n [] (ts.map fun p => Claim.buffered p.2 n (dataAt s t d p.1)) [] 0)) ∧
      (busy = false → ∀ l a, ts = [(l, a)] → a.space = .wide → let w := v.fieldWrites a n (dataAt s t d l)
        let lines := Claim.linesWith s (w.1.map fun x => (false, x.line))
        (f.cutOff (f.dieOf unit) n a = true → ∃ u, exec st s = .next u ∧ aborted f u 6 0 0x15) ∧
        (f.cutOff (f.dieOf unit) n a = false → ∃ u, exec st s = .next u ∧ onlyRead f u ∧
          ((abortedWave s.me u.me 3 0 0 ∧ Claim.coarseFull f n tgs) ∨ (abortedWave s.me u.me 2 0 0 ∧ 64 < lines) ∨
            (lines ≤ 64 ∧ registered f u n a ∧
              Claim.txIssued s u c .st n tgs (w.1.map fun x => ⟨false, x.line, x.mask, x.value, x.code, a.va / 64 * 64, a.level, []⟩) [] w.2))))) ∧
    ((if scr then (s, s.checkScratch n as) else s.checkGlobal ⟨.r, n, ldWide t, true, true⟩ as) = (f, .ok ts) → s.verdict ld = .go →
      (∀ a ∈ tgs, a.space ≠ .host) → onlyWalked s f ∧
      (busy = true → ∃ u, exec ld s = .next u ∧ stalled f u ld) ∧
      (busy = false → faulty = none → ∃ u, exec ld s = .next u ∧ onlyRead f u ∧
        ((abortedWave s.me u.me 3 0 0 ∧ Claim.coarseFull f n tgs) ∨
          ((∀ a ∈ tgs, registered f u n a) ∧ ∃ xs, xs.length = ts.length ∧ (∀ q ∈ ts.zip xs, Claim.txReads v many true n q.1.2.atHome q.2) ∧
            Claim.txIssued s u c .ld n tgs [] ((ts.zip xs).flatMap fun q => loadWrites t d q.1.1 q.2.1) ((xs.map Prod.snd).foldl (· ||| ·) 0)))) ∧
      (busy = false → faulty = none → ∀ l a, ts = [(l, a)] → a.space = .dev → a.at_ / 64 ∉ s.me.tx.lines →
        s.sliceOf (a.at_ / 64) ∉ s.me.tx.coarse → 16384 ≤ s.exactCount (s.sliceOf (a.at_ / 64)) → Claim.coarseFull s n tgs →
        ∃ u, exec ld s = .next u ∧ abortedWave s.me u.me 3 0 0) ∧
      ∀ sev va, busy = false → faulty = some (sev, va) → ∃ u, exec ld s = .next u ∧ onlyRead f u ∧
        abortedWave s.me u.me 6 0 (if sev = 3 then 0x13 else if sev = 4 then 0x14 else 0x15))

/-- R119, R141, R241, R242: what an atomic does inside a transaction once its checks pass, over one line of device memory or any lanes of scratch. It is
registered as a load is; each lane reads what the wave's buffer and its earlier lanes leave, its new value is placed in the buffer, and its old value goes to its
register when the slot falls. A 65th line aborts with status 2. -/
def Claim.TransactionalAtomics : Prop :=
  ∀ (i : Instr) (op : AtomOp) (c : Ctl) (scr : Bool) (t : AtTy) (o : MemOrd) (d : Opnd) (m : MemArg) (s f : State) (ts : List (Nat × Target)),
    atomParts i = some (op, c, scr, t, o, d, m) → s.me.tx.depth ≠ 0 → s.me.wf = true → s.verdict i = .go →
    let n := atBytes t
    let tgs := ts.map Prod.snd
    let as := (memLanes s c d m).map fun l => (l, memAt s m n l)
    let v := f.overlay
    let many := v.manyOver (unitOf s.me.gwn) n tgs
    let new (old l : Nat) : Nat × Flags := atomNew op t old (s.atomOpnd t d l 0) (s.atomOpnd t d l 1)
    (if scr then (s, s.checkScratch n as) else s.checkGlobal ⟨.w, n, false, atomHostOk op t, false⟩ as) = (f, .ok ts) →
    f.busyWith (ts.flatMap fun p => p.2.keys n) = false → ((∀ a ∈ tgs, a.space = .scr) ∨ (ts.length = 1 ∧ ∀ a ∈ tgs, a.space = .dev)) →
    v.judge (unitOf s.me.gwn) s.me.crew false many n tgs = none →
    ∃ u, exec i s = .next u ∧ onlyRead f u ∧
      ((abortedWave s.me u.me 3 0 0 ∧ Claim.coarseFull f n tgs) ∨ (abortedWave s.me u.me 2 0 0 ∧ 64 < Claim.linesWith s (Claim.linesOf tgs)) ∨
        (Claim.linesWith s (Claim.linesOf tgs) ≤ 64 ∧ (∀ a ∈ tgs, registered f u n a) ∧ ∃ olds : List Nat, olds.length = ts.length ∧
          let ws := (ts.zip olds).map fun q => Claim.buffered q.1.2 n (new q.2 q.1.1).1
          (∀ j p x, ts[j]? = some p → olds[j]? = some x → Claim.txReads
            ({ f with me := { f.me with tx := { f.me.tx with buf := s.me.tx.buf ++ ws.take j } } } : State).overlay many false n p.2 (x, 0)) ∧
          Claim.txIssued s u c .ra n tgs ws ((ts.zip olds).flatMap fun q => atomWrites t d q.1.1 q.2)
            ((ts.zip olds).foldl (fun fl q => fl ||| (new q.2 q.1.1).2) 0)))

/-- R142, R233, R300: the addresses that abort a transactional load, store or atomic with status 6 and the cause that would fault it outside: the memory of the host
before all others BAD_COMMAND, a misaligned lane MISALIGNED, an address of 2^48 or above UNMAPPED, a field past the allocation SCRATCH_RANGE, and of an access of one
lane a page that is missing, UNMAPPED with a notice of KIND 4, a page without the permission ACCESS_FAULT, an undefined layout BAD_LAYOUT, an uncorrectable
entry 0x15. A write to a replicated page parks the wave, transaction and all. -/
def Claim.TransactionalFaults : Prop :=
  ∀ (c : Ctl) (t : LdTy) (o : MemOrd) (d : Opnd) (m : MemArg) (write : Bool) (s : State), s.me.tx.depth ≠ 0 → isHm s.me.gwn = false →
    let n := ldBytes t
    let ls := memLanes s c d m
    let need : Need := if write then .w else .r
    let glob : Instr := if write then .stG c t o d m else .ldG c t o d m
    let scrt : Instr := if write then .stS c t o d m else .ldS c t o d m
    let hosts : Prop := ∃ l ∈ ls, s.hostVa need (memAt s m n l) = true
    let aborts (i : Instr) (cause : Nat) : Prop := s.verdict i = .go → ∃ u, exec i s = .next u ∧ aborted s u 6 0 cause
    (hosts → aborts glob 0x09) ∧
    (¬ hosts → (∃ l ∈ ls, memAt s m n l % n ≠ 0) → aborts glob 0x03) ∧
    (¬ hosts → (∀ l ∈ ls, memAt s m n l % n = 0) → (∃ l ∈ ls, 2 ^ 48 ≤ memAt s m n l) → aborts glob 0x05) ∧
    ((∃ l ∈ ls, memAt s m n l % n ≠ 0) → aborts scrt 0x03) ∧
    ((∀ l ∈ ls, memAt s m n l % n = 0) → (∃ l ∈ ls, s.scrSize < memAt s m n l + n) → aborts scrt 0x06) ∧
    (∀ (l : Nat) (f : State) (r : TrRes), ls = [l] → memAt s m n l % n = 0 → memAt s m n l < unwalkedBase → ¬ hosts →
      s.translate (unitOf s.me.gwn) s.me.ctx (memAt s m n l) need = (f, r) → s.verdict glob = .go →
      let va : Word := BitVec.ofNat 64 (memAt s m n l)
      let cause : Option Nat := match r with
        | .access => some 0x04
        | .badLayout => some 0x0B
        | .ue => some 0x15
        | _ => none
      onlyWalked s f ∧ (∀ x, cause = some x → ∃ u, exec glob s = .next u ∧ aborted f u 6 0 x) ∧
      (r = .missing → s.parts.length = 4 → ∃ u, exec glob s = .next u ∧ abortedWave s.me u.me 6 0 0x05 ∧ u = { f with me := u.me, parts := u.parts } ∧
        (u.part (s.partOf (unitOf s.me.gwn))).fqWait =
          (s.part (s.partOf (unitOf s.me.gwn))).fqWait ++ [⟨s.me.gwn, 4, 0, s.me.ctx, va, s.me.pc⟩]) ∧
      (r = .writeProtect → exec glob s = .next ((f.mapMe (Wave.stamp f.time)).parkWave s.me.gwn 2 0 va s.me.pc))) ∧
    ∀ (i : Instr) (op : AtomOp) (scr : Bool) (ty : AtTy), atomParts i = some (op, c, scr, ty, o, d, m) →
      let k := atBytes ty
      let host : Prop := ∃ l ∈ ls, s.hostVa .w (memAt s m k l) = true
      (scr = false → host → aborts i 0x09) ∧
      ((scr = true ∨ ¬ host) → (∃ l ∈ ls, memAt s m k l % k ≠ 0) → aborts i 0x03) ∧
      (scr = false → ¬ host → (∀ l ∈ ls, memAt s m k l % k = 0) → (∃ l ∈ ls, 2 ^ 48 ≤ memAt s m k l) → aborts i 0x05) ∧
      (scr = true → (∀ l ∈ ls, memAt s m k l % k = 0) → (∃ l ∈ ls, s.scrSize < memAt s m k l + k) → aborts i 0x06)

/-- R144, R145: an abort with status 2 to 6 enters the handler with the checkpoint restored and nothing buffered; the vector registers stay as they are where
nothing is in flight. `xabort` aborts with status 4 and its literal's code. -/
def Claim.AbortsEnterTheHandler : Prop :=
  (∀ (w : Wave) (status code cause : Nat), let x := w.enterHandler status code cause
    x.s = w.tx.cp.s ∧ x.p = w.tx.cp.p ∧ x.loops = w.tx.cp.loops ∧ x.flags = w.tx.cp.flags ∧ x.pc = w.tx.handler ∧ x.tx.depth = 0 ∧ x.tx.buf = [] ∧
    x.tx.lines = [] ∧ x.tx.granules = [] ∧ x.tx.last = status ∧ x.tx.code = code ∧ x.tx.cause = cause ∧ (w.flights = [] → x.v = w.v ∧ x.sb = w.sb)) ∧
  ∀ (c : Ctl) (imm : BitVec 16) (s : State), s.verdict (.xabort c imm) = .go →
    ∃ u, exec (.xabort c imm) s = .next u ∧ aborted s u 4 imm.toNat 0

/-- R133, R137, R141, R142, R144, R145, R150, R152: what loads, stores and atomics do inside a transaction, in which nothing is written, and how an abort enters the
handler.
The order of the checks, host memory before all others, is the model's reading (log entry 35), and so are the quantization of a wide-view store as it is buffered and the park of a store to a replicated page (log entry 34), the address of an error among several (log entry 75), and where a failed link is met (log entry 120). -/
def Obligations.BufferingAndAborts : Prop := Claim.TransactionalWritesAreBuffered ∧ Claim.OwnWritesAreRead ∧ Claim.TransactionalAccesses ∧ Claim.TransactionalAtomics ∧ Claim.TransactionalFaults ∧ Claim.AbortsEnterTheHandler

/-- R147, R148, R153: `otherwise` pushes an alternative with a checkpoint of the registers as they stand, and an eighth one aborts with status 4, code 0xFE. `retry`
goes on at the most recent alternative with its checkpoint and its part of the buffer; with none left it abandons the transaction and sleeps on its read set, at
once restarts where its own doom is set, or, with an empty read set, aborts with status 4, code 0xFF. -/
def Claim.AlternativesAndRetry : Prop :=
  ∀ (c : Ctl) (off : BitVec 24) (s : State),
    (s.verdict (.otherwise c off) = .go → s.me.tx.alts.length < 7 → ∃ u, exec (.otherwise c off) s = .next u ∧ onlyMe s u ∧ fellThrough s u ∧
      u.me.bare = { s.me with tx := { s.me.tx with
        alts := ⟨s.me.pc + 8 + 8 * off.signExtend 64, s.me.tx.depth, s.me.tx.buf.length,
          ⟨s.me.s, s.me.p, s.me.loops, s.me.flags, s.me.bad.filter RegPlace.saved⟩⟩ :: s.me.tx.alts }, bad := u.me.bad }.bare ∧ mended s u (· == .txs)) ∧
    (s.verdict (.otherwise c off) = .go → 7 ≤ s.me.tx.alts.length → ∃ u, exec (.otherwise c off) s = .next u ∧ aborted s u 4 0xFE 0) ∧
    (s.verdict (.retry c) = .go → s.me.tx.doom = false → s.me.flights = [] → ∀ a r, s.me.tx.alts = a :: r →
      ∃ u, exec (.retry c) s = .next u ∧ onlyMe s u ∧ u.me.pc = a.target ∧ u.me.s = a.cp.s ∧ u.me.p = a.cp.p ∧ u.me.loops = a.cp.loops ∧
        u.me.flags = a.cp.flags ∧ u.me.v = s.me.v ∧ u.me.ready = clocksOn s.me.gwn s.time 8 ∧ u.me.tx = { s.me.tx with depth := a.depth, alts := r, buf := s.me.tx.buf.take a.mark }) ∧
    (s.verdict (.retry c) = .go → s.me.tx.doom = false → s.me.tx.alts = [] → s.me.tx.readsNothing = false →
      ∃ u, exec (.retry c) s = .next u ∧ onlyMe s u ∧ u.me.run = .asleep ∧ u.me.pc = s.me.tx.begin_ ∧ u.me.s = s.me.tx.cp.s ∧ u.me.p = s.me.tx.cp.p ∧
        u.me.tx.depth = 0 ∧ u.me.tx.buf = [] ∧ u.me.tx.lines = s.me.tx.lines ∧ u.me.tx.granules = s.me.tx.granules ∧ u.me.tx.stamp = s.me.tx.stamp) ∧
    (s.verdict (.retry c) = .go → s.me.tx.doom = true →
      ∃ u, exec (.retry c) s = .next u ∧ onlyMe s u ∧ u.me.run = .running ∧ u.me.pc = s.me.tx.begin_ ∧ u.me.tx.last = 7 ∧ u.me.tx.depth = 0 ∧ u.me.tx.lines = []) ∧
    (s.verdict (.retry c) = .go → s.me.tx.doom = false → s.me.tx.alts = [] → s.me.tx.readsNothing = true →
      ∃ u, exec (.retry c) s = .next u ∧ aborted s u 4 0xFF 0)

/-- R151: a write performed at a home dooms every active transaction of another wave that has registered the line, of a parked wave too, and wakes such a wave that sleeps; it
touches no wave that has registered neither the line nor its slice. -/
def Claim.WritesDoomAndWake : Prop :=
  ∀ (s : State) (writer line : Nat) (w : Wave), w ∈ s.waves →
    let u := s.touchLine writer line
    let hit : Bool := w.gwn != writer && (w.tx.lines.contains line || w.tx.coarse.contains (s.sliceOf line))
    (hit = false → w ∈ u.waves) ∧
    (hit = true → w.run ≠ .asleep → (∀ i, w.run ≠ .feAsleep i) → w.tx.depth ≠ 0 → { w with tx := { w.tx with doom := true } } ∈ u.waves) ∧
    (hit = true → w.run = .asleep → { w with run := .woken (some s.wakes) } ∈ u.waves ∧ u.wakes = s.wakes + 1) ∧
    (∀ i, hit = true → w.run = .feAsleep i → { w with run := .feWoken i } ∈ u.waves) ∧
    u.waves.length = s.waves.length ∧ u.store = s.store ∧ u.crews = s.crews

/-- R97, R151, R336, R351: what a write at a home does to its line, and whom it dooms and wakes.
The code under which a line stands is kept by the model (log entry 5), and the wakes of one write carry its number (log entry 86). -/
def Obligations.HomeWrites : Prop := Claim.LinesWritten ∧ Claim.WritesDoomAndWake

/-- R149, R153, R154: a woken wave restarts at its outermost `xbegin` with LAST = 7 and its registrations removed, after the waves that the same write woke
and that go before it: those of higher effective priority, then of the older age stamp. A wave whose back-off is over goes on there; before that nothing
happens. -/
def Claim.Restarts : Prop :=
  (∀ (s : State) (g : Nat) (w : Wave) (x : Option Nat), s.wave? g = some w → w.run = .woken x →
    (s.waves.any (fun y => y.gwn != g && y.wokenBefore w) = true → exec (.wakeRestart g) s = .next s) ∧
    (s.waves.any (fun y => y.gwn != g && y.wokenBefore w) = false → ∃ u, exec (.wakeRestart g) s = .next u ∧ u.store = s.store ∧
      u.wave? g = some { w with run := .running, pc := w.tx.begin_, tx := { w.tx with
        last := 7, code := 0, cause := 0, lines := [], granules := [], coarse := [], coarseCore := false, doom := false } })) ∧
  (∀ (a b : Wave) (x : Nat), a.run = .woken (some x) → b.run = .woken (some x) →
    (a.wokenBefore b = true ↔ b.effPrio < a.effPrio ∨ a.effPrio = b.effPrio ∧
      (let x := a.tx.stamp.getD (0, a.gwn)
       let y := b.tx.stamp.getD (0, b.gwn)
       x.1 < y.1 ∨ x.1 = y.1 ∧ x.2 < y.2))) ∧
  ∀ (s : State) (g : Nat) (w : Wave) (due : Nat), s.wave? g = some w → w.run = .backoff due →
    (s.time < due → exec (.backoffExpiry g) s = .next s) ∧
    (due ≤ s.time → ∃ u, exec (.backoffExpiry g) s = .next u ∧ u.store = s.store ∧ u.time = s.time ∧ u.wave? g = some { w with run := .running })

/-- R147, R148, R149, R153, R154: alternatives, `retry`, and how a waiting transaction goes on.
The order in which one write's sleepers restart follows the numbers of its wakes (log entry 86). -/
def Obligations.AlternativesAndRestarts : Prop := Claim.AlternativesAndRetry ∧ Claim.Restarts

/-! ## Tasks, events and launches (R36 to R68, R248 to R253, R304 to R322) -/

/-- R248, R252, R250, R251, R253, R17: the words through which a task reaches its berth, its event vector and the harbourmaster. `spawn` faults BAD_COMMAND on a
record with SHADOW, SPAWNED or a reserved bit set, without a valid type, or of priority 28 or more from an unprivileged wave, and else offers the eight scalars
read at issue; an event number of 256 or more faults BAD_COMMAND; `progress` restarts the wave's watchdog; `tret` ends the wave, and as the last of its
crew it retires the task; `launch` wants an address that is a multiple of 128 and a record that it may read.
The order among the statuses of a spawn is the model's choice (log entry 69). -/
def Obligations.TaskCommands : Prop :=
  ∀ (c : Ctl) (d q a : BitVec 6) (e : Opnd) (s : State),
    (let ws := (List.range 8).map fun i => s.me.sreg (q.toNat + i)
     let t := s.typeEntry s.me.ctx (wordBits ws 0 48 12)
     let bad : Prop := wordBits ws 0 60 4 ≠ 0 ∨ wordBits ws 1 37 3 ≠ 0 ∨ t.2 = none ∨ (28 ≤ wordBits ws 1 32 5 ∧ s.me.priv = false)
     s.verdict (.spawn c d q) = .go → onlyWalked s t.1 ∧
      (¬ bad → ∃ u, exec (.spawn c d q) s = .next u ∧ inFlight t.1 u c .rel (.spawn d.toNat ws)) ∧
      (bad → exec (.spawn c d q) s = .next (faults t.1 0x09 0))) ∧
    (∀ on : Bool,
      let i : Instr := if on then .evset c e else .evclr c e
      let n := (s.opnd e 0).toNat
      s.verdict i = .go →
        (n < 256 → ∃ u, exec i s = .next u ∧ inFlight s u c .rel (if s.isShadow s.me.crew then .regs [] 0 else .event n on)) ∧
        (256 ≤ n → exec i s = .next (faults s 0x09 0))) ∧
    (s.verdict (.progress c) = .go → ∃ u, exec (.progress c) s = .next u ∧ onlyIssued s u ∧
      u.me.watch = if s.isShadow s.me.crew then s.me.watch + 1 else 0) ∧
    (s.verdict (.tret c) = .go → ∀ k, s.crew? s.me.crew = some k →
      (2 ≤ k.alive → (∃ w ∈ s.others, w.gwn ≠ s.me.gwn) → ∃ u, exec (.tret c) s = .next u ∧ (∀ w ∈ u.waves, w.gwn ≠ s.me.gwn) ∧
        u.crew? s.me.crew = some { k with alive := k.alive - 1 } ∧ u.store = s.store ∧ ∀ j, j ≠ s.me.crew → u.crew? j = s.crew? j) ∧
      (k.alive ≤ 1 → (∃ w ∈ s.others, isHm w.gwn = true) →
        (∀ r, s.rec? k.berth k.record = some r → r.hasShadow = false ∧ r.primary = none) →
        ∀ l, s.launch? k.ctx k.launch = some l → 2 ≤ l.live → ∃ u, exec (.tret c) s = .next u ∧ u.crew? s.me.crew = none ∧
          (∀ w ∈ u.waves, isHm w.gwn = true ∨ w.crew ≠ s.me.crew) ∧ u.rec? k.berth k.record = none ∧
          u.launch? k.ctx k.launch = some { l with live := l.live - 1 } ∧ u.store = s.store)) ∧
    (let va := (s.me.sreg a.toNat).toNat
     s.verdict (.launch c d a) = .go →
      (va % 128 ≠ 0 → exec (.launch c d a) s = .next (faults s 0x03 (s.me.sreg a.toNat))) ∧
      ∀ f t0 t1, va % 128 = 0 → s.isShadow s.me.crew = false →
        s.checkGlobal ⟨.r, 1, false, true, false⟩ [(0, va), (1, va + 64)] = (f, .ok [(0, t0), (1, t1)]) →
        onlyWalked s f ∧ ∃ u, exec (.launch c d a) s = .next u ∧ inFlight f u c .rel (.launch d.toNat [t0, t1]))

/-- R252, R45, R305: an event operation that nothing holds back, while a harbourmaster core of the partition runs, sets or clears its bit and no other, changes no other context,
and leaves no launch held whose wait events are all set; with every core halted it waits. -/
def Claim.EventOperations : Prop :=
  ∀ (s : State) (g id e : Nat) (on : Bool) (w : Wave) (f : Flight) (x : Context), s.wave? g = some w → w.flight? id = some f →
    s.blocked w f = false → f.cls = .rel → f.body = .event e on → s.ctx? w.ctx = some x → e < 256 →
    (s.hmAlive (s.partOfCtx w.ctx) = false → exec (.slotCompletion g id) s = .next s) ∧
    (s.hmAlive (s.partOfCtx w.ctx) = true → ∃ u y, exec (.slotCompletion g id) s = .next u ∧ u.ctx? w.ctx = some y ∧
      (∀ n, n < 256 → y.events.getLsbD n = if n = e then on else x.events.getLsbD n) ∧
      (∀ n, n ≠ w.ctx → u.ctx? n = s.ctx? n) ∧
      (∀ l ∈ y.launches, l.admitted = false → waitsMet y.events l.words = false) ∧
      (u.wave? g).map (·.flights) = some (w.flights.filter (·.id != f.id)))

/-- R43, R253, R305: while a harbourmaster core of the partition runs, the launch check takes the partition's oldest submission and answers it with a status word: cause 0x15 for a record it could not read, 0x09 for
one that R43 refuses, BUSY where the context already has 1,024 live launches, else ACCEPTED with a launch id that is nonzero and not in use. Refused, it
changes no context. -/
def Claim.LaunchChecks : Prop :=
  ∀ (s : State) (p d : Nat) (x : Submission) (w : Wave) (f : Flight) (ts : List Target) (c : Context),
    s.subs.find? (fun y => s.partOfCtx y.ctx == p) = some x → s.wave? x.gwn = some w → w.wf = true → w.flight? x.flight = some f →
    f.body = .launch d ts → s.ctx? x.ctx = some c → s.hmAlive p = true →
    let t := ({ s with subs := s.subs.filter fun y => !(y.gwn == x.gwn && y.flight == x.flight) }.typeEntry x.ctx (wordBits x.words 0 48 12)).2
    let used := c.launches.map (·.id)
    ∃ u z, exec (.launchCheck p) s = .next u ∧ u.wave? x.gwn = some z ∧ z.flights = w.flights.filter (·.id != f.id) ∧
      u.subs = s.subs.filter (fun y => !(y.gwn == x.gwn && y.flight == x.flight)) ∧
      (x.bad = true → z.sreg d = 0x1501 ∧ u.ctxs = s.ctxs) ∧
      (x.bad = false → launchOk s.dies c.priv c t x.words = false → z.sreg d = 0x0901 ∧ u.ctxs = s.ctxs) ∧
      (x.bad = false → launchOk s.dies c.priv c t x.words = true → 1024 ≤ c.launches.length → z.sreg d = 2 ∧ u.ctxs = s.ctxs) ∧
      (x.bad = false → launchOk s.dies c.priv c t x.words = true → c.launches.length < 1024 → ∃ i l, 0 < i ∧ i < 2 ^ 24 ∧ i ∉ used ∧
        z.sreg d = BitVec.ofNat 64 (i * 2 ^ 40) ∧ u.launch? x.ctx i = some l ∧ l.words = x.words ∧ l.live = wordBits x.words 1 0 32 ∧
        l.entries = 0 ∧ l.admitted = waitsMet c.events x.words)

/-- R43, R253, R294, R305: a `launch` whose check nothing holds back is submitted to its partition's harbourmaster with the record's sixteen words as the host
port's translation reads them, whether one is uncorrectable, or without a word where the record cannot be read, which the check then refuses; its slot stays raised.
Harbourmaster cores of the partition that sleep in `retry` are woken. Where no submission waits, the launch check completes every launch of the partition's contexts whose live count has reached
zero and leaves none held whose wait events are all set, and while every core of the partition is halted it does nothing. -/
def Claim.LaunchSubmissions : Prop :=
  (∀ (s : State) (g id d : Nat) (w : Wave) (f : Flight) (ts : List Target), s.wave? g = some w → w.flight? id = some f → s.blocked w f = false → f.cls = .rel →
    f.body = .launch d ts → (∀ x ∈ s.subs, ¬ (x.gwn = w.gwn ∧ x.flight = f.id)) →
    let r := (s.readVirtWords w.ctx ((ts.map (·.va)).headD 0) 16).2
    ∃ u, exec (.slotCompletion g id) s = .next u ∧ u.store = s.store ∧ u.ctxs = s.ctxs ∧ u.berths = s.berths ∧
      (∀ ws bad, r = some (ws, bad) → u.subs = s.subs ++ [⟨w.gwn, f.id, w.ctx, ws, bad⟩]) ∧
      (∀ ws, r = some (ws, true) → u.out.errors.getLast? = some ⟨(ts.map (·.at_)).headD 0, 5⟩) ∧
      (r = none → u.subs = s.subs ++ [⟨w.gwn, f.id, w.ctx, [], false⟩]) ∧
      (isHm g = false → u.wave? g = some w) ∧
      ∀ v ∈ s.waves, isHm v.gwn = true → s.partOf (unitOf v.gwn) = s.partOf (unitOf g) → v.run = .asleep → { v with run := .woken none } ∈ u.waves) ∧
  (∀ (dies : Nat) (priv : Bool) (c : Context) (t : Option TypeEntry), launchOk dies priv c t [] = false) ∧
  ∀ (s : State) (p : Nat),
    (s.hmAlive p = false → exec (.launchCheck p) s = .next s) ∧
    (s.hmAlive p = true → s.subs.find? (fun y => s.partOfCtx y.ctx == p) = none → ∃ u, exec (.launchCheck p) s = .next u ∧
      u.subs = s.subs ∧ (∀ c, s.partOfCtx c ≠ p → u.ctx? c = s.ctx? c) ∧
      (∀ c x, s.ctx? c = some x → s.partOfCtx c = p → ∃ y, u.ctx? c = some y ∧
        (∀ l ∈ y.launches, l.admitted = false → waitsMet y.events l.words = false) ∧
        ∀ l ∈ x.launches, l.admitted = true → l.live = 0 → ∀ m ∈ y.launches, m.id ≠ l.id) ∧
      ((∀ c x, s.ctx? c = some x → s.partOfCtx c = p → ∀ l ∈ x.launches, l.admitted = false ∨ l.live ≠ 0) → u.store = s.store ∧ u.waves = s.waves ∧
        ∀ c x, s.ctx? c = some x → s.partOfCtx c = p → ∃ y, u.ctx? c = some y ∧ y.events = x.events ∧ y.launches.length = x.launches.length))

/-- R43, R45, R252, R253, R305: event operations as they are performed, a launch as it is submitted, and the check of what is submitted.
The order of refusal and BUSY, that the harbourmaster's services are steps that a running core allows, and that a record which cannot be read is submitted without words are the model's readings (log entries 15, 16, 89). -/
def Obligations.EventsAndLaunchChecks : Prop := Claim.EventOperations ∧ Claim.LaunchChecks ∧ Claim.LaunchSubmissions

/-- R49, R51, R248, R311: a berth cycle answers its spawn offer: FULL_QUEUE at 2,048 records, FULL_QUOTA at the context's quota, else ACCEPTED, with the record
enqueued under the next sequence number, SPAWNED set and the spawner's launch id in it. -/
def Claim.OfferAnswers : Prop :=
  ∀ (s : State) (b d : Nat) (claim : Bool) (ws : List Word) (o : Offer) (w : Wave) (f : Flight) (k : Crew), (s.berth b).offers = [o] → (s.berth b).enums = [] →
    s.wave? o.gwn = some w → w.wf = true → w.flight? o.flight = some f → f.body = .spawn d ws → s.crew? w.crew = some k → ws.length = 8 →
    let x := s.berth b
    ∃ u z, exec (.berthCycle ⟨b, claim⟩) s = .next u ∧ u.wave? o.gwn = some z ∧ z.flights = w.flights.filter (·.id != f.id) ∧ (u.berth b).offers = [] ∧
      (2048 ≤ x.count → z.sreg d = 1 ∧ (u.berth b).nextSeq = x.nextSeq ∧ (u.berth b).recs.length = x.recs.length) ∧
      (x.count < 2048 → s.quotaOf w.ctx ≤ x.countOf w.ctx → z.sreg d = 2 ∧ (u.berth b).nextSeq = x.nextSeq ∧
        (u.berth b).recs.length = x.recs.length) ∧
      (x.count < 2048 → x.countOf w.ctx < s.quotaOf w.ctx → z.sreg d = 0 ∧ (u.berth b).nextSeq = seqAfter x.nextSeq ∧
        ∃ r ∈ (u.berth b).recs, r.seq = x.nextSeq ∧ r.ctx = w.ctx ∧ r.launch = k.launch ∧ wordBits r.words 0 0 60 = wordBits ws 0 0 60 ∧
          wordBits r.words 0 60 1 = 1 ∧ wordBits r.words 1 40 24 = k.launch % 2 ^ 24 ∧ wordBits r.words 1 0 40 = wordBits ws 1 0 40 ∧
          r.words.drop 2 = ws.drop 2)

/-- R47, R51, R321: an accepted spawn raises its launch's count of live tasks by one. -/
def Claim.SpawnsAreCounted : Prop :=
  ∀ (s : State) (b d : Nat) (claim : Bool) (ws : List Word) (o : Offer) (w : Wave) (f : Flight) (k : Crew) (l : Launch), (s.berth b).offers = [o] →
    (s.berth b).enums = [] → s.wave? o.gwn = some w → w.flight? o.flight = some f → f.body = .spawn d ws → s.crew? w.crew = some k →
    s.launch? w.ctx k.launch = some l → (s.berth b).count < 2048 → (s.berth b).countOf w.ctx < s.quotaOf w.ctx →
    ∃ u m, exec (.berthCycle ⟨b, claim⟩) s = .next u ∧ u.launch? w.ctx k.launch = some m ∧ m.live = l.live + 1

/-- R38, R51, R248, R249: a `spawn` that no shadow copy makes and that has not been offered yet, once nothing holds it back. The walk for BASE decides: the spawn is answered at
once with ANCHOR and the cause UNMAPPED for a base that is never walked, one without a translation, or an end beyond 2^48, BAD_LAYOUT, ACCESS for what is no device
memory, 0x15 for an uncorrectable entry, and BERTH_SPAN where the anchor spans and the type has no far body. Else it is offered to the berth that homes its
base, once, and its slot stays raised. -/
def Claim.SpawnOffers : Prop :=
  ∀ (s : State) (g id d : Nat) (ws : List Word) (w : Wave) (x : Flight), s.wave? g = some w → w.wf = true → w.flight? id = some x → s.blocked w x = false →
    x.cls = .rel → x.body = .spawn d ws → s.isShadow w.crew = false → (∀ b ∈ s.berths, ∀ o ∈ b.offers, ¬ (o.gwn = w.gwn ∧ o.flight = x.id)) →
    let base := wordBits ws 0 0 48
    let len := wordBits ws 1 0 32
    let answered (cause : Nat) : Prop := ∃ u z, exec (.slotCompletion g id) s = .next u ∧ u.wave? g = some z ∧ z.sreg d = BitVec.ofNat 64 (256 * cause + 3) ∧
      z.flights = w.flights.filter (·.id != x.id) ∧ u.berths = s.berths ∧ u.store = s.store
    (0xFFFFFFFF0000 ≤ base ∨ 2 ^ 48 < base + len → answered 0x05) ∧
    ∀ f r, base < 0xFFFFFFFF0000 → base + len ≤ 2 ^ 48 → s.walk (unitOf w.gwn) w.ctx base = (f, r) →
      (r = .missing → answered 0x05) ∧ (r = .badLayout → answered 0x0B) ∧ (r = .ue → answered 0x15) ∧
      ∀ level e, r = .leaf level e →
        let t := f.leafTarget w.ctx level e base
        let ty := (f.typeEntry w.ctx (wordBits ws 0 48 12)).2
        let stuck : Prop := spans base len = true ∧ ∀ y, ty = some y → y.farPc = 0
        (t.space ≠ .dev → answered 0x04) ∧
        (t.space = .dev → stuck → answered 0x0A) ∧
        (t.space = .dev → ¬ stuck → ∃ u, exec (.slotCompletion g id) s = .next u ∧ u.waves = s.waves ∧ u.store = s.store ∧
          (u.berth (s.berthOf t.at_)).offers = (s.berth (s.berthOf t.at_)).offers ++ [⟨s.time, w.gwn, x.id⟩] ∧
          (u.berth (s.berthOf t.at_)).recs = (s.berth (s.berthOf t.at_)).recs ∧ ∀ b, b ≠ s.berthOf t.at_ → u.berth b = s.berth b)

/-- R38, R46: where task i of a launch goes. In a stride launch its base is BASE + i × STRIDE, formed exactly; its home enumerates it, and the lowest berth of the partition
where the anchor faults, with the cause and severity of the fault. In a chart launch of one or two dimensions the base is the address of the block's first element, and
the berth of the owner formula enumerates it, whatever its home. -/
def Claim.EnumerationPlaces : Prop :=
  ∀ (s : State) (n i : Nat) (l : Launch), let f := launchFields l.words
    let p := s.placeOf n l i
    (∀ base : Int, let a := (s.anchor hostTlb n base f.len).2
      ((base < 0 ∨ 0xFFFFFFFF0000 ≤ base ∨ 2 ^ 48 < base + f.len) → a = .error (0x05, 0)) ∧
      (0 ≤ base → base < 0xFFFFFFFF0000 → base + f.len ≤ 2 ^ 48 → ∀ t r, s.walk hostTlb n base.toNat = (t, r) →
        (r = .missing → a = .error (0x05, 0)) ∧ (r = .badLayout → a = .error (0x0B, 0)) ∧ (r = .ue → a = .error (0x15, 5)) ∧
        ∀ level e, r = .leaf level e → a = if (t.leafTarget n level e base.toNat).space = .dev then .ok (t.leafTarget n level e base.toNat).at_
          else .error (0x04, 0))) ∧
    (f.chart = false → p.base = wordBits l.words 0 0 48 + (BitVec.ofNat 32 (wordBits l.words 2 0 32)).toInt * i ∧
      (∀ g, (s.anchor hostTlb n p.base f.len).2 = .ok g → p.owner = s.berthOf g ∧ p.home = .ok (s.berthOf g)) ∧
      ∀ e, (s.anchor hostTlb n p.base f.len).2 = .error e → p.owner = 64 * s.dies * s.partOfCtx n ∧ p.home = .error e) ∧
    (f.chart = true →
      (∀ g, (s.anchor hostTlb n p.base f.len).2 = .ok g → p.home = .ok (s.berthOf g)) ∧ (∀ e, (s.anchor hostTlb n p.base f.len).2 = .error e → p.home = .error e) ∧
      (∀ d, chartDims l.chart = [d] → p.owner = wordBits l.chart 0 48 8 + i % d.grid ∧
        p.base = wordBits l.chart 0 0 48 + (chartAddr l.chart [i * d.blk]).2) ∧
      ∀ d e, chartDims l.chart = [d, e] →
        let across := (d.ext + d.blk - 1) / d.blk
        p.owner = wordBits l.chart 0 48 8 + (i % across % d.grid + d.grid * (i / across % e.grid)) ∧
        p.base = wordBits l.chart 0 0 48 + (chartAddr l.chart [i % across * d.blk, i / across * e.blk]).2)

/-- R37, R38, R46, R47, R49, R50, R52, R64, R69, R311, R319: the enumeration of a launch at a berth, one task in a cycle, the next that the berth enumerates: one of its own that
no berth has taken, or one whose home has passed it, as its page has moved. A task is taken once. A task whose anchor faults, or
spans without a far body, is reported and not enqueued; one that has room at its home, fewer than 1,792 records and fewer than an eighth below the quota of its
context, is enqueued there with the record that R37 and R46 say, under the home's next sequence number, and with SHADOW set in the launch its shadow copy after it, which
raises the live count; without room nothing changes. With no task left the enumeration ends. -/
def Claim.EnumerationSteps : Prop :=
  ∀ (s : State) (b : Nat) (e : Enum) (l : Launch), (s.berth b).offers = [] → (s.berth b).steals = [] → (s.berth b).enums = [e] →
    s.launch? e.ctx e.launch = some l →
    let f := launchFields l.words
    let owner (i : Nat) : Nat := (s.placeOf e.ctx l i).owner
    let left (u : State) (es : List Enum) : Prop := exec (.berthCycle ⟨b, false⟩) s = .next u ∧ (u.berth b).enums = es ∧ u.waves = s.waves ∧ u.store = s.store ∧
      u.crews = s.crews ∧ ∀ c, c ≠ b → (u.berth c).enums = (s.berth c).enums
    let taken (i : Nat) : List Nat := i :: l.taken
    let passed (i : Nat) : Prop := ¬ ∃ x ∈ (s.berth (owner i)).enums, x.ctx = e.ctx ∧ x.launch = e.launch ∧ x.next ≤ i
    let takes (i : Nat) : Prop := i ∉ l.taken ∧ (owner i = b ∨ passed i)
    let same (u : State) : Prop := ∀ c, (u.berth c).recs = (s.berth c).recs ∧ (u.berth c).nextSeq = (s.berth c).nextSeq
    ((∀ i, e.next ≤ i → i < f.count → ¬ takes i) → ∃ u, left u [] ∧ same u ∧ u.ctxs = s.ctxs) ∧
    ∀ i, e.next ≤ i → i < f.count → takes i → (∀ j, e.next ≤ j → j < i → ¬ takes j) →
      let p := s.placeOf e.ctx l i
      let base := p.base.toNat
      let on : Enum := { e with next := i + 1 }
      let reported (cause sev : Nat) : Prop := ∃ u m, left u [on] ∧ same u ∧ u.launch? e.ctx e.launch = some m ∧
        m = { l with taken := taken i, reports := l.reports ++ [⟨b, 0, f.ty, base % 2 ^ 48, cause, sev, 0, 0, none⟩] }
      (∀ cause sev, p.home = .error (cause, sev) → reported cause sev) ∧
      ∀ h, p.home = .ok h →
        let stuck : Prop := spans base f.len = true ∧ ∀ y, (s.typeEntry e.ctx f.ty).2 = some y → y.farPc = 0
        let x := s.berth h
        let more := if f.shadow then 1 else 0
        let room : Prop := x.count + more < 1792 ∧ x.countOf e.ctx + more < s.quotaOf e.ctx - s.quotaOf e.ctx / 8
        let isRec (r : TaskRec) (seq : Nat) (shadow : Bool) : Prop := r.seq = seq ∧ r.ctx = e.ctx ∧ r.launch = e.launch ∧ r.time = s.time ∧
          r.st = .unclaimed ∧ r.spans = spans (base % 2 ^ 48) f.len ∧ r.holds = [] ∧ r.bad = false ∧ r.words.length = 2 + ((l.words.drop 10).take 6).length ∧
          wordBits r.words 0 0 48 = base % 2 ^ 48 ∧ wordBits r.words 0 48 12 = f.ty ∧ wordBits r.words 0 60 4 = (if shadow then 2 else 0) ∧
          wordBits r.words 1 0 32 = f.len ∧ wordBits r.words 1 32 5 = f.prio ∧ wordBits r.words 1 37 3 = 0 ∧ wordBits r.words 1 40 24 = l.id % 2 ^ 24 ∧
          r.words.drop 2 = (l.words.drop 10).take 6
        (stuck → reported 0x0A 0) ∧
        (¬ stuck → ¬ room → ∃ u, left u [e] ∧ same u ∧ u.ctxs = s.ctxs) ∧
        (¬ stuck → room → ∃ u r, left u [on] ∧ isRec r x.nextSeq false ∧ r.primary = none ∧ r.hasShadow = f.shadow ∧
          (∀ c, c ≠ h → (u.berth c).recs = (s.berth c).recs ∧ (u.berth c).nextSeq = (s.berth c).nextSeq) ∧
          (f.shadow = false → (u.berth h).recs = x.recs ++ [r] ∧ (u.berth h).nextSeq = seqAfter x.nextSeq ∧
            u.launch? e.ctx e.launch = some { l with taken := taken i }) ∧
          (f.shadow = true → ∃ q m, (u.berth h).recs = x.recs ++ [r, q] ∧ isRec q (seqAfter x.nextSeq) true ∧ q.primary = some r.id ∧ q.hasShadow = false ∧
            (u.berth h).nextSeq = seqAfter (seqAfter x.nextSeq) ∧ u.launch? e.ctx e.launch = some m ∧ m = { l with taken := taken i, live := l.live + 1 }))

/-- R48, R53, R55, R308, R310, R319: which records of a berth a claim may take. A record is clear when it is unclaimed, of a context that is not pre-empted, and DISJOINT or behind no
earlier, unretired record of its context, no shadow copy and not DISJOINT, whose anchor shares a byte with its own; a shadow copy when its primary is claimed. It is stealable
where its type has a far body and it spans, is a shadow copy, or its context has more unclaimed records than the type's threshold. -/
def Claim.ClearTasks : Prop :=
  ∀ (s : State) (b : Nat) (pre post : List TaskRec) (r : TaskRec), (s.berth b).recs = pre ++ r :: post → ((s.berth b).recs.map (·.id)).Nodup →
    let disjoint (x : TaskRec) : Prop := ∃ t, s.typeOf x = some t ∧ t.disjoint = true
    let base (x : TaskRec) : Nat := wordBits x.words 0 0 48
    let len (x : TaskRec) : Nat := wordBits x.words 1 0 32
    (r ∈ s.clearRecs b ↔ r.st = .unclaimed ∧ (∃ c, s.ctx? r.ctx = some c ∧ c.preempted = false) ∧
      (∀ q, r.primary = some q → ∃ x ∈ (s.berth b).recs, x.id = q ∧ x.st ≠ .unclaimed) ∧
      (r.primary = none → disjoint r ∨ ∀ x ∈ pre, x.ctx = r.ctx → x.st ≠ .retired → x.primary = none → ¬ disjoint x →
        ¬ ∃ a, base x ≤ a ∧ a < base x + len x ∧ base r ≤ a ∧ a < base r + len r)) ∧
    (s.clearRecs b).Sublist (s.berth b).recs ∧
    (s.stealable (s.berth b) r = true ↔ ∃ t, s.typeOf r = some t ∧ t.farPc ≠ 0 ∧ (r.primary.isSome = true ∨ r.spans = true ∨
      (if t.nearPc = 0 then 0 else if t.nearOnly = true then 4096 else t.depth) <
        ((s.berth b).recs.filter fun x => decide (x.ctx = r.ctx ∧ x.st = .unclaimed)).length)) ∧
    ∀ n, s.canTake n r = true ↔ ((s.core n).bound = none ∨ (s.core n).bound = some r.ctx) ∧ ∃ t, s.typeOf r = some t ∧ s.fits n t = true

/-- A unit has claimed a record (R56, R58, R61, R62, R99, R307, R312, R378): a crew of its type with free wave slots, scratch that is zero and empty, and waves that have not started, each with the
registers that R62 gives it, at the type's entry. The unit's caches keep nothing old, and a far core is bound to the context. -/
def Claim.claimed (s u : State) (n b : Nat) (r : TaskRec) (t : TypeEntry) : Prop :=
  let size := if 256 ≤ n then 1 else t.crew
  ∃ k, u.crew? k.id = some k ∧ (∀ c ∈ s.crews, c.id ≠ k.id) ∧ k.unit = n ∧ k.ctx = r.ctx ∧ k.berth = b ∧ k.record = r.id ∧ k.seq = r.seq ∧
    k.launch = r.launch ∧ k.alive = size ∧ k.waves.length = size ∧ k.waves.Nodup ∧ k.units = t.scratch ∧ k.scratch = [] ∧ k.full = [] ∧ k.bad = [] ∧
    k.fault = none ∧ k.shadow = r.primary.isSome ∧ k.sig = 0 ∧ (u.rec? b r.id).map (·.st) = some (.running k.id) ∧ u.crews = s.crews ++ [k] ∧
    u.store = s.store ∧ (∀ w ∈ s.waves, w ∈ u.waves) ∧ (∀ c ∈ u.caches.l1, c.core ≠ n) ∧ (∀ c ∈ u.caches.ic, c.unit ≠ n) ∧
    (n < 256 → (u.core n).bound = some r.ctx ∧ ((s.core n).served ≠ some r.ctx → (u.core n).banks = [] ∧ (u.core n).tables = [] ∧ (u.core n).active = 0)) ∧
    ∀ i, i < size → ∃ w ∈ u.waves, k.waves[i]? = some w.gwn ∧ unitOf w.gwn = n ∧ slotOf w.gwn ∉ s.slotsUsed n ∧ w.crew = k.id ∧ w.crewIx = i ∧
      w.run = .off ∧ w.issued = none ∧ w.pc = BitVec.ofNat 64 (if 256 ≤ n then t.nearPc else t.farPc) ∧ w.ctx = r.ctx ∧
      w.prio = wordBits r.words 1 32 5 ∧ w.vregs = t.vregs ∧ w.flights = [] ∧ w.tx.depth = 0 ∧ w.loops = .zero ∧ w.flags = 0 ∧ w.watch = 0 ∧
      w.sreg 0 = BitVec.ofNat 64 (wordBits r.words 0 0 48) ∧ w.sreg 1 = BitVec.ofNat 64 (wordBits r.words 1 0 32) ∧ w.sreg 2 = BitVec.ofNat 64 r.seq ∧
      w.sreg 3 = BitVec.ofNat 64 (wordBits r.words 0 48 12 + 2 ^ 16 * wordBits r.words 1 32 5) ∧ (∀ j, j < 6 → w.sreg (4 + j) = r.words.getD (2 + j) 0) ∧
      w.sreg 10 = BitVec.ofNat 64 (i + 16 * (size - 1)) ∧ w.sreg 11 = BitVec.ofNat 64 b ∧ w.sreg 12 = BitVec.ofNat 64 r.launch ∧
      (∀ j, 13 ≤ j → j < 64 → w.sreg j = 0) ∧ (∀ m x, w.vreg m x = 0) ∧ (∀ j, j < 6 → w.preg j = 0) ∧ w.preg 7 = BitVec.allOnes 32 ∧
      (∀ x, x < 32 → (w.preg 6).getLsbD x = decide (4 * x < min (wordBits r.words 1 0 32) 128)) ∧ ∀ j, w.slot j = 0

/-- R54, R56, R57, R58, R62, R311, R354, R379: one claim of a berth's quay unit. Its window is the eight oldest of the clear records with a near body that do not span and are no
shadow copies; of these it takes the one of highest effective priority, the oldest among equals, and only where that fits. It holds the lines of the anchor that
its translation gives and its berth homes, each once more, and no far core keeps a copy of one. A record that is uncorrectable is reported instead. -/
def Claim.QuayClaims : Prop :=
  ∀ (s : State) (b : Nat), b < 256 → (s.berth b).offers = [] → (s.berth b).enums = [] → (s.berth b).steals = [] →
    let window := ((s.clearRecs b).filter fun r => decide (r.primary = none ∧ r.spans = false) && (s.typeOf r).any fun t => t.nearPc != 0).take 8
    let idle : Prop := ∃ u, exec (.berthCycle ⟨b, true⟩) s = .next u ∧ u.crews = s.crews ∧ u.waves = s.waves ∧ u.ctxs = s.ctxs ∧ (u.berth b).recs = (s.berth b).recs
    (window = [] → idle) ∧
    ∀ pre r post t, window = pre ++ r :: post → (∀ q ∈ pre, s.recPrio q < s.recPrio r) → (∀ q ∈ post, s.recPrio q ≤ s.recPrio r) → s.typeOf r = some t →
      s.rec? b r.id = some r →
      let fits : Prop := (s.slotsUsed (256 + b)).length + t.crew ≤ 4 ∧ s.unitsUsed (256 + b) + t.scratch ≤ 4
      (¬ fits → idle) ∧
      (fits → r.bad = true → ∀ l, s.launch? r.ctx r.launch = some l → ∃ u m e, exec (.berthCycle ⟨b, true⟩) s = .next u ∧ u.crews = s.crews ∧ u.waves = s.waves ∧
        u.rec? b r.id = some { r with st := .failed } ∧ u.launch? r.ctx r.launch = some m ∧ m = { l with reports := l.reports ++ [e] } ∧ e.cause = 0x15 ∧ e.sev = 5 ∧
        e.berth = b ∧ e.seq = r.seq ∧ e.record = some r.id) ∧
      (fits → r.bad = false → ∃ u q, exec (.berthCycle ⟨b, true⟩) s = .next u ∧ Claim.claimed s u (256 + b) b r t ∧ u.rec? b r.id = some q ∧
        (∀ a, (u.caches.near.find? (·.1 == a)).map (·.2) = if a ∈ q.holds then some (((s.caches.near.find? (·.1 == a)).map (·.2)).getD 0 + 1)
          else (s.caches.near.find? (·.1 == a)).map (·.2)) ∧ (∀ c ∈ u.caches.l1, c.line ∉ q.holds) ∧
        let base := wordBits r.words 0 0 48
        let len := wordBits r.words 1 0 32
        (len = 0 ∨ 0xFFFFFFFF0000 ≤ base → q.holds = []) ∧
        ∀ f level e, 0 < len → base < 0xFFFFFFFF0000 → s.walkFor (256 + b) r.ctx base .r = (f, .leaf level e) →
          let p := f.leafTarget r.ctx level e base
          ∀ a, a ∈ q.holds ↔ p.space = .dev ∧ p.at_ / 64 ≤ a ∧ a ≤ (p.at_ + len - 1) / 64 ∧ s.berthOf (64 * a) = b)

/-- R55, R56, R310: one steal at a berth. The core claims from the window of the stealable, clear records that it can take, by its request and as it stands: the eight
youngest and the oldest; of these the one of highest effective priority, the youngest among equals, but at 27 the oldest of the window where it ties. A request that
finds none changes no record, and its pilot chooses again, no sooner than the next clock. -/
def Claim.Steals : Prop :=
  ∀ (s : State) (b : Nat) (q : StealReq) (p : PilotCore), q.core < 256 → (s.berth b).offers = [] → (s.berth b).enums = [] → (s.berth b).steals = [q] →
    s.pilot? q.core = some p →
    let list := ((s.clearRecs b).filter (s.stealable (s.berth b))).filter fun r => s.canTake q.core r && s.dieAllows q.core b r &&
      decide (q.bound = none ∨ q.bound = some r.ctx) && (s.typeOf r).any fun t => decide (t.crew ≤ q.slots ∧ t.scratch ≤ q.units)
    let window := if list.length ≤ 8 then list else list.take 1 ++ list.drop (list.length - 8)
    (list = [] → ∃ u, exec (.berthCycle ⟨b, false⟩) s = .next u ∧ u.crews = s.crews ∧ u.waves = s.waves ∧ (u.berth b).recs = (s.berth b).recs ∧
      (u.berth b).steals = [] ∧ u.pilot? q.core = some { p with asked := none, next := s.time + 1 }) ∧
    ∀ pre r post t, window = pre ++ r :: post → s.typeOf r = some t → s.rec? b r.id = some r → r.bad = false →
      ((pre = [] ∧ s.recPrio r = 27 ∧ ∀ x ∈ post, s.recPrio x ≤ 27) ∨
        ((∀ x ∈ pre, s.recPrio x ≤ s.recPrio r) ∧ (∀ x ∈ post, s.recPrio x < s.recPrio r) ∧
          ¬ (s.recPrio r = 27 ∧ ∃ x, pre.head? = some x ∧ s.recPrio x = 27))) →
      ∃ u, exec (.berthCycle ⟨b, false⟩) s = .next u ∧ Claim.claimed s u q.core b r t ∧ (u.berth b).steals = [] ∧
        u.pilot? q.core = some { p with asked := none }

/-- R38, R46 to R58, R62, R248, R249, R310, R311: the cycle of a berth: spawn offers and their answers, the enumeration of launches, quay claims and steals, and with what
registers claimed waves start.
A home is decided at the enumeration, an anchor of length 0 does not span, a status of a spawn goes before another, a type is read at each choice, and a pilot waits a clock: these, the low bits and the berth of some reports, the lines of a quay claim, DETAIL of a report of an anchor, and that an anchor beyond 2^48 is found before its walk, are the model's (log entries 19, 63, 65 to 67, 69 to 71, 76, 91, 111, 112). -/
def Obligations.BerthCycles : Prop := Claim.OfferAnswers ∧ Claim.SpawnsAreCounted ∧ Claim.SpawnOffers ∧ Claim.EnumerationPlaces ∧ Claim.EnumerationSteps ∧ Claim.ClearTasks ∧ Claim.QuayClaims ∧ Claim.Steals

/-- R61, R53, R66, R68, R314, R317, R308, R309, R310: a crew whose task has not faulted starts with all its waves together; in the clock in which a queued task, or a wave that is
eligible and not issued, has waited another 4,096 clocks it gains 1 of effective priority, and a running wave that is not eligible does not age; the status line shows 255
for a full berth or quota and else the count, at most 254, and is rewritten no sooner than 256 L2 clocks after the last time; a pilot whose turn serves a core sends it to
its best local berth, where there is none and remote ones may be tried to the best of those, with the core's free slots, units and bound context in the request, and
remote berths may be tried after 2 µs.
The times in arithmetic clocks, 180 for 256 L2 clocks and 2,800 for 2 microseconds, that a pilot asks for one free slot, and the window of a context's signal, are the model's (log entries 17, 18, 19, 91, 119). -/
def Obligations.BerthTimers : Prop :=
  ∀ (s : State),
    (∀ (k : Nat) (c : Crew) (w : Wave), s.crew? k = some c → c.fault = none → w ∈ s.waves → w.crew = k → isHm w.gwn = false → w.run = .off →
      w.issued = none → ∃ u, exec (.crewStart c.unit k) s = .next u ∧ { w with run := .running, ready := s.time } ∈ u.waves ∧
        u.store = s.store ∧ ∀ x ∈ s.waves, x.crew ≠ k → x ∈ u.waves) ∧
    (∀ (b id : Nat) (r : TaskRec), s.rec? b id = some r → r.st = .unclaimed → wordBits r.words 1 32 5 < 28 → s.recPrio r < 27 → r.time ≤ s.time →
      s.owing = [] →
      ((s.time + 1 - r.time) % 4096 = 0 → ∃ u, exec (.taskPriorityAge b id) s = .next u ∧ u = s.elapse 1 ∧ u.recPrio r = s.recPrio r + 1 ∧
        u.time = s.time + 1 ∧ u.store = s.store) ∧
      ((s.time + 1 - r.time) % 4096 ≠ 0 → exec (.taskPriorityAge b id) s = .next s ∧ (s.elapse 1).recPrio r = s.recPrio r)) ∧
    (∀ (g n : Nat) (w : Wave), s.wave? g = some w → isHm g = false →
      (s.eligible w = true → (s.elapse n).wave? g = some { w with age := w.age + clocksIn g s.time n, watch := w.watch + clocksIn g s.time n }) ∧
      (w.run = .running → s.eligible w = false → (s.elapse n).wave? g = some w) ∧
      (∀ d, w.run = .backoff d → (s.elapse n).wave? g = some { w with watch := w.watch + clocksIn g s.time n }) ∧
      (w.prio < 28 → w.effPrio < 27 → (w.age + 1) % 4096 = 0 → s.eligible w = true → clocksIn g s.time 1 = 1 → s.owing = [] →
        ∃ u x, exec (.wavePriorityAge g) s = .next u ∧ u = s.elapse 1 ∧ u.wave? g = some x ∧ x.effPrio = w.effPrio + 1)) ∧
    (∀ b, (s.berth b).status ≠ s.statusBytes b →
      ((∀ t, (s.berth b).statusTime = some t → t + 180 ≤ s.time) → ∃ u, exec (.statusLineRewrite b) s = .next u ∧ u.store = s.store ∧
        (∀ n, n < 64 → Cells.get (u.berth b).status n = if 2048 ≤ (s.berth b).count ∨ ((s.ctx? n).isSome = true ∧ s.quotaOf n ≤ (s.berth b).countOf n) then 255
          else BitVec.ofNat 8 (min ((s.berth b).countOf n) 254)) ∧ (u.berth b).statusTime = some s.time ∧ u.time = s.time) ∧
      (∀ t, (s.berth b).statusTime = some t → s.time < t + 180 → exec (.statusLineRewrite b) s = .next s)) ∧
    (∀ (n : Nat) (p : PilotCore), s.pilot? n = some p → p.asked = none → p.next ≤ s.time → s.coreOpen n = true →
      let near := s.bestBerth n (p.chart.filter fun b => b / 64 == n / 64)
      let away := s.bestBerth n (p.chart.filter fun b => b / 64 != n / 64)
      let sent (b since : Nat) (remote : Bool) : Prop := ∃ u x, exec (.pilotSend n) s = .next u ∧ u.pilot? n = some x ∧ x.asked = some b ∧ x.since = since ∧
        x.remote = remote ∧ u.store = s.store ∧ u.waves = s.waves ∧
        (⟨n, 32 - (s.slotsUsed n).length, 14 - s.unitsUsed n, (s.core n).bound⟩ : StealReq) ∈ (u.berth b).steals
      (s.pilotNext (n / 64) ≠ some n → exec (.pilotSend n) s = .next s) ∧
      (∀ q, near = some q → s.pilotNext (n / 64) = some n → sent q.1 s.time false) ∧
      (∀ q, near = none → p.remote = true → away = some q → s.pilotNext (n / 64) = some n → sent q.1 p.since true) ∧
      (near = none → p.remote = false → exec (.pilotSend n) s = .next s ∧
        (p.since + 2800 ≤ s.time → ∃ u, exec (.remoteWaitExpiry n) s = .next u ∧ (u.pilot? n).map (·.remote) = some true ∧ u.store = s.store ∧
          u.waves = s.waves) ∧
        (s.time < p.since + 2800 → exec (.remoteWaitExpiry n) s = .next s)))

/-- R64, R47, R294, R305, R362: while a harbourmaster core of the partition runs, the next report of a launch is written into its ring entry where that is free and its address
translates with write permission: the words of R64, the count of entries one higher, the record freed and the live count one lower; no byte outside the entry's line changes.
Where it is not free, or its address does not translate so, the report stays, and its failure is recorded once.
With the last report the launch completes: it is gone, its set events are ORed into the event vector, and no launch stays held whose wait events are all set.
The fields of a report beyond the rule's words follow log entry 60, the step that writes them is the harbourmaster's (log entry 15), and the form of the record of a failure is the model's (log entry 113). -/
def Obligations.Manifests : Prop :=
  ∀ (s f : State) (c i : Nat) (l : Launch) (r : Report) (z : TrRes) (x : Context), memOk s → (∀ k ∈ s.crews, k.fault = none) →
    s.ctx? c = some x → s.launch? c i = some l → l.reports.find? s.reportReady = some r → s.hmAlive (s.partOfCtx c) = true →
    let va := wordBits l.words 3 0 48 + 32 * (l.entries % wordBits l.words 3 48 16)
    va < 0xFFFFFFFF0000 → s.translate hostTlb c va .w = (f, z) → onlyWalked s f ∧
    ((∀ t, z = .ok t → t.space = .wide ∨ ((t.space = .dev ∨ t.space = .host) ∧ f.entryFree c t = false)) →
      ∃ u, exec (.manifestWrite c i) s = .next u ∧ exec (.manifestRetry c i) s = .next u ∧
        (l.noted = true → u = { f with out := u.out } ∧ (u.out = f.out ∨ u.out = s.out)) ∧
        (l.noted = false → u.launch? c i = some { l with noted := true } ∧ u.out.errors = f.out.errors ++ [⟨va, 0⟩] ∧ u.store = s.store ∧
          u.waves = s.waves ∧ u.berths = s.berths)) ∧
    ∀ t, z = .ok t → t.space = .dev → t.at_ % 32 = 0 →
    (f.entryFree c t = true → ∃ u, exec (.manifestWrite c i) s = .next u ∧ exec (.manifestRetry c i) s = .next u ∧
      (∀ id, r.record = some id → u.rec? r.berth id = none) ∧
      (2 ≤ l.live → u.launch? c i = some { l with entries := l.entries + 1, reports := l.reports.erase r, live := l.live - 1, noted := false } ∧
        (∀ a, a / 64 ≠ t.at_ / 64 → byteAt u a = byteAt s a) ∧
        u.store = (f.writeEntry t [
          (1#1 ++ BitVec.ofNat 3 r.sev ++ BitVec.ofNat 12 r.type ++ BitVec.ofNat 8 r.berth ++ BitVec.ofNat 40 r.seq : BitVec 64),
          (0#8 ++ BitVec.ofNat 8 r.cause ++ BitVec.ofNat 48 r.anchor : BitVec 64), r.pc.setWidth 48 |>.setWidth 64, r.detail]).store) ∧
      (l.live ≤ 1 → u.launch? c i = none ∧ ∃ y, u.ctx? c = some y ∧
        (∀ n, n < 256 → (y.events.getLsbD n = true ↔ x.events.getLsbD n = true ∨
          ∃ k, k < 16 ∧ (wordBits l.words 8 16 16).testBit k = true ∧ wordBits l.words (6 + k / 8) (8 * (k % 8)) 8 = n)) ∧
        ∀ h ∈ y.launches, h.admitted = false → waitsMet y.events h.words = false))

/-- R318, R300, R322: a wave whose watchdog reaches its context's window has the context pre-empted, and once every unit of it is saved each claimed task is reported with
cause 0x21, DETAIL and PC naming the hung wave of lowest crew index, and the context is resident again, its events and launches unchanged but for those reports; below the
window nothing happens. A park or notice is written into the partition's fault queue where its next entry is free, and the ring goes on. A shadow copy whose signature equals
its retired primary's leaves no record, one that faulted or differs is reported with cause 0x22 and its signature, and one whose primary was reported is dropped when it
has ended or unclaimed.
The ring's index beyond FQCAP, the events of a signature and the core that reports a hang follow log entries 46, 60 and 61. -/
def Obligations.WatchdogQueueAndShadows : Prop :=
  (∀ (s : State) (g : Nat) (w : Wave) (c : Context), s.wave? g = some w → s.ctx? w.ctx = some c → isHm g = false →
    let window := (if isQuay g then 1000 else 1400) * c.wdog
    (w.watch < window → exec (.watchdogHang g) s = .next s) ∧
    (window ≤ w.watch → w.run ≠ .off → c.frozen = false → s.hmAlive (s.partOfCtx w.ctx) = true → ∃ u y, exec (.watchdogHang g) s = .next u ∧
      u.ctx? w.ctx = some y ∧ y = { c with preempted := true, frozen := true, hang := some c.wdog } ∧ u.store = s.store ∧ u.crews = s.crews ∧
      ∀ v ∈ u.waves, v.ctx = w.ctx → isHm v.gwn = false → v.tx.depth = 0)) ∧
  (∀ (s : State) (c : Context) (ctx unit pa wdog : Nat), s.ctx? ctx = some c → c.frozen = true → c.hang = some wdog →
    (∀ v ∈ s.waves, v.ctx = ctx → isHm v.gwn = true) → (∀ k ∈ s.crews, k.ctx ≠ ctx) → s.hmAlive (s.partOfCtx ctx) = true →
    ∃ u y, exec (.preemptImageWrite ctx ⟨unit, pa⟩) s = .next u ∧ u.ctx? ctx = some y ∧ y.images = [] ∧ y.frozen = false ∧ y.preempted = false ∧ y.hang = none ∧
      y.events = c.events ∧ u.store = s.store ∧
      ∀ i ∈ c.images, ∀ k ∈ i.crews, k.ctx = ctx → k.shadow = false → ∀ l, s.launch? ctx k.launch = some l → ∃ m r, u.launch? ctx k.launch = some m ∧ r ∈ m.reports ∧
        m = { l with reports := m.reports } ∧ r.berth = k.berth ∧ r.seq = k.seq ∧ r.record = some k.record ∧ r.cause = 0x21 ∧ r.sev = 0 ∧
        (let hung (v : Wave) : Prop := v ∈ i.waves ∧ v.crew = k.id ∧ (if isQuay v.gwn then 1000 else 1400) * wdog ≤ v.watch
        ((∀ v, ¬ hung v) → r.detail = 0) ∧
        ((∃ v, hung v) → ∃ v z, hung v ∧ z ∈ i.waves ∧ z.crew = k.id ∧ z.crewIx = v.crewIx ∧ (∀ q, hung q → v.crewIx ≤ q.crewIx) ∧
          r.detail = BitVec.ofNat 64 (v.crewIx % 16 + 16) ∧ r.pc = if z.run = .off then 0 else z.pc))) ∧
  (∀ (s : State) (p : Nat) (e : FqEntry) (r : List FqEntry), p < s.parts.length → (s.part p).fqWait = e :: r → s.fqFree p = true →
    let n := if (s.part p).fqNext < (s.part p).fqcap.toNat then (s.part p).fqNext else 0
    ∃ u, exec (.faultQueueEntryWrite p) s = .next u ∧ (u.part p).fqWait = r ∧
      (u.part p).fqNext = (if n + 1 < (s.part p).fqcap.toNat then n + 1 else 0) ∧
      (∀ q, q ≠ p → u.part q = s.part q) ∧
      u.store = (List.foldl (fun (v : State) (x : Nat × Word) => v.writePhys noWave (s.fqPlace p n + 8 * x.1) 8 x.2.toNat) s
        [(1, e.addr), (2, e.pc), (3, 0), (0, (1#1 ++ 0#15 ++ BitVec.ofNat 8 e.kind ++ BitVec.ofNat 2 e.engine ++ BitVec.ofNat 6 e.ctx ++ 0#18 ++
          BitVec.ofNat 14 e.gwn : BitVec 64))]).store) ∧
  ∀ (s : State) (b id q : Nat) (r : TaskRec) (l : Launch), (∀ k ∈ s.crews, k.fault = none ∧ ¬ (k.berth = b ∧ k.record = id)) → s.rec? b id = some r →
    r.primary = some q → q ≠ id → s.launch? r.ctx r.launch = some l → 2 ≤ l.live →
    (∀ p, s.rec? b q = some p → p.st = .retired → r.st = .retired ∨ r.st = .failed →
      ∃ u, exec (.shadowCompare b id) s = .next u ∧ u.rec? b q = none ∧ u.store = s.store ∧
        (r.st = .retired → r.sig = p.sig → u.rec? b id = none ∧ u.launch? r.ctx r.launch = some { l with live := l.live - 1 }) ∧
        (r.st = .failed ∨ r.sig ≠ p.sig → u.rec? b id = some { r with st := .failed } ∧
          ∃ e, u.launch? r.ctx r.launch = some { l with reports := l.reports ++ [e] } ∧
          e.cause = 0x22 ∧ e.sev = 0 ∧ e.seq = r.seq ∧ e.pc = 0 ∧ e.detail = r.sig ∧ e.record = some id)) ∧
    (s.rec? b q = none → (∀ e ∈ l.reports, ¬ (e.berth = b ∧ e.record = some id)) → r.st = .retired ∨ r.st = .failed ∨ r.st = .unclaimed →
      ∃ u, exec (.shadowCompare b id) s = .next u ∧ u.rec? b id = none ∧ u.store = s.store ∧ u.launch? r.ctx r.launch = some { l with live := l.live - 1 })

/-! ## Engines (R254 to R275) -/

/-- R256, R271, R273, R275, R17: the words that command the engines. A command that breaks no check is queued last with its words and its slot raised, and one
that breaks a check faults at the word, with the address of the operand that fails it in DETAIL; `ctswap` exchanges the banks of the tables of its mask; `ctld` faults TABLE_BUSY where an unfinished command
references the shadow bank; `ctld` and `chartld` then read an aligned record that they may read.
DETAIL of a bad operand, and the places a table or chart may be read from, are the model's readings (log entries 25, 36). -/
def Obligations.EngineCommands : Prop :=
  ∀ (c : Ctl) (q a : BitVec 6) (n : BitVec 3) (ch : BitVec 4) (mask : BitVec 8) (sorted : Bool) (s : State),
    let n0 := unitOf s.me.gwn
    let k := s.core n0
    let ws := (List.range 4).map fun i => s.me.sreg (q.toNat + i)
    let slot := if c.se then some c.ss.toNat else none
    let queued (u : State) : Prop := u = { s with me := u.me, cores := u.cores } ∧ fellThrough s u ∧ (∀ j, j ≠ n0 → u.core j = s.core j) ∧
      u.me.bare = { s.me with
        nextOp := s.me.nextOp + 1
        bankUse := u.me.bankUse
        tabUse := u.me.tabUse
        sb := if c.se then Cells.set s.me.sb c.ss.toNat (s.me.slot c.ss.toNat + 1) else s.me.sb }.bare
    (s.verdict (.mxc c q) = .go →
      (matFault s.scrSize ws = none → ∃ u m, exec (.mxc c q) s = .next u ∧ queued u ∧ u.core n0 = { k with mat := k.mat ++ [m] } ∧
        m.id = s.me.nextOp ∧ m.gwn = s.me.gwn ∧ m.crew = s.me.crew ∧ m.pc = s.me.pc ∧ m.slot = slot ∧ m.words = ws ∧ m.state = 0 ∧ m.done = 0 ∧
        m.reserved = false) ∧
      ∀ x, matFault s.scrSize ws = some x → exec (.mxc c q) s = .next (faults s x (BitVec.ofNat 64 (matDetail s.scrSize (matFields ws) x)))) ∧
    (s.verdict (.cpc c q) = .go →
      (litFault s.scrSize ws = none → ∃ u l, exec (.cpc c q) s = .next u ∧ queued u ∧ u.core n0 = { k with lit := k.lit ++ [l] } ∧
        l.id = s.me.nextOp ∧ l.gwn = s.me.gwn ∧ l.crew = s.me.crew ∧ l.pc = s.me.pc ∧ l.slot = slot ∧ l.words = ws ∧ l.started = false ∧
        l.parked = false ∧ l.row = 0 ∧ l.pos = 0 ∧ l.buffer = [] ∧ l.wrote = []) ∧
      ∀ x, litFault s.scrSize ws = some x → exec (.cpc c q) s = .next (faults s x.1 (BitVec.ofNat 64 x.2))) ∧
    (s.verdict (.ctswap c mask) = .go → ∃ u, exec (.ctswap c mask) s = .next u ∧ u = { s with me := u.me, cores := u.cores } ∧ fellThrough s u ∧
      u.core n0 = { k with active := k.active ^^^ mask } ∧ (∀ j, j ≠ n0 → u.core j = s.core j) ∧
      u.me.bare = { s.me with tabUse := s.me.tabUse ||| mask }.bare) ∧
    (s.verdict (.ctld c a sorted n) = .go →
      let shadow := if k.active.getLsbD n.toNat then 0 else 1
      (k.references (1 + 2 * n.toNat + shadow) = true → exec (.ctld c a sorted n) s = .next (faults s 0x07 0)) ∧
      ∀ f t, k.references (1 + 2 * n.toNat + shadow) = false →
        s.checkGlobal ⟨.r, 32, false, true, false⟩ [(0, (s.me.sreg a.toNat).toNat)] = (f, .ok [(0, t)]) →
        ∃ u, exec (.ctld c a sorted n) s = .next u ∧
          inFlight (f.mapMe (Wave.noteUse 0 (BitVec.ofNat 8 (2 ^ n.toNat)))) u c .ld (.ctld n.toNat shadow sorted t s.time)) ∧
    (s.verdict (.chartld c a ch) = .go →
      ((s.me.sreg a.toNat).toNat % 64 ≠ 0 → exec (.chartld c a ch) s = .next (faults s 0x03 (s.me.sreg a.toNat))) ∧
      ∀ f t, s.checkGlobal ⟨.r, 64, false, true, false⟩ [(0, (s.me.sreg a.toNat).toNat)] = (f, .ok [(0, t)]) →
        ∃ u, exec (.chartld c a ch) s = .next u ∧ inFlight f u c .ld (.chartld ch.toNat t))

/-- R265, R355: `accrd` and `accwr` outside a transaction are in flight with one element for each active lane: row e[6:0], and column e[13:7] for a per-lane index or
else 32 × e[8:7] + l. Once nothing holds them back, `accrd` writes the elements' bits to its active lanes, or faults its task with severity 5 where one fails its parity, and
`accwr` leaves in each element the data of the highest lane that names it, its parity afresh, and no other element changed.
The order among a wave's own commands is the model's reading (log entry 37); which elements fail their parity is data of the state (log entries 21, 77). -/
def Obligations.Accumulators : Prop :=
  (∀ (c : Ctl) (d : BitVec 7) (x y : Opnd) (bank : BitVec 2) (s : State), s.me.tx.depth = 0 →
    let ls := (List.range 32).filter fun l => (s.me.act c).getLsbD l
    let at_ (l : Nat) : Nat := let e := (s.opnd x l).toNat
      128 * (e % 128) + (if x.perLane then e / 128 % 128 else 32 * (e / 128 % 4) + l)
    let f := s.mapMe (Wave.noteUse (BitVec.ofNat 4 (2 ^ bank.toNat)) 0)
    (s.verdict (.accrd c d x bank) = .go → ∃ u, exec (.accrd c d x bank) s = .next u ∧
      inFlight f u c .other (.accrd d.toNat bank.toNat (ls.map fun l => (l, at_ l)))) ∧
    (s.verdict (.accwr c x bank y) = .go → ∃ u, exec (.accwr c x bank y) s = .next u ∧
      inFlight f u c .other (.accwr bank.toNat (ls.map fun l => (at_ l, (s.opnd y l).setWidth 32))))) ∧
  ∀ (s : State) (g id d bank : Nat) (w : Wave) (f : Flight), s.wave? g = some w → w.flight? id = some f → f.cls = .other → s.blocked w f = false →
    let k := s.core (unitOf w.gwn)
    (∀ els, f.body = .accrd d bank els →
      ((∀ e ∈ els, 16384 * bank + e.2 ∉ k.badBanks) → ∃ u, exec (.slotCompletion g id) s = .next u ∧
        landed s u g f fun x => x.setLanes d (els.map fun e => (e.1, Cells.get k.banks (16384 * bank + e.2)))) ∧
      ((∃ e ∈ els, 16384 * bank + e.2 ∈ k.badBanks) → isHm g = false → ∃ v, landed s v g f (fun y => y) ∧
        exec (.slotCompletion g id) s = .next (v.failTask w.crew ⟨0x15, 5, f.pc, 0⟩))) ∧
    (∀ els, f.body = .accwr bank els → Cells.wf k.banks = true → ∃ u, exec (.slotCompletion g id) s = .next u ∧
      let b := (u.core (unitOf w.gwn)).banks
      u.core (unitOf w.gwn) = { k with banks := b, badBanks := k.badBanks.filter fun i => !els.any fun e => 16384 * bank + e.1 == i } ∧
      (∀ n, n ≠ unitOf w.gwn → u.core n = s.core n) ∧ u.store = s.store ∧
      (∀ pre i x post, els = pre ++ (i, x) :: post → (∀ e ∈ post, e.1 ≠ i) → Cells.get b (16384 * bank + i) = x) ∧
      ∀ n, (∀ e ∈ els, n ≠ 16384 * bank + e.1) → Cells.get b n = Cells.get k.banks n)

/-- R75, R271, R274, R275, R294, R355: a `ctld` whose read does not fault writes the sixteen entries and the sorted bit of the bank that it named, their parity afresh, or
faults where a sorted table breaks R75; a `chartld`, whose record the harbourmaster reads through the host port's translation, unloads its chart with a record of zeros, makes
one that breaks no condition of R275 the chart, and faults with one that does; where the chart that it names fails its parity it faults, and while every harbourmaster core
of the partition is halted it waits.
Which entries fail their parity is data of the state (log entries 21, 77), that a `chartld` reads the chart that it names, and what makes a record break R275 in SHARE and beyond its dimensions, are the model's (log entries 77, 98). -/
def Obligations.TablesAndCharts : Prop :=
  ∀ (s f : State) (g id n : Nat) (w : Wave) (x : Flight) (t : Target) (r : ReadRes), s.wave? g = some w → w.flight? id = some x → x.cls = .ld →
    s.blocked w x = false → r.fault = none → isHm g = false →
    let alive := s.hmAlive (s.partOfCtx w.ctx)
    let faulted (cause : Nat) : Prop := ∃ v, landed f v g x (fun y => y) ∧ exec (.slotCompletion g id) s = .next (v.failTask w.crew ⟨cause, 0, x.pc, 0⟩)
    (∀ bank sorted tm, x.body = .ctld n bank sorted t tm → s.readWhole (unitOf w.gwn) w.crew t 32 = (f, r) →
      let k := s.core (unitOf w.gwn)
      let es := (List.range 16).map fun i => BitVec.ofNat 16 (r.val / 2 ^ (16 * i))
      (sorted = true → cbSorted es = false → faulted 0x09) ∧
      (Cells.wf k.tables = true → (sorted = true → cbSorted es = true) → ∃ u, exec (.slotCompletion g id) s = .next u ∧
        let b := u.core (unitOf w.gwn)
        (∀ i, Cells.get b.tables i = if 32 * n + 16 * bank ≤ i ∧ i < 32 * n + 16 * bank + 16 then
          BitVec.ofNat 16 (r.val / 2 ^ (16 * (i - (32 * n + 16 * bank)))) else Cells.get k.tables i) ∧
        (∀ i, i ∈ b.badTables ↔ i ∈ k.badTables ∧ (i < 32 * n + 16 * bank ∨ 32 * n + 16 * bank + 16 ≤ i)) ∧
        (∀ i, i < 16 → b.sorted.getLsbD i = if i = 2 * n + bank then sorted else k.sorted.getLsbD i) ∧ b.banks = k.banks ∧ b.active = k.active)) ∧
    (∀ a, x.body = .chartld n a → alive = false → exec (.slotCompletion g id) s = .next s) ∧
    (∀ a c m, x.body = .chartld n a → alive = true → a.va < 0xFFFFFFFF0000 → s.translate hostTlb w.ctx a.va .r = (m, .ok t) → t.space = .dev →
      m.readWhole (m.hmUnit w.ctx) w.crew t 64 = (f, r) → s.ctx? w.ctx = some c → n ∉ c.badCharts →
      let ws := (List.range 8).map fun i => BitVec.ofNat 64 (r.val / 2 ^ (64 * i))
      let low := 64 * s.dies * s.partOfCtx w.ctx
      ((∀ v ∈ ws, v = 0) → ∃ u y, exec (.slotCompletion g id) s = .next u ∧ u.ctx? w.ctx = some y ∧ y.chart? n = none ∧ n ∉ y.badCharts ∧
        ∀ m, m ≠ n → y.chart? m = c.chart? m) ∧
      ((∃ v ∈ ws, v ≠ 0) → chartBad ws low (low + 64 * s.dies) = true → faulted 0x09) ∧
      ((∃ v ∈ ws, v ≠ 0) → chartBad ws low (low + 64 * s.dies) = false → ∃ u y, exec (.slotCompletion g id) s = .next u ∧ u.ctx? w.ctx = some y ∧
        y.chart? n = some ws ∧ n ∉ y.badCharts ∧ ∀ m, m ≠ n → y.chart? m = c.chart? m)) ∧
    ∀ a c, x.body = .chartld n a → alive = true → s.ctx? w.ctx = some c → n ∈ c.badCharts → ∃ v, landed s v g x (fun y => y) ∧
      exec (.slotCompletion g id) s = .next (v.failTask w.crew ⟨0x15, 5, x.pc, 0⟩)

/-- R93, R94, R260, R262, R263, R355: the matrix unit. The exact sum of the products of a k-step is the sum of finite values; a k-step of a running command over scratch
operands replaces every element of its bank by the rounded sum, added to the old element but for the first k-step of an MMAZ, and ORs the flags; a command that
runs alone leaves the k-steps applied in order and completes; a ZERO writes +0.0 to the whole bank; an element of the bank that fails its parity makes the wave due to fault with
severity 5 and drops the command; no other bank and no byte of memory changes.
A command running alone applies all its k-steps in one step (log entry 57), the flags of a k-step are ORed as it ends (log entry 43), and a failing register or element faults its task (log entry 77). -/
def Obligations.MatrixUnit : Prop :=
  (∀ a b : List FVal, (∀ x ∈ a ++ b, (ratOf x).isSome = true) →
    ratOf (kSum a b).1 = some ((a.zip b).map fun p => (ratOf p.1).getD 0 * (ratOf p.2).getD 0).sum) ∧
  ∀ (s : State) (n : Nat) (m : MatCmd) (c : Crew) (w : Wave), let k := s.core n
    let f := matFields m.words
    k.running = some m → k.mat.find? (fun x => x.gwn == m.gwn && x.id == m.id) = some m → s.crew? m.crew = some c → c.fault = none →
    s.wave? m.gwn = some w → s.frozen w = false → Cells.wf k.banks = true → k.badTables = [] → c.bad = [] →
    let el (j : State) (i : Nat) : Lane := Cells.get (j.core n).banks i
    let sum (t i j : Nat) (old : Lane) : Lane × Flags := kElem (decide (f.op = 1) && decide (t = 0))
      ((k.sideA m).scratchRow c i (f.step * t) f.step) ((k.sideB m).scratchRow c j (f.step * t) f.step) old
    let others (u : State) : Prop := (∀ i, (i < 16384 * f.bank ∨ 16384 * f.bank + 16384 ≤ i) → el u i = el s i) ∧ u.store = s.store
    (f.op = 2 → ∃ u, exec (.matrixZero n) s = .next u ∧ (∀ i, i < 16384 → el u (16384 * f.bank + i) = 0) ∧ others u ∧
      (u.core n).mat.find? (fun x => x.gwn == m.gwn && x.id == m.id) = none) ∧
    (f.op < 2 → ¬ (f.op = 1 ∧ m.done = 0) → matGlobal f.a = false → matGlobal f.b = false → (∃ i ∈ k.badBanks, i / 16384 = f.bank) → w.run = .running →
      ∃ u, exec (.matrixKstep n) s = .next u ∧ (∀ i, el u i = el s i) ∧ u.store = s.store ∧
        u.wave? m.gwn = some { w with dueFault := some ⟨0x15, 5, m.pc, 0⟩ } ∧
        (u.core n).mat.find? (fun x => x.gwn == m.gwn && x.id == m.id) = none) ∧
    (f.op < 2 → matGlobal f.a = false → matGlobal f.b = false → m.done < f.total → (∀ i ∈ k.badBanks, i / 16384 ≠ f.bank) →
      (∃ u, exec (.matrixKstep n) s = .next u ∧ others u ∧
        (∀ i j, i < 128 → j < 128 → el u (16384 * f.bank + 128 * i + j) = (sum m.done i j (el s (16384 * f.bank + 128 * i + j))).1) ∧
        (m.done + 1 < f.total → ((u.core n).mat.find? fun x => x.gwn == m.gwn && x.id == m.id).map (·.done) = some (m.done + 1)) ∧
        (m.done + 1 = f.total → (u.core n).mat.find? (fun x => x.gwn == m.gwn && x.id == m.id) = none) ∧
        ∃ x, u.wave? m.gwn = some x ∧ ∀ b, b < 5 → (x.flags.getLsbD b = true ↔ w.flags.getLsbD b = true ∨
          ∃ i j, i < 128 ∧ j < 128 ∧ (sum m.done i j (el s (16384 * f.bank + 128 * i + j))).2.getLsbD b = true)) ∧
      (k.mat = [m] → ∃ u, exec (if f.op = 0 then .matrixMma n else .matrixMmaz n) s = .next u ∧ others u ∧ (u.core n).mat = [] ∧
        (∀ i j, i < 128 → j < 128 → el u (16384 * f.bank + 128 * i + j) =
          ((List.range (f.total - m.done)).foldl (fun old t => (sum (m.done + t) i j old).1) (el s (16384 * f.bank + 128 * i + j))))))

/-- R125, R131, R266, R267, R269, R316: the lighter between places of scratch. A queued command starts where no earlier command of its wave waits and no acquire issued before it
is in flight; a turn of a read pass takes
the next 256 bytes of the row; a `none` command of one row leaves the source bytes at the destination, read whole before any is written, and an elementwise one
each element converted; either then completes. With FULL set the command starts once every destination granule is empty and reserved by nobody. -/
def Claim.LighterScratch : Prop :=
  ∀ (s : State) (n cmd : Nat) (l : LitCmd) (c : Crew) (w : Wave), let k := s.core n
    let f := litFields l.words
    k.lit[cmd]? = some l → k.lit.find? (fun x => x.gwn == l.gwn && x.id == l.id) = some l → s.crew? l.crew = some c → c.fault = none →
    s.wave? l.gwn = some w → s.frozen w = false → Cells.wf c.scratch = true → c.bad = [] → k.badTables = [] → f.dir = 2 →
    litFault c.size l.words = none →
    (l.started = false → l.parked = false → (∀ x ∈ w.flights, x.id < l.id → x.cls ≠ .acq ∧ x.cls ≠ .ara ∧ x.cls ≠ .arac) → (∀ x ∈ k.lit, x.gwn = l.gwn → x.id < l.id → x.started = true) →
      let free : Prop := f.full = true → ∀ r, r < f.rows → ∀ g ∈ granules (rowAddr f.dst f.tstride r) (f.dw 0), c.isFull g = false ∧ s.reserved n l.crew g = false
      (free → ∃ u, exec (.lighterStart n cmd) s = .next u ∧ (u.core n).lit[cmd]? = some { l with started := true, pages := [] } ∧ u.store = s.store) ∧
      (¬ free → exec (.lighterStart n cmd) s = .next s)) ∧
    (l.started = true → k.nextTurn = some l → l.writing = false → l.pos + 256 < f.rowBytes → ∃ u, exec (.lighterTurn n) s = .next u ∧
      (u.core n).lastTurn = slotOf l.gwn + 1 ∧ (u.core n).lit[cmd]? = some { l with
        pos := l.pos + litPiece f.conv l.code
        buffer := l.buffer ++ Cells.range c.scratch (rowAddr f.src f.fstride l.row + l.pos) (litPiece f.conv l.code) }) ∧
    (l.started = true → (∀ x ∈ k.lit, x.started = true → x = l) → l.row = 0 → l.writing = false → l.pos = 0 → l.buffer = [] → f.rows = 1 →
      let ends (u : State) (c' : Crew) (len : Nat) : Prop := u.crew? l.crew = some c' ∧ u.store = s.store ∧
        (u.core n).lit.find? (fun x => x.gwn == l.gwn && x.id == l.id) = none ∧
        ∀ a, (a < f.dst ∨ f.dst + len ≤ a) → Cells.get c'.scratch a = Cells.get c.scratch a
      (f.conv = 0 → ∃ u c', exec (.convNone n cmd) s = .next u ∧ ends u c' f.rowBytes ∧
        ∀ i, i < f.rowBytes → Cells.get c'.scratch (f.dst + i) = Cells.get c.scratch (f.src + i)) ∧
      (0x40 ≤ f.conv → f.conv < 0x80 → let su := litTyBytes (f.conv / 8 % 8)
        let du := litTyBytes (f.conv % 8)
        ∃ u c', exec (.convElementwise n cmd) s = .next u ∧ ends u c' (f.rowBytes / su * du) ∧ ∀ j, j < f.rowBytes / su →
          c'.read (f.dst + du * j) du = (cvtElem (litTy (f.conv % 8)) (litTy (f.conv / 8 % 8)) .rne 0 (c.read (f.src + su * j) su)).1 % 2 ^ (8 * du)))

/-- What a `none` or elementwise conversion makes of n bytes of a row, given as a number: the destination elements, each with its flags (R86, R267). -/
def Claim.moved (conv n x : Nat) : List (Nat × Flags) :=
  if conv = 0 then (List.range n).map fun j => (x / 2 ^ (8 * j) % 2 ^ 8, 0)
  else
    let su := litTyBytes (conv / 8 % 8)
    (List.range (n / su)).map fun j => cvtElem (litTy (conv % 8)) (litTy (conv / 8 % 8)) .rne 0 (x / 2 ^ (8 * su * j) % 2 ^ (8 * su))

/-- The bytes of these elements as a number. -/
def Claim.movedBytes (conv n x : Nat) : Nat :=
  ofBytes ((Claim.moved conv n x).flatMap fun e => toBytes (if conv = 0 then 1 else litTyBytes (conv % 8)) e.1)

/-- Does a bit of some flags stand in FLAGS, or in those of a row's elements? -/
def Claim.flagOf (conv n x b : Nat) : Prop := ∃ e ∈ Claim.moved conv n x, e.2.getLsbD b = true

/-- A started `none` or elementwise command whose bytes stand where it reads them: the only one started, at the beginning of its first row, breaking no check (R268). -/
def Claim.fresh (s : State) (n cmd : Nat) (l : LitCmd) (c : Crew) (w : Wave) : Prop :=
  let k := s.core n
  k.lit[cmd]? = some l ∧ k.lit.find? (fun x => x.gwn == l.gwn && x.id == l.id) = some l ∧ s.crew? l.crew = some c ∧ s.wave? l.gwn = some w ∧
  Cells.wf c.scratch = true ∧ Cells.wf c.full = true ∧ c.bad = [] ∧ k.badTables = [] ∧ litFault c.size l.words = none ∧ l.started = true ∧
  (∀ x ∈ k.lit, x.started = true → x = l) ∧ l.row = 0 ∧ l.writing = false ∧ l.pos = 0 ∧ l.buffer = [] ∧
  ((litFields l.words).conv = 0 ∨ convElem (litFields l.words).conv = true)

/-- A command has ended: it has left the lighter and its slot has fallen. -/
def Claim.ended (u : State) (n : Nat) (l : LitCmd) (w z : Wave) : Prop :=
  (u.core n).lit.find? (fun x => x.gwn == l.gwn && x.id == l.id) = none ∧ u.wave? l.gwn = some z ∧ z.sb = (w.slotDown l.slot).sb

/-- R109, R113, R121, R266, R267, R269: `none` and elementwise commands of any number of rows into scratch, from scratch or from device memory. Row after row, in ascending order, the
row's source, of scratch as the earlier rows left it, of memory what its homes deliver, or the copies that serve the core (R335), is read whole, converted and written at the row's destination; no other byte of
scratch and no byte of memory changes. With FULL set every granule of a destination row is full at the end, and no other bit changes. The flags of the elements are ORed
into the wave's. -/
def Claim.LighterIntoScratch : Prop :=
  ∀ (s : State) (n cmd : Nat) (l : LitCmd) (c : Crew) (w : Wave), let f := litFields l.words
    let byte (va : Nat) : Nat := let t := l.target va
      ((s.viewFrom (s.dieOf n) t).decodeLine (t.at_ / 64) t.code).bits.data / 2 ^ (8 * (t.at_ % 64)) % 2 ^ 8
    Claim.fresh s n cmd l c w → f.dir = 0 ∨ f.dir = 2 →
    (f.dir = 0 → s.coreKeys n = [] ∧ (∀ p ∈ l.pages, p.tgt.at_ % 65536 = 0) ∧ ∀ r i, r < f.rows → i < f.rowBytes →
      let t := l.target (rowAddr f.src f.fstride r + i)
      t.space = .dev ∧ (s.viewFrom (s.dieOf n) t).cleanAt (t.at_ / 64) t.code = true ∧ s.cutOff (s.dieOf n) 1 t = false) →
    let row (x : Crew) (r : Nat) : Nat := let at_ := rowAddr f.src f.fstride r
      if f.dir = 0 then ofBytes ((List.range f.rowBytes).map fun i => BitVec.ofNat 8 (byte (at_ + i))) else x.read at_ f.rowBytes
    let after (r : Nat) : Crew := (List.range r).foldl (fun x i => x.write (rowAddr f.dst f.tstride i) (f.dw 0) (Claim.movedBytes f.conv f.rowBytes (row x i))) c
    ∃ u c' z, exec (if f.conv = 0 then .convNone n cmd else .convElementwise n cmd) s = .next u ∧ u.crew? l.crew = some c' ∧ u.store = s.store ∧
      Claim.ended u n l w z ∧ (∀ j, j ≠ l.crew → u.crew? j = s.crew? j) ∧ (∀ a, Cells.get c'.scratch a = Cells.get (after f.rows).scratch a) ∧
      (∀ g, c'.isFull g = true ↔ c.isFull g = true ∨ (f.full = true ∧ ∃ r, r < f.rows ∧ g ∈ granules (rowAddr f.dst f.tstride r) (f.dw 0))) ∧
      ∀ b, b < 5 → (z.flags.getLsbD b = true ↔ w.flags.getLsbD b = true ∨ ∃ r, r < f.rows ∧ Claim.flagOf f.conv f.rowBytes (row (after r) r) b)

/-- R97, R109, R121, R131, R266, R267, R269, R320: `none` and elementwise commands of any number of rows from scratch to device memory: each destination byte is that of the last row that
reaches it, of lines without error no other byte changes, nor any other line; scratch does not change. A shadow copy writes nothing. The flags are ORed as well. -/
def Claim.LighterIntoMemory : Prop :=
  ∀ (s : State) (n cmd : Nat) (l : LitCmd) (c : Crew) (w : Wave), memOk s → let f := litFields l.words
    let place (r i : Nat) : Target := l.target (rowAddr f.dst f.tstride r + i)
    let row (r : Nat) : Nat := c.read (rowAddr f.src f.fstride r) f.rowBytes
    Claim.fresh s n cmd l c w → f.dir = 1 → s.coreKeys n = [] → (∀ p ∈ l.pages, p.tgt.at_ % 65536 = 0) →
    (∀ p ∈ l.pages, ∀ q ∈ l.pages, p.tgt.at_ = q.tgt.at_ → p.tgt.code = q.tgt.code) →
    (∀ r i, r < f.rows → i < f.dw 0 → (place r i).space = .dev ∧ cleanLine s ((place r i).at_ / 64) (place r i).code ∧
      (c.shadow = false → s.cutOff (s.dieOf n) 1 (place r i) = false)) →
    ∃ u c' z, exec (if f.conv = 0 then .convNone n cmd else .convElementwise n cmd) s = .next u ∧ u.crew? l.crew = some c' ∧
      c' = { c with sig := c'.sig } ∧ Claim.ended u n l w z ∧ (c.shadow = true → u.store = s.store) ∧
      (c.shadow = false →
        (∀ r i, r < f.rows → i < f.dw 0 → (∀ q j, q < f.rows → j < f.dw 0 → r < q ∨ (r = q ∧ i < j) → (place q j).at_ ≠ (place r i).at_) →
          byteAt u (place r i).at_ = BitVec.ofNat 8 (Claim.movedBytes f.conv f.rowBytes (row r) / 2 ^ (8 * i))) ∧
        ∀ a, (∀ r i, r < f.rows → i < f.dw 0 → (place r i).at_ ≠ a) → byteAt u a = byteAt s a) ∧
      ∀ b, b < 5 → (z.flags.getLsbD b = true ↔ w.flags.getLsbD b = true ∨ ∃ r, r < f.rows ∧ Claim.flagOf f.conv f.rowBytes (row r) b)

/-- R113, R266, R267, R269, R316: how a lighter command starts, takes turns and moves its rows, between scratch and scratch, memory and scratch, and scratch and
memory.
The pieces of a row, the address that a failing block reports, and what a copy holds are the model's readings (log entries 45, 83, 121). -/
def Obligations.LighterMoves : Prop := Claim.LighterScratch ∧ Claim.LighterIntoScratch ∧ Claim.LighterIntoMemory

/-- R89 to R92, R107, R267: the block conversions, for a started command of one row of one block. An expansion and `pack.in` write what the block's elements and
scale give into scratch; `pack.out` and the quantizations write one block of the page, elements and scale, as one update, and `requant.bf16` rounds into the
block's scale; the command completes.
The classification of errors, the value that an infinity or a CB4 table without a finite entry gives, and where a failed link is met, are the model's (log entries 44, 72, 73, 74, 120). -/
def Obligations.BlockConversions : Prop :=
  ∀ (s : State) (n cmd : Nat) (l : LitCmd) (c : Crew) (p : PageTr), let k := s.core n
    let f := litFields l.words
    let code := p.tgt.code
    let w := b128Width code
    let va := if f.srcGlobal then f.src else f.dst
    let t := l.target va
    let el := b128Elem code (if l.tabBank = 0 then [] else k.refTable l.tabBank)
    let one (i : Instr) (u : State) : Prop := exec i s = .next u ∧ (u.core n).lit.find? (fun x => x.gwn == l.gwn && x.id == l.id) = none
    k.lit[cmd]? = some l → k.lit.find? (fun x => x.gwn == l.gwn && x.id == l.id) = some l → s.crew? l.crew = some c → c.shadow = false →
    s.hashes c = false → Cells.wf c.scratch = true → c.bad = [] → k.badTables = [] → s.coreKeys n = [] → (∀ x ∈ k.lit, x.started = true → x = l) → l.pages = [p] → p.tgt.space = .dev → 6 ≤ code → code ≤ 10 → p.va = va / 65536 * 65536 →
    l.started = true → l.row = 0 → l.writing = false → l.pos = 0 → l.buffer = [] → f.rows = 1 → f.full = false → f.rowBytes = (convUnits f.conv code).1 →
    (∀ x ∈ t.perLine (b128Bytes code), s.cutOff (s.dieOf n) x.2 x.1 = false) →
    (f.srcGlobal = true → let r := (s.viewFrom (s.dieOf n) t).readBlock (s.litMany l va f.rowBytes) t.at_ code t.pol 0 128
      (∀ e ∈ r.1, e.act = 0) →
      let x (j : Nat) : Nat := (r.1.getD j ⟨0, 0, 0⟩).val
      (f.conv = 0x80 → ∃ u c', one (.expandBf16 n cmd) u ∧ u.crew? l.crew = some c' ∧ u.store = s.store ∧
        ∀ j, j < 128 → c'.read (f.dst + 2 * j) 2 = (el.toBf16 r.2.1 (x j)).1 % 2 ^ 16) ∧
      (f.conv = 0x81 → ∃ u c', one (.expandF32 n cmd) u ∧ u.crew? l.crew = some c' ∧ u.store = s.store ∧
        ∀ j, j < 128 → c'.read (f.dst + 4 * j) 4 = (el.toF32 .rne r.2.1 (x j)).1 % 2 ^ 32) ∧
      (f.conv = 0x82 → ∃ u c', one (.packIn n cmd) u ∧ u.crew? l.crew = some c' ∧ u.store = s.store ∧
        c'.read f.dst (16 * w) = packField w (r.1.map (·.val)) % 2 ^ (128 * w) ∧ c'.read (f.dst + 16 * w) 16 = r.2.1 % 2 ^ 128)) ∧
    (f.dir = 1 → let bf := (List.range 128).map fun j => fmtBF16.dec (c.read (f.src + 2 * j) 2)
      (f.conv = 0x90 → (∀ i, i < 15 → Cells.get c.scratch (f.src + 16 * w + 1 + i) = 0) → ∃ u, one (.packOut n cmd) u ∧
        u.store = (s.writeBlock noWave t.at_ code (c.read f.src (16 * w)) (c.read (f.src + 16 * w) 1)).store) ∧
      (f.conv = 0x91 → ∃ u, one (.quantBf16 n cmd) u ∧
        u.store = (s.writeBlock noWave t.at_ code (packField w (el.quantBlock bf).elems) (el.quantBlock bf).scale).store) ∧
      (f.conv = 0x92 → let q := el.quantBlock ((List.range 128).map fun j => fmtF32.dec (c.read (f.src + 4 * j) 4))
        ∃ u, one (.quantF32 n cmd) u ∧ u.store = (s.writeBlock noWave t.at_ code (packField w q.elems) q.scale).store) ∧
      (f.conv = 0x93 → ∃ u, one (.requantBf16 n cmd) u ∧ u.store = (s.homeWrites noWave (blockWrites t.at_ code 0 (128 * w)
        (packField w (bf.map fun v => (el.quantInto (s.blockScale t.at_ code) v).1)))).store))

/-! ## The system profile (R289 to R303) -/

/-- R290, R291, R292, R138, R264, R300, R302: `srr` writes the register's value to its scalar and nothing else. FLAGS, TXS, MXP of the oldest unfinished matrix command, the
identity, without the wave's number in the unprivileged view, the event vector and a park's registers, zero while not parked, read as the tables give them, of the executing wave
and, at 0x200 and above, of the wave that SELW selects, and so do the harbourmaster's registers. `srw`, and a register write as a step of its own, change the writable
bits of the one register that they name; the others are discarded.
What a harbourmaster core reads of itself, that the low bits of EVEC, CTXTAB, STEALTAB and FQBASE are discarded on a write, that a selected harbourmaster core reads zero from 0x200 to 0x20F, and what a selection of no wave reads, are the model's (log entries 30, 39, 88, 108). -/
def Obligations.SystemRegisters : Prop :=
  ∀ (c : Ctl) (d a : BitVec 6) (reg : BitVec 16) (s : State),
    let k := s.me.gwn - 9216
    let h := s.hmCore k
    let q := s.partOfHm k
    let pt := s.part q
    let n := reg.toNat
    let x := s.me.sreg a.toNat
    let views (v : Wave) (priv : Bool) (r : Nat) : Prop :=
      s.sysreg r = v.flags.setWidth 64 ∧
      s.sysreg (r + 1) = (0#16 ++ BitVec.ofNat 8 v.tx.cause ++ BitVec.ofNat 8 v.tx.code ++ BitVec.ofNat 6 v.tx.confl ++ 0#3 ++ BitVec.ofNat 3 v.tx.alts.length ++
        BitVec.ofNat 4 v.tx.depth ++ 0#13 ++ BitVec.ofNat 3 v.tx.last : BitVec 64) ∧
      (isFar v.gwn = false ∨ (s.core (unitOf v.gwn)).mat.find? (·.gwn == v.gwn) = none → s.sysreg (r + 2) = 0) ∧
      (∀ m, isFar v.gwn = true → (s.core (unitOf v.gwn)).mat.find? (·.gwn == v.gwn) = some m → m.state < 8 →
        s.sysreg (r + 2) = (1#1 ++ BitVec.ofNat 3 (if m.state ≤ 1 then (if s.matReady (unitOf v.gwn) m then 0 else 1) else m.state) ++
          BitVec.ofNat 2 (wordBits m.words 0 58 2) ++ 0#10 ++ BitVec.ofNat 16 (matFields m.words).total ++ 0#16 ++ BitVec.ofNat 16 m.done : BitVec 64)) ∧
      (v.gwn < 2 ^ 14 → s.sysreg (r + 3) = (BitVec.ofBool v.priv ++ 0#9 ++ BitVec.ofNat 6 v.ctx ++ BitVec.ofNat 8 v.effPrio ++ 0#3 ++
        BitVec.ofNat 5 v.prio ++ 0#18 ++ (if priv then BitVec.ofNat 14 v.gwn else 0) : BitVec 64)) ∧
      (isHm v.gwn = false → ∀ j cx, j < 4 → s.ctx? v.ctx = some cx → s.sysreg (r + 4 + j) = cx.events.extractLsb' (64 * j) 64) ∧
      (v.park = none → s.sysreg (r + 8) = 0 ∧ s.sysreg (r + 9) = 0 ∧ s.sysreg (r + 10) = 0) ∧
      (∀ p, v.park = some p → s.sysreg (r + 8) = BitVec.ofNat 64 p.kind ∧ s.sysreg (r + 9) = p.addr ∧ s.sysreg (r + 10) = p.pc)
    (s.me.wf = true → s.verdict (.srr c d reg) = .go → ∃ u, exec (.srr c d reg) s = .next u ∧ fellThrough s u ∧ wroteScalar s u d (s.sysreg n)) ∧
    (views s.me s.me.priv 0 ∧ (∀ v, s.selected = some v → views v true 0x200) ∧ (s.selected = none → ∀ j, j < 16 → s.sysreg (0x200 + j) = 0) ∧
      s.sysreg 0x101 = h.epc ∧ s.sysreg 0x102 = h.ecause.setWidth 64 ∧ s.sysreg 0x103 = h.eval ∧ s.sysreg 0x104 = h.evec ∧
      s.sysreg 0x108 = h.selw.setWidth 64 ∧ s.sysreg 0x110 = pt.ctxtab ∧ s.sysreg 0x111 = pt.stealtab ∧ s.sysreg 0x112 = pt.fqbase ∧
      s.sysreg 0x113 = pt.fqcap.setWidth 64 ∧ s.sysreg 0x116 = pt.hmres.setWidth 64 ∧
      (k < 4 → s.sysreg 0x100 = (0#60 ++ BitVec.ofNat 2 k ++ 0#1 ++ BitVec.ofBool h.exc : BitVec 64) ∧
        s.sysreg 0x114 = (0#60 ++ BitVec.ofNat 2 q ++ s.out.mode : BitVec 64))) ∧
    (s.me.gwn < 9220 → s.hm.length = 4 → s.parts.length = 4 → n ≠ 0x115 → n ≠ 0x20B → s.verdict (.srw c reg a) = .go →
      (n = 0x200 → ∀ v, s.selected = some v → ∃ u, exec (.srw c reg a) s = .next u ∧ fellThrough s u ∧ u = { s with me := u.me, others := u.others } ∧
        u.me.bare = s.me.bare ∧ u.wave? v.gwn = some { v with flags := x.setWidth 5, bad := v.bad.filter (· != RegPlace.flags) } ∧
        ∀ g, g ≠ v.gwn → g ≠ s.me.gwn → u.wave? g = s.wave? g) ∧
      (n ≠ 0x200 → ∃ u v, exec (.srw c reg a) s = .next u ∧ exec (.sysregWrite reg x) s = .next v ∧ fellThrough s u ∧ v.hm = u.hm ∧ v.parts = u.parts ∧
        v.me.flags = u.me.flags ∧ u = { s with me := u.me, hm := u.hm, parts := u.parts } ∧
        u.me.bare = { s.me with
          flags := if n = 0 then x.setWidth 5 else s.me.flags
          bad := if n = 0 then s.me.bad.filter (· != RegPlace.flags) else s.me.bad }.bare ∧
        u.hmCore k = { h with
          exc := if n = 0x100 then x.getLsbD 0 else h.exc
          epc := if n = 0x101 then x else h.epc
          evec := if n = 0x104 then x &&& 0xFFFFFFFFFFFFFFF8 else h.evec
          selw := if n = 0x108 then x.setWidth 14 else h.selw } ∧ (∀ j, j ≠ k → u.hmCore j = s.hmCore j) ∧
        u.part q = { pt with
          ctxtab := if n = 0x110 then x &&& 0xFFFFFFFFFFFFF000 else pt.ctxtab
          stealtab := if n = 0x111 then x &&& 0xFFFFFFFFFFFFC000 else pt.stealtab
          fqbase := if n = 0x112 then x &&& 0xFFFFFFFFFFFFF000 else pt.fqbase
          fqcap := if n = 0x113 then x.setWidth 16 else pt.fqcap } ∧ ∀ j, j ≠ q → u.part j = s.part j))

/-- R293, R295, R300: on a harbourmaster core `trap` saves the address after it, its cause and immediate, sets EXC and goes on at EVEC, TXS as it stands (R138), and while EXC is
set it stops the core with a report; `eret` goes on at EPC and changes no register; `halt` stops the core once everything earlier is performed. In a wave `trap` parks it with PCAUSE 3 and asks for a
fault-queue entry.
That `eret` undergoes no end check is the model's choice (log entry 97). -/
def Obligations.ExceptionsAndReturns : Prop :=
  ∀ (c : Ctl) (imm : BitVec 16) (s : State),
    let k := s.me.gwn - 9216
    let h := s.hmCore k
    (isHm s.me.gwn = true → s.me.gwn < 9220 → s.hm.length = 4 →
      (s.verdict (.trap c imm) = .go → h.exc = false → ∃ u, exec (.trap c imm) s = .next u ∧ u = { s with me := u.me, hm := u.hm } ∧
        u.hmCore k = { h with exc := true, epc := s.me.pc + 8, ecause := 0x40, eval := imm.setWidth 64 } ∧
        (∀ j, j ≠ k → u.hmCore j = s.hmCore j) ∧ u.me.pc = h.evec ∧ u.me.loops = s.me.loops ∧ u.me.bare = s.me.bare) ∧
      (s.verdict (.trap c imm) = .go → h.exc = true → ∃ u, exec (.trap c imm) s = .next u ∧ u = { s with me := u.me, out := u.out } ∧
        u.me.bare = { s.me with run := .halted }.bare ∧ u.out = { s.out with reports := u.out.reports } ∧ u.out.reports = s.out.reports ++ [MgmtReport.hmStopped k]) ∧
      (s.verdict (.eret c) = .go → ∃ u, exec (.eret c) s = .next u ∧ onlyMe s u ∧ u.me.pc = h.epc ∧ u.me.loops = s.me.loops ∧
        u.me.bare = s.me.bare) ∧
      (s.verdict (.halt c) = .go → ∃ u, exec (.halt c) s = .next u ∧ onlyMe s u ∧ u.me.bare = { s.me with run := .halted }.bare ∧
        s.me.flights = [])) ∧
    (isHm s.me.gwn = false → s.parts.length = 4 → s.verdict (.trap c imm) = .go → ∃ u, exec (.trap c imm) s = .next u ∧ u = { s with me := u.me, parts := u.parts } ∧
      u.me.bare = { s.me with run := .parked, park := some ⟨3, 0, imm.setWidth 64, s.me.pc, false⟩ }.bare ∧ u.me.pc = s.me.pc ∧
      (u.part (s.partOf (unitOf s.me.gwn))).fqWait =
        (s.part (s.partOf (unitOf s.me.gwn))).fqWait ++ [⟨s.me.gwn, 3, 0, s.me.ctx, imm.setWidth 64, s.me.pc⟩])

/-- R13, R163, R170, R289, R290, R295: what an agent may not execute. An unprivileged wave's `srw`, `tlbi`, `tlbsync` and `sighost`, any wave's `eret` and `halt`, and
`srr` of a register that a wave does not have or that its privilege does not reach, fault ILLEGAL; a quay wave's engine words fault NOT_AT_QUAY; on a
harbourmaster core scratch, engine and task words raise ILLEGAL. -/
def Claim.WhereWordsAreIllegal : Prop :=
  ∀ (s : State) (i : Instr), s.me.run = .running → s.frozen s.me = false → s.me.dueFault = none → s.me.duePark = none → s.me.tx.depth = 0 →
    s.me.slotsZero = true →
    (isHm s.me.gwn = false →
      (match i with
        | .srw .. | .tlbi .. | .tlbsync _ | .sighost .. => s.me.priv = false
        | .eret _ | .halt _ => True
        | .srr _ _ r => 0x00B ≤ r.toNat ∨ (8 ≤ r.toNat ∧ s.me.priv = false)
        | _ => False) → exec i s = .next (faults s 0x01 0)) ∧
    (isQuay s.me.gwn = true → s.illegalHere i = false →
      (match i with
        | .launch .. | .mxc .. | .cpc .. | .ctld .. | .ctswap .. | .chartld .. | .accrd .. | .accwr .. | .cbl .. | .cbq .. => True
        | _ => False) → exec i s = .next (faults s 0x02 0)) ∧
    (isHm s.me.gwn = true →
      (match i with
        | .ldS .. | .stS .. | .ldf .. | .stf .. | .spawn .. | .tret _ | .launch .. | .mxc .. | .cpc .. | .ctld .. | .gaddr .. | .red .. | .fma .. => True
        | _ => False) → exec i s = .next ((s.mapMe (Wave.stamp s.time)).hmException s.me.pc 0x01 0))

/-- R13, R63, R163, R170, R173, R174, R289, R290, R295: words that no agent executes, and words that this agent may not execute.
`srr` of a register that an agent does not have is ILLEGAL by the model's reading (log entry 11). -/
def Obligations.IllegalEverywhere : Prop := Claim.IllegalWords ∧ Claim.WhereWordsAreIllegal

/-- R295, R134, R331: `tlbi` with a kind or slot that R295 gives is in flight, once no store of its core is left to perform, and any other operand faults BAD_COMMAND;
performed, every TLB entry that it names is gone and no other, and its wave has noted every access in flight that was translated through one, and every transaction that
holds such a store in its buffer. `tlbsync` goes on once none of these, and no `tlbi` of its wave, is left, and waits before that.
`sighost` is in flight as a full fence with the low 11 bits of its operand; performed, no stale copy of a line is left at the host or in the unit's L1 and instruction cache,
and the message of the table entry is sent, or held pending while the function or the vector is masked.
What `tlbsync` waits for, and a vector's word of address and data are the model's (log entries 38, 80). -/
def Obligations.InvalidationsAndMessages : Prop :=
  (∀ (c : Ctl) (a b : BitVec 6) (s : State),
    let y := (s.me.sreg b.toNat).toNat
    let good : Prop := y / 256 < 3 ∧ y % 256 < 64 ∧ s.partOfCtx (y % 64) = s.partOf (unitOf s.me.gwn)
    (s.verdict (.tlbi c a b) = .go → (∀ v ∈ s.waves, unitOf v.gwn = unitOf s.me.gwn → v.writing = false) ∧
      (good → ∃ u, exec (.tlbi c a b) s = .next u ∧ inFlight s u c .other (.tlbi (s.me.sreg a.toNat).toNat (y % 64) (y / 256))) ∧
      (¬ good → exec (.tlbi c a b) s = .next (if isHm s.me.gwn then (s.mapMe (Wave.stamp s.time)).hmException s.me.pc 0x09 0 else faults s 0x09 0))) ∧
    (s.verdict (.tlbsync c) = .go → ∃ u, exec (.tlbsync c) s = .next u ∧ onlyMe s u ∧ fellThrough s u ∧
      u.me.bare = { s.me with sync := [], syncTx := [] }.bare ∧ (∀ p ∈ s.me.sync, s.inFlight p = false) ∧ (∀ p ∈ s.me.syncTx, s.inAttempt p = false) ∧
      ∀ f ∈ s.me.flights, ∀ va x kind, f.body ≠ .tlbi va x kind) ∧
    (s.verdict (.sighost c a) = .go → ∃ u, exec (.sighost c a) s = .next u ∧ inFlight s u c .ara (.sighost ((s.me.sreg a.toNat).toNat % 2 ^ 11)))) ∧
  ∀ (s : State) (g id : Nat) (w : Wave) (f : Flight), s.wave? g = some w → w.flight? id = some f → s.blocked w f = false → f.cls = .other ∨ f.cls = .ara →
    let p := s.partOf (unitOf w.gwn)
    (∀ va x kind, f.body = .tlbi va x kind → kind < 3 → ∃ u z, exec (.slotCompletion g id) s = .next u ∧ u.store = s.store ∧ (∀ t, t ∈ u.caches.tlb ↔
      t ∈ s.caches.tlb ∧ ¬ (if kind = 0 then t.ctx = x ∧ t.index = va / 2 ^ levelShift t.level else if kind = 1 then t.ctx = x
        else s.partOfCtx t.ctx = p)) ∧ u.wave? g = some z ∧
      let mine (v : Wave) : Prop := v ∈ s.waves ∧ isHm v.gwn = false ∧ (if kind = 2 then s.partOf (unitOf v.gwn) = p else v.ctx = x)
      let through (a level : Nat) : Prop := kind ≠ 0 ∨ (level ≠ 0 ∧ a / 2 ^ levelShift level = va / 2 ^ levelShift level)
      (∀ q, q ∈ z.sync ↔ q ∈ w.sync ∨ ∃ v, mine v ∧ q.1 = v.gwn ∧
        ((∃ y ∈ v.flights, q.2 = y.id ∧ ∃ t ∈ y.body.targets, t.space ≠ .scr ∧ through t.va t.level) ∨
          (isFar v.gwn = true ∧ ∃ l ∈ (s.core (unitOf v.gwn)).lit, l.gwn = v.gwn ∧ l.started = true ∧ q.2 = l.id ∧
            ∃ t ∈ l.pages, through t.va t.tgt.level))) ∧
      ∀ q, q ∈ z.syncTx ↔ q ∈ w.syncTx ∨ ∃ v, mine v ∧ q = (v.gwn, v.tx.since) ∧ v.tx.depth ≠ 0 ∧
        ∃ y ∈ v.tx.buf, y.scratch = false ∧ through y.va y.level) ∧
    (∀ v, f.body = .sighost v →
      let masked : Prop := p ∉ s.out.msixOn ∨ (s.out.msixWord p (2 * v + 1)).getLsbD 32 = true
      ∃ u, exec (.slotCompletion g id) s = .next u ∧ u.out.hostLines = [] ∧ u.store = s.store ∧
      (∀ c ∈ u.caches.l1, c.core ≠ unitOf w.gwn) ∧ (∀ c ∈ u.caches.ic, c.unit ≠ unitOf w.gwn) ∧
      (u.wave? g).map (·.flights) = some (w.flights.filter (·.id != f.id)) ∧
      (masked → (p, v) ∈ u.out.pending ∧ u.out.sent = s.out.sent) ∧
      (¬ masked → u.out.sent = s.out.sent ++ [⟨p, v, s.out.msixWord p (2 * v), (s.out.msixWord p (2 * v + 1)).setWidth 32⟩] ∧
        u.out.pending = s.out.pending))

/-- R297, R299, R301, R305: the harbourmaster's commands, as steps while a core of the partition runs, and through HMCMD. CTXLOAD makes a slot of the partition resident from a table entry that breaks
nothing, with no event, chart or launch; CTXSET takes its quota and window; CTXUNLOAD releases an idle context; STEALLOAD takes the berths before the chart's first
invalid entry, unless an entry has a reserved bit set, repeats a berth or names one of another partition; CTXUNLOAD leaves no far core with banks or tables of the slot; each refused command leaves HMRES 1 and changes nothing: a CTXUNLOAD of a context that holds a record, an image
or a launch among them, and through HMCMD a word with another OP or with a bit set that must be zero. RESUME and FAULT end a park, as steps and through WCTL; a write to WCTL of a
wave that is not parked is discarded, and of one that is parked faults BAD_COMMAND with another OP or a CAUSE that R65 does not give.
The low bits of the bases, and the entry of a table that would lie beyond its partition, follow log entries 39 and 87; that a table entry or steal chart which cannot be corrected is refused, the severity of a FAULT, and the bits of ARG that a command does not use are the model's (log entries 101, 104, 109). -/
def Obligations.ContextCommands : Prop :=
  (∀ (s : State) (p n : Nat) (c : Ctl) (reg : BitVec 6), p < s.parts.length →
    let refused : State := s.modPart p fun x => { x with hmres := 1 }
    let e := s.ctxEntry p n
    let w (i lo len : Nat) : Nat := wordBits e.1 i lo len
    let mine : Prop := n < 64 ∧ s.partOfCtx n = p
    (s.hmAlive p = false → exec (.ctxload p n) s = .next s ∧ exec (.ctxset p n) s = .next s ∧ exec (.ctxunload p n) s = .next s ∧
      exec (.stealload p n) s = .next s) ∧
    (s.hmAlive p = true →
    (mine → s.ctx? n = none → e.2 = false → ctxEntryBad e.1 = false → ∃ u x, exec (.ctxload p n) s = .next u ∧ u.ctx? n = some x ∧
      (u.part p).hmres = 0 ∧ x.priv = decide (w 0 62 1 = 1) ∧ x.ntypes = w 0 48 12 ∧ x.typetab = w 0 0 48 ∧ x.quota = w 1 48 11 + 1 ∧
      x.ptroot = w 1 0 48 ∧ x.wdog = w 2 32 32 ∧ x.events = 0 ∧ x.charts = [] ∧ x.launches = [] ∧ x.nextLaunch = 1 ∧ x.preempted = false ∧
      ∀ j, j ≠ n → u.ctx? j = s.ctx? j) ∧
    ((¬ mine ∨ (s.ctx? n).isSome = true ∨ e.2 = true ∨ ctxEntryBad e.1 = true) → exec (.ctxload p n) s = .next refused) ∧
    (∀ x, mine → s.ctx? n = some x → e.2 = false → ∃ u, exec (.ctxset p n) s = .next u ∧ (u.part p).hmres = 0 ∧
      u.ctx? n = some { x with quota := w 1 48 11 + 1, wdog := w 2 32 32 } ∧ ∀ j, j ≠ n → u.ctx? j = s.ctx? j) ∧
    (mine → (s.ctx? n).isSome = true → e.2 = true → exec (.ctxset p n) s = .next refused) ∧
    ((¬ mine ∨ s.ctx? n = none) → exec (.ctxset p n) s = .next refused ∧ exec (.ctxunload p n) s = .next refused) ∧
    (∀ x, s.ctx? n = some x → (x.images ≠ [] ∨ x.launches ≠ [] ∨ ∃ b ∈ s.berths, b.countOf n ≠ 0) → exec (.ctxunload p n) s = .next refused) ∧
    (∀ x, mine → s.ctx? n = some x → x.images = [] → x.launches = [] → (∀ b ∈ s.berths, b.countOf n = 0) → ∃ u, exec (.ctxunload p n) s = .next u ∧
      (u.part p).hmres = 0 ∧ u.ctx? n = none ∧ (∀ j, j ≠ n → u.ctx? j = s.ctx? j) ∧ ∀ m, (u.core m).served ≠ some n) ∧
    (let at_ := (s.part p).stealtab.toNat + 64 * n
     let rs := (List.range 32).map fun i => s.readPhys (s.partBase p + at_ + 2 * i) 2
     let es := (rs.map (·.1)).takeWhile fun x => decide (x / 2 ^ 15 % 2 = 1)
     let bs := es.map (· % 256)
     (s.partOfDie (n / 64) = p → at_ + 64 ≤ s.partSize → (∀ r ∈ rs, r.2 = false ∧ r.1 / 2 ^ 8 % 2 ^ 7 = 0) → bs.Nodup → (∀ b ∈ bs, b / (64 * s.dies) = p) →
      ∃ u, exec (.stealload p n) s = .next u ∧ (u.part p).hmres = 0 ∧ u.pilot? n = some ⟨n, bs, s.time, false, (s.pilot? n).bind (·.asked), ((s.pilot? n).map (·.next)).getD 0⟩ ∧
        ∀ j, j ≠ n → u.pilot? j = s.pilot? j) ∧
     ((s.partOfDie (n / 64) ≠ p ∨ s.partSize < at_ + 64 ∨ (∃ r ∈ rs, r.2 = true ∨ r.1 / 2 ^ 8 % 2 ^ 7 ≠ 0) ∨ ¬ bs.Nodup ∨ ∃ b ∈ bs, b / (64 * s.dies) ≠ p) →
      exec (.stealload p n) s = .next refused))) ∧
    (let x := (s.me.sreg reg.toNat).toNat
      let op := x / 2 ^ 56
      p = s.partOfHm (s.me.gwn - 9216) → s.verdict (.srw c 0x115 reg) = .go →
      ∃ u v, exec (.srw c 0x115 reg) s = .next u ∧ fellThrough s u ∧ u.ctxs = v.ctxs ∧ u.parts = v.parts ∧ u.pilots = v.pilots ∧ u.store = v.store ∧
        u.cores = v.cores ∧
        (if x / 2 ^ 16 % 2 ^ 40 ≠ 0 ∨ op = 0 ∨ 5 ≤ op then v = refused else exec (if op = 1 then .ctxload p (x % 64) else if op = 2 then .ctxset p (x % 64)
          else if op = 3 then .stealload p (x % 256) else .ctxunload p (x % 64)) s = .next v))) ∧
  ∀ (s : State) (g : Nat) (w : Wave) (p : Park), s.wave? g = some w → w.park = some p →
    let causes : List Nat := [0x01, 0x02, 0x03, 0x04, 0x05, 0x06, 0x07, 0x08, 0x09, 0x0A, 0x0B, 0x13, 0x14, 0x15, 0x20, 0x21, 0x22]
    let alive := s.hmAlive (s.partOf (unitOf g))
    (alive = false → exec (.resume g) s = .next s ∧ ∀ x, exec (.fault g x) s = .next s) ∧
    (alive = true → p.engine = 0 → (∀ v ∈ s.waves, isHm v.gwn = true → v.writing = false) → ∃ u, exec (.resume g) s = .next u ∧ u.store = s.store ∧
      u.wave? g = some (if p.kind = 3 then { w with run := .running, park := none }.fallThrough else { w with run := .running, park := none })) ∧
    (∀ x : BitVec 8, alive = true → x.toNat ∈ causes →
      exec (.fault g x) s = .next (s.failTask w.crew ⟨x.toNat, 0, p.pc, p.addr⟩)) ∧
    (∀ c a, s.selected = some w → s.verdict (.srw c 0x20B a) = .go →
      let x := (s.me.sreg a.toNat).toNat
      (x / 2 ^ 56 = 1 → ∃ u v, exec (.srw c 0x20B a) s = .next u ∧ fellThrough s u ∧ v = s.resumeWave w.gwn ∧ u = { v with me := u.me }) ∧
      (x / 2 ^ 56 = 2 → x % 2 ^ 8 ∈ causes → ∃ u v, exec (.srw c 0x20B a) s = .next u ∧ fellThrough s u ∧
        v = s.failTask w.crew ⟨x % 2 ^ 8, 0, p.pc, p.addr⟩ ∧ u = { v with me := u.me }) ∧
      (¬ (x / 2 ^ 56 = 1 ∨ (x / 2 ^ 56 = 2 ∧ x % 2 ^ 8 ∈ causes)) →
        exec (.srw c 0x20B a) s = .next ((s.mapMe (Wave.stamp s.time)).hmException s.me.pc 0x09 0))) ∧
    (∀ c a y, s.selected = some y → y.park = none → s.verdict (.srw c 0x20B a) = .go → ∃ u, exec (.srw c 0x20B a) s = .next u ∧ onlyIssued s u)

/-- R157, R348, R357 to R361: while a harbourmaster core of the partition runs, pre-emption stops a context: no claim of it is granted, an active transaction of its
waves aborts with status 5, also of one parked in it, and no other wave changes; the image of a unit whose work is settled holds its waves and crews, is written at a line of
the partition's memory, whose other bytes stay, and frees the unit; a restored image of which no line is lost runs again on its unit with every register, age stamp and byte of
scratch it had, and claims resume with the last image.
The place of an image is an argument and its words' order the model's (log entries 49, 85); an instruction that waits to act issues again (log entry 114). -/
def Obligations.Preemption : Prop :=
  (∀ (s : State) (n : Nat) (c : Context), s.ctx? n = some c → c.frozen = false → s.hmAlive (s.partOfCtx n) = true →
    ∃ u, exec (.preempt n) s = .next u ∧ u.ctx? n = some { c with preempted := true, frozen := true } ∧ u.store = s.store ∧ u.crews = s.crews ∧
      (∀ w ∈ s.waves, (w.ctx ≠ n ∨ isHm w.gwn = true) → w ∈ u.waves) ∧
      ∀ w ∈ s.waves, w.ctx = n → isHm w.gwn = false → w.run = .running ∨ w.run = .parked ∨ (∃ i, w.run = .stalled i) → w.tx.depth ≠ 0 → w.flights = [] →
        ∃ x ∈ u.waves, x.gwn = w.gwn ∧ x.pc = w.tx.handler ∧
        x.s = w.tx.cp.s ∧ x.p = w.tx.cp.p ∧ x.v = w.v ∧ x.tx.depth = 0 ∧ x.tx.last = 5 ∧ x.tx.buf = []) ∧
  (∀ (s : State) (n k pa : Nat) (c : Context), memOk s → s.ctx? n = some c → c.frozen = true → c.hang = none → s.hmAlive (s.partOfCtx n) = true →
    (∀ x ∈ s.crews, x.fault = none) → (∃ w ∈ s.waves, w.ctx = n ∧ isHm w.gwn = false ∧ unitOf w.gwn = k) → (∃ w ∈ s.others, isHm w.gwn = true) →
    s.drainedUnit n k = true →
    let ws := s.waves.filter fun w => w.ofCtx n && unitOf w.gwn == k
    let cs := s.crews.filter fun x => x.ctx == n && x.unit == k
    let xs := s.imageSections n k ws cs (if k < 256 then some (s.core k).saved else none)
    let lines := linesOf xs
    let base := s.partBase (s.partOfCtx n) + pa
    pa % 64 = 0 → pa + 64 * lines + 2 ^ 19 ≤ s.partSize → (∀ x ∈ xs, ∀ y ∈ x.data, y.1 < x.size) →
    ∃ u i, exec (.preemptImageWrite n ⟨k, pa⟩) s = .next u ∧ u.ctx? n = some { c with images := c.images ++ [i], nextImage := c.nextImage + 1 } ∧
      i.id = c.nextImage ∧ i.unit = k ∧ i.crews = cs ∧ 64 * i.line = base ∧ i.sections.map (·.2.2) = xs.map (·.lines) ∧
      u.crews = s.crews.filter (fun x => !(x.ctx == n && x.unit == k)) ∧ u.store = (s.putSections (base / 64) xs).store ∧
      (∀ a, (a < base ∨ base + 64 * lines ≤ a) → byteAt u a = byteAt s a) ∧
      (∀ w ∈ u.waves, ¬ (w.ctx = n ∧ isHm w.gwn = false ∧ unitOf w.gwn = k)) ∧
      ∀ w ∈ s.waves, w.ctx = n → isHm w.gwn = false → unitOf w.gwn = k → ∃ x ∈ i.waves, x.gwn = w.gwn ∧ x.pc = w.pc ∧ x.s = w.s ∧ x.v = w.v ∧
        x.p = w.p ∧ x.loops = w.loops ∧ x.flags = w.flags ∧ x.tx.stamp = w.tx.stamp) ∧
  ∀ (s : State) (n k : Nat) (c : Context) (i : CoreImage), n < 64 → s.ctx? n = some c → c.preempted = true → c.hang = none → s.hmAlive (s.partOfCtx n) = true →
    (c.frozen = false ∨ ∀ w ∈ s.waves, w.ctx = n → isHm w.gwn = true) → c.images.find? (·.id == i.id) = some i → s.placeable n i k = true →
    (∀ x ∈ i.sections, ∀ j, j < x.2.2 → s.lineLost (i.line + x.2.1 + j) = false) →
    ∃ u x, exec (.restore (s.partOfCtx n) n i.id k) s = .next u ∧ u.ctx? n = some x ∧ x.images = c.images.filter (·.id != i.id) ∧ x.frozen = false ∧
      x.preempted = !x.images.isEmpty ∧ u.store = s.store ∧
      (∀ w ∈ i.waves, (∃ r ∈ i.crews, r.id = w.crew) → ∃ y ∈ u.waves, y.pc = w.pc ∧ y.s = w.s ∧ y.v = w.v ∧ y.p = w.p ∧ y.loops = w.loops ∧
        y.flags = w.flags ∧ y.tx.stamp = w.tx.stamp ∧ unitOf y.gwn = k) ∧
      ∀ r ∈ i.crews, ∃ y ∈ u.crews, y.id = r.id ∧ y.unit = k ∧ y.scratch = r.scratch ∧ y.full = r.full

/-! ## Pages and lines (R323 to R353) -/

/-- R338, R340, R341, R343, R344: a writer parked on a replicated page that stays where it is goes on once the page's leaf is writable and no longer replicated; 100 µs
after its collapse, and no sooner, an unpinned page is replicated again; a pin that ends leaves its moves forgotten and its window doubled, up to 64 ms, and 64 ms without a
move bring the window back to 1 ms, for every use of the page's record from then on; the sweeper re-encodes the next line of a relayout under its new code, with the data of a
line without error unchanged.
Microseconds in clocks, frames as arguments, pins, relayouts and a collapse that waits for one follow log entries 18, 49, 50, 51 and 92. -/
def Obligations.PageUpkeep : Prop :=
  ∀ (s : State), memOk s →
    (∀ (g frame table place : Nat) (w : Wave) (p : Park) (e : Word), s.wave? g = some w → isHm g = false → w.park = some p → p.kind = 2 → p.engine = 0 →
      s.hmAlive (s.partOfCtx w.ctx) = true →
      let va := p.addr.toNat
      let old := (s.partBase (s.partOfCtx w.ctx) + pte e 8 32 * 65536) / 64
      s.leafOf w.ctx va = some (3, place, e) → pteBit e 56 = true → pteBit e 40 = true → s.linesBusy old 1024 = false → s.relaying old 1024 = false →
      ((s.migration w.ctx va).pinned.isSome = true ∨ s.berthOf (64 * old) / 64 = s.dieOf (unitOf g)) →
      ∃ u x, exec (.writeProtectCollapse g frame table) s = .next u ∧ u.wave? g = some x ∧ x.run = .running ∧ x.park = none ∧ x.pc = w.pc ∧
        u.store = (s.writePhys noWave place 8 ((e &&& ~~~(1#64 <<< 56)) ||| 1#64 <<< 60 ||| 1#64 <<< 40).toNat).store ∧
        (u.migration w.ctx va).collapsed = some s.time) ∧
    (∀ (n va place t : Nat) (e : Word), (s.migration n va).collapsed = some t → (s.migration n va).pinned = none → s.leafOf n va = some (3, place, e) →
      pteBit e 40 = true → pteBit e 56 = false → s.linesBusy ((s.partBase (s.partOfCtx n) + pte e 8 32 * 65536) / 64) 1024 = false →
      s.hmAlive (s.partOfCtx n) = true →
      (s.time < t + 140000 → exec (.reReplicate n va) s = .next s) ∧
      (t + 140000 ≤ s.time → ∃ u, exec (.reReplicate n va) s = .next u ∧ u.time = s.time ∧ (u.migration n va).collapsed = none ∧
        u.store = (s.writePhys noWave place 8 ((e &&& ~~~(1#64 <<< 60)) ||| 1#64 <<< 56).toNat).store)) ∧
    (∀ (n va : Nat) (m : Migration), s.migrations.find? (fun x => x.ctx == n && x.va == va / 65536 * 65536) = some m →
      (∀ t, m.pinned = some t → t ≤ s.time → s.time < t + 64 * 1400000 →
        s.migration n va = { m with pinned := none, moves := [], window := min (2 * m.window) (64 * 1400000), last := t }) ∧
      (∀ t, m.pinned = some t → s.time < t → s.migration n va = m) ∧
      (m.pinned = none → s.migration n va = if m.last + 64 * 1400000 ≤ s.time then { m with window := 1400000 } else m) ∧
      ∃ u, exec (.pinExpiry n va) s = .next u ∧ exec (.migrationWindowReset n va) s = .next u ∧ s.migration n va ∈ u.migrations ∧
        u.migration n va = s.migration n va ∧ u = { s with migrations := u.migrations }) ∧
    ∀ (b n i : Nat) (r : Relayout), (s.berth b).relayouts[n]? = some r → s.ownLine b r.line (r.lines - r.ptr) r.ptr = some i →
      let line := r.line + i
      let d := (lineFmt r.oldCode (lineInUnit line)).decode (s.store.bits1 line)
      ∃ u, exec (.relayoutReencode b n) s = .next u ∧ u.waves = s.waves ∧
        (d.clean = true → Cells.get u.store.code line = BitVec.ofNat 4 r.newCode ∧ (d.bits.data = (s.store.bits1 line).data → ∀ a, byteAt u a = byteAt s a)) ∧
        (∀ l, l ≠ line → Cells.get u.store.side l = Cells.get s.store.side l ∧ Cells.get u.store.code l = Cells.get s.store.code l) ∧
        (i + 1 < r.lines → ∃ q ∈ (u.berth b).relayouts, q.line = r.line ∧ q.ptr = i + 1)

/-- R352, R353, R330: a sweeper leaves a correctable line corrected and an uncorrectable one as it stands, recorded, and dooms and wakes nobody; an injection
flips the bits of its masks in the stored line, no other, drops the line's copies, and what it may not name it refuses; a TLB may drop an entry.
The recorded fields are the model's reading (log entries 52, 53). -/
def Obligations.SweepsAndInjections : Prop :=
  ∀ (s : State), memOk s →
    (∀ line : Nat, s.ownCode line ≠ 12 →
      let lf := lineFmt (s.ownCode line) (lineInUnit line)
      let d := lf.decode (s.store.bits1 line)
      ∃ u, exec (.memorySweep line) s = .next u ∧ exec (.l2Sweep line) s = .next u ∧ u.waves = s.waves ∧
        (d.clean = false → u.store = s.store ∧ ∃ x, u.out.errors = s.out.errors ++ [⟨64 * line, x⟩]) ∧
        (d.clean = true → u.out = s.out ∧ Cells.get u.store.side line = BitVec.ofNat 64 (lf.write d.bits 0 0 none).side ∧
          (∀ a, byteAt u a = if a / 64 = line then BitVec.ofNat 8 (d.bits.data / 2 ^ (8 * (a % 64))) else byteAt s a) ∧
          ∀ l, l ≠ line → Cells.get u.store.side l = Cells.get s.store.side l)) ∧
    (∀ (p pa : Nat) (side : Word) (data : BitVec 512) (first second : Bool),
      let line := (s.partBase p + pa) / 64
      let bad : Prop := pa % 64 ≠ 0 ∨ s.partSize ≤ pa ∨ 4 ≤ p * s.dies
      ∃ u, exec (.errorInjection p pa side data first second) s = .next u ∧ u.waves = s.waves ∧
        ((bad ∨ (s.ownCode line ≠ 12 ∧ (second = true ∨ first = false)) ∨ (first = false ∧ second = false)) →
          u.store = s.store ∧ u.out.reports = s.out.reports ++ [MgmtReport.injectionRefused]) ∧
        (¬ bad → first = true → second = false → u.out = s.out ∧ (∀ r ∈ u.caches.replicas, r.line ≠ line) ∧ Cells.get u.store.side line = Cells.get s.store.side line ^^^ side ∧
          (∀ a, byteAt u a = if a / 64 = line then byteAt s a ^^^ data.extractLsb' (8 * (a % 64)) 8 else byteAt s a) ∧
          ∀ l, l ≠ line → Cells.get u.store.side l = Cells.get s.store.side l)) ∧
    ∀ n : Nat, ∃ u, exec (.tlbEntryDrop n) s = .next u ∧ u = { s with caches := { s.caches with tlb := s.caches.tlb.eraseIdx n } }

/-! ## The host, the network and the boot ROM (R366 to R377) -/

/-- R43, R305, R342, R367, R368, R370: while a harbourmaster core of the partition runs, the next entry of a launch page is taken: its record is submitted, an uncorrectable
one recorded as an error, the status written and TAKEN advanced; a page with nothing new is left alone. A request is answered with its result and number: a pre-emption of
a resident context, a restore, and a relayout of a pair that R342 admits are done; a pre-emption of a context that is not resident, a restore without an image, and a
relayout that R342 refuses or of an address that has no leaf are refused.
That a request is answered in one step which a running core allows is the model's choice (log entries 15, 47). -/
def Obligations.LaunchPages : Prop :=
  ∀ (s : State) (n k : Nat), s.hmAlive (s.partOfCtx n) = true →
    let page := s.partBase (s.partOfCtx n) + s.partSize - 2 ^ 19 + 8192 * n
    let taken := s.pageWord n 1
    let answered (v u : State) (res q : Word) : Prop := u.store = ((v.setPageWord n 12 res).setPageWord n 11 q).store
    (((s.ctx? n).isSome = true → s.pageWord n 0 ≠ taken →
      let e := s.pageRecord n (taken.toNat % 32)
      let place := page + 4096 + 128 * (taken.toNat % 32)
      let r := (if e.2 then s.record place 5 else s).submit n e.1 e.2
      ∃ u, exec (.launchPageTake n) s = .next u ∧ u.ctxs = r.1.ctxs ∧ u.berths = r.1.berths ∧ (e.2 = true → ⟨place, 5⟩ ∈ u.out.errors) ∧
        u.store = ((r.1.writePhys noWave (page + 256 + 8 * (taken.toNat % 32)) 8 r.2).setPageWord n 1 (taken + 1)).store) ∧
      (s.pageWord n 0 = taken → exec (.launchPageTake n) s = .next s)) ∧
    ∀ op code va q, s.request n = some (op, code, va, q) →
      (op = 0 → ∃ u, exec (.preemptRequest n) s = .next u ∧ answered s u 1 q ∧ u.ctxs = s.ctxs) ∧
      (op = 1 → ∃ u, exec (.preemptRequest n) s = .next u ∧ (s.ctx? n = none → answered s u 1 q ∧ u.ctxs = s.ctxs) ∧
        ∀ c, s.ctx? n = some c → answered s u 0 q ∧ (c.preempted = true → u.ctxs = s.ctxs) ∧
          (c.preempted = false → c.frozen = false → u.ctxs = (s.preempt n).ctxs ∧ (u.ctx? n).map (·.preempted) = some true)) ∧
      (op = 2 → ∀ c, s.ctx? n = some c → c.hang = none → (c.frozen = false ∨ ∀ w ∈ s.waves, w.ctx = n → isHm w.gwn = true) →
        (c.images = [] → ∃ u, exec (.restoreRequest n k) s = .next u ∧ answered s u 1 q ∧ u.ctxs = s.ctxs) ∧
        (∀ v, c.images ≠ [] → s.restoreAll n k (c.images.map (·.id)) = some v → ∃ u, exec (.restoreRequest n k) s = .next u ∧ answered v u 0 q ∧
          u.ctxs = v.ctxs ∧ u.crews = v.crews)) ∧
      (op = 3 → (s.leafOf n va = none → ∃ u, exec (.relayoutRequest n) s = .next u ∧ answered s u 1 q ∧ u.berths = s.berths) ∧
        ∀ level place e, s.leafOf n va = some (level, place, e) →
        (pteBit e 58 = true ∨ relayoutPair (pte e 52 4) code = false → ∃ u, exec (.relayoutRequest n) s = .next u ∧ answered s u 1 q ∧ u.berths = s.berths) ∧
        (∀ v, pteBit e 58 = false → relayoutPair (pte e 52 4) code = true → s.startRelayout n level va place code e = some v →
          ∃ u, exec (.relayoutRequest n) s = .next u ∧ answered v u 0 q ∧ u.berths = v.berths))

/-- R97, R135, R295, R366, R371, R372, R374: a host write reaches its line at the home, and before the hand-over only the staging window; a host read returns the host's own
copy of a line, else what stands at the home, and a cached one keeps copies; a back-invalidation removes the copies of one line. A doubleword of BAR0 written to the MSI-X
table reads back, the pending bits show what is held, and the boot function's mailbox reads and takes BOOTLEN, BOOTCMD with GO, and BOOTVEC; a function that is absent reads as zero. Unmasking
a vector of an enabled function sends what was held pending. A packet of no connection, one that fails its CRC or is out of sequence changes nothing; the next one in sequence
is counted and its bytes stand at their home, or, where its context is not its partition's, the address does not translate or only a failed link reaches its home (R354), it is dropped and its sender and the management port
are told the cause.
The data of a read, the layout of a vector's table entry, and the connections stand in fields of the model (log entries 9, 80, 82); that unmasking sends what is held in that very step is the model's reading (log entry 7), and where a failed link is met too (log entry 120). -/
def Obligations.HostPort : Prop :=
  (∀ (s : State) (p pa : Nat) (data : List Byte), memOk s →
    (s.out.booted = false → (p ≠ 0 ∨ 2 ^ 28 < pa + data.length) → exec (.hostWrite p pa data .plain) s = .next s) ∧
    (∀ at_, s.hostPlace p pa data.length = some at_ → 0 < data.length → at_ % 64 + data.length ≤ 64 →
      let line := at_ / 64
      let lf := lineFmt (s.ownCode line) (lineInUnit line)
      ∃ u, exec (.hostWrite p pa data .plain) s = .next u ∧ (∀ a, a / 64 ≠ line → byteAt u a = byteAt s a) ∧ (∀ l ∈ u.out.hostLines, l.1 ≠ line) ∧
        ((lf.decode (s.store.bits1 line)).bits.data = (s.store.bits1 line).data → (lf.decode (s.store.bits1 line)).sFail.all (· == false) = true →
          ∀ a, byteAt u a = if at_ ≤ a ∧ a < at_ + data.length then data.getD (a - at_) 0 else byteAt s a)) ∧
    (∀ at_ n cached, s.hostPlace p pa n = some at_ → ∃ u, exec (.hostRead p pa n (if cached then .cached else .plain)) s = .next u ∧
      u.out.hostData = (List.range n).map (fun i => match s.out.hostLines.find? (·.1 == (at_ + i) / 64) with
        | some l => BitVec.ofNat 8 (l.2 / 2 ^ (8 * ((at_ + i) % 64)))
        | none => BitVec.ofNat 8 (s.readPhys (at_ + i) 1).1) ∧ u.store = s.store ∧ u.waves = s.waves ∧
      (cached = false → u.out.hostLines = s.out.hostLines) ∧
      (cached = true → (∀ l ∈ s.out.hostLines, l ∈ u.out.hostLines) ∧ ∀ i, i < n → (∀ l ∈ s.out.hostLines, l.1 ≠ (at_ + i) / 64) →
        ((at_ + i) / 64, (s.readPhys (64 * ((at_ + i) / 64)) 64).1) ∈ u.out.hostLines)) ∧
    (∀ line, ∃ u, s.act (.backInvalidate line) = .next u ∧ u.store = s.store ∧ u.waves = s.waves ∧
      ∀ l, l ∈ u.out.hostLines ↔ l ∈ s.out.hostLines ∧ l.1 ≠ line)) ∧
  (∀ (s : State) (f k : Nat) (x : Word), Cells.wf s.out.msix = true →
    let data := toBytes 8 x.toNat
    (s.hasFunction f = true → k < 4096 → ∃ u, exec (.hostWrite f (8 * k) data .bar0) s = .next u ∧ u.store = s.store ∧ u.out.msixWord f k = x ∧
      ∀ j, j < 4096 → j ≠ k → u.out.msixWord f j = s.out.msixWord f j) ∧
    (s.hasFunction f = false → exec (.hostWrite f (8 * k) data .bar0) s = .next s) ∧
    (s.out.booted = false → f = 0 →
      (exec (.hostWrite f (8 * 7680) data .bar0) s = .next { s with out := { s.out with bootLen := x } }) ∧
      (exec (.hostWrite f (8 * 7683) data .bar0) s = .next { s with out := { s.out with bootVec := x.setWidth 11 } }) ∧
      (exec (.hostWrite f (8 * 7681) data .bar0) s = if x.getLsbD 0 then exec (.bootcmdGo s.out.bootLen) s
        else .next { s with out := { s.out with bootCmd := 0 } })) ∧
    ∃ u, exec (.hostRead f (8 * k) 8 .bar0) s = .next u ∧ u = { s with out := { s.out with hostData := u.out.hostData } } ∧
      (s.hasFunction f = false → ofBytes u.out.hostData = 0) ∧
      (s.hasFunction f = true →
        (k < 4096 → ofBytes u.out.hostData = (s.out.msixWord f k).toNat) ∧
        (∀ j i, k = 4096 + j → j < 32 → i < 64 → ((ofBytes u.out.hostData).testBit i = true ↔ (f, 64 * j + i) ∈ s.out.pending)) ∧
        (4128 ≤ k → ofBytes u.out.hostData = if s.out.booted then 0 else if k = 7680 then s.out.bootLen.toNat
          else if k = 7681 then s.out.bootCmd.toNat else if k = 7682 then s.out.bootStat.toNat else if k = 7683 then s.out.bootVec.toNat else 0))) ∧
  (∀ (s : State) (k : Packet), memOk s →
    (s.out.conns.find? (·.conn == k.conn) = none → exec (.juwinPacket k) s = .next s) ∧
    ∀ c, s.out.conns.find? (·.conn == k.conn) = some c →
      ((k.crcOk = false ∨ k.seq ≠ c.next) → exec (.juwinPacket k) s = .next s) ∧
      (k.crcOk = true → k.seq = c.next → ∃ u, exec (.juwinPacket k) s = .next u ∧ u.waves.length = s.waves.length ∧
        u.out.conns.find? (·.conn == k.conn) = some { c with next := k.seq + 1 } ∧
        (∀ n, n ≠ k.conn → u.out.conns.find? (·.conn == n) = s.out.conns.find? (·.conn == n)) ∧
        let dropped (cause : Nat) : Prop := u.store = s.store ∧ u.out.nacks = s.out.nacks ++ [(k.conn, cause)] ∧
          u.out.reports = s.out.reports ++ [MgmtReport.juwinFault k.conn cause]
        let va := k.addr.toNat
        ((64 ≤ c.ctx ∨ s.partOfCtx c.ctx ≠ c.part) → dropped 0x04) ∧
        (c.ctx < 64 → s.partOfCtx c.ctx = c.part → va < 0xFFFFFFFF0000 → 0 < k.data.length → va % 64 + k.data.length ≤ 64 →
          ((s.translate netTlb c.ctx va .w).2 = .missing → dropped 0x05) ∧
          ((s.translate netTlb c.ctx va .w).2 = .access → dropped 0x04) ∧
          ∀ t, (s.translate netTlb c.ctx va .w).2 = .ok t → t.space = .dev → t.at_ % 64 + k.data.length ≤ 64 →
            let cut := s.cutOff (s.hmDie c.ctx) k.data.length t
            (cut = true → dropped 0x15) ∧
            (cut = false → let line := t.at_ / 64
            let lf := lineFmt (s.codeAt line t.code) (lineInUnit line)
            u.out.nacks = s.out.nacks ∧ (∀ a, a / 64 ≠ line → byteAt u a = byteAt s a) ∧
            ((lf.decode (s.store.bits1 line)).bits.data = (s.store.bits1 line).data → (lf.decode (s.store.bits1 line)).sFail.all (· == false) = true →
              ∀ a, byteAt u a = if t.at_ ≤ a ∧ a < t.at_ + k.data.length then k.data.getD (a - t.at_) 0 else byteAt s a))))) ∧
  ∀ (s : State) (fn : Nat) (v : BitVec 11), Cells.wf s.out.msix = true →
    let e := 2 * v.toNat + 1
    ∃ u, exec (.msixVectorUnmask fn v) s = .next u ∧ u.out.msixWord fn e = s.out.msixWord fn e &&& ~~~(1#64 <<< 32) ∧ u.store = s.store ∧
      (∀ j, j < 4096 → j ≠ e → u.out.msixWord fn j = s.out.msixWord fn j) ∧
      ((fn, v.toNat) ∈ s.out.pending →
        (fn ∈ s.out.msixOn → ⟨fn, v.toNat, s.out.msixWord fn (e - 1), (s.out.msixWord fn e).setWidth 32⟩ ∈ u.out.sent ∧ (fn, v.toNat) ∉ u.out.pending) ∧
        (fn ∉ s.out.msixOn → (fn, v.toNat) ∈ u.out.pending))

/-- R354, R373 to R377: a link that fails to retrain is reported and one that retrains is up; a reset leaves the device as after every reset; GO with a length in range
begins the verification and any other is refused with cause 3 and reported, and so does an image fetched over the management port; an image whose signature verifies under a key of the fused hash, of a version
no older than the fused one, is measured, sets PARTCFG and starts harbourmaster core 0 at its entry, and any other is measured, refused and reported with cause 1 or 2; an attestation
report carries the nonce, the measurement and PARTCFG; a throttle withholds issue of far cores and quay units; a module that has stopped for its temperature runs
nothing but a reset.
What a reset keeps, the opaque functions that verify an image, which clocks of sixteen a throttle withholds, and the numbers of the links are the model's (log entries 19, 20, 56, 81). -/
def Obligations.BootAndPower : Prop :=
  ∀ (s : State),
    (∀ n : Nat, (∃ u, exec (.linkRetrain n true) s = .next u ∧ n ∉ u.out.linksDown ∧ u.out.reports = s.out.reports) ∧
      ∃ u, exec (.linkRetrain n false) s = .next u ∧ n ∈ u.out.linksDown ∧ u.out.reports = s.out.reports ++ [MgmtReport.linkFailed n]) ∧
    (∃ u, exec .reset s = .next u ∧ u.store = .reset ∧ u.me = .hmReset 0 ∧ u.ctxs = [] ∧ u.crews = [] ∧ u.berths = [] ∧ u.caches = .reset ∧
      u.pilots = [] ∧ u.hm = State.reset.hm ∧ u.parts = State.reset.parts ∧ u.out.booted = false ∧ u.out.bootStat = 0 ∧ u.out.measure = 0 ∧
      u.out.stopped = false ∧ u.out.hostMem = s.out.hostMem ∧ u.out.reports = s.out.reports) ∧
    (s.out.booted = false → s.out.bootStat ≠ 1 →
      (∀ len : Word, ∃ u, exec (.bootcmdGo len) s = .next u ∧ u.out.bootLen = len ∧ u.out.bootCmd = 1 ∧ u.store = s.store ∧
        (1 ≤ len.toNat ∧ len.toNat ≤ 2 ^ 28 → u.out.bootStat = 1 ∧ u.out.imageLen = len.toNat ∧ u.out.reports = s.out.reports) ∧
        (¬ (1 ≤ len.toNat ∧ len.toNat ≤ 2 ^ 28) → u.out.bootStat = 0x303 ∧ u.out.reports = s.out.reports ++ [MgmtReport.bootFailed 3])) ∧
      ∀ image : List Byte, 0 < image.length → image.length ≤ 2 ^ 28 → ∃ u, s.act (.mgmtFetch image) = .next u ∧
        u.out.bootLen = s.out.bootLen ∧ u.out.imageLen = image.length ∧ u.out.bootStat = 1 ∧ u.store = (s.portWrite 0 image).store) ∧
    (∀ key : List Byte, s.out.booted = false → s.out.bootStat = 1 →
      let image := s.readPhysBytes 0 s.out.imageLen
      let good : Prop := Config.sm3 key = Config.fusedKey ∧ Config.imageSigned key (Config.sm3 image) image = true ∧ Config.imageMode image ≠ 3
      ∃ u, exec (.bootVerifyDone key) s = .next u ∧ u.out.measure = s.measured ∧ u.store = s.store ∧
        (good → Config.fusedVersion ≤ Config.imageVersion image → s.me.gwn = 9216 → u.out.booted = true ∧ u.out.mode = Config.imageMode image ∧
          u.out.bootStat = 2 ∧ u.me.run = .running ∧ u.me.pc = BitVec.ofNat 64 (Config.imageEntry image)) ∧
        (¬ good → u.out.bootStat = 0x103 ∧ u.out.booted = false ∧ u.out.reports = s.out.reports ++ [MgmtReport.bootFailed 1]) ∧
        (good → Config.imageVersion image < Config.fusedVersion → u.out.bootStat = 0x203 ∧ u.out.booted = false ∧
          u.out.reports = s.out.reports ++ [MgmtReport.bootFailed 2])) ∧
    (∀ nonce : BitVec 256, ∃ u b, exec (.attestation nonce) s = .next u ∧ u.out.reports = s.out.reports ++ [MgmtReport.attestation b] ∧
      b.take 32 = toBytes 32 nonce.toNat ∧ (b.drop 32).take 32 = toBytes 32 s.out.measure.toNat ∧ (b.drop 64).take 8 = toBytes 8 s.out.mode.toNat ∧
      u.store = s.store) ∧
    (∀ n : BitVec 4, ∃ u, exec (.throttle n) s = .next u ∧ u = { s with out := { s.out with throttle := n } } ∧
      ∀ unit sched, unit < 512 → s.time % 16 < n.toNat → u.clock unit sched = .next u) ∧
    ∃ u, exec .thermalShutdown s = .next u ∧ (∀ w ∈ u.waves, w.run = .halted ∧ w.flights = []) ∧ u.cores = [] ∧ u.crews = [] ∧ u.ctxs = [] ∧
      u.out.reports = s.out.reports ++ [MgmtReport.thermal] ∧ (s.agenda.head? ≠ some (.event .reset) → step u = .fault .moduleStopped) ∧
      (s.agenda.head? = some (.event .reset) → ∃ v, step u = .next v ∧ v.out.stopped = false)

/-! ## Reset, invariants and isolation -/

/-- R289, R292, R373, R374, R377: after reset device memory reads as zero in every stored copy, no context is resident, BOOTSTAT is 0, the module has not stopped, EXC
of every harbourmaster core is 0 and core 0 does not run yet; the state has the forms that every step keeps.
That no context is resident, that memory lists nothing and the forms are the model's (log entries 3, 4). -/
def Obligations.AfterReset : Prop :=
  (∀ a, byteAt State.reset a = 0 ∧ Memory.read State.reset.store.data2 a = 0 ∧ Cells.get State.reset.store.side a = 0 ∧
    Cells.get State.reset.store.side2 a = 0) ∧
  State.reset.ctxs = [] ∧ State.reset.crews = [] ∧ State.reset.out.bootStat = 0 ∧ State.reset.out.booted = false ∧
  State.reset.out.stopped = false ∧ (∀ k, (State.reset.hmCore k).exc = false) ∧ State.reset.waves.map (·.gwn) = [9216, 9217, 9218, 9219] ∧
  (∀ w ∈ State.reset.waves, w.run = .off ∧ w.priv = true) ∧ memOk State.reset ∧ regsOk State.reset

/-- R377, R97: every step keeps device memory and scratch in their canonical form: equal memories are equal data.
The form is the model's own; R97 and R377 only say what memory is. -/
def Obligations.MemoryStaysCanonical : Prop := ∀ s u : State, memOk s → step s = .next u → memOk u

/-- R11, R137, R141, R359: every step keeps the registers of every wave, and every checkpoint, in their canonical form, and no write buffer holds more than 64 lines.
The form is the model's own, but for R137's 64 lines of a write buffer. -/
def Obligations.RegistersStayCanonical : Prop := ∀ s u : State, regsOk s → step s = .next u → regsOk u

/-- R289, R290, R303: no instruction word of a wave changes a register of a harbourmaster core, a partition's tables, the partitioning, the boot registers, or what
CTXLOAD fixed of any context; no wave gains privilege or another context by it. -/
def Obligations.WavesAreConfined : Prop :=
  ∀ (s u : State) (i : Instr), isWord i = true → isHm s.me.gwn = false → exec i s = .next u →
    u.hm = s.hm ∧ u.out.mode = s.out.mode ∧ u.out.booted = s.out.booted ∧ u.out.bootStat = s.out.bootStat ∧ u.pilots = s.pilots ∧
    (∀ p, (u.part p).ctxtab = (s.part p).ctxtab ∧ (u.part p).stealtab = (s.part p).stealtab ∧ (u.part p).fqbase = (s.part p).fqbase ∧
      (u.part p).fqcap = (s.part p).fqcap) ∧
    (∀ n, (u.ctx? n).map (fun c => (c.priv, c.ntypes, c.typetab, c.quota, c.ptroot, c.wdog, c.preempted, c.frozen)) =
      (s.ctx? n).map fun c => (c.priv, c.ntypes, c.typetab, c.quota, c.ptroot, c.wdog, c.preempted, c.frozen)) ∧
    ∀ x ∈ u.waves, ∃ w ∈ s.waves, x.gwn = w.gwn ∧ x.priv = w.priv ∧ x.ctx = w.ctx ∧ x.crew = w.crew
end

