-- ==== Sys2Proof/Laws/Cells.lean ====
section
/-! SUPPORT. Laws of sparse arrays: a read after a write, and the canonical form, which every operation keeps. -/

namespace Sys2Proof.Machine

theorem Cells.okFrom_iff {w : Nat} (n a : Nat) (b : BitVec w) (r : Cells w) :
    Cells.okFrom n ((a, b) :: r) = true ↔ n ≤ a ∧ b ≠ 0 ∧ Cells.okFrom (a + 1) r = true := by
  simp only [Cells.okFrom, Bool.and_eq_true, decide_eq_true_eq, bne_iff_ne, and_assoc]

theorem Cells.get_cons {w : Nat} (a : Nat) (v : BitVec w) (c : Cells w) (k : Nat) (h : Cells.get c a = 0) :
    Cells.get (Cells.cons a v c) k = if a = k then v else Cells.get c k := by
  unfold Cells.cons
  split
  · rename_i h0; subst h0
    split
    · rename_i h1; subst h1; exact h
    · rfl
  · rfl

theorem Cells.get_of_lt {w : Nat} (c : Cells w) (n k : Nat) (h : Cells.okFrom n c = true) (hk : k < n) : Cells.get c k = 0 := by
  induction c generalizing n with
  | nil => rfl
  | cons p r ih =>
    obtain ⟨a, b⟩ := p
    rw [Cells.okFrom_iff] at h
    simp only [Cells.get]
    have : a ≠ k := by omega
    simp [this, ih (a + 1) h.2.2 (by omega)]

theorem Cells.okFrom_mono {w : Nat} (c : Cells w) (m n : Nat) (hmn : m ≤ n) (h : Cells.okFrom n c = true) : Cells.okFrom m c = true := by
  cases c with
  | nil => rfl
  | cons p r =>
    obtain ⟨a, b⟩ := p
    rw [Cells.okFrom_iff] at h ⊢
    exact ⟨by omega, h.2⟩

theorem Cells.okFrom_cons {w : Nat} (n a : Nat) (v : BitVec w) (c : Cells w) (hn : n ≤ a) (h : Cells.okFrom (a + 1) c = true) :
    Cells.okFrom n (Cells.cons a v c) = true := by
  unfold Cells.cons
  split
  · exact Cells.okFrom_mono c n (a + 1) (by omega) h
  · rename_i h0; exact (Cells.okFrom_iff n a v c).mpr ⟨hn, h0, h⟩

theorem Cells.get_set_from {w : Nat} (c : Cells w) (n k : Nat) (v : BitVec w) (j : Nat) (h : Cells.okFrom n c = true) :
    Cells.get (Cells.set c k v) j = if k = j then v else Cells.get c j := by
  induction c generalizing n with
  | nil => exact Cells.get_cons k v [] j rfl
  | cons p r ih =>
    obtain ⟨a, b⟩ := p
    rw [Cells.okFrom_iff] at h
    unfold Cells.set
    split
    · rename_i hk
      apply Cells.get_cons
      exact Cells.get_of_lt ((a, b) :: r) a k ((Cells.okFrom_iff a a b r).mpr ⟨Nat.le_refl a, h.2⟩) hk
    · split
      · rename_i hk hka
        subst hka
        rw [Cells.get_cons _ _ _ _ (Cells.get_of_lt r (k + 1) k h.2.2 (by omega))]
        simp only [Cells.get]
        split <;> simp_all
      · rename_i hk hka
        simp only [Cells.get, ih (a + 1) h.2.2]
        split
        · rename_i hj; subst hj; simp [hka]
        · rfl

theorem Cells.okFrom_set {w : Nat} (c : Cells w) (n k : Nat) (v : BitVec w) (hn : n ≤ k) (h : Cells.okFrom n c = true) :
    Cells.okFrom n (Cells.set c k v) = true := by
  induction c generalizing n with
  | nil => exact Cells.okFrom_cons n k v [] hn rfl
  | cons p r ih =>
    obtain ⟨a, b⟩ := p
    rw [Cells.okFrom_iff] at h
    unfold Cells.set
    split
    · rename_i hk; exact Cells.okFrom_cons n k v _ hn ((Cells.okFrom_iff (k + 1) a b r).mpr ⟨by omega, h.2⟩)
    · split
      · rename_i hka; subst hka; exact Cells.okFrom_cons n k v r hn h.2.2
      · rename_i hk hka
        exact (Cells.okFrom_iff n a b _).mpr ⟨h.1, h.2.1, ih (a + 1) (by omega) h.2.2⟩

/-- A read after a write. -/
theorem Cells.get_set {w : Nat} (c : Cells w) (k : Nat) (v : BitVec w) (j : Nat) (h : Cells.wf c = true) :
    Cells.get (Cells.set c k v) j = if k = j then v else Cells.get c j :=
  Cells.get_set_from c 0 k v j h

/-- A write keeps the canonical form. -/
theorem Cells.wf_set {w : Nat} (c : Cells w) (k : Nat) (v : BitVec w) (h : Cells.wf c = true) : Cells.wf (Cells.set c k v) = true :=
  Cells.okFrom_set c 0 k v (by omega) h

/-- The empty array is canonical. -/
theorem Cells.wf_nil {w : Nat} : Cells.wf ([] : Cells w) = true := rfl

/-- Several writes keep the canonical form. -/
theorem Cells.wf_setMany {w : Nat} (l : List (Nat × BitVec w)) (c : Cells w) (h : Cells.wf c = true) : Cells.wf (Cells.setMany c l) = true := by
  induction l generalizing c with
  | nil => exact h
  | cons p r ih => exact ih _ (Cells.wf_set c p.1 p.2 h)

/-- Consecutive writes keep the canonical form. -/
theorem Cells.wf_setRange {w : Nat} (l : List (BitVec w)) (c : Cells w) (k : Nat) (h : Cells.wf c = true) :
    Cells.wf (Cells.setRange c k l) = true := by
  induction l generalizing c k with
  | nil => exact h
  | cons v r ih => exact ih _ _ (Cells.wf_set c k v h)

theorem Cells.okFrom_filter {w : Nat} (p : Nat × BitVec w → Bool) (c : Cells w) (n : Nat) (h : Cells.okFrom n c = true) :
    Cells.okFrom n (c.filter p) = true := by
  induction c generalizing n with
  | nil => rfl
  | cons q r ih =>
    obtain ⟨a, b⟩ := q
    rw [Cells.okFrom_iff] at h
    rw [List.filter_cons]
    split
    · exact (Cells.okFrom_iff n a b _).mpr ⟨h.1, h.2.1, ih (a + 1) h.2.2⟩
    · exact ih n (Cells.okFrom_mono r n (a + 1) (by omega) h.2.2)

/-- Dropping entries keeps the canonical form. -/
theorem Cells.wf_filter {w : Nat} (p : Nat × BitVec w → Bool) (c : Cells w) (h : Cells.wf c = true) : Cells.wf (c.filter p) = true :=
  Cells.okFrom_filter p c 0 h

theorem Cells.okFrom_ofDense {w : Nat} (vs : List (BitVec w)) (n k : Nat) (c : Cells w) (hn : n ≤ k)
    (h : Cells.okFrom (k + vs.length) c = true) : Cells.okFrom n (Cells.ofDense k vs c) = true := by
  induction vs generalizing n k with
  | nil => exact Cells.okFrom_mono c n k hn (by simpa using h)
  | cons v r ih =>
    exact Cells.okFrom_cons n k v _ hn (ih (k + 1) (k + 1) (by omega) (by simpa [Nat.add_assoc, Nat.add_comm 1] using h))

theorem Cells.okFrom_append {w : Nat} (a b : Cells w) (n m : Nat) (ha : Cells.okFrom n a = true) (hlt : ∀ p ∈ a, p.1 < m) (hnm : n ≤ m)
    (hb : Cells.okFrom m b = true) : Cells.okFrom n (a ++ b) = true := by
  induction a generalizing n with
  | nil => exact Cells.okFrom_mono b n m hnm hb
  | cons p r ih =>
    obtain ⟨x, y⟩ := p
    rw [Cells.okFrom_iff] at ha
    have hx := hlt (x, y) (by simp)
    exact (Cells.okFrom_iff n x y _).mpr ⟨ha.1, ha.2.1, ih (x + 1) ha.2.2 (fun q hq => hlt q (by simp [hq])) hx⟩

theorem Cells.okFrom_drop {w : Nat} (c : Cells w) (n m : Nat) (h : Cells.okFrom n c = true) :
    Cells.okFrom m (c.filter fun p => decide (m ≤ p.1)) = true := by
  induction c generalizing n with
  | nil => rfl
  | cons q r ih =>
    obtain ⟨a, b⟩ := q
    rw [Cells.okFrom_iff] at h
    rw [List.filter_cons]
    split
    · rename_i hm
      simp only [decide_eq_true_eq] at hm
      exact (Cells.okFrom_iff m a b _).mpr ⟨hm, h.2.1, Cells.okFrom_filter _ r (a + 1) h.2.2⟩
    · exact ih (a + 1) h.2.2

/-- Replacing a run of values keeps the canonical form. -/
theorem Cells.wf_putDense {w : Nat} (c : Cells w) (k : Nat) (vs : List (BitVec w)) (h : Cells.wf c = true) :
    Cells.wf (Cells.putDense c k vs) = true := by
  apply Cells.okFrom_append (m := k)
  · exact Cells.okFrom_filter _ c 0 h
  · intro p hp; simpa using (List.mem_filter.mp hp).2
  · omega
  · exact Cells.okFrom_ofDense vs k k _ (by omega) (Cells.okFrom_drop c 0 _ h)

end Sys2Proof.Machine
end

