-- ==== Sys2Proof/Laws/State.lean ====
section
/-! SUPPORT. What each update of the state, and of a wave, leaves in every field: one lemma per field, so that no later proof unfolds a record update. -/

namespace Sys2Proof.Machine

/-! ## Updates of the state -/

@[simp] theorem State.mapMe_me (s : State) (f : Wave → Wave) : (s.mapMe f).me = f s.me := rfl
@[simp] theorem State.mapMe_others (s : State) (f : Wave → Wave) : (s.mapMe f).others = s.others := rfl
@[simp] theorem State.mapMe_hm (s : State) (f : Wave → Wave) : (s.mapMe f).hm = s.hm := rfl
@[simp] theorem State.mapMe_parts (s : State) (f : Wave → Wave) : (s.mapMe f).parts = s.parts := rfl
@[simp] theorem State.mapMe_time (s : State) (f : Wave → Wave) : (s.mapMe f).time = s.time := rfl
@[simp] theorem State.mapMe_clocked (s : State) (f : Wave → Wave) : (s.mapMe f).clocked = s.clocked := rfl
@[simp] theorem State.mapMe_store (s : State) (f : Wave → Wave) : (s.mapMe f).store = s.store := rfl
@[simp] theorem State.mapMe_caches (s : State) (f : Wave → Wave) : (s.mapMe f).caches = s.caches := rfl
@[simp] theorem State.mapMe_cores (s : State) (f : Wave → Wave) : (s.mapMe f).cores = s.cores := rfl
@[simp] theorem State.mapMe_crews (s : State) (f : Wave → Wave) : (s.mapMe f).crews = s.crews := rfl
@[simp] theorem State.mapMe_berths (s : State) (f : Wave → Wave) : (s.mapMe f).berths = s.berths := rfl
@[simp] theorem State.mapMe_ctxs (s : State) (f : Wave → Wave) : (s.mapMe f).ctxs = s.ctxs := rfl
@[simp] theorem State.mapMe_pilots (s : State) (f : Wave → Wave) : (s.mapMe f).pilots = s.pilots := rfl
@[simp] theorem State.mapMe_pilotTurn (s : State) (f : Wave → Wave) : (s.mapMe f).pilotTurn = s.pilotTurn := rfl
@[simp] theorem State.mapMe_migrations (s : State) (f : Wave → Wave) : (s.mapMe f).migrations = s.migrations := rfl
@[simp] theorem State.mapMe_subs (s : State) (f : Wave → Wave) : (s.mapMe f).subs = s.subs := rfl
@[simp] theorem State.mapMe_out (s : State) (f : Wave → Wave) : (s.mapMe f).out = s.out := rfl
@[simp] theorem State.mapMe_wakes (s : State) (f : Wave → Wave) : (s.mapMe f).wakes = s.wakes := rfl
@[simp] theorem State.mapMe_fresh (s : State) (f : Wave → Wave) : (s.mapMe f).fresh = s.fresh := rfl
@[simp] theorem State.mapMe_agenda (s : State) (f : Wave → Wave) : (s.mapMe f).agenda = s.agenda := rfl

@[simp] theorem State.addWave_me (s : State) (w : Wave) : (s.addWave w).me = s.me := rfl
@[simp] theorem State.addWave_others (s : State) (w : Wave) : (s.addWave w).others = s.others ++ [w] := rfl
@[simp] theorem State.addWave_hm (s : State) (w : Wave) : (s.addWave w).hm = s.hm := rfl
@[simp] theorem State.addWave_parts (s : State) (w : Wave) : (s.addWave w).parts = s.parts := rfl
@[simp] theorem State.addWave_time (s : State) (w : Wave) : (s.addWave w).time = s.time := rfl
@[simp] theorem State.addWave_clocked (s : State) (w : Wave) : (s.addWave w).clocked = s.clocked := rfl
@[simp] theorem State.addWave_store (s : State) (w : Wave) : (s.addWave w).store = s.store := rfl
@[simp] theorem State.addWave_caches (s : State) (w : Wave) : (s.addWave w).caches = s.caches := rfl
@[simp] theorem State.addWave_cores (s : State) (w : Wave) : (s.addWave w).cores = s.cores := rfl
@[simp] theorem State.addWave_crews (s : State) (w : Wave) : (s.addWave w).crews = s.crews := rfl
@[simp] theorem State.addWave_berths (s : State) (w : Wave) : (s.addWave w).berths = s.berths := rfl
@[simp] theorem State.addWave_ctxs (s : State) (w : Wave) : (s.addWave w).ctxs = s.ctxs := rfl
@[simp] theorem State.addWave_pilots (s : State) (w : Wave) : (s.addWave w).pilots = s.pilots := rfl
@[simp] theorem State.addWave_pilotTurn (s : State) (w : Wave) : (s.addWave w).pilotTurn = s.pilotTurn := rfl
@[simp] theorem State.addWave_migrations (s : State) (w : Wave) : (s.addWave w).migrations = s.migrations := rfl
@[simp] theorem State.addWave_subs (s : State) (w : Wave) : (s.addWave w).subs = s.subs := rfl
@[simp] theorem State.addWave_out (s : State) (w : Wave) : (s.addWave w).out = s.out := rfl
@[simp] theorem State.addWave_wakes (s : State) (w : Wave) : (s.addWave w).wakes = s.wakes := rfl
@[simp] theorem State.addWave_fresh (s : State) (w : Wave) : (s.addWave w).fresh = s.fresh := rfl
@[simp] theorem State.addWave_agenda (s : State) (w : Wave) : (s.addWave w).agenda = s.agenda := rfl

@[simp] theorem State.modWaves_me (s : State) (p : Wave → Bool) (f : Wave → Wave) : (s.modWaves p f).me = if p s.me then f s.me else s.me := rfl
@[simp] theorem State.modWaves_others (s : State) (p : Wave → Bool) (f : Wave → Wave) : (s.modWaves p f).others = mapWhere p f s.others := rfl
@[simp] theorem State.modWaves_hm (s : State) (p : Wave → Bool) (f : Wave → Wave) : (s.modWaves p f).hm = s.hm := rfl
@[simp] theorem State.modWaves_parts (s : State) (p : Wave → Bool) (f : Wave → Wave) : (s.modWaves p f).parts = s.parts := rfl
@[simp] theorem State.modWaves_time (s : State) (p : Wave → Bool) (f : Wave → Wave) : (s.modWaves p f).time = s.time := rfl
@[simp] theorem State.modWaves_clocked (s : State) (p : Wave → Bool) (f : Wave → Wave) : (s.modWaves p f).clocked = s.clocked := rfl
@[simp] theorem State.modWaves_store (s : State) (p : Wave → Bool) (f : Wave → Wave) : (s.modWaves p f).store = s.store := rfl
@[simp] theorem State.modWaves_caches (s : State) (p : Wave → Bool) (f : Wave → Wave) : (s.modWaves p f).caches = s.caches := rfl
@[simp] theorem State.modWaves_cores (s : State) (p : Wave → Bool) (f : Wave → Wave) : (s.modWaves p f).cores = s.cores := rfl
@[simp] theorem State.modWaves_crews (s : State) (p : Wave → Bool) (f : Wave → Wave) : (s.modWaves p f).crews = s.crews := rfl
@[simp] theorem State.modWaves_berths (s : State) (p : Wave → Bool) (f : Wave → Wave) : (s.modWaves p f).berths = s.berths := rfl
@[simp] theorem State.modWaves_ctxs (s : State) (p : Wave → Bool) (f : Wave → Wave) : (s.modWaves p f).ctxs = s.ctxs := rfl
@[simp] theorem State.modWaves_pilots (s : State) (p : Wave → Bool) (f : Wave → Wave) : (s.modWaves p f).pilots = s.pilots := rfl
@[simp] theorem State.modWaves_pilotTurn (s : State) (p : Wave → Bool) (f : Wave → Wave) : (s.modWaves p f).pilotTurn = s.pilotTurn := rfl
@[simp] theorem State.modWaves_migrations (s : State) (p : Wave → Bool) (f : Wave → Wave) : (s.modWaves p f).migrations = s.migrations := rfl
@[simp] theorem State.modWaves_subs (s : State) (p : Wave → Bool) (f : Wave → Wave) : (s.modWaves p f).subs = s.subs := rfl
@[simp] theorem State.modWaves_out (s : State) (p : Wave → Bool) (f : Wave → Wave) : (s.modWaves p f).out = s.out := rfl
@[simp] theorem State.modWaves_wakes (s : State) (p : Wave → Bool) (f : Wave → Wave) : (s.modWaves p f).wakes = s.wakes := rfl
@[simp] theorem State.modWaves_fresh (s : State) (p : Wave → Bool) (f : Wave → Wave) : (s.modWaves p f).fresh = s.fresh := rfl
@[simp] theorem State.modWaves_agenda (s : State) (p : Wave → Bool) (f : Wave → Wave) : (s.modWaves p f).agenda = s.agenda := rfl

@[simp] theorem State.setBerth_me (s : State) (b : Berth) : (s.setBerth b).me = s.me := rfl
@[simp] theorem State.setBerth_others (s : State) (b : Berth) : (s.setBerth b).others = s.others := rfl
@[simp] theorem State.setBerth_hm (s : State) (b : Berth) : (s.setBerth b).hm = s.hm := rfl
@[simp] theorem State.setBerth_parts (s : State) (b : Berth) : (s.setBerth b).parts = s.parts := rfl
@[simp] theorem State.setBerth_time (s : State) (b : Berth) : (s.setBerth b).time = s.time := rfl
@[simp] theorem State.setBerth_clocked (s : State) (b : Berth) : (s.setBerth b).clocked = s.clocked := rfl
@[simp] theorem State.setBerth_store (s : State) (b : Berth) : (s.setBerth b).store = s.store := rfl
@[simp] theorem State.setBerth_caches (s : State) (b : Berth) : (s.setBerth b).caches = s.caches := rfl
@[simp] theorem State.setBerth_cores (s : State) (b : Berth) : (s.setBerth b).cores = s.cores := rfl
@[simp] theorem State.setBerth_crews (s : State) (b : Berth) : (s.setBerth b).crews = s.crews := rfl
@[simp] theorem State.setBerth_berths (s : State) (b : Berth) : (s.setBerth b).berths = putWhere (·.n == b.n) b s.berths := rfl
@[simp] theorem State.setBerth_ctxs (s : State) (b : Berth) : (s.setBerth b).ctxs = s.ctxs := rfl
@[simp] theorem State.setBerth_pilots (s : State) (b : Berth) : (s.setBerth b).pilots = s.pilots := rfl
@[simp] theorem State.setBerth_pilotTurn (s : State) (b : Berth) : (s.setBerth b).pilotTurn = s.pilotTurn := rfl
@[simp] theorem State.setBerth_migrations (s : State) (b : Berth) : (s.setBerth b).migrations = s.migrations := rfl
@[simp] theorem State.setBerth_subs (s : State) (b : Berth) : (s.setBerth b).subs = s.subs := rfl
@[simp] theorem State.setBerth_out (s : State) (b : Berth) : (s.setBerth b).out = s.out := rfl
@[simp] theorem State.setBerth_wakes (s : State) (b : Berth) : (s.setBerth b).wakes = s.wakes := rfl
@[simp] theorem State.setBerth_fresh (s : State) (b : Berth) : (s.setBerth b).fresh = s.fresh := rfl
@[simp] theorem State.setBerth_agenda (s : State) (b : Berth) : (s.setBerth b).agenda = s.agenda := rfl

@[simp] theorem State.setCore_me (s : State) (c : FarCore) : (s.setCore c).me = s.me := rfl
@[simp] theorem State.setCore_others (s : State) (c : FarCore) : (s.setCore c).others = s.others := rfl
@[simp] theorem State.setCore_hm (s : State) (c : FarCore) : (s.setCore c).hm = s.hm := rfl
@[simp] theorem State.setCore_parts (s : State) (c : FarCore) : (s.setCore c).parts = s.parts := rfl
@[simp] theorem State.setCore_time (s : State) (c : FarCore) : (s.setCore c).time = s.time := rfl
@[simp] theorem State.setCore_clocked (s : State) (c : FarCore) : (s.setCore c).clocked = s.clocked := rfl
@[simp] theorem State.setCore_store (s : State) (c : FarCore) : (s.setCore c).store = s.store := rfl
@[simp] theorem State.setCore_caches (s : State) (c : FarCore) : (s.setCore c).caches = s.caches := rfl
@[simp] theorem State.setCore_cores (s : State) (c : FarCore) : (s.setCore c).cores = putWhere (·.core == c.core) c s.cores := rfl
@[simp] theorem State.setCore_crews (s : State) (c : FarCore) : (s.setCore c).crews = s.crews := rfl
@[simp] theorem State.setCore_berths (s : State) (c : FarCore) : (s.setCore c).berths = s.berths := rfl
@[simp] theorem State.setCore_ctxs (s : State) (c : FarCore) : (s.setCore c).ctxs = s.ctxs := rfl
@[simp] theorem State.setCore_pilots (s : State) (c : FarCore) : (s.setCore c).pilots = s.pilots := rfl
@[simp] theorem State.setCore_pilotTurn (s : State) (c : FarCore) : (s.setCore c).pilotTurn = s.pilotTurn := rfl
@[simp] theorem State.setCore_migrations (s : State) (c : FarCore) : (s.setCore c).migrations = s.migrations := rfl
@[simp] theorem State.setCore_subs (s : State) (c : FarCore) : (s.setCore c).subs = s.subs := rfl
@[simp] theorem State.setCore_out (s : State) (c : FarCore) : (s.setCore c).out = s.out := rfl
@[simp] theorem State.setCore_wakes (s : State) (c : FarCore) : (s.setCore c).wakes = s.wakes := rfl
@[simp] theorem State.setCore_fresh (s : State) (c : FarCore) : (s.setCore c).fresh = s.fresh := rfl
@[simp] theorem State.setCore_agenda (s : State) (c : FarCore) : (s.setCore c).agenda = s.agenda := rfl

@[simp] theorem State.modCrew_me (s : State) (n : Nat) (f : Crew → Crew) : (s.modCrew n f).me = s.me := rfl
@[simp] theorem State.modCrew_others (s : State) (n : Nat) (f : Crew → Crew) : (s.modCrew n f).others = s.others := rfl
@[simp] theorem State.modCrew_hm (s : State) (n : Nat) (f : Crew → Crew) : (s.modCrew n f).hm = s.hm := rfl
@[simp] theorem State.modCrew_parts (s : State) (n : Nat) (f : Crew → Crew) : (s.modCrew n f).parts = s.parts := rfl
@[simp] theorem State.modCrew_time (s : State) (n : Nat) (f : Crew → Crew) : (s.modCrew n f).time = s.time := rfl
@[simp] theorem State.modCrew_clocked (s : State) (n : Nat) (f : Crew → Crew) : (s.modCrew n f).clocked = s.clocked := rfl
@[simp] theorem State.modCrew_store (s : State) (n : Nat) (f : Crew → Crew) : (s.modCrew n f).store = s.store := rfl
@[simp] theorem State.modCrew_caches (s : State) (n : Nat) (f : Crew → Crew) : (s.modCrew n f).caches = s.caches := rfl
@[simp] theorem State.modCrew_cores (s : State) (n : Nat) (f : Crew → Crew) : (s.modCrew n f).cores = s.cores := rfl
@[simp] theorem State.modCrew_crews (s : State) (n : Nat) (f : Crew → Crew) : (s.modCrew n f).crews = mapWhere (·.id == n) f s.crews := rfl
@[simp] theorem State.modCrew_berths (s : State) (n : Nat) (f : Crew → Crew) : (s.modCrew n f).berths = s.berths := rfl
@[simp] theorem State.modCrew_ctxs (s : State) (n : Nat) (f : Crew → Crew) : (s.modCrew n f).ctxs = s.ctxs := rfl
@[simp] theorem State.modCrew_pilots (s : State) (n : Nat) (f : Crew → Crew) : (s.modCrew n f).pilots = s.pilots := rfl
@[simp] theorem State.modCrew_pilotTurn (s : State) (n : Nat) (f : Crew → Crew) : (s.modCrew n f).pilotTurn = s.pilotTurn := rfl
@[simp] theorem State.modCrew_migrations (s : State) (n : Nat) (f : Crew → Crew) : (s.modCrew n f).migrations = s.migrations := rfl
@[simp] theorem State.modCrew_subs (s : State) (n : Nat) (f : Crew → Crew) : (s.modCrew n f).subs = s.subs := rfl
@[simp] theorem State.modCrew_out (s : State) (n : Nat) (f : Crew → Crew) : (s.modCrew n f).out = s.out := rfl
@[simp] theorem State.modCrew_wakes (s : State) (n : Nat) (f : Crew → Crew) : (s.modCrew n f).wakes = s.wakes := rfl
@[simp] theorem State.modCrew_fresh (s : State) (n : Nat) (f : Crew → Crew) : (s.modCrew n f).fresh = s.fresh := rfl
@[simp] theorem State.modCrew_agenda (s : State) (n : Nat) (f : Crew → Crew) : (s.modCrew n f).agenda = s.agenda := rfl

@[simp] theorem State.modCtx_me (s : State) (n : Nat) (f : Context → Context) : (s.modCtx n f).me = s.me := rfl
@[simp] theorem State.modCtx_others (s : State) (n : Nat) (f : Context → Context) : (s.modCtx n f).others = s.others := rfl
@[simp] theorem State.modCtx_hm (s : State) (n : Nat) (f : Context → Context) : (s.modCtx n f).hm = s.hm := rfl
@[simp] theorem State.modCtx_parts (s : State) (n : Nat) (f : Context → Context) : (s.modCtx n f).parts = s.parts := rfl
@[simp] theorem State.modCtx_time (s : State) (n : Nat) (f : Context → Context) : (s.modCtx n f).time = s.time := rfl
@[simp] theorem State.modCtx_clocked (s : State) (n : Nat) (f : Context → Context) : (s.modCtx n f).clocked = s.clocked := rfl
@[simp] theorem State.modCtx_store (s : State) (n : Nat) (f : Context → Context) : (s.modCtx n f).store = s.store := rfl
@[simp] theorem State.modCtx_caches (s : State) (n : Nat) (f : Context → Context) : (s.modCtx n f).caches = s.caches := rfl
@[simp] theorem State.modCtx_cores (s : State) (n : Nat) (f : Context → Context) : (s.modCtx n f).cores = s.cores := rfl
@[simp] theorem State.modCtx_crews (s : State) (n : Nat) (f : Context → Context) : (s.modCtx n f).crews = s.crews := rfl
@[simp] theorem State.modCtx_berths (s : State) (n : Nat) (f : Context → Context) : (s.modCtx n f).berths = s.berths := rfl
@[simp] theorem State.modCtx_ctxs (s : State) (n : Nat) (f : Context → Context) : (s.modCtx n f).ctxs = mapWhere (·.slot == n) f s.ctxs := rfl
@[simp] theorem State.modCtx_pilots (s : State) (n : Nat) (f : Context → Context) : (s.modCtx n f).pilots = s.pilots := rfl
@[simp] theorem State.modCtx_pilotTurn (s : State) (n : Nat) (f : Context → Context) : (s.modCtx n f).pilotTurn = s.pilotTurn := rfl
@[simp] theorem State.modCtx_migrations (s : State) (n : Nat) (f : Context → Context) : (s.modCtx n f).migrations = s.migrations := rfl
@[simp] theorem State.modCtx_subs (s : State) (n : Nat) (f : Context → Context) : (s.modCtx n f).subs = s.subs := rfl
@[simp] theorem State.modCtx_out (s : State) (n : Nat) (f : Context → Context) : (s.modCtx n f).out = s.out := rfl
@[simp] theorem State.modCtx_wakes (s : State) (n : Nat) (f : Context → Context) : (s.modCtx n f).wakes = s.wakes := rfl
@[simp] theorem State.modCtx_fresh (s : State) (n : Nat) (f : Context → Context) : (s.modCtx n f).fresh = s.fresh := rfl
@[simp] theorem State.modCtx_agenda (s : State) (n : Nat) (f : Context → Context) : (s.modCtx n f).agenda = s.agenda := rfl

@[simp] theorem State.modLaunch_me (s : State) (n l : Nat) (f : Launch → Launch) : (s.modLaunch n l f).me = s.me := rfl
@[simp] theorem State.modLaunch_others (s : State) (n l : Nat) (f : Launch → Launch) : (s.modLaunch n l f).others = s.others := rfl
@[simp] theorem State.modLaunch_hm (s : State) (n l : Nat) (f : Launch → Launch) : (s.modLaunch n l f).hm = s.hm := rfl
@[simp] theorem State.modLaunch_parts (s : State) (n l : Nat) (f : Launch → Launch) : (s.modLaunch n l f).parts = s.parts := rfl
@[simp] theorem State.modLaunch_time (s : State) (n l : Nat) (f : Launch → Launch) : (s.modLaunch n l f).time = s.time := rfl
@[simp] theorem State.modLaunch_clocked (s : State) (n l : Nat) (f : Launch → Launch) : (s.modLaunch n l f).clocked = s.clocked := rfl
@[simp] theorem State.modLaunch_store (s : State) (n l : Nat) (f : Launch → Launch) : (s.modLaunch n l f).store = s.store := rfl
@[simp] theorem State.modLaunch_caches (s : State) (n l : Nat) (f : Launch → Launch) : (s.modLaunch n l f).caches = s.caches := rfl
@[simp] theorem State.modLaunch_cores (s : State) (n l : Nat) (f : Launch → Launch) : (s.modLaunch n l f).cores = s.cores := rfl
@[simp] theorem State.modLaunch_crews (s : State) (n l : Nat) (f : Launch → Launch) : (s.modLaunch n l f).crews = s.crews := rfl
@[simp] theorem State.modLaunch_berths (s : State) (n l : Nat) (f : Launch → Launch) : (s.modLaunch n l f).berths = s.berths := rfl
@[simp] theorem State.modLaunch_pilots (s : State) (n l : Nat) (f : Launch → Launch) : (s.modLaunch n l f).pilots = s.pilots := rfl
@[simp] theorem State.modLaunch_pilotTurn (s : State) (n l : Nat) (f : Launch → Launch) : (s.modLaunch n l f).pilotTurn = s.pilotTurn := rfl
@[simp] theorem State.modLaunch_migrations (s : State) (n l : Nat) (f : Launch → Launch) : (s.modLaunch n l f).migrations = s.migrations := rfl
@[simp] theorem State.modLaunch_subs (s : State) (n l : Nat) (f : Launch → Launch) : (s.modLaunch n l f).subs = s.subs := rfl
@[simp] theorem State.modLaunch_out (s : State) (n l : Nat) (f : Launch → Launch) : (s.modLaunch n l f).out = s.out := rfl
@[simp] theorem State.modLaunch_wakes (s : State) (n l : Nat) (f : Launch → Launch) : (s.modLaunch n l f).wakes = s.wakes := rfl
@[simp] theorem State.modLaunch_fresh (s : State) (n l : Nat) (f : Launch → Launch) : (s.modLaunch n l f).fresh = s.fresh := rfl
@[simp] theorem State.modLaunch_agenda (s : State) (n l : Nat) (f : Launch → Launch) : (s.modLaunch n l f).agenda = s.agenda := rfl

@[simp] theorem State.modPart_me (s : State) (n : Nat) (f : Partition → Partition) : (s.modPart n f).me = s.me := rfl
@[simp] theorem State.modPart_others (s : State) (n : Nat) (f : Partition → Partition) : (s.modPart n f).others = s.others := rfl
@[simp] theorem State.modPart_hm (s : State) (n : Nat) (f : Partition → Partition) : (s.modPart n f).hm = s.hm := rfl
@[simp] theorem State.modPart_parts (s : State) (n : Nat) (f : Partition → Partition) : (s.modPart n f).parts = s.parts.take n ++ f (s.part n) :: s.parts.drop (n + 1) := rfl
@[simp] theorem State.modPart_time (s : State) (n : Nat) (f : Partition → Partition) : (s.modPart n f).time = s.time := rfl
@[simp] theorem State.modPart_clocked (s : State) (n : Nat) (f : Partition → Partition) : (s.modPart n f).clocked = s.clocked := rfl
@[simp] theorem State.modPart_store (s : State) (n : Nat) (f : Partition → Partition) : (s.modPart n f).store = s.store := rfl
@[simp] theorem State.modPart_caches (s : State) (n : Nat) (f : Partition → Partition) : (s.modPart n f).caches = s.caches := rfl
@[simp] theorem State.modPart_cores (s : State) (n : Nat) (f : Partition → Partition) : (s.modPart n f).cores = s.cores := rfl
@[simp] theorem State.modPart_crews (s : State) (n : Nat) (f : Partition → Partition) : (s.modPart n f).crews = s.crews := rfl
@[simp] theorem State.modPart_berths (s : State) (n : Nat) (f : Partition → Partition) : (s.modPart n f).berths = s.berths := rfl
@[simp] theorem State.modPart_ctxs (s : State) (n : Nat) (f : Partition → Partition) : (s.modPart n f).ctxs = s.ctxs := rfl
@[simp] theorem State.modPart_pilots (s : State) (n : Nat) (f : Partition → Partition) : (s.modPart n f).pilots = s.pilots := rfl
@[simp] theorem State.modPart_pilotTurn (s : State) (n : Nat) (f : Partition → Partition) : (s.modPart n f).pilotTurn = s.pilotTurn := rfl
@[simp] theorem State.modPart_migrations (s : State) (n : Nat) (f : Partition → Partition) : (s.modPart n f).migrations = s.migrations := rfl
@[simp] theorem State.modPart_subs (s : State) (n : Nat) (f : Partition → Partition) : (s.modPart n f).subs = s.subs := rfl
@[simp] theorem State.modPart_out (s : State) (n : Nat) (f : Partition → Partition) : (s.modPart n f).out = s.out := rfl
@[simp] theorem State.modPart_wakes (s : State) (n : Nat) (f : Partition → Partition) : (s.modPart n f).wakes = s.wakes := rfl
@[simp] theorem State.modPart_fresh (s : State) (n : Nat) (f : Partition → Partition) : (s.modPart n f).fresh = s.fresh := rfl
@[simp] theorem State.modPart_agenda (s : State) (n : Nat) (f : Partition → Partition) : (s.modPart n f).agenda = s.agenda := rfl

@[simp] theorem State.modHm_me (s : State) (n : Nat) (f : HmCore → HmCore) : (s.modHm n f).me = s.me := rfl
@[simp] theorem State.modHm_others (s : State) (n : Nat) (f : HmCore → HmCore) : (s.modHm n f).others = s.others := rfl
@[simp] theorem State.modHm_hm (s : State) (n : Nat) (f : HmCore → HmCore) : (s.modHm n f).hm = s.hm.take n ++ f (s.hmCore n) :: s.hm.drop (n + 1) := rfl
@[simp] theorem State.modHm_parts (s : State) (n : Nat) (f : HmCore → HmCore) : (s.modHm n f).parts = s.parts := rfl
@[simp] theorem State.modHm_time (s : State) (n : Nat) (f : HmCore → HmCore) : (s.modHm n f).time = s.time := rfl
@[simp] theorem State.modHm_clocked (s : State) (n : Nat) (f : HmCore → HmCore) : (s.modHm n f).clocked = s.clocked := rfl
@[simp] theorem State.modHm_store (s : State) (n : Nat) (f : HmCore → HmCore) : (s.modHm n f).store = s.store := rfl
@[simp] theorem State.modHm_caches (s : State) (n : Nat) (f : HmCore → HmCore) : (s.modHm n f).caches = s.caches := rfl
@[simp] theorem State.modHm_cores (s : State) (n : Nat) (f : HmCore → HmCore) : (s.modHm n f).cores = s.cores := rfl
@[simp] theorem State.modHm_crews (s : State) (n : Nat) (f : HmCore → HmCore) : (s.modHm n f).crews = s.crews := rfl
@[simp] theorem State.modHm_berths (s : State) (n : Nat) (f : HmCore → HmCore) : (s.modHm n f).berths = s.berths := rfl
@[simp] theorem State.modHm_ctxs (s : State) (n : Nat) (f : HmCore → HmCore) : (s.modHm n f).ctxs = s.ctxs := rfl
@[simp] theorem State.modHm_pilots (s : State) (n : Nat) (f : HmCore → HmCore) : (s.modHm n f).pilots = s.pilots := rfl
@[simp] theorem State.modHm_pilotTurn (s : State) (n : Nat) (f : HmCore → HmCore) : (s.modHm n f).pilotTurn = s.pilotTurn := rfl
@[simp] theorem State.modHm_migrations (s : State) (n : Nat) (f : HmCore → HmCore) : (s.modHm n f).migrations = s.migrations := rfl
@[simp] theorem State.modHm_subs (s : State) (n : Nat) (f : HmCore → HmCore) : (s.modHm n f).subs = s.subs := rfl
@[simp] theorem State.modHm_out (s : State) (n : Nat) (f : HmCore → HmCore) : (s.modHm n f).out = s.out := rfl
@[simp] theorem State.modHm_wakes (s : State) (n : Nat) (f : HmCore → HmCore) : (s.modHm n f).wakes = s.wakes := rfl
@[simp] theorem State.modHm_fresh (s : State) (n : Nat) (f : HmCore → HmCore) : (s.modHm n f).fresh = s.fresh := rfl
@[simp] theorem State.modHm_agenda (s : State) (n : Nat) (f : HmCore → HmCore) : (s.modHm n f).agenda = s.agenda := rfl

@[simp] theorem State.modOut_me (s : State) (f : Outside → Outside) : (s.modOut f).me = s.me := rfl
@[simp] theorem State.modOut_others (s : State) (f : Outside → Outside) : (s.modOut f).others = s.others := rfl
@[simp] theorem State.modOut_hm (s : State) (f : Outside → Outside) : (s.modOut f).hm = s.hm := rfl
@[simp] theorem State.modOut_parts (s : State) (f : Outside → Outside) : (s.modOut f).parts = s.parts := rfl
@[simp] theorem State.modOut_time (s : State) (f : Outside → Outside) : (s.modOut f).time = s.time := rfl
@[simp] theorem State.modOut_clocked (s : State) (f : Outside → Outside) : (s.modOut f).clocked = s.clocked := rfl
@[simp] theorem State.modOut_store (s : State) (f : Outside → Outside) : (s.modOut f).store = s.store := rfl
@[simp] theorem State.modOut_caches (s : State) (f : Outside → Outside) : (s.modOut f).caches = s.caches := rfl
@[simp] theorem State.modOut_cores (s : State) (f : Outside → Outside) : (s.modOut f).cores = s.cores := rfl
@[simp] theorem State.modOut_crews (s : State) (f : Outside → Outside) : (s.modOut f).crews = s.crews := rfl
@[simp] theorem State.modOut_berths (s : State) (f : Outside → Outside) : (s.modOut f).berths = s.berths := rfl
@[simp] theorem State.modOut_ctxs (s : State) (f : Outside → Outside) : (s.modOut f).ctxs = s.ctxs := rfl
@[simp] theorem State.modOut_pilots (s : State) (f : Outside → Outside) : (s.modOut f).pilots = s.pilots := rfl
@[simp] theorem State.modOut_pilotTurn (s : State) (f : Outside → Outside) : (s.modOut f).pilotTurn = s.pilotTurn := rfl
@[simp] theorem State.modOut_migrations (s : State) (f : Outside → Outside) : (s.modOut f).migrations = s.migrations := rfl
@[simp] theorem State.modOut_subs (s : State) (f : Outside → Outside) : (s.modOut f).subs = s.subs := rfl
@[simp] theorem State.modOut_out (s : State) (f : Outside → Outside) : (s.modOut f).out = f s.out := rfl
@[simp] theorem State.modOut_wakes (s : State) (f : Outside → Outside) : (s.modOut f).wakes = s.wakes := rfl
@[simp] theorem State.modOut_fresh (s : State) (f : Outside → Outside) : (s.modOut f).fresh = s.fresh := rfl
@[simp] theorem State.modOut_agenda (s : State) (f : Outside → Outside) : (s.modOut f).agenda = s.agenda := rfl

@[simp] theorem State.record_me (s : State) (a n : Nat) : (s.record a n).me = s.me := rfl
@[simp] theorem State.record_others (s : State) (a n : Nat) : (s.record a n).others = s.others := rfl
@[simp] theorem State.record_hm (s : State) (a n : Nat) : (s.record a n).hm = s.hm := rfl
@[simp] theorem State.record_parts (s : State) (a n : Nat) : (s.record a n).parts = s.parts := rfl
@[simp] theorem State.record_time (s : State) (a n : Nat) : (s.record a n).time = s.time := rfl
@[simp] theorem State.record_clocked (s : State) (a n : Nat) : (s.record a n).clocked = s.clocked := rfl
@[simp] theorem State.record_store (s : State) (a n : Nat) : (s.record a n).store = s.store := rfl
@[simp] theorem State.record_caches (s : State) (a n : Nat) : (s.record a n).caches = s.caches := rfl
@[simp] theorem State.record_cores (s : State) (a n : Nat) : (s.record a n).cores = s.cores := rfl
@[simp] theorem State.record_crews (s : State) (a n : Nat) : (s.record a n).crews = s.crews := rfl
@[simp] theorem State.record_berths (s : State) (a n : Nat) : (s.record a n).berths = s.berths := rfl
@[simp] theorem State.record_ctxs (s : State) (a n : Nat) : (s.record a n).ctxs = s.ctxs := rfl
@[simp] theorem State.record_pilots (s : State) (a n : Nat) : (s.record a n).pilots = s.pilots := rfl
@[simp] theorem State.record_pilotTurn (s : State) (a n : Nat) : (s.record a n).pilotTurn = s.pilotTurn := rfl
@[simp] theorem State.record_migrations (s : State) (a n : Nat) : (s.record a n).migrations = s.migrations := rfl
@[simp] theorem State.record_subs (s : State) (a n : Nat) : (s.record a n).subs = s.subs := rfl
@[simp] theorem State.record_out (s : State) (a n : Nat) : (s.record a n).out = { s.out with errors := s.out.errors ++ [⟨a, n⟩] } := rfl
@[simp] theorem State.record_wakes (s : State) (a n : Nat) : (s.record a n).wakes = s.wakes := rfl
@[simp] theorem State.record_fresh (s : State) (a n : Nat) : (s.record a n).fresh = s.fresh := rfl
@[simp] theorem State.record_agenda (s : State) (a n : Nat) : (s.record a n).agenda = s.agenda := rfl

@[simp] theorem State.finish_me (s : State) (f : Wave → Wave) : (s.finish f).me = (f (s.me.stamp s.time)).fallThrough := rfl
@[simp] theorem State.finish_others (s : State) (f : Wave → Wave) : (s.finish f).others = s.others := rfl
@[simp] theorem State.finish_hm (s : State) (f : Wave → Wave) : (s.finish f).hm = s.hm := rfl
@[simp] theorem State.finish_parts (s : State) (f : Wave → Wave) : (s.finish f).parts = s.parts := rfl
@[simp] theorem State.finish_time (s : State) (f : Wave → Wave) : (s.finish f).time = s.time := rfl
@[simp] theorem State.finish_clocked (s : State) (f : Wave → Wave) : (s.finish f).clocked = s.clocked := rfl
@[simp] theorem State.finish_store (s : State) (f : Wave → Wave) : (s.finish f).store = s.store := rfl
@[simp] theorem State.finish_caches (s : State) (f : Wave → Wave) : (s.finish f).caches = s.caches := rfl
@[simp] theorem State.finish_cores (s : State) (f : Wave → Wave) : (s.finish f).cores = s.cores := rfl
@[simp] theorem State.finish_crews (s : State) (f : Wave → Wave) : (s.finish f).crews = s.crews := rfl
@[simp] theorem State.finish_berths (s : State) (f : Wave → Wave) : (s.finish f).berths = s.berths := rfl
@[simp] theorem State.finish_ctxs (s : State) (f : Wave → Wave) : (s.finish f).ctxs = s.ctxs := rfl
@[simp] theorem State.finish_pilots (s : State) (f : Wave → Wave) : (s.finish f).pilots = s.pilots := rfl
@[simp] theorem State.finish_pilotTurn (s : State) (f : Wave → Wave) : (s.finish f).pilotTurn = s.pilotTurn := rfl
@[simp] theorem State.finish_migrations (s : State) (f : Wave → Wave) : (s.finish f).migrations = s.migrations := rfl
@[simp] theorem State.finish_subs (s : State) (f : Wave → Wave) : (s.finish f).subs = s.subs := rfl
@[simp] theorem State.finish_out (s : State) (f : Wave → Wave) : (s.finish f).out = s.out := rfl
@[simp] theorem State.finish_wakes (s : State) (f : Wave → Wave) : (s.finish f).wakes = s.wakes := rfl
@[simp] theorem State.finish_fresh (s : State) (f : Wave → Wave) : (s.finish f).fresh = s.fresh := rfl
@[simp] theorem State.finish_agenda (s : State) (f : Wave → Wave) : (s.finish f).agenda = s.agenda := rfl

@[simp] theorem State.abortTx_me (s : State) (st code cause : Nat) : (s.abortTx st code cause).me = (s.me.stamp s.time).enterHandler st code cause := rfl
@[simp] theorem State.abortTx_others (s : State) (st code cause : Nat) : (s.abortTx st code cause).others = s.others := rfl
@[simp] theorem State.abortTx_hm (s : State) (st code cause : Nat) : (s.abortTx st code cause).hm = s.hm := rfl
@[simp] theorem State.abortTx_parts (s : State) (st code cause : Nat) : (s.abortTx st code cause).parts = s.parts := rfl
@[simp] theorem State.abortTx_time (s : State) (st code cause : Nat) : (s.abortTx st code cause).time = s.time := rfl
@[simp] theorem State.abortTx_clocked (s : State) (st code cause : Nat) : (s.abortTx st code cause).clocked = s.clocked := rfl
@[simp] theorem State.abortTx_store (s : State) (st code cause : Nat) : (s.abortTx st code cause).store = s.store := rfl
@[simp] theorem State.abortTx_caches (s : State) (st code cause : Nat) : (s.abortTx st code cause).caches = s.caches := rfl
@[simp] theorem State.abortTx_cores (s : State) (st code cause : Nat) : (s.abortTx st code cause).cores = s.cores := rfl
@[simp] theorem State.abortTx_crews (s : State) (st code cause : Nat) : (s.abortTx st code cause).crews = s.crews := rfl
@[simp] theorem State.abortTx_berths (s : State) (st code cause : Nat) : (s.abortTx st code cause).berths = s.berths := rfl
@[simp] theorem State.abortTx_ctxs (s : State) (st code cause : Nat) : (s.abortTx st code cause).ctxs = s.ctxs := rfl
@[simp] theorem State.abortTx_pilots (s : State) (st code cause : Nat) : (s.abortTx st code cause).pilots = s.pilots := rfl
@[simp] theorem State.abortTx_pilotTurn (s : State) (st code cause : Nat) : (s.abortTx st code cause).pilotTurn = s.pilotTurn := rfl
@[simp] theorem State.abortTx_migrations (s : State) (st code cause : Nat) : (s.abortTx st code cause).migrations = s.migrations := rfl
@[simp] theorem State.abortTx_subs (s : State) (st code cause : Nat) : (s.abortTx st code cause).subs = s.subs := rfl
@[simp] theorem State.abortTx_out (s : State) (st code cause : Nat) : (s.abortTx st code cause).out = s.out := rfl
@[simp] theorem State.abortTx_wakes (s : State) (st code cause : Nat) : (s.abortTx st code cause).wakes = s.wakes := rfl
@[simp] theorem State.abortTx_fresh (s : State) (st code cause : Nat) : (s.abortTx st code cause).fresh = s.fresh := rfl
@[simp] theorem State.abortTx_agenda (s : State) (st code cause : Nat) : (s.abortTx st code cause).agenda = s.agenda := rfl

@[simp] theorem State.modPilot_me (s : State) (n : Nat) (f : PilotCore → PilotCore) : (s.modPilot n f).me = s.me := rfl
@[simp] theorem State.modPilot_others (s : State) (n : Nat) (f : PilotCore → PilotCore) : (s.modPilot n f).others = s.others := rfl
@[simp] theorem State.modPilot_hm (s : State) (n : Nat) (f : PilotCore → PilotCore) : (s.modPilot n f).hm = s.hm := rfl
@[simp] theorem State.modPilot_parts (s : State) (n : Nat) (f : PilotCore → PilotCore) : (s.modPilot n f).parts = s.parts := rfl
@[simp] theorem State.modPilot_time (s : State) (n : Nat) (f : PilotCore → PilotCore) : (s.modPilot n f).time = s.time := rfl
@[simp] theorem State.modPilot_clocked (s : State) (n : Nat) (f : PilotCore → PilotCore) : (s.modPilot n f).clocked = s.clocked := rfl
@[simp] theorem State.modPilot_store (s : State) (n : Nat) (f : PilotCore → PilotCore) : (s.modPilot n f).store = s.store := rfl
@[simp] theorem State.modPilot_caches (s : State) (n : Nat) (f : PilotCore → PilotCore) : (s.modPilot n f).caches = s.caches := rfl
@[simp] theorem State.modPilot_cores (s : State) (n : Nat) (f : PilotCore → PilotCore) : (s.modPilot n f).cores = s.cores := rfl
@[simp] theorem State.modPilot_crews (s : State) (n : Nat) (f : PilotCore → PilotCore) : (s.modPilot n f).crews = s.crews := rfl
@[simp] theorem State.modPilot_berths (s : State) (n : Nat) (f : PilotCore → PilotCore) : (s.modPilot n f).berths = s.berths := rfl
@[simp] theorem State.modPilot_ctxs (s : State) (n : Nat) (f : PilotCore → PilotCore) : (s.modPilot n f).ctxs = s.ctxs := rfl
@[simp] theorem State.modPilot_pilots (s : State) (n : Nat) (f : PilotCore → PilotCore) : (s.modPilot n f).pilots = mapWhere (·.core == n) f s.pilots := rfl
@[simp] theorem State.modPilot_pilotTurn (s : State) (n : Nat) (f : PilotCore → PilotCore) : (s.modPilot n f).pilotTurn = s.pilotTurn := rfl
@[simp] theorem State.modPilot_migrations (s : State) (n : Nat) (f : PilotCore → PilotCore) : (s.modPilot n f).migrations = s.migrations := rfl
@[simp] theorem State.modPilot_subs (s : State) (n : Nat) (f : PilotCore → PilotCore) : (s.modPilot n f).subs = s.subs := rfl
@[simp] theorem State.modPilot_out (s : State) (n : Nat) (f : PilotCore → PilotCore) : (s.modPilot n f).out = s.out := rfl
@[simp] theorem State.modPilot_wakes (s : State) (n : Nat) (f : PilotCore → PilotCore) : (s.modPilot n f).wakes = s.wakes := rfl
@[simp] theorem State.modPilot_fresh (s : State) (n : Nat) (f : PilotCore → PilotCore) : (s.modPilot n f).fresh = s.fresh := rfl
@[simp] theorem State.modPilot_agenda (s : State) (n : Nat) (f : PilotCore → PilotCore) : (s.modPilot n f).agenda = s.agenda := rfl

@[simp] theorem State.modRec_me (s : State) (b id : Nat) (f : TaskRec → TaskRec) : (s.modRec b id f).me = s.me := rfl
@[simp] theorem State.modRec_others (s : State) (b id : Nat) (f : TaskRec → TaskRec) : (s.modRec b id f).others = s.others := rfl
@[simp] theorem State.modRec_hm (s : State) (b id : Nat) (f : TaskRec → TaskRec) : (s.modRec b id f).hm = s.hm := rfl
@[simp] theorem State.modRec_parts (s : State) (b id : Nat) (f : TaskRec → TaskRec) : (s.modRec b id f).parts = s.parts := rfl
@[simp] theorem State.modRec_time (s : State) (b id : Nat) (f : TaskRec → TaskRec) : (s.modRec b id f).time = s.time := rfl
@[simp] theorem State.modRec_clocked (s : State) (b id : Nat) (f : TaskRec → TaskRec) : (s.modRec b id f).clocked = s.clocked := rfl
@[simp] theorem State.modRec_store (s : State) (b id : Nat) (f : TaskRec → TaskRec) : (s.modRec b id f).store = s.store := rfl
@[simp] theorem State.modRec_caches (s : State) (b id : Nat) (f : TaskRec → TaskRec) : (s.modRec b id f).caches = s.caches := rfl
@[simp] theorem State.modRec_cores (s : State) (b id : Nat) (f : TaskRec → TaskRec) : (s.modRec b id f).cores = s.cores := rfl
@[simp] theorem State.modRec_crews (s : State) (b id : Nat) (f : TaskRec → TaskRec) : (s.modRec b id f).crews = s.crews := rfl
@[simp] theorem State.modRec_ctxs (s : State) (b id : Nat) (f : TaskRec → TaskRec) : (s.modRec b id f).ctxs = s.ctxs := rfl
@[simp] theorem State.modRec_pilots (s : State) (b id : Nat) (f : TaskRec → TaskRec) : (s.modRec b id f).pilots = s.pilots := rfl
@[simp] theorem State.modRec_pilotTurn (s : State) (b id : Nat) (f : TaskRec → TaskRec) : (s.modRec b id f).pilotTurn = s.pilotTurn := rfl
@[simp] theorem State.modRec_migrations (s : State) (b id : Nat) (f : TaskRec → TaskRec) : (s.modRec b id f).migrations = s.migrations := rfl
@[simp] theorem State.modRec_subs (s : State) (b id : Nat) (f : TaskRec → TaskRec) : (s.modRec b id f).subs = s.subs := rfl
@[simp] theorem State.modRec_out (s : State) (b id : Nat) (f : TaskRec → TaskRec) : (s.modRec b id f).out = s.out := rfl
@[simp] theorem State.modRec_wakes (s : State) (b id : Nat) (f : TaskRec → TaskRec) : (s.modRec b id f).wakes = s.wakes := rfl
@[simp] theorem State.modRec_fresh (s : State) (b id : Nat) (f : TaskRec → TaskRec) : (s.modRec b id f).fresh = s.fresh := rfl
@[simp] theorem State.modRec_agenda (s : State) (b id : Nat) (f : TaskRec → TaskRec) : (s.modRec b id f).agenda = s.agenda := rfl

@[simp] theorem State.dropReplicas_me (s : State) (n : Nat) : (s.dropReplicas n).me = s.me := rfl
@[simp] theorem State.dropReplicas_others (s : State) (n : Nat) : (s.dropReplicas n).others = s.others := rfl
@[simp] theorem State.dropReplicas_hm (s : State) (n : Nat) : (s.dropReplicas n).hm = s.hm := rfl
@[simp] theorem State.dropReplicas_parts (s : State) (n : Nat) : (s.dropReplicas n).parts = s.parts := rfl
@[simp] theorem State.dropReplicas_time (s : State) (n : Nat) : (s.dropReplicas n).time = s.time := rfl
@[simp] theorem State.dropReplicas_clocked (s : State) (n : Nat) : (s.dropReplicas n).clocked = s.clocked := rfl
@[simp] theorem State.dropReplicas_store (s : State) (n : Nat) : (s.dropReplicas n).store = s.store := rfl
@[simp] theorem State.dropReplicas_caches (s : State) (n : Nat) : (s.dropReplicas n).caches = { s.caches with replicas := s.caches.replicas.filter fun r => r.line != n } := rfl
@[simp] theorem State.dropReplicas_cores (s : State) (n : Nat) : (s.dropReplicas n).cores = s.cores := rfl
@[simp] theorem State.dropReplicas_crews (s : State) (n : Nat) : (s.dropReplicas n).crews = s.crews := rfl
@[simp] theorem State.dropReplicas_berths (s : State) (n : Nat) : (s.dropReplicas n).berths = s.berths := rfl
@[simp] theorem State.dropReplicas_ctxs (s : State) (n : Nat) : (s.dropReplicas n).ctxs = s.ctxs := rfl
@[simp] theorem State.dropReplicas_pilots (s : State) (n : Nat) : (s.dropReplicas n).pilots = s.pilots := rfl
@[simp] theorem State.dropReplicas_pilotTurn (s : State) (n : Nat) : (s.dropReplicas n).pilotTurn = s.pilotTurn := rfl
@[simp] theorem State.dropReplicas_migrations (s : State) (n : Nat) : (s.dropReplicas n).migrations = s.migrations := rfl
@[simp] theorem State.dropReplicas_subs (s : State) (n : Nat) : (s.dropReplicas n).subs = s.subs := rfl
@[simp] theorem State.dropReplicas_out (s : State) (n : Nat) : (s.dropReplicas n).out = s.out := rfl
@[simp] theorem State.dropReplicas_wakes (s : State) (n : Nat) : (s.dropReplicas n).wakes = s.wakes := rfl
@[simp] theorem State.dropReplicas_fresh (s : State) (n : Nat) : (s.dropReplicas n).fresh = s.fresh := rfl
@[simp] theorem State.dropReplicas_agenda (s : State) (n : Nat) : (s.dropReplicas n).agenda = s.agenda := rfl

@[simp] theorem State.manage_me (s : State) (r : MgmtReport) : (s.manage r).me = s.me := rfl
@[simp] theorem State.manage_others (s : State) (r : MgmtReport) : (s.manage r).others = s.others := rfl
@[simp] theorem State.manage_hm (s : State) (r : MgmtReport) : (s.manage r).hm = s.hm := rfl
@[simp] theorem State.manage_parts (s : State) (r : MgmtReport) : (s.manage r).parts = s.parts := rfl
@[simp] theorem State.manage_time (s : State) (r : MgmtReport) : (s.manage r).time = s.time := rfl
@[simp] theorem State.manage_clocked (s : State) (r : MgmtReport) : (s.manage r).clocked = s.clocked := rfl
@[simp] theorem State.manage_store (s : State) (r : MgmtReport) : (s.manage r).store = s.store := rfl
@[simp] theorem State.manage_caches (s : State) (r : MgmtReport) : (s.manage r).caches = s.caches := rfl
@[simp] theorem State.manage_cores (s : State) (r : MgmtReport) : (s.manage r).cores = s.cores := rfl
@[simp] theorem State.manage_crews (s : State) (r : MgmtReport) : (s.manage r).crews = s.crews := rfl
@[simp] theorem State.manage_berths (s : State) (r : MgmtReport) : (s.manage r).berths = s.berths := rfl
@[simp] theorem State.manage_ctxs (s : State) (r : MgmtReport) : (s.manage r).ctxs = s.ctxs := rfl
@[simp] theorem State.manage_pilots (s : State) (r : MgmtReport) : (s.manage r).pilots = s.pilots := rfl
@[simp] theorem State.manage_pilotTurn (s : State) (r : MgmtReport) : (s.manage r).pilotTurn = s.pilotTurn := rfl
@[simp] theorem State.manage_migrations (s : State) (r : MgmtReport) : (s.manage r).migrations = s.migrations := rfl
@[simp] theorem State.manage_subs (s : State) (r : MgmtReport) : (s.manage r).subs = s.subs := rfl
@[simp] theorem State.manage_out (s : State) (r : MgmtReport) : (s.manage r).out = { s.out with reports := s.out.reports ++ [r] } := rfl
@[simp] theorem State.manage_wakes (s : State) (r : MgmtReport) : (s.manage r).wakes = s.wakes := rfl
@[simp] theorem State.manage_fresh (s : State) (r : MgmtReport) : (s.manage r).fresh = s.fresh := rfl
@[simp] theorem State.manage_agenda (s : State) (r : MgmtReport) : (s.manage r).agenda = s.agenda := rfl

@[simp] theorem State.fenceHost_me (s : State)  : (s.fenceHost).me = s.me := rfl
@[simp] theorem State.fenceHost_others (s : State)  : (s.fenceHost).others = s.others := rfl
@[simp] theorem State.fenceHost_hm (s : State)  : (s.fenceHost).hm = s.hm := rfl
@[simp] theorem State.fenceHost_parts (s : State)  : (s.fenceHost).parts = s.parts := rfl
@[simp] theorem State.fenceHost_time (s : State)  : (s.fenceHost).time = s.time := rfl
@[simp] theorem State.fenceHost_clocked (s : State)  : (s.fenceHost).clocked = s.clocked := rfl
@[simp] theorem State.fenceHost_store (s : State)  : (s.fenceHost).store = s.store := rfl
@[simp] theorem State.fenceHost_caches (s : State)  : (s.fenceHost).caches = s.caches := rfl
@[simp] theorem State.fenceHost_cores (s : State)  : (s.fenceHost).cores = s.cores := rfl
@[simp] theorem State.fenceHost_crews (s : State)  : (s.fenceHost).crews = s.crews := rfl
@[simp] theorem State.fenceHost_berths (s : State)  : (s.fenceHost).berths = s.berths := rfl
@[simp] theorem State.fenceHost_ctxs (s : State)  : (s.fenceHost).ctxs = s.ctxs := rfl
@[simp] theorem State.fenceHost_pilots (s : State)  : (s.fenceHost).pilots = s.pilots := rfl
@[simp] theorem State.fenceHost_pilotTurn (s : State)  : (s.fenceHost).pilotTurn = s.pilotTurn := rfl
@[simp] theorem State.fenceHost_migrations (s : State)  : (s.fenceHost).migrations = s.migrations := rfl
@[simp] theorem State.fenceHost_subs (s : State)  : (s.fenceHost).subs = s.subs := rfl
@[simp] theorem State.fenceHost_out (s : State)  : (s.fenceHost).out = { s.out with hostLines := [] } := rfl
@[simp] theorem State.fenceHost_wakes (s : State)  : (s.fenceHost).wakes = s.wakes := rfl
@[simp] theorem State.fenceHost_fresh (s : State)  : (s.fenceHost).fresh = s.fresh := rfl
@[simp] theorem State.fenceHost_agenda (s : State)  : (s.fenceHost).agenda = s.agenda := rfl

@[simp] theorem State.jump_me (s : State) (a : Word) (f : Wave → Wave) : (s.jump a f).me = (f (s.me.stamp s.time)).branchTo s.time a := rfl
@[simp] theorem State.jump_others (s : State) (a : Word) (f : Wave → Wave) : (s.jump a f).others = s.others := rfl
@[simp] theorem State.jump_hm (s : State) (a : Word) (f : Wave → Wave) : (s.jump a f).hm = s.hm := rfl
@[simp] theorem State.jump_parts (s : State) (a : Word) (f : Wave → Wave) : (s.jump a f).parts = s.parts := rfl
@[simp] theorem State.jump_time (s : State) (a : Word) (f : Wave → Wave) : (s.jump a f).time = s.time := rfl
@[simp] theorem State.jump_clocked (s : State) (a : Word) (f : Wave → Wave) : (s.jump a f).clocked = s.clocked := rfl
@[simp] theorem State.jump_store (s : State) (a : Word) (f : Wave → Wave) : (s.jump a f).store = s.store := rfl
@[simp] theorem State.jump_caches (s : State) (a : Word) (f : Wave → Wave) : (s.jump a f).caches = s.caches := rfl
@[simp] theorem State.jump_cores (s : State) (a : Word) (f : Wave → Wave) : (s.jump a f).cores = s.cores := rfl
@[simp] theorem State.jump_crews (s : State) (a : Word) (f : Wave → Wave) : (s.jump a f).crews = s.crews := rfl
@[simp] theorem State.jump_berths (s : State) (a : Word) (f : Wave → Wave) : (s.jump a f).berths = s.berths := rfl
@[simp] theorem State.jump_ctxs (s : State) (a : Word) (f : Wave → Wave) : (s.jump a f).ctxs = s.ctxs := rfl
@[simp] theorem State.jump_pilots (s : State) (a : Word) (f : Wave → Wave) : (s.jump a f).pilots = s.pilots := rfl
@[simp] theorem State.jump_pilotTurn (s : State) (a : Word) (f : Wave → Wave) : (s.jump a f).pilotTurn = s.pilotTurn := rfl
@[simp] theorem State.jump_migrations (s : State) (a : Word) (f : Wave → Wave) : (s.jump a f).migrations = s.migrations := rfl
@[simp] theorem State.jump_subs (s : State) (a : Word) (f : Wave → Wave) : (s.jump a f).subs = s.subs := rfl
@[simp] theorem State.jump_out (s : State) (a : Word) (f : Wave → Wave) : (s.jump a f).out = s.out := rfl
@[simp] theorem State.jump_wakes (s : State) (a : Word) (f : Wave → Wave) : (s.jump a f).wakes = s.wakes := rfl
@[simp] theorem State.jump_fresh (s : State) (a : Word) (f : Wave → Wave) : (s.jump a f).fresh = s.fresh := rfl
@[simp] theorem State.jump_agenda (s : State) (a : Word) (f : Wave → Wave) : (s.jump a f).agenda = s.agenda := rfl

@[simp] theorem State.modWave_hm (s : State) (g : Nat) (f : Wave → Wave) : (s.modWave g f).hm = s.hm := by unfold State.modWave; split <;> rfl
@[simp] theorem State.modWave_parts (s : State) (g : Nat) (f : Wave → Wave) : (s.modWave g f).parts = s.parts := by unfold State.modWave; split <;> rfl
@[simp] theorem State.modWave_time (s : State) (g : Nat) (f : Wave → Wave) : (s.modWave g f).time = s.time := by unfold State.modWave; split <;> rfl
@[simp] theorem State.modWave_clocked (s : State) (g : Nat) (f : Wave → Wave) : (s.modWave g f).clocked = s.clocked := by unfold State.modWave; split <;> rfl
@[simp] theorem State.modWave_store (s : State) (g : Nat) (f : Wave → Wave) : (s.modWave g f).store = s.store := by unfold State.modWave; split <;> rfl
@[simp] theorem State.modWave_caches (s : State) (g : Nat) (f : Wave → Wave) : (s.modWave g f).caches = s.caches := by unfold State.modWave; split <;> rfl
@[simp] theorem State.modWave_cores (s : State) (g : Nat) (f : Wave → Wave) : (s.modWave g f).cores = s.cores := by unfold State.modWave; split <;> rfl
@[simp] theorem State.modWave_crews (s : State) (g : Nat) (f : Wave → Wave) : (s.modWave g f).crews = s.crews := by unfold State.modWave; split <;> rfl
@[simp] theorem State.modWave_berths (s : State) (g : Nat) (f : Wave → Wave) : (s.modWave g f).berths = s.berths := by unfold State.modWave; split <;> rfl
@[simp] theorem State.modWave_ctxs (s : State) (g : Nat) (f : Wave → Wave) : (s.modWave g f).ctxs = s.ctxs := by unfold State.modWave; split <;> rfl
@[simp] theorem State.modWave_pilots (s : State) (g : Nat) (f : Wave → Wave) : (s.modWave g f).pilots = s.pilots := by unfold State.modWave; split <;> rfl
@[simp] theorem State.modWave_pilotTurn (s : State) (g : Nat) (f : Wave → Wave) : (s.modWave g f).pilotTurn = s.pilotTurn := by unfold State.modWave; split <;> rfl
@[simp] theorem State.modWave_migrations (s : State) (g : Nat) (f : Wave → Wave) : (s.modWave g f).migrations = s.migrations := by unfold State.modWave; split <;> rfl
@[simp] theorem State.modWave_subs (s : State) (g : Nat) (f : Wave → Wave) : (s.modWave g f).subs = s.subs := by unfold State.modWave; split <;> rfl
@[simp] theorem State.modWave_out (s : State) (g : Nat) (f : Wave → Wave) : (s.modWave g f).out = s.out := by unfold State.modWave; split <;> rfl
@[simp] theorem State.modWave_wakes (s : State) (g : Nat) (f : Wave → Wave) : (s.modWave g f).wakes = s.wakes := by unfold State.modWave; split <;> rfl
@[simp] theorem State.modWave_fresh (s : State) (g : Nat) (f : Wave → Wave) : (s.modWave g f).fresh = s.fresh := by unfold State.modWave; split <;> rfl
@[simp] theorem State.modWave_agenda (s : State) (g : Nat) (f : Wave → Wave) : (s.modWave g f).agenda = s.agenda := by unfold State.modWave; split <;> rfl

@[simp] theorem State.focus_hm (s : State) (g : Nat) : (s.focus g).hm = s.hm := by unfold State.focus; split; rfl; split <;> rfl
@[simp] theorem State.focus_parts (s : State) (g : Nat) : (s.focus g).parts = s.parts := by unfold State.focus; split; rfl; split <;> rfl
@[simp] theorem State.focus_time (s : State) (g : Nat) : (s.focus g).time = s.time := by unfold State.focus; split; rfl; split <;> rfl
@[simp] theorem State.focus_clocked (s : State) (g : Nat) : (s.focus g).clocked = s.clocked := by unfold State.focus; split; rfl; split <;> rfl
@[simp] theorem State.focus_store (s : State) (g : Nat) : (s.focus g).store = s.store := by unfold State.focus; split; rfl; split <;> rfl
@[simp] theorem State.focus_caches (s : State) (g : Nat) : (s.focus g).caches = s.caches := by unfold State.focus; split; rfl; split <;> rfl
@[simp] theorem State.focus_cores (s : State) (g : Nat) : (s.focus g).cores = s.cores := by unfold State.focus; split; rfl; split <;> rfl
@[simp] theorem State.focus_crews (s : State) (g : Nat) : (s.focus g).crews = s.crews := by unfold State.focus; split; rfl; split <;> rfl
@[simp] theorem State.focus_berths (s : State) (g : Nat) : (s.focus g).berths = s.berths := by unfold State.focus; split; rfl; split <;> rfl
@[simp] theorem State.focus_ctxs (s : State) (g : Nat) : (s.focus g).ctxs = s.ctxs := by unfold State.focus; split; rfl; split <;> rfl
@[simp] theorem State.focus_pilots (s : State) (g : Nat) : (s.focus g).pilots = s.pilots := by unfold State.focus; split; rfl; split <;> rfl
@[simp] theorem State.focus_pilotTurn (s : State) (g : Nat) : (s.focus g).pilotTurn = s.pilotTurn := by unfold State.focus; split; rfl; split <;> rfl
@[simp] theorem State.focus_migrations (s : State) (g : Nat) : (s.focus g).migrations = s.migrations := by unfold State.focus; split; rfl; split <;> rfl
@[simp] theorem State.focus_subs (s : State) (g : Nat) : (s.focus g).subs = s.subs := by unfold State.focus; split; rfl; split <;> rfl
@[simp] theorem State.focus_out (s : State) (g : Nat) : (s.focus g).out = s.out := by unfold State.focus; split; rfl; split <;> rfl
@[simp] theorem State.focus_wakes (s : State) (g : Nat) : (s.focus g).wakes = s.wakes := by unfold State.focus; split; rfl; split <;> rfl
@[simp] theorem State.focus_fresh (s : State) (g : Nat) : (s.focus g).fresh = s.fresh := by unfold State.focus; split; rfl; split <;> rfl
@[simp] theorem State.focus_agenda (s : State) (g : Nat) : (s.focus g).agenda = s.agenda := by unfold State.focus; split; rfl; split <;> rfl

/-! ## Updates of a wave -/

@[simp] theorem Wave.setS_gwn (w : Wave) (n : Nat) (x : Word) : (w.setS n x).gwn = w.gwn := rfl
@[simp] theorem Wave.setS_run (w : Wave) (n : Nat) (x : Word) : (w.setS n x).run = w.run := rfl
@[simp] theorem Wave.setS_pc (w : Wave) (n : Nat) (x : Word) : (w.setS n x).pc = w.pc := rfl
@[simp] theorem Wave.setS_s (w : Wave) (n : Nat) (x : Word) : (w.setS n x).s = Cells.set w.s n x := rfl
@[simp] theorem Wave.setS_v (w : Wave) (n : Nat) (x : Word) : (w.setS n x).v = w.v := rfl
@[simp] theorem Wave.setS_p (w : Wave) (n : Nat) (x : Word) : (w.setS n x).p = w.p := rfl
@[simp] theorem Wave.setS_sb (w : Wave) (n : Nat) (x : Word) : (w.setS n x).sb = w.sb := rfl
@[simp] theorem Wave.setS_loops (w : Wave) (n : Nat) (x : Word) : (w.setS n x).loops = w.loops := rfl
@[simp] theorem Wave.setS_flags (w : Wave) (n : Nat) (x : Word) : (w.setS n x).flags = w.flags := rfl
@[simp] theorem Wave.setS_tx (w : Wave) (n : Nat) (x : Word) : (w.setS n x).tx = w.tx := rfl
@[simp] theorem Wave.setS_park (w : Wave) (n : Nat) (x : Word) : (w.setS n x).park = w.park := rfl
@[simp] theorem Wave.setS_flights (w : Wave) (n : Nat) (x : Word) : (w.setS n x).flights = w.flights := rfl
@[simp] theorem Wave.setS_nextOp (w : Wave) (n : Nat) (x : Word) : (w.setS n x).nextOp = w.nextOp := rfl
@[simp] theorem Wave.setS_crew (w : Wave) (n : Nat) (x : Word) : (w.setS n x).crew = w.crew := rfl
@[simp] theorem Wave.setS_crewIx (w : Wave) (n : Nat) (x : Word) : (w.setS n x).crewIx = w.crewIx := rfl
@[simp] theorem Wave.setS_lcore (w : Wave) (n : Nat) (x : Word) : (w.setS n x).lcore = w.lcore := rfl
@[simp] theorem Wave.setS_ctx (w : Wave) (n : Nat) (x : Word) : (w.setS n x).ctx = w.ctx := rfl
@[simp] theorem Wave.setS_priv (w : Wave) (n : Nat) (x : Word) : (w.setS n x).priv = w.priv := rfl
@[simp] theorem Wave.setS_prio (w : Wave) (n : Nat) (x : Word) : (w.setS n x).prio = w.prio := rfl
@[simp] theorem Wave.setS_vregs (w : Wave) (n : Nat) (x : Word) : (w.setS n x).vregs = w.vregs := rfl
@[simp] theorem Wave.setS_age (w : Wave) (n : Nat) (x : Word) : (w.setS n x).age = w.age := rfl
@[simp] theorem Wave.setS_issued (w : Wave) (n : Nat) (x : Word) : (w.setS n x).issued = w.issued := rfl
@[simp] theorem Wave.setS_ready (w : Wave) (n : Nat) (x : Word) : (w.setS n x).ready = w.ready := rfl
@[simp] theorem Wave.setS_watch (w : Wave) (n : Nat) (x : Word) : (w.setS n x).watch = w.watch := rfl
@[simp] theorem Wave.setS_bankUse (w : Wave) (n : Nat) (x : Word) : (w.setS n x).bankUse = w.bankUse := rfl
@[simp] theorem Wave.setS_tabUse (w : Wave) (n : Nat) (x : Word) : (w.setS n x).tabUse = w.tabUse := rfl
@[simp] theorem Wave.setS_dueFault (w : Wave) (n : Nat) (x : Word) : (w.setS n x).dueFault = w.dueFault := rfl
@[simp] theorem Wave.setS_duePark (w : Wave) (n : Nat) (x : Word) : (w.setS n x).duePark = w.duePark := rfl
@[simp] theorem Wave.setS_sync (w : Wave) (n : Nat) (x : Word) : (w.setS n x).sync = w.sync := rfl
@[simp] theorem Wave.setS_syncTx (w : Wave) (n : Nat) (x : Word) : (w.setS n x).syncTx = w.syncTx := rfl
@[simp] theorem Wave.setS_coreSeen (w : Wave) (n : Nat) (x : Word) : (w.setS n x).coreSeen = w.coreSeen := rfl
@[simp] theorem Wave.setS_bad (w : Wave) (n : Nat) (x : Word) : (w.setS n x).bad = clearBad (fun r => r == .s n false || r == .s n true) w.bad := rfl

@[simp] theorem Wave.setV_gwn (w : Wave) (n l : Nat) (x : Lane) : (w.setV n l x).gwn = w.gwn := rfl
@[simp] theorem Wave.setV_run (w : Wave) (n l : Nat) (x : Lane) : (w.setV n l x).run = w.run := rfl
@[simp] theorem Wave.setV_pc (w : Wave) (n l : Nat) (x : Lane) : (w.setV n l x).pc = w.pc := rfl
@[simp] theorem Wave.setV_s (w : Wave) (n l : Nat) (x : Lane) : (w.setV n l x).s = w.s := rfl
@[simp] theorem Wave.setV_v (w : Wave) (n l : Nat) (x : Lane) : (w.setV n l x).v = Cells.set w.v (32 * n + l) x := rfl
@[simp] theorem Wave.setV_p (w : Wave) (n l : Nat) (x : Lane) : (w.setV n l x).p = w.p := rfl
@[simp] theorem Wave.setV_sb (w : Wave) (n l : Nat) (x : Lane) : (w.setV n l x).sb = w.sb := rfl
@[simp] theorem Wave.setV_loops (w : Wave) (n l : Nat) (x : Lane) : (w.setV n l x).loops = w.loops := rfl
@[simp] theorem Wave.setV_flags (w : Wave) (n l : Nat) (x : Lane) : (w.setV n l x).flags = w.flags := rfl
@[simp] theorem Wave.setV_tx (w : Wave) (n l : Nat) (x : Lane) : (w.setV n l x).tx = w.tx := rfl
@[simp] theorem Wave.setV_park (w : Wave) (n l : Nat) (x : Lane) : (w.setV n l x).park = w.park := rfl
@[simp] theorem Wave.setV_flights (w : Wave) (n l : Nat) (x : Lane) : (w.setV n l x).flights = w.flights := rfl
@[simp] theorem Wave.setV_nextOp (w : Wave) (n l : Nat) (x : Lane) : (w.setV n l x).nextOp = w.nextOp := rfl
@[simp] theorem Wave.setV_crew (w : Wave) (n l : Nat) (x : Lane) : (w.setV n l x).crew = w.crew := rfl
@[simp] theorem Wave.setV_crewIx (w : Wave) (n l : Nat) (x : Lane) : (w.setV n l x).crewIx = w.crewIx := rfl
@[simp] theorem Wave.setV_lcore (w : Wave) (n l : Nat) (x : Lane) : (w.setV n l x).lcore = w.lcore := rfl
@[simp] theorem Wave.setV_ctx (w : Wave) (n l : Nat) (x : Lane) : (w.setV n l x).ctx = w.ctx := rfl
@[simp] theorem Wave.setV_priv (w : Wave) (n l : Nat) (x : Lane) : (w.setV n l x).priv = w.priv := rfl
@[simp] theorem Wave.setV_prio (w : Wave) (n l : Nat) (x : Lane) : (w.setV n l x).prio = w.prio := rfl
@[simp] theorem Wave.setV_vregs (w : Wave) (n l : Nat) (x : Lane) : (w.setV n l x).vregs = w.vregs := rfl
@[simp] theorem Wave.setV_age (w : Wave) (n l : Nat) (x : Lane) : (w.setV n l x).age = w.age := rfl
@[simp] theorem Wave.setV_issued (w : Wave) (n l : Nat) (x : Lane) : (w.setV n l x).issued = w.issued := rfl
@[simp] theorem Wave.setV_ready (w : Wave) (n l : Nat) (x : Lane) : (w.setV n l x).ready = w.ready := rfl
@[simp] theorem Wave.setV_watch (w : Wave) (n l : Nat) (x : Lane) : (w.setV n l x).watch = w.watch := rfl
@[simp] theorem Wave.setV_bankUse (w : Wave) (n l : Nat) (x : Lane) : (w.setV n l x).bankUse = w.bankUse := rfl
@[simp] theorem Wave.setV_tabUse (w : Wave) (n l : Nat) (x : Lane) : (w.setV n l x).tabUse = w.tabUse := rfl
@[simp] theorem Wave.setV_dueFault (w : Wave) (n l : Nat) (x : Lane) : (w.setV n l x).dueFault = w.dueFault := rfl
@[simp] theorem Wave.setV_duePark (w : Wave) (n l : Nat) (x : Lane) : (w.setV n l x).duePark = w.duePark := rfl
@[simp] theorem Wave.setV_sync (w : Wave) (n l : Nat) (x : Lane) : (w.setV n l x).sync = w.sync := rfl
@[simp] theorem Wave.setV_syncTx (w : Wave) (n l : Nat) (x : Lane) : (w.setV n l x).syncTx = w.syncTx := rfl
@[simp] theorem Wave.setV_coreSeen (w : Wave) (n l : Nat) (x : Lane) : (w.setV n l x).coreSeen = w.coreSeen := rfl
@[simp] theorem Wave.setV_bad (w : Wave) (n l : Nat) (x : Lane) : (w.setV n l x).bad = clearBad (· == .v n l) w.bad := rfl

@[simp] theorem Wave.slotUp_gwn (w : Wave) (n : Nat) : (w.slotUp n).gwn = w.gwn := rfl
@[simp] theorem Wave.slotUp_run (w : Wave) (n : Nat) : (w.slotUp n).run = w.run := rfl
@[simp] theorem Wave.slotUp_pc (w : Wave) (n : Nat) : (w.slotUp n).pc = w.pc := rfl
@[simp] theorem Wave.slotUp_s (w : Wave) (n : Nat) : (w.slotUp n).s = w.s := rfl
@[simp] theorem Wave.slotUp_v (w : Wave) (n : Nat) : (w.slotUp n).v = w.v := rfl
@[simp] theorem Wave.slotUp_p (w : Wave) (n : Nat) : (w.slotUp n).p = w.p := rfl
@[simp] theorem Wave.slotUp_sb (w : Wave) (n : Nat) : (w.slotUp n).sb = Cells.set w.sb n (w.slot n + 1) := rfl
@[simp] theorem Wave.slotUp_loops (w : Wave) (n : Nat) : (w.slotUp n).loops = w.loops := rfl
@[simp] theorem Wave.slotUp_flags (w : Wave) (n : Nat) : (w.slotUp n).flags = w.flags := rfl
@[simp] theorem Wave.slotUp_tx (w : Wave) (n : Nat) : (w.slotUp n).tx = w.tx := rfl
@[simp] theorem Wave.slotUp_park (w : Wave) (n : Nat) : (w.slotUp n).park = w.park := rfl
@[simp] theorem Wave.slotUp_flights (w : Wave) (n : Nat) : (w.slotUp n).flights = w.flights := rfl
@[simp] theorem Wave.slotUp_nextOp (w : Wave) (n : Nat) : (w.slotUp n).nextOp = w.nextOp := rfl
@[simp] theorem Wave.slotUp_crew (w : Wave) (n : Nat) : (w.slotUp n).crew = w.crew := rfl
@[simp] theorem Wave.slotUp_crewIx (w : Wave) (n : Nat) : (w.slotUp n).crewIx = w.crewIx := rfl
@[simp] theorem Wave.slotUp_lcore (w : Wave) (n : Nat) : (w.slotUp n).lcore = w.lcore := rfl
@[simp] theorem Wave.slotUp_ctx (w : Wave) (n : Nat) : (w.slotUp n).ctx = w.ctx := rfl
@[simp] theorem Wave.slotUp_priv (w : Wave) (n : Nat) : (w.slotUp n).priv = w.priv := rfl
@[simp] theorem Wave.slotUp_prio (w : Wave) (n : Nat) : (w.slotUp n).prio = w.prio := rfl
@[simp] theorem Wave.slotUp_vregs (w : Wave) (n : Nat) : (w.slotUp n).vregs = w.vregs := rfl
@[simp] theorem Wave.slotUp_age (w : Wave) (n : Nat) : (w.slotUp n).age = w.age := rfl
@[simp] theorem Wave.slotUp_issued (w : Wave) (n : Nat) : (w.slotUp n).issued = w.issued := rfl
@[simp] theorem Wave.slotUp_ready (w : Wave) (n : Nat) : (w.slotUp n).ready = w.ready := rfl
@[simp] theorem Wave.slotUp_watch (w : Wave) (n : Nat) : (w.slotUp n).watch = w.watch := rfl
@[simp] theorem Wave.slotUp_bankUse (w : Wave) (n : Nat) : (w.slotUp n).bankUse = w.bankUse := rfl
@[simp] theorem Wave.slotUp_tabUse (w : Wave) (n : Nat) : (w.slotUp n).tabUse = w.tabUse := rfl
@[simp] theorem Wave.slotUp_dueFault (w : Wave) (n : Nat) : (w.slotUp n).dueFault = w.dueFault := rfl
@[simp] theorem Wave.slotUp_duePark (w : Wave) (n : Nat) : (w.slotUp n).duePark = w.duePark := rfl
@[simp] theorem Wave.slotUp_sync (w : Wave) (n : Nat) : (w.slotUp n).sync = w.sync := rfl
@[simp] theorem Wave.slotUp_syncTx (w : Wave) (n : Nat) : (w.slotUp n).syncTx = w.syncTx := rfl
@[simp] theorem Wave.slotUp_coreSeen (w : Wave) (n : Nat) : (w.slotUp n).coreSeen = w.coreSeen := rfl
@[simp] theorem Wave.slotUp_bad (w : Wave) (n : Nat) : (w.slotUp n).bad = w.bad := rfl

@[simp] theorem Wave.orFlags_gwn (w : Wave) (f : BitVec 5) : (w.orFlags f).gwn = w.gwn := rfl
@[simp] theorem Wave.orFlags_run (w : Wave) (f : BitVec 5) : (w.orFlags f).run = w.run := rfl
@[simp] theorem Wave.orFlags_pc (w : Wave) (f : BitVec 5) : (w.orFlags f).pc = w.pc := rfl
@[simp] theorem Wave.orFlags_s (w : Wave) (f : BitVec 5) : (w.orFlags f).s = w.s := rfl
@[simp] theorem Wave.orFlags_v (w : Wave) (f : BitVec 5) : (w.orFlags f).v = w.v := rfl
@[simp] theorem Wave.orFlags_p (w : Wave) (f : BitVec 5) : (w.orFlags f).p = w.p := rfl
@[simp] theorem Wave.orFlags_sb (w : Wave) (f : BitVec 5) : (w.orFlags f).sb = w.sb := rfl
@[simp] theorem Wave.orFlags_loops (w : Wave) (f : BitVec 5) : (w.orFlags f).loops = w.loops := rfl
@[simp] theorem Wave.orFlags_flags (w : Wave) (f : BitVec 5) : (w.orFlags f).flags = w.flags ||| f := rfl
@[simp] theorem Wave.orFlags_tx (w : Wave) (f : BitVec 5) : (w.orFlags f).tx = w.tx := rfl
@[simp] theorem Wave.orFlags_park (w : Wave) (f : BitVec 5) : (w.orFlags f).park = w.park := rfl
@[simp] theorem Wave.orFlags_flights (w : Wave) (f : BitVec 5) : (w.orFlags f).flights = w.flights := rfl
@[simp] theorem Wave.orFlags_nextOp (w : Wave) (f : BitVec 5) : (w.orFlags f).nextOp = w.nextOp := rfl
@[simp] theorem Wave.orFlags_crew (w : Wave) (f : BitVec 5) : (w.orFlags f).crew = w.crew := rfl
@[simp] theorem Wave.orFlags_crewIx (w : Wave) (f : BitVec 5) : (w.orFlags f).crewIx = w.crewIx := rfl
@[simp] theorem Wave.orFlags_lcore (w : Wave) (f : BitVec 5) : (w.orFlags f).lcore = w.lcore := rfl
@[simp] theorem Wave.orFlags_ctx (w : Wave) (f : BitVec 5) : (w.orFlags f).ctx = w.ctx := rfl
@[simp] theorem Wave.orFlags_priv (w : Wave) (f : BitVec 5) : (w.orFlags f).priv = w.priv := rfl
@[simp] theorem Wave.orFlags_prio (w : Wave) (f : BitVec 5) : (w.orFlags f).prio = w.prio := rfl
@[simp] theorem Wave.orFlags_vregs (w : Wave) (f : BitVec 5) : (w.orFlags f).vregs = w.vregs := rfl
@[simp] theorem Wave.orFlags_age (w : Wave) (f : BitVec 5) : (w.orFlags f).age = w.age := rfl
@[simp] theorem Wave.orFlags_issued (w : Wave) (f : BitVec 5) : (w.orFlags f).issued = w.issued := rfl
@[simp] theorem Wave.orFlags_ready (w : Wave) (f : BitVec 5) : (w.orFlags f).ready = w.ready := rfl
@[simp] theorem Wave.orFlags_watch (w : Wave) (f : BitVec 5) : (w.orFlags f).watch = w.watch := rfl
@[simp] theorem Wave.orFlags_bankUse (w : Wave) (f : BitVec 5) : (w.orFlags f).bankUse = w.bankUse := rfl
@[simp] theorem Wave.orFlags_tabUse (w : Wave) (f : BitVec 5) : (w.orFlags f).tabUse = w.tabUse := rfl
@[simp] theorem Wave.orFlags_dueFault (w : Wave) (f : BitVec 5) : (w.orFlags f).dueFault = w.dueFault := rfl
@[simp] theorem Wave.orFlags_duePark (w : Wave) (f : BitVec 5) : (w.orFlags f).duePark = w.duePark := rfl
@[simp] theorem Wave.orFlags_sync (w : Wave) (f : BitVec 5) : (w.orFlags f).sync = w.sync := rfl
@[simp] theorem Wave.orFlags_syncTx (w : Wave) (f : BitVec 5) : (w.orFlags f).syncTx = w.syncTx := rfl
@[simp] theorem Wave.orFlags_coreSeen (w : Wave) (f : BitVec 5) : (w.orFlags f).coreSeen = w.coreSeen := rfl
@[simp] theorem Wave.orFlags_bad (w : Wave) (f : BitVec 5) : (w.orFlags f).bad = w.bad := rfl

@[simp] theorem Wave.stamp_gwn (w : Wave) (t : Nat) : (w.stamp t).gwn = w.gwn := rfl
@[simp] theorem Wave.stamp_run (w : Wave) (t : Nat) : (w.stamp t).run = w.run := rfl
@[simp] theorem Wave.stamp_pc (w : Wave) (t : Nat) : (w.stamp t).pc = w.pc := rfl
@[simp] theorem Wave.stamp_s (w : Wave) (t : Nat) : (w.stamp t).s = w.s := rfl
@[simp] theorem Wave.stamp_v (w : Wave) (t : Nat) : (w.stamp t).v = w.v := rfl
@[simp] theorem Wave.stamp_p (w : Wave) (t : Nat) : (w.stamp t).p = w.p := rfl
@[simp] theorem Wave.stamp_sb (w : Wave) (t : Nat) : (w.stamp t).sb = w.sb := rfl
@[simp] theorem Wave.stamp_loops (w : Wave) (t : Nat) : (w.stamp t).loops = w.loops := rfl
@[simp] theorem Wave.stamp_flags (w : Wave) (t : Nat) : (w.stamp t).flags = w.flags := rfl
@[simp] theorem Wave.stamp_tx (w : Wave) (t : Nat) : (w.stamp t).tx = w.tx := rfl
@[simp] theorem Wave.stamp_park (w : Wave) (t : Nat) : (w.stamp t).park = w.park := rfl
@[simp] theorem Wave.stamp_flights (w : Wave) (t : Nat) : (w.stamp t).flights = w.flights := rfl
@[simp] theorem Wave.stamp_nextOp (w : Wave) (t : Nat) : (w.stamp t).nextOp = w.nextOp := rfl
@[simp] theorem Wave.stamp_crew (w : Wave) (t : Nat) : (w.stamp t).crew = w.crew := rfl
@[simp] theorem Wave.stamp_crewIx (w : Wave) (t : Nat) : (w.stamp t).crewIx = w.crewIx := rfl
@[simp] theorem Wave.stamp_lcore (w : Wave) (t : Nat) : (w.stamp t).lcore = w.lcore := rfl
@[simp] theorem Wave.stamp_ctx (w : Wave) (t : Nat) : (w.stamp t).ctx = w.ctx := rfl
@[simp] theorem Wave.stamp_priv (w : Wave) (t : Nat) : (w.stamp t).priv = w.priv := rfl
@[simp] theorem Wave.stamp_prio (w : Wave) (t : Nat) : (w.stamp t).prio = w.prio := rfl
@[simp] theorem Wave.stamp_vregs (w : Wave) (t : Nat) : (w.stamp t).vregs = w.vregs := rfl
@[simp] theorem Wave.stamp_age (w : Wave) (t : Nat) : (w.stamp t).age = 0 := rfl
@[simp] theorem Wave.stamp_issued (w : Wave) (t : Nat) : (w.stamp t).issued = some t := rfl
@[simp] theorem Wave.stamp_ready (w : Wave) (t : Nat) : (w.stamp t).ready = clocksOn w.gwn t 4 := rfl
@[simp] theorem Wave.stamp_watch (w : Wave) (t : Nat) : (w.stamp t).watch = w.watch + 1 := rfl
@[simp] theorem Wave.stamp_bankUse (w : Wave) (t : Nat) : (w.stamp t).bankUse = w.bankUse := rfl
@[simp] theorem Wave.stamp_tabUse (w : Wave) (t : Nat) : (w.stamp t).tabUse = w.tabUse := rfl
@[simp] theorem Wave.stamp_dueFault (w : Wave) (t : Nat) : (w.stamp t).dueFault = w.dueFault := rfl
@[simp] theorem Wave.stamp_duePark (w : Wave) (t : Nat) : (w.stamp t).duePark = w.duePark := rfl
@[simp] theorem Wave.stamp_sync (w : Wave) (t : Nat) : (w.stamp t).sync = w.sync := rfl
@[simp] theorem Wave.stamp_syncTx (w : Wave) (t : Nat) : (w.stamp t).syncTx = w.syncTx := rfl
@[simp] theorem Wave.stamp_coreSeen (w : Wave) (t : Nat) : (w.stamp t).coreSeen = w.coreSeen := rfl
@[simp] theorem Wave.stamp_bad (w : Wave) (t : Nat) : (w.stamp t).bad = w.bad := rfl

@[simp] theorem Wave.branchTo_gwn (w : Wave) (t : Nat) (a : Word) : (w.branchTo t a).gwn = w.gwn := rfl
@[simp] theorem Wave.branchTo_run (w : Wave) (t : Nat) (a : Word) : (w.branchTo t a).run = w.run := rfl
@[simp] theorem Wave.branchTo_pc (w : Wave) (t : Nat) (a : Word) : (w.branchTo t a).pc = a := rfl
@[simp] theorem Wave.branchTo_s (w : Wave) (t : Nat) (a : Word) : (w.branchTo t a).s = w.s := rfl
@[simp] theorem Wave.branchTo_v (w : Wave) (t : Nat) (a : Word) : (w.branchTo t a).v = w.v := rfl
@[simp] theorem Wave.branchTo_p (w : Wave) (t : Nat) (a : Word) : (w.branchTo t a).p = w.p := rfl
@[simp] theorem Wave.branchTo_sb (w : Wave) (t : Nat) (a : Word) : (w.branchTo t a).sb = w.sb := rfl
@[simp] theorem Wave.branchTo_loops (w : Wave) (t : Nat) (a : Word) : (w.branchTo t a).loops = w.loops := rfl
@[simp] theorem Wave.branchTo_flags (w : Wave) (t : Nat) (a : Word) : (w.branchTo t a).flags = w.flags := rfl
@[simp] theorem Wave.branchTo_tx (w : Wave) (t : Nat) (a : Word) : (w.branchTo t a).tx = w.tx := rfl
@[simp] theorem Wave.branchTo_park (w : Wave) (t : Nat) (a : Word) : (w.branchTo t a).park = w.park := rfl
@[simp] theorem Wave.branchTo_flights (w : Wave) (t : Nat) (a : Word) : (w.branchTo t a).flights = w.flights := rfl
@[simp] theorem Wave.branchTo_nextOp (w : Wave) (t : Nat) (a : Word) : (w.branchTo t a).nextOp = w.nextOp := rfl
@[simp] theorem Wave.branchTo_crew (w : Wave) (t : Nat) (a : Word) : (w.branchTo t a).crew = w.crew := rfl
@[simp] theorem Wave.branchTo_crewIx (w : Wave) (t : Nat) (a : Word) : (w.branchTo t a).crewIx = w.crewIx := rfl
@[simp] theorem Wave.branchTo_lcore (w : Wave) (t : Nat) (a : Word) : (w.branchTo t a).lcore = w.lcore := rfl
@[simp] theorem Wave.branchTo_ctx (w : Wave) (t : Nat) (a : Word) : (w.branchTo t a).ctx = w.ctx := rfl
@[simp] theorem Wave.branchTo_priv (w : Wave) (t : Nat) (a : Word) : (w.branchTo t a).priv = w.priv := rfl
@[simp] theorem Wave.branchTo_prio (w : Wave) (t : Nat) (a : Word) : (w.branchTo t a).prio = w.prio := rfl
@[simp] theorem Wave.branchTo_vregs (w : Wave) (t : Nat) (a : Word) : (w.branchTo t a).vregs = w.vregs := rfl
@[simp] theorem Wave.branchTo_age (w : Wave) (t : Nat) (a : Word) : (w.branchTo t a).age = w.age := rfl
@[simp] theorem Wave.branchTo_issued (w : Wave) (t : Nat) (a : Word) : (w.branchTo t a).issued = w.issued := rfl
@[simp] theorem Wave.branchTo_ready (w : Wave) (t : Nat) (a : Word) : (w.branchTo t a).ready = clocksOn w.gwn t 8 := rfl
@[simp] theorem Wave.branchTo_watch (w : Wave) (t : Nat) (a : Word) : (w.branchTo t a).watch = w.watch := rfl
@[simp] theorem Wave.branchTo_bankUse (w : Wave) (t : Nat) (a : Word) : (w.branchTo t a).bankUse = w.bankUse := rfl
@[simp] theorem Wave.branchTo_tabUse (w : Wave) (t : Nat) (a : Word) : (w.branchTo t a).tabUse = w.tabUse := rfl
@[simp] theorem Wave.branchTo_dueFault (w : Wave) (t : Nat) (a : Word) : (w.branchTo t a).dueFault = w.dueFault := rfl
@[simp] theorem Wave.branchTo_duePark (w : Wave) (t : Nat) (a : Word) : (w.branchTo t a).duePark = w.duePark := rfl
@[simp] theorem Wave.branchTo_sync (w : Wave) (t : Nat) (a : Word) : (w.branchTo t a).sync = w.sync := rfl
@[simp] theorem Wave.branchTo_syncTx (w : Wave) (t : Nat) (a : Word) : (w.branchTo t a).syncTx = w.syncTx := rfl
@[simp] theorem Wave.branchTo_coreSeen (w : Wave) (t : Nat) (a : Word) : (w.branchTo t a).coreSeen = w.coreSeen := rfl
@[simp] theorem Wave.branchTo_bad (w : Wave) (t : Nat) (a : Word) : (w.branchTo t a).bad = w.bad := rfl

@[simp] theorem Wave.restore_gwn (w : Wave) (c : Checkpoint) : (w.restore c).gwn = w.gwn := rfl
@[simp] theorem Wave.restore_run (w : Wave) (c : Checkpoint) : (w.restore c).run = w.run := rfl
@[simp] theorem Wave.restore_pc (w : Wave) (c : Checkpoint) : (w.restore c).pc = w.pc := rfl
@[simp] theorem Wave.restore_s (w : Wave) (c : Checkpoint) : (w.restore c).s = c.s := rfl
@[simp] theorem Wave.restore_v (w : Wave) (c : Checkpoint) : (w.restore c).v = w.v := rfl
@[simp] theorem Wave.restore_p (w : Wave) (c : Checkpoint) : (w.restore c).p = c.p := rfl
@[simp] theorem Wave.restore_sb (w : Wave) (c : Checkpoint) : (w.restore c).sb = w.sb := rfl
@[simp] theorem Wave.restore_loops (w : Wave) (c : Checkpoint) : (w.restore c).loops = c.loops := rfl
@[simp] theorem Wave.restore_flags (w : Wave) (c : Checkpoint) : (w.restore c).flags = c.flags := rfl
@[simp] theorem Wave.restore_tx (w : Wave) (c : Checkpoint) : (w.restore c).tx = w.tx := rfl
@[simp] theorem Wave.restore_park (w : Wave) (c : Checkpoint) : (w.restore c).park = w.park := rfl
@[simp] theorem Wave.restore_flights (w : Wave) (c : Checkpoint) : (w.restore c).flights = w.flights := rfl
@[simp] theorem Wave.restore_nextOp (w : Wave) (c : Checkpoint) : (w.restore c).nextOp = w.nextOp := rfl
@[simp] theorem Wave.restore_crew (w : Wave) (c : Checkpoint) : (w.restore c).crew = w.crew := rfl
@[simp] theorem Wave.restore_crewIx (w : Wave) (c : Checkpoint) : (w.restore c).crewIx = w.crewIx := rfl
@[simp] theorem Wave.restore_lcore (w : Wave) (c : Checkpoint) : (w.restore c).lcore = w.lcore := rfl
@[simp] theorem Wave.restore_ctx (w : Wave) (c : Checkpoint) : (w.restore c).ctx = w.ctx := rfl
@[simp] theorem Wave.restore_priv (w : Wave) (c : Checkpoint) : (w.restore c).priv = w.priv := rfl
@[simp] theorem Wave.restore_prio (w : Wave) (c : Checkpoint) : (w.restore c).prio = w.prio := rfl
@[simp] theorem Wave.restore_vregs (w : Wave) (c : Checkpoint) : (w.restore c).vregs = w.vregs := rfl
@[simp] theorem Wave.restore_age (w : Wave) (c : Checkpoint) : (w.restore c).age = w.age := rfl
@[simp] theorem Wave.restore_issued (w : Wave) (c : Checkpoint) : (w.restore c).issued = w.issued := rfl
@[simp] theorem Wave.restore_ready (w : Wave) (c : Checkpoint) : (w.restore c).ready = w.ready := rfl
@[simp] theorem Wave.restore_watch (w : Wave) (c : Checkpoint) : (w.restore c).watch = w.watch := rfl
@[simp] theorem Wave.restore_bankUse (w : Wave) (c : Checkpoint) : (w.restore c).bankUse = w.bankUse := rfl
@[simp] theorem Wave.restore_tabUse (w : Wave) (c : Checkpoint) : (w.restore c).tabUse = w.tabUse := rfl
@[simp] theorem Wave.restore_dueFault (w : Wave) (c : Checkpoint) : (w.restore c).dueFault = w.dueFault := rfl
@[simp] theorem Wave.restore_duePark (w : Wave) (c : Checkpoint) : (w.restore c).duePark = w.duePark := rfl
@[simp] theorem Wave.restore_sync (w : Wave) (c : Checkpoint) : (w.restore c).sync = w.sync := rfl
@[simp] theorem Wave.restore_syncTx (w : Wave) (c : Checkpoint) : (w.restore c).syncTx = w.syncTx := rfl
@[simp] theorem Wave.restore_coreSeen (w : Wave) (c : Checkpoint) : (w.restore c).coreSeen = w.coreSeen := rfl
@[simp] theorem Wave.restore_bad (w : Wave) (c : Checkpoint) : (w.restore c).bad = c.bad ++ clearBad (fun r => r.saved || r == .txs) w.bad := rfl

@[simp] theorem Wave.fallThrough_gwn (w : Wave) : (w.fallThrough).gwn = w.gwn := rfl
@[simp] theorem Wave.fallThrough_run (w : Wave) : (w.fallThrough).run = w.run := rfl
@[simp] theorem Wave.fallThrough_pc (w : Wave) : (w.fallThrough).pc = (w.loops.atEnd w.pc).2.getD (w.pc + 8) := rfl
@[simp] theorem Wave.fallThrough_s (w : Wave) : (w.fallThrough).s = w.s := rfl
@[simp] theorem Wave.fallThrough_v (w : Wave) : (w.fallThrough).v = w.v := rfl
@[simp] theorem Wave.fallThrough_p (w : Wave) : (w.fallThrough).p = w.p := rfl
@[simp] theorem Wave.fallThrough_sb (w : Wave) : (w.fallThrough).sb = w.sb := rfl
@[simp] theorem Wave.fallThrough_loops (w : Wave) : (w.fallThrough).loops = (w.loops.atEnd w.pc).1 := rfl
@[simp] theorem Wave.fallThrough_flags (w : Wave) : (w.fallThrough).flags = w.flags := rfl
@[simp] theorem Wave.fallThrough_tx (w : Wave) : (w.fallThrough).tx = w.tx := rfl
@[simp] theorem Wave.fallThrough_park (w : Wave) : (w.fallThrough).park = w.park := rfl
@[simp] theorem Wave.fallThrough_flights (w : Wave) : (w.fallThrough).flights = w.flights := rfl
@[simp] theorem Wave.fallThrough_nextOp (w : Wave) : (w.fallThrough).nextOp = w.nextOp := rfl
@[simp] theorem Wave.fallThrough_crew (w : Wave) : (w.fallThrough).crew = w.crew := rfl
@[simp] theorem Wave.fallThrough_crewIx (w : Wave) : (w.fallThrough).crewIx = w.crewIx := rfl
@[simp] theorem Wave.fallThrough_lcore (w : Wave) : (w.fallThrough).lcore = w.lcore := rfl
@[simp] theorem Wave.fallThrough_ctx (w : Wave) : (w.fallThrough).ctx = w.ctx := rfl
@[simp] theorem Wave.fallThrough_priv (w : Wave) : (w.fallThrough).priv = w.priv := rfl
@[simp] theorem Wave.fallThrough_prio (w : Wave) : (w.fallThrough).prio = w.prio := rfl
@[simp] theorem Wave.fallThrough_vregs (w : Wave) : (w.fallThrough).vregs = w.vregs := rfl
@[simp] theorem Wave.fallThrough_age (w : Wave) : (w.fallThrough).age = w.age := rfl
@[simp] theorem Wave.fallThrough_issued (w : Wave) : (w.fallThrough).issued = w.issued := rfl
@[simp] theorem Wave.fallThrough_ready (w : Wave) : (w.fallThrough).ready = w.ready := rfl
@[simp] theorem Wave.fallThrough_watch (w : Wave) : (w.fallThrough).watch = w.watch := rfl
@[simp] theorem Wave.fallThrough_bankUse (w : Wave) : (w.fallThrough).bankUse = w.bankUse := rfl
@[simp] theorem Wave.fallThrough_tabUse (w : Wave) : (w.fallThrough).tabUse = w.tabUse := rfl
@[simp] theorem Wave.fallThrough_dueFault (w : Wave) : (w.fallThrough).dueFault = w.dueFault := rfl
@[simp] theorem Wave.fallThrough_duePark (w : Wave) : (w.fallThrough).duePark = w.duePark := rfl
@[simp] theorem Wave.fallThrough_sync (w : Wave) : (w.fallThrough).sync = w.sync := rfl
@[simp] theorem Wave.fallThrough_syncTx (w : Wave) : (w.fallThrough).syncTx = w.syncTx := rfl
@[simp] theorem Wave.fallThrough_coreSeen (w : Wave) : (w.fallThrough).coreSeen = w.coreSeen := rfl
@[simp] theorem Wave.fallThrough_bad (w : Wave) : (w.fallThrough).bad = w.bad := rfl

@[simp] theorem Wave.setP_gwn (w : Wave) (n : Nat) (x : Lane) : (w.setP n x).gwn = w.gwn := by unfold Wave.setP; split <;> rfl
@[simp] theorem Wave.setP_run (w : Wave) (n : Nat) (x : Lane) : (w.setP n x).run = w.run := by unfold Wave.setP; split <;> rfl
@[simp] theorem Wave.setP_pc (w : Wave) (n : Nat) (x : Lane) : (w.setP n x).pc = w.pc := by unfold Wave.setP; split <;> rfl
@[simp] theorem Wave.setP_s (w : Wave) (n : Nat) (x : Lane) : (w.setP n x).s = w.s := by unfold Wave.setP; split <;> rfl
@[simp] theorem Wave.setP_v (w : Wave) (n : Nat) (x : Lane) : (w.setP n x).v = w.v := by unfold Wave.setP; split <;> rfl
@[simp] theorem Wave.setP_p (w : Wave) (n : Nat) (x : Lane) : (w.setP n x).p = if n = 7 then w.p else Cells.set w.p n x := by unfold Wave.setP; split <;> rfl
@[simp] theorem Wave.setP_sb (w : Wave) (n : Nat) (x : Lane) : (w.setP n x).sb = w.sb := by unfold Wave.setP; split <;> rfl
@[simp] theorem Wave.setP_loops (w : Wave) (n : Nat) (x : Lane) : (w.setP n x).loops = w.loops := by unfold Wave.setP; split <;> rfl
@[simp] theorem Wave.setP_flags (w : Wave) (n : Nat) (x : Lane) : (w.setP n x).flags = w.flags := by unfold Wave.setP; split <;> rfl
@[simp] theorem Wave.setP_tx (w : Wave) (n : Nat) (x : Lane) : (w.setP n x).tx = w.tx := by unfold Wave.setP; split <;> rfl
@[simp] theorem Wave.setP_park (w : Wave) (n : Nat) (x : Lane) : (w.setP n x).park = w.park := by unfold Wave.setP; split <;> rfl
@[simp] theorem Wave.setP_flights (w : Wave) (n : Nat) (x : Lane) : (w.setP n x).flights = w.flights := by unfold Wave.setP; split <;> rfl
@[simp] theorem Wave.setP_nextOp (w : Wave) (n : Nat) (x : Lane) : (w.setP n x).nextOp = w.nextOp := by unfold Wave.setP; split <;> rfl
@[simp] theorem Wave.setP_crew (w : Wave) (n : Nat) (x : Lane) : (w.setP n x).crew = w.crew := by unfold Wave.setP; split <;> rfl
@[simp] theorem Wave.setP_crewIx (w : Wave) (n : Nat) (x : Lane) : (w.setP n x).crewIx = w.crewIx := by unfold Wave.setP; split <;> rfl
@[simp] theorem Wave.setP_lcore (w : Wave) (n : Nat) (x : Lane) : (w.setP n x).lcore = w.lcore := by unfold Wave.setP; split <;> rfl
@[simp] theorem Wave.setP_ctx (w : Wave) (n : Nat) (x : Lane) : (w.setP n x).ctx = w.ctx := by unfold Wave.setP; split <;> rfl
@[simp] theorem Wave.setP_priv (w : Wave) (n : Nat) (x : Lane) : (w.setP n x).priv = w.priv := by unfold Wave.setP; split <;> rfl
@[simp] theorem Wave.setP_prio (w : Wave) (n : Nat) (x : Lane) : (w.setP n x).prio = w.prio := by unfold Wave.setP; split <;> rfl
@[simp] theorem Wave.setP_vregs (w : Wave) (n : Nat) (x : Lane) : (w.setP n x).vregs = w.vregs := by unfold Wave.setP; split <;> rfl
@[simp] theorem Wave.setP_age (w : Wave) (n : Nat) (x : Lane) : (w.setP n x).age = w.age := by unfold Wave.setP; split <;> rfl
@[simp] theorem Wave.setP_issued (w : Wave) (n : Nat) (x : Lane) : (w.setP n x).issued = w.issued := by unfold Wave.setP; split <;> rfl
@[simp] theorem Wave.setP_ready (w : Wave) (n : Nat) (x : Lane) : (w.setP n x).ready = w.ready := by unfold Wave.setP; split <;> rfl
@[simp] theorem Wave.setP_watch (w : Wave) (n : Nat) (x : Lane) : (w.setP n x).watch = w.watch := by unfold Wave.setP; split <;> rfl
@[simp] theorem Wave.setP_bankUse (w : Wave) (n : Nat) (x : Lane) : (w.setP n x).bankUse = w.bankUse := by unfold Wave.setP; split <;> rfl
@[simp] theorem Wave.setP_tabUse (w : Wave) (n : Nat) (x : Lane) : (w.setP n x).tabUse = w.tabUse := by unfold Wave.setP; split <;> rfl
@[simp] theorem Wave.setP_dueFault (w : Wave) (n : Nat) (x : Lane) : (w.setP n x).dueFault = w.dueFault := by unfold Wave.setP; split <;> rfl
@[simp] theorem Wave.setP_duePark (w : Wave) (n : Nat) (x : Lane) : (w.setP n x).duePark = w.duePark := by unfold Wave.setP; split <;> rfl
@[simp] theorem Wave.setP_sync (w : Wave) (n : Nat) (x : Lane) : (w.setP n x).sync = w.sync := by unfold Wave.setP; split <;> rfl
@[simp] theorem Wave.setP_syncTx (w : Wave) (n : Nat) (x : Lane) : (w.setP n x).syncTx = w.syncTx := by unfold Wave.setP; split <;> rfl
@[simp] theorem Wave.setP_coreSeen (w : Wave) (n : Nat) (x : Lane) : (w.setP n x).coreSeen = w.coreSeen := by unfold Wave.setP; split <;> rfl
@[simp] theorem Wave.setP_bad (w : Wave) (n : Nat) (x : Lane) : (w.setP n x).bad = if n = 7 then w.bad else clearBad (· == .p n) w.bad := by unfold Wave.setP; split <;> rfl

@[simp] theorem Wave.slotDown_gwn (w : Wave) (o : Option Nat) : (w.slotDown o).gwn = w.gwn := by cases o <;> rfl
@[simp] theorem Wave.slotDown_run (w : Wave) (o : Option Nat) : (w.slotDown o).run = w.run := by cases o <;> rfl
@[simp] theorem Wave.slotDown_pc (w : Wave) (o : Option Nat) : (w.slotDown o).pc = w.pc := by cases o <;> rfl
@[simp] theorem Wave.slotDown_s (w : Wave) (o : Option Nat) : (w.slotDown o).s = w.s := by cases o <;> rfl
@[simp] theorem Wave.slotDown_v (w : Wave) (o : Option Nat) : (w.slotDown o).v = w.v := by cases o <;> rfl
@[simp] theorem Wave.slotDown_p (w : Wave) (o : Option Nat) : (w.slotDown o).p = w.p := by cases o <;> rfl
@[simp] theorem Wave.slotDown_loops (w : Wave) (o : Option Nat) : (w.slotDown o).loops = w.loops := by cases o <;> rfl
@[simp] theorem Wave.slotDown_flags (w : Wave) (o : Option Nat) : (w.slotDown o).flags = w.flags := by cases o <;> rfl
@[simp] theorem Wave.slotDown_tx (w : Wave) (o : Option Nat) : (w.slotDown o).tx = w.tx := by cases o <;> rfl
@[simp] theorem Wave.slotDown_park (w : Wave) (o : Option Nat) : (w.slotDown o).park = w.park := by cases o <;> rfl
@[simp] theorem Wave.slotDown_flights (w : Wave) (o : Option Nat) : (w.slotDown o).flights = w.flights := by cases o <;> rfl
@[simp] theorem Wave.slotDown_nextOp (w : Wave) (o : Option Nat) : (w.slotDown o).nextOp = w.nextOp := by cases o <;> rfl
@[simp] theorem Wave.slotDown_crew (w : Wave) (o : Option Nat) : (w.slotDown o).crew = w.crew := by cases o <;> rfl
@[simp] theorem Wave.slotDown_crewIx (w : Wave) (o : Option Nat) : (w.slotDown o).crewIx = w.crewIx := by cases o <;> rfl
@[simp] theorem Wave.slotDown_lcore (w : Wave) (o : Option Nat) : (w.slotDown o).lcore = w.lcore := by cases o <;> rfl
@[simp] theorem Wave.slotDown_ctx (w : Wave) (o : Option Nat) : (w.slotDown o).ctx = w.ctx := by cases o <;> rfl
@[simp] theorem Wave.slotDown_priv (w : Wave) (o : Option Nat) : (w.slotDown o).priv = w.priv := by cases o <;> rfl
@[simp] theorem Wave.slotDown_prio (w : Wave) (o : Option Nat) : (w.slotDown o).prio = w.prio := by cases o <;> rfl
@[simp] theorem Wave.slotDown_vregs (w : Wave) (o : Option Nat) : (w.slotDown o).vregs = w.vregs := by cases o <;> rfl
@[simp] theorem Wave.slotDown_age (w : Wave) (o : Option Nat) : (w.slotDown o).age = w.age := by cases o <;> rfl
@[simp] theorem Wave.slotDown_issued (w : Wave) (o : Option Nat) : (w.slotDown o).issued = w.issued := by cases o <;> rfl
@[simp] theorem Wave.slotDown_ready (w : Wave) (o : Option Nat) : (w.slotDown o).ready = w.ready := by cases o <;> rfl
@[simp] theorem Wave.slotDown_watch (w : Wave) (o : Option Nat) : (w.slotDown o).watch = w.watch := by cases o <;> rfl
@[simp] theorem Wave.slotDown_bankUse (w : Wave) (o : Option Nat) : (w.slotDown o).bankUse = w.bankUse := by cases o <;> rfl
@[simp] theorem Wave.slotDown_tabUse (w : Wave) (o : Option Nat) : (w.slotDown o).tabUse = w.tabUse := by cases o <;> rfl
@[simp] theorem Wave.slotDown_dueFault (w : Wave) (o : Option Nat) : (w.slotDown o).dueFault = w.dueFault := by cases o <;> rfl
@[simp] theorem Wave.slotDown_duePark (w : Wave) (o : Option Nat) : (w.slotDown o).duePark = w.duePark := by cases o <;> rfl
@[simp] theorem Wave.slotDown_sync (w : Wave) (o : Option Nat) : (w.slotDown o).sync = w.sync := by cases o <;> rfl
@[simp] theorem Wave.slotDown_syncTx (w : Wave) (o : Option Nat) : (w.slotDown o).syncTx = w.syncTx := by cases o <;> rfl
@[simp] theorem Wave.slotDown_coreSeen (w : Wave) (o : Option Nat) : (w.slotDown o).coreSeen = w.coreSeen := by cases o <;> rfl
@[simp] theorem Wave.slotDown_bad (w : Wave) (o : Option Nat) : (w.slotDown o).bad = w.bad := by cases o <;> rfl

/-! ## Registers: a read after a write -/

theorem Wave.sreg_setS (w : Wave) (n m : Nat) (x : Word) (h : Cells.wf w.s = true) :
    (w.setS n x).sreg m = if n = m then x else w.sreg m := Cells.get_set w.s n x m h

theorem Wave.vreg_setV (w : Wave) (n l m k : Nat) (x : Lane) (h : Cells.wf w.v = true) (hl : l < 32) (hk : k < 32) :
    (w.setV n l x).vreg m k = if n = m ∧ l = k then x else w.vreg m k := by
  unfold Wave.vreg Wave.setV
  rw [Cells.get_set w.v _ x _ h]
  by_cases hc : n = m ∧ l = k
  · rw [if_pos (by omega), if_pos hc]
  · rw [if_neg (by omega), if_neg hc]

theorem Wave.preg_setP (w : Wave) (n m : Nat) (x : Lane) (h : Cells.wf w.p = true) (hn : n ≠ 7) :
    (w.setP n x).preg m = if n = m then x else w.preg m := by
  unfold Wave.preg Wave.setP
  rw [if_neg hn]
  by_cases hm : m = 7
  · subst hm; simp [hn]
  · rw [if_neg hm, if_neg hm]; exact Cells.get_set w.p n x m h

/-- A write to p7 is discarded (R31). -/
theorem Wave.setP_seven (w : Wave) (x : Lane) : w.setP 7 x = w := rfl

theorem Wave.slot_slotUp (w : Wave) (n m : Nat) (h : Cells.wf w.sb = true) :
    (w.slotUp n).slot m = if n = m then w.slot n + 1 else w.slot m := by
  unfold Wave.slotUp Wave.slot
  rw [Cells.get_set w.sb n _ m h]

end Sys2Proof.Machine
end

