-- ==== Sys2Proof/Laws/Memory.lean ====
section
/-! SUPPORT. Device memory: a read after a write, and that every operation on memory keeps the canonical form. -/

namespace Sys2Proof.Machine

theorem Memory.read_write (m : Memory) (a b : Nat) (x : Byte) (h : Memory.wf m = true) :
    Memory.read (Memory.write m a x) b = if a = b then x else Memory.read m b := Cells.get_set m a x b h

theorem Memory.wf_write (m : Memory) (a : Nat) (x : Byte) (h : Memory.wf m = true) : Memory.wf (Memory.write m a x) = true := Cells.wf_set m a x h

theorem Memory.wf_reset : Memory.wf State.reset.store.data = true := rfl

theorem Memory.wf_putBytes (m : Memory) (base n x : Nat) (h : Memory.wf m = true) : Memory.wf (putBytes m base n x) = true := by
  induction n with
  | zero => exact h
  | succ n ih => exact Memory.wf_write _ _ _ ih

/-- What a run of bytes leaves at an address: its own byte inside it, the old one outside. -/
theorem Memory.read_putBytes (m : Memory) (base n x a : Nat) (h : Memory.wf m = true) :
    Memory.read (putBytes m base n x) a = if base ≤ a ∧ a < base + n then BitVec.ofNat 8 (x >>> (8 * (a - base))) else Memory.read m a := by
  induction n with
  | zero => rw [if_neg (by omega)]; rfl
  | succ n ih =>
    rw [putBytes, Memory.read_write _ _ _ _ (Memory.wf_putBytes m base n x h), ih]
    by_cases h1 : base + n = a
    · rw [if_pos h1, if_pos (by omega)]; subst h1; rw [Nat.add_sub_cancel_left]
    · rw [if_neg h1]
      by_cases h2 : base ≤ a ∧ a < base + n
      · rw [if_pos h2, if_pos (by omega)]
      · rw [if_neg h2, if_neg (by omega)]

theorem Memory.wf_putLine (m : Memory) (line x : Nat) (h : Memory.wf m = true) : Memory.wf (putLine m line x) = true :=
  Memory.wf_putBytes m _ _ _ h

theorem Memory.read_putLine (m : Memory) (line x a : Nat) (h : Memory.wf m = true) :
    Memory.read (putLine m line x) a = if a / 64 = line then BitVec.ofNat 8 (x >>> (8 * (a % 64))) else Memory.read m a := by
  rw [putLine, Memory.read_putBytes m _ _ _ _ h]
  by_cases hl : a / 64 = line
  · rw [if_pos (by omega), if_pos hl, show a - 64 * line = a % 64 by omega]
  · rw [if_neg (by omega), if_neg hl]

/-! ## The stored lines -/

theorem Store.wf_iff (st : Store) : st.wf = true ↔
    Memory.wf st.data = true ∧ Cells.wf st.side = true ∧ Memory.wf st.data2 = true ∧ Cells.wf st.side2 = true ∧ Cells.wf st.code = true := by
  simp only [Store.wf, Bool.and_eq_true, and_assoc]

theorem Store.wf_put1 (st : Store) (line : Nat) (l : LineBits) (h : st.wf = true) : (st.put1 line l).wf = true := by
  rw [Store.wf_iff] at h ⊢
  obtain ⟨h1, h2, h3, h4, h5⟩ := h
  simp only [Store.put1]
  exact ⟨Memory.wf_putLine st.data line l.data h1, Cells.wf_set st.side line _ h2, h3, h4, h5⟩

theorem Store.wf_put2 (st : Store) (line : Nat) (l : LineBits) (h : st.wf = true) : (st.put2 line l).wf = true := by
  rw [Store.wf_iff] at h ⊢
  obtain ⟨h1, h2, h3, h4, h5⟩ := h
  simp only [Store.put2]
  exact ⟨h1, h2, Memory.wf_putLine st.data2 line l.data h3, Cells.wf_set st.side2 line _ h4, h5⟩

theorem Store.wf_code (st : Store) (line : Nat) (x : BitVec 4) (h : st.wf = true) : Store.wf { st with code := Cells.set st.code line x } = true := by
  rw [Store.wf_iff] at h ⊢
  exact ⟨h.1, h.2.1, h.2.2.1, h.2.2.2.1, Cells.wf_set _ _ _ h.2.2.2.2⟩

/-- Everything that a doom or wake can change: the waves, and the number of the next write that wakes. -/
theorem State.touchLine_eq (s : State) (g line : Nat) :
    s.touchLine g line = { s with me := (s.touchLine g line).me, others := (s.touchLine g line).others, wakes := (s.touchLine g line).wakes } := by
  simp only [State.touchLine]
  split <;> rfl

@[simp] theorem State.touchLine_store (s : State) (g line : Nat) : (s.touchLine g line).store = s.store := by
  rw [State.touchLine_eq]

@[simp] theorem State.touchLine_crews (s : State) (g line : Nat) : (s.touchLine g line).crews = s.crews := by
  rw [State.touchLine_eq]

@[simp] theorem State.touchLine_ctxs (s : State) (g line : Nat) : (s.touchLine g line).ctxs = s.ctxs := by
  rw [State.touchLine_eq]

/-- A write at a home keeps device memory in its canonical form. -/
theorem State.wf_homeWrite (s : State) (g line mask value : Nat) (scale : Option Nat) (code : Nat) (h : s.store.wf = true) :
    (s.homeWrite g line mask value scale code).store.wf = true := by
  simp only [State.homeWrite, State.touchLine_store]
  apply Store.wf_code
  split
  · exact Store.wf_put2 _ _ _ (Store.wf_put1 _ _ _ h)
  · exact Store.wf_put1 _ _ _ h

/-- Everything a write at a home can change: the stored lines, the replica copies of the line, the waves that it dooms or wakes, and the number of the next
write that wakes. -/
theorem State.homeWrite_frame (s : State) (g line mask value : Nat) (scale : Option Nat) (code : Nat) :
    let u := s.homeWrite g line mask value scale code
    u = { s with
      me := u.me
      others := u.others
      store := u.store
      wakes := u.wakes
      caches := { s.caches with replicas := s.caches.replicas.filter fun r => r.line != line } } := by
  simp only [State.homeWrite]
  rw [State.touchLine_eq]

theorem State.wf_discardLine (s : State) (g line code : Nat) (h : s.store.wf = true) : (s.discardLine g line code).store.wf = true := by
  have key (st : Store) (hs : st.wf = true) (d : Nat) : Store.wf { st with code := Cells.set st.code line (BitVec.ofNat 4 d) } = true :=
    Store.wf_code _ _ _ hs
  simp only [State.discardLine]
  split
  · apply State.wf_homeWrite
    simp only [State.touchLine_store]
    apply key
    split
    · exact Store.wf_put2 _ _ _ (Store.wf_put1 _ _ _ h)
    · exact Store.wf_put1 _ _ _ h
  · simp only [State.touchLine_store]
    apply key
    split
    · exact Store.wf_put2 _ _ _ (Store.wf_put1 _ _ _ h)
    · exact Store.wf_put1 _ _ _ h

theorem State.wf_writePhys (s : State) (g a size value : Nat) (h : s.store.wf = true) : (s.writePhys g a size value).store.wf = true :=
  State.wf_homeWrite _ _ _ _ _ _ _ h

theorem State.wf_writePhysBytes (s : State) (g a : Nat) (l : List Byte) (h : s.store.wf = true) : (s.writePhysBytes g a l).store.wf = true := by
  induction l generalizing s a with
  | nil => exact h
  | cons b r ih => exact ih _ _ (State.wf_writePhys _ _ _ _ _ h)

theorem State.wf_setPageWord (s : State) (c i : Nat) (x : Word) (h : s.store.wf = true) : (s.setPageWord c i x).store.wf = true :=
  State.wf_writePhys _ _ _ _ _ h

end Sys2Proof.Machine
end

