-- ==== Sys2Proof/Laws/Ops.lean ====
section
/-! SUPPORT. What the shared operations of an issue do, said once: the verdict's one consequence, falling through, going elsewhere, and going in
flight. -/

namespace Sys2Proof.Machine

/-- Everything an instruction word can do at an issue opportunity: its verdict's one consequence. -/
theorem State.perform_eq (s : State) (i : Instr) (e : State → State) : s.perform i e = .next (match s.verdict i with
    | .hold => s
    | .due => s.takeDue
    | .doomed => s.mapMe (Wave.conflictAbort s.time)
    | .stop cause => s.raise cause 0 0
    | .idle => s.finish id
    | .parity => s.parityFault
    | .forbidden => s.abortTx 6 0 0x09
    | .stall => s.stall i
    | .go => e s) := rfl

theorem State.perform_go (s : State) (i : Instr) (e : State → State) (h : s.verdict i = .go) : s.perform i e = .next (e s) := by
  rw [State.perform_eq, h]

theorem State.perform_hold (s : State) (i : Instr) (e : State → State) (h : s.verdict i = .hold) : s.perform i e = .next s := by
  rw [State.perform_eq, h]

theorem State.perform_idle (s : State) (i : Instr) (e : State → State) (h : s.verdict i = .idle) : s.perform i e = .next (s.finish id) := by
  rw [State.perform_eq, h]

theorem State.perform_stall (s : State) (i : Instr) (e : State → State) (h : s.verdict i = .stall) : s.perform i e = .next (s.stall i) := by
  rw [State.perform_eq, h]

/-- Where nothing reaches a running wave at this boundary, the verdict is the gate's. -/
theorem State.verdict_eq_gate (s : State) (i : Instr) (hr : s.me.run = .running) (hf : s.frozen s.me = false) (hd : s.me.hasDue = false)
    (ht : s.me.endsDoomed i = false) : s.verdict i = s.gate i := by
  unfold State.verdict
  rw [if_neg (by simp [hr, hf]), if_neg (by simp [hd]), if_neg (by simp [ht])]

/-- Everything that an instruction does which issues and waits to act. -/
theorem State.stall_eq (s : State) (i : Instr) : s.stall i = { s with me := { s.me.stamp s.time with run := .stalled i } } := rfl

/-! ## What an issue leaves alone -/

@[simp] theorem Wave.bare_stamp (t : Nat) (w : Wave) : (w.stamp t).bare = w.bare := rfl

@[simp] theorem Wave.bare_fallThrough (w : Wave) : w.fallThrough.bare = w.bare := rfl

@[simp] theorem Wave.bare_branchTo (t : Nat) (a : Word) (w : Wave) : (w.branchTo t a).bare = w.bare := rfl

/-- An update that leaves the program counter and the loops alone commutes with falling through. -/
theorem Wave.fallThrough_of (w x : Wave) (hp : x.pc = w.pc) (hl : x.loops = w.loops) :
    x.fallThrough.pc = w.fallThrough.pc ∧ x.fallThrough.loops = w.fallThrough.loops := by
  simp only [Wave.fallThrough_pc, Wave.fallThrough_loops, hp, hl, and_self]

/-- Everything that `finish` does: the executing wave is changed by the update and falls through, and nothing else differs. -/
theorem State.finish_eq (s : State) (f : Wave → Wave) : s.finish f = { s with me := (f (s.me.stamp s.time)).fallThrough } := rfl

theorem State.onlyMe_finish (s : State) (f : Wave → Wave) : onlyMe s (s.finish f) := rfl

theorem State.fellThrough_finish (s : State) (f : Wave → Wave) (h : ∀ w, (f w).pc = w.pc ∧ (f w).loops = w.loops) :
    fellThrough s (s.finish f) :=
  Wave.fallThrough_of s.me (f (s.me.stamp s.time)) (h _).1 (h _).2

theorem State.onlyIssued_finish (s : State) : onlyIssued s (s.finish id) := ⟨rfl, rfl, State.fellThrough_finish s id fun _ => ⟨rfl, rfl⟩⟩

/-- Everything that `jump` does: the executing wave is changed by the update and goes to the target. -/
theorem State.jump_eq (s : State) (a : Word) (f : Wave → Wave) : s.jump a f = { s with me := (f (s.me.stamp s.time)).branchTo s.time a } := rfl

theorem State.jumped_jump (s : State) (a : Word) : jumped s (s.jump a id) a := ⟨rfl, rfl, rfl, rfl⟩

/-- Everything that `launchFlight` does: one operation more is in flight and its slot is one higher. -/
theorem State.inFlight_launchFlight (s : State) (c : Ctl) (cls : OrdClass) (b : Pending) : Machine.inFlight s (s.launchFlight c cls b) c cls b := by
  refine ⟨rfl, ?_⟩
  unfold State.launchFlight Wave.fly Wave.raiseSlot Wave.flyRaised slotOfCtl
  rw [State.finish_me]
  cases c.se <;> simp [Wave.bare, Wave.slotUp, Wave.slot, Wave.stamp, Wave.fallThrough]

/-- Everything that `endFlight` does. -/
theorem State.landed_endFlight (s : State) (g : Nat) (f : Flight) (upd : Wave → Wave) : landed s (s.endFlight g f upd) g f upd := rfl

/-- The meaning of every instruction word is `perform` of one effect: what an issue can do is said by `State.perform_eq` alone. -/
theorem exec_perform (s : State) (i : Instr) (h : isWord i = true) : ∃ e, exec i s = s.perform i e := by
  cases i <;> first
    | exact nomatch (show false = true from h)
    | (delta exec; exact ⟨_, rfl⟩)

/-! ## Values -/

/-- The mask of active lanes of a predicate and of its complement share no lane (R31). -/
theorem Wave.act_disjoint (w : Wave) (c d : Ctl) (hp : c.pr = d.pr) (hc : c.pn = false) (hd : d.pn = true) : w.act c &&& w.act d = 0 := by
  simp [Wave.act, hc, hd, hp]

end Sys2Proof.Machine
end

