-- ==== Sys2Proof/Laws/PerInstr.lean ====
section
/-! SUPPORT. Statements made of every instruction as syntax: the family Shape, one lemma per constructor. -/

namespace Sys2Proof.Laws.Shape

open Sys2Proof Sys2Proof.Machine

/-- R158, R159, R170: an instruction's word carries an OP that the opcode map assigns, and its low 16 bits are the instruction's control fields. -/
def Statement (i : Instr) : Prop := isWord i = true → (encodeFields i).op.toNat ∈ assignedOps ∧ (encodeFields i).lo = (ctlOf i).toBits


theorem nop x0 : Statement (.nop x0) := fun _ => ⟨(by decide : (BitVec.toNat 0x01#8) ∈ assignedOps), rfl⟩

theorem br x0 x1 x2 : Statement (.br x0 x1 x2) := fun _ => ⟨(by decide : (BitVec.toNat 0x02#8) ∈ assignedOps), rfl⟩

theorem call x0 x1 x2 : Statement (.call x0 x1 x2) := fun _ => ⟨(by decide : (BitVec.toNat 0x03#8) ∈ assignedOps), rfl⟩

theorem lea x0 x1 x2 : Statement (.lea x0 x1 x2) := fun _ => ⟨(by decide : (BitVec.toNat 0x09#8) ∈ assignedOps), rfl⟩

theorem jr x0 x1 : Statement (.jr x0 x1) := fun _ => ⟨(by decide : (BitVec.toNat 0x04#8) ∈ assignedOps), rfl⟩

theorem jalr x0 x1 x2 : Statement (.jalr x0 x1 x2) := fun _ => ⟨(by decide : (BitVec.toNat 0x05#8) ∈ assignedOps), rfl⟩

theorem loop x0 x1 x2 x3 : Statement (.loop x0 x1 x2 x3) := fun _ => ⟨(by decide : (BitVec.toNat 0x06#8) ∈ assignedOps), rfl⟩

theorem li x0 x1 x2 : Statement (.li x0 x1 x2) := fun _ => ⟨(by decide : (BitVec.toNat 0x07#8) ∈ assignedOps), rfl⟩

theorem lih x0 x1 x2 : Statement (.lih x0 x1 x2) := fun _ => ⟨(by decide : (BitVec.toNat 0x08#8) ∈ assignedOps), rfl⟩

theorem mulh x0 x1 x2 x3 x4 : Statement (.mulh x0 x1 x2 x3 x4) := fun _ => ⟨(by decide : (BitVec.toNat 0x0A#8) ∈ assignedOps), rfl⟩

theorem csel x0 x1 x2 x3 x4 : Statement (.csel x0 x1 x2 x3 x4) := fun _ => ⟨(by decide : (BitVec.toNat 0x0B#8) ∈ assignedOps), rfl⟩

theorem add x0 x1 x2 x3 x4 : Statement (.add x0 x1 x2 x3 x4) := fun _ => ⟨(by decide : (BitVec.toNat 0x20#8) ∈ assignedOps), rfl⟩

theorem addImm x0 x1 x2 x3 x4 : Statement (.addImm x0 x1 x2 x3 x4) := fun _ => ⟨(by decide : (BitVec.toNat 0x21#8) ∈ assignedOps), rfl⟩

theorem sub x0 x1 x2 x3 x4 : Statement (.sub x0 x1 x2 x3 x4) := fun _ => ⟨(by decide : (BitVec.toNat 0x22#8) ∈ assignedOps), rfl⟩

theorem mul x0 x1 x2 x3 x4 : Statement (.mul x0 x1 x2 x3 x4) := fun _ => ⟨(by decide : (BitVec.toNat 0x23#8) ∈ assignedOps), rfl⟩

theorem mulImm x0 x1 x2 x3 x4 : Statement (.mulImm x0 x1 x2 x3 x4) := fun _ => ⟨(by decide : (BitVec.toNat 0x24#8) ∈ assignedOps), rfl⟩

theorem mad x0 x1 x2 x3 x4 x5 : Statement (.mad x0 x1 x2 x3 x4 x5) := fun _ => ⟨(by decide : (BitVec.toNat 0x25#8) ∈ assignedOps), rfl⟩

theorem mov x0 x1 x2 : Statement (.mov x0 x1 x2) := fun _ => ⟨(by decide : (BitVec.toNat 0x26#8) ∈ assignedOps), rfl⟩

theorem and x0 x1 x2 x3 x4 : Statement (.and x0 x1 x2 x3 x4) := fun _ => ⟨(by decide : (BitVec.toNat 0x27#8) ∈ assignedOps), rfl⟩

theorem andImm x0 x1 x2 x3 x4 : Statement (.andImm x0 x1 x2 x3 x4) := fun _ => ⟨(by decide : (BitVec.toNat 0x28#8) ∈ assignedOps), rfl⟩

theorem or x0 x1 x2 x3 x4 : Statement (.or x0 x1 x2 x3 x4) := fun _ => ⟨(by decide : (BitVec.toNat 0x29#8) ∈ assignedOps), rfl⟩

theorem orImm x0 x1 x2 x3 x4 : Statement (.orImm x0 x1 x2 x3 x4) := fun _ => ⟨(by decide : (BitVec.toNat 0x2A#8) ∈ assignedOps), rfl⟩

theorem xor x0 x1 x2 x3 x4 : Statement (.xor x0 x1 x2 x3 x4) := fun _ => ⟨(by decide : (BitVec.toNat 0x2B#8) ∈ assignedOps), rfl⟩

theorem xorImm x0 x1 x2 x3 x4 : Statement (.xorImm x0 x1 x2 x3 x4) := fun _ => ⟨(by decide : (BitVec.toNat 0x2C#8) ∈ assignedOps), rfl⟩

theorem not x0 x1 x2 x3 : Statement (.not x0 x1 x2 x3) := fun _ => ⟨(by decide : (BitVec.toNat 0x2D#8) ∈ assignedOps), rfl⟩

theorem shl x0 x1 x2 x3 x4 : Statement (.shl x0 x1 x2 x3 x4) := fun _ => ⟨(by decide : (BitVec.toNat 0x2E#8) ∈ assignedOps), rfl⟩

theorem shlImm x0 x1 x2 x3 x4 : Statement (.shlImm x0 x1 x2 x3 x4) := fun _ => ⟨(by decide : (BitVec.toNat 0x2F#8) ∈ assignedOps), rfl⟩

theorem lsr x0 x1 x2 x3 x4 : Statement (.lsr x0 x1 x2 x3 x4) := fun _ => ⟨(by decide : (BitVec.toNat 0x30#8) ∈ assignedOps), rfl⟩

theorem lsrImm x0 x1 x2 x3 x4 : Statement (.lsrImm x0 x1 x2 x3 x4) := fun _ => ⟨(by decide : (BitVec.toNat 0x31#8) ∈ assignedOps), rfl⟩

theorem asr x0 x1 x2 x3 x4 : Statement (.asr x0 x1 x2 x3 x4) := fun _ => ⟨(by decide : (BitVec.toNat 0x32#8) ∈ assignedOps), rfl⟩

theorem asrImm x0 x1 x2 x3 x4 : Statement (.asrImm x0 x1 x2 x3 x4) := fun _ => ⟨(by decide : (BitVec.toNat 0x33#8) ∈ assignedOps), rfl⟩

theorem min x0 x1 x2 x3 x4 : Statement (.min x0 x1 x2 x3 x4) := fun _ => ⟨(by decide : (BitVec.toNat 0x34#8) ∈ assignedOps), rfl⟩

theorem max x0 x1 x2 x3 x4 : Statement (.max x0 x1 x2 x3 x4) := fun _ => ⟨(by decide : (BitVec.toNat 0x35#8) ∈ assignedOps), rfl⟩

theorem cmp x0 x1 x2 x3 x4 x5 : Statement (.cmp x0 x1 x2 x3 x4 x5) := fun _ => ⟨(by decide : (BitVec.toNat 0x36#8) ∈ assignedOps), rfl⟩

theorem cmpImm x0 x1 x2 x3 x4 x5 : Statement (.cmpImm x0 x1 x2 x3 x4 x5) := fun _ => ⟨(by decide : (BitVec.toNat 0x37#8) ∈ assignedOps), rfl⟩

theorem bfx x0 x1 x2 x3 x4 x5 : Statement (.bfx x0 x1 x2 x3 x4 x5) := fun _ => ⟨(by decide : (BitVec.toNat 0x38#8) ∈ assignedOps), rfl⟩

theorem bfi x0 x1 x2 x3 x4 x5 : Statement (.bfi x0 x1 x2 x3 x4 x5) := fun _ => ⟨(by decide : (BitVec.toNat 0x39#8) ∈ assignedOps), rfl⟩

theorem popc x0 x1 x2 x3 : Statement (.popc x0 x1 x2 x3) := fun _ => ⟨(by decide : (BitVec.toNat 0x3A#8) ∈ assignedOps), rfl⟩

theorem clz x0 x1 x2 x3 : Statement (.clz x0 x1 x2 x3) := fun _ => ⟨(by decide : (BitVec.toNat 0x3B#8) ∈ assignedOps), rfl⟩

theorem perm x0 x1 x2 x3 x4 : Statement (.perm x0 x1 x2 x3 x4) := fun _ => ⟨(by decide : (BitVec.toNat 0x3C#8) ∈ assignedOps), rfl⟩

theorem red x0 x1 x2 x3 x4 : Statement (.red x0 x1 x2 x3 x4) := fun _ => ⟨(by decide : (BitVec.toNat 0x3D#8) ∈ assignedOps), rfl⟩

theorem gaddr x0 x1 x2 x3 x4 : Statement (.gaddr x0 x1 x2 x3 x4) := fun _ => ⟨(by decide : (BitVec.toNat 0x3E#8) ∈ assignedOps), rfl⟩

theorem addFloat x0 x1 x2 x3 x4 x5 x6 : Statement (.addFloat x0 x1 x2 x3 x4 x5 x6) := fun _ => ⟨(by decide : (BitVec.toNat 0x40#8) ∈ assignedOps), rfl⟩

theorem subFloat x0 x1 x2 x3 x4 x5 x6 : Statement (.subFloat x0 x1 x2 x3 x4 x5 x6) := fun _ => ⟨(by decide : (BitVec.toNat 0x41#8) ∈ assignedOps), rfl⟩

theorem mulFloat x0 x1 x2 x3 x4 x5 x6 : Statement (.mulFloat x0 x1 x2 x3 x4 x5 x6) := fun _ => ⟨(by decide : (BitVec.toNat 0x42#8) ∈ assignedOps), rfl⟩

theorem fma x0 x1 x2 x3 x4 x5 x6 : Statement (.fma x0 x1 x2 x3 x4 x5 x6) := fun _ => ⟨(by decide : (BitVec.toNat 0x43#8) ∈ assignedOps), rfl⟩

theorem fms x0 x1 x2 x3 x4 x5 x6 : Statement (.fms x0 x1 x2 x3 x4 x5 x6) := fun _ => ⟨(by decide : (BitVec.toNat 0x44#8) ∈ assignedOps), rfl⟩

theorem minFloat x0 x1 x2 x3 x4 : Statement (.minFloat x0 x1 x2 x3 x4) := fun _ => ⟨(by decide : (BitVec.toNat 0x45#8) ∈ assignedOps), rfl⟩

theorem maxFloat x0 x1 x2 x3 x4 : Statement (.maxFloat x0 x1 x2 x3 x4) := fun _ => ⟨(by decide : (BitVec.toNat 0x46#8) ∈ assignedOps), rfl⟩

theorem abs x0 x1 x2 x3 : Statement (.abs x0 x1 x2 x3) := fun _ => ⟨(by decide : (BitVec.toNat 0x47#8) ∈ assignedOps), rfl⟩

theorem neg x0 x1 x2 x3 : Statement (.neg x0 x1 x2 x3) := fun _ => ⟨(by decide : (BitVec.toNat 0x48#8) ∈ assignedOps), rfl⟩

theorem div x0 x1 x2 x3 x4 x5 x6 : Statement (.div x0 x1 x2 x3 x4 x5 x6) := fun _ => ⟨(by decide : (BitVec.toNat 0x49#8) ∈ assignedOps), rfl⟩

theorem sqrt x0 x1 x2 x3 x4 x5 : Statement (.sqrt x0 x1 x2 x3 x4 x5) := fun _ => ⟨(by decide : (BitVec.toNat 0x4A#8) ∈ assignedOps), rfl⟩

theorem rcp x0 x1 x2 x3 : Statement (.rcp x0 x1 x2 x3) := fun _ => ⟨(by decide : (BitVec.toNat 0x4B#8) ∈ assignedOps), rfl⟩

theorem rsqrt x0 x1 x2 x3 : Statement (.rsqrt x0 x1 x2 x3) := fun _ => ⟨(by decide : (BitVec.toNat 0x4C#8) ∈ assignedOps), rfl⟩

theorem exp2 x0 x1 x2 x3 : Statement (.exp2 x0 x1 x2 x3) := fun _ => ⟨(by decide : (BitVec.toNat 0x4D#8) ∈ assignedOps), rfl⟩

theorem log2 x0 x1 x2 x3 : Statement (.log2 x0 x1 x2 x3) := fun _ => ⟨(by decide : (BitVec.toNat 0x4E#8) ∈ assignedOps), rfl⟩

theorem sin x0 x1 x2 x3 : Statement (.sin x0 x1 x2 x3) := fun _ => ⟨(by decide : (BitVec.toNat 0x4F#8) ∈ assignedOps), rfl⟩

theorem cos x0 x1 x2 x3 : Statement (.cos x0 x1 x2 x3) := fun _ => ⟨(by decide : (BitVec.toNat 0x50#8) ∈ assignedOps), rfl⟩

theorem tanh x0 x1 x2 x3 : Statement (.tanh x0 x1 x2 x3) := fun _ => ⟨(by decide : (BitVec.toNat 0x51#8) ∈ assignedOps), rfl⟩

theorem cvt x0 x1 x2 x3 x4 x5 x6 : Statement (.cvt x0 x1 x2 x3 x4 x5 x6) := fun _ => ⟨(by decide : (BitVec.toNat 0x52#8) ∈ assignedOps), rfl⟩

theorem bq x0 x1 x2 x3 : Statement (.bq x0 x1 x2 x3) := fun _ => ⟨(by decide : (BitVec.toNat 0x53#8) ∈ assignedOps), rfl⟩

theorem bdq x0 x1 x2 x3 x4 x5 x6 : Statement (.bdq x0 x1 x2 x3 x4 x5 x6) := fun _ => ⟨(by decide : (BitVec.toNat 0x54#8) ∈ assignedOps), rfl⟩

theorem cbq x0 x1 x2 x3 x4 : Statement (.cbq x0 x1 x2 x3 x4) := fun _ => ⟨(by decide : (BitVec.toNat 0x55#8) ∈ assignedOps), rfl⟩

theorem cbl x0 x1 x2 x3 x4 : Statement (.cbl x0 x1 x2 x3 x4) := fun _ => ⟨(by decide : (BitVec.toNat 0x56#8) ∈ assignedOps), rfl⟩

theorem rnd128 x0 x1 x2 x3 : Statement (.rnd128 x0 x1 x2 x3) := fun _ => ⟨(by decide : (BitVec.toNat 0x57#8) ∈ assignedOps), rfl⟩

theorem flget x0 x1 : Statement (.flget x0 x1) := fun _ => ⟨(by decide : (BitVec.toNat 0x58#8) ∈ assignedOps), rfl⟩

theorem flclr x0 x1 : Statement (.flclr x0 x1) := fun _ => ⟨(by decide : (BitVec.toNat 0x59#8) ∈ assignedOps), rfl⟩

theorem fclass x0 x1 x2 x3 : Statement (.fclass x0 x1 x2 x3) := fun _ => ⟨(by decide : (BitVec.toNat 0x5A#8) ∈ assignedOps), rfl⟩

theorem frnd x0 x1 x2 x3 x4 x5 : Statement (.frnd x0 x1 x2 x3 x4 x5) := fun _ => ⟨(by decide : (BitVec.toNat 0x5B#8) ∈ assignedOps), rfl⟩

theorem ldG x0 x1 x2 x3 x4 : Statement (.ldG x0 x1 x2 x3 x4) := fun _ => ⟨(by decide : (BitVec.toNat 0x60#8) ∈ assignedOps), rfl⟩

theorem stG x0 x1 x2 x3 x4 : Statement (.stG x0 x1 x2 x3 x4) := fun _ => ⟨(by decide : (BitVec.toNat 0x61#8) ∈ assignedOps), rfl⟩

theorem ldS x0 x1 x2 x3 x4 : Statement (.ldS x0 x1 x2 x3 x4) := fun _ => ⟨(by decide : (BitVec.toNat 0x62#8) ∈ assignedOps), rfl⟩

theorem stS x0 x1 x2 x3 x4 : Statement (.stS x0 x1 x2 x3 x4) := fun _ => ⟨(by decide : (BitVec.toNat 0x63#8) ∈ assignedOps), rfl⟩

theorem pfG x0 x1 : Statement (.pfG x0 x1) := fun _ => ⟨(by decide : (BitVec.toNat 0x64#8) ∈ assignedOps), rfl⟩

theorem atomAdd x0 x1 x2 x3 x4 x5 : Statement (.atomAdd x0 x1 x2 x3 x4 x5) := fun _ => ⟨(by decide : (BitVec.toNat 0x80#8) ∈ assignedOps), rfl⟩

theorem atomMin x0 x1 x2 x3 x4 x5 : Statement (.atomMin x0 x1 x2 x3 x4 x5) := fun _ => ⟨(by decide : (BitVec.toNat 0x81#8) ∈ assignedOps), rfl⟩

theorem atomMax x0 x1 x2 x3 x4 x5 : Statement (.atomMax x0 x1 x2 x3 x4 x5) := fun _ => ⟨(by decide : (BitVec.toNat 0x82#8) ∈ assignedOps), rfl⟩

theorem atomAnd x0 x1 x2 x3 x4 x5 : Statement (.atomAnd x0 x1 x2 x3 x4 x5) := fun _ => ⟨(by decide : (BitVec.toNat 0x83#8) ∈ assignedOps), rfl⟩

theorem atomOr x0 x1 x2 x3 x4 x5 : Statement (.atomOr x0 x1 x2 x3 x4 x5) := fun _ => ⟨(by decide : (BitVec.toNat 0x84#8) ∈ assignedOps), rfl⟩

theorem atomXor x0 x1 x2 x3 x4 x5 : Statement (.atomXor x0 x1 x2 x3 x4 x5) := fun _ => ⟨(by decide : (BitVec.toNat 0x85#8) ∈ assignedOps), rfl⟩

theorem atomXchg x0 x1 x2 x3 x4 x5 : Statement (.atomXchg x0 x1 x2 x3 x4 x5) := fun _ => ⟨(by decide : (BitVec.toNat 0x86#8) ∈ assignedOps), rfl⟩

theorem atomCas x0 x1 x2 x3 x4 x5 : Statement (.atomCas x0 x1 x2 x3 x4 x5) := fun _ => ⟨(by decide : (BitVec.toNat 0x87#8) ∈ assignedOps), rfl⟩

theorem fence x0 x1 x2 : Statement (.fence x0 x1 x2) := fun _ => ⟨(by decide : (BitVec.toNat 0x88#8) ∈ assignedOps), rfl⟩

theorem ldf x0 x1 x2 x3 : Statement (.ldf x0 x1 x2 x3) := fun _ => ⟨(by decide : (BitVec.toNat 0x89#8) ∈ assignedOps), rfl⟩

theorem ldfc x0 x1 x2 x3 : Statement (.ldfc x0 x1 x2 x3) := fun _ => ⟨(by decide : (BitVec.toNat 0x8A#8) ∈ assignedOps), rfl⟩

theorem stf x0 x1 x2 x3 : Statement (.stf x0 x1 x2 x3) := fun _ => ⟨(by decide : (BitVec.toNat 0x8B#8) ∈ assignedOps), rfl⟩

theorem feset x0 x1 x2 : Statement (.feset x0 x1 x2) := fun _ => ⟨(by decide : (BitVec.toNat 0x8C#8) ∈ assignedOps), rfl⟩

theorem feclr x0 x1 x2 : Statement (.feclr x0 x1 x2) := fun _ => ⟨(by decide : (BitVec.toNat 0x8D#8) ∈ assignedOps), rfl⟩

theorem discard x0 x1 x2 : Statement (.discard x0 x1 x2) := fun _ => ⟨(by decide : (BitVec.toNat 0x8E#8) ∈ assignedOps), rfl⟩

theorem xbegin x0 x1 : Statement (.xbegin x0 x1) := fun _ => ⟨(by decide : (BitVec.toNat 0x90#8) ∈ assignedOps), rfl⟩

theorem xend x0 : Statement (.xend x0) := fun _ => ⟨(by decide : (BitVec.toNat 0x91#8) ∈ assignedOps), rfl⟩

theorem retry x0 : Statement (.retry x0) := fun _ => ⟨(by decide : (BitVec.toNat 0x92#8) ∈ assignedOps), rfl⟩

theorem otherwise x0 x1 : Statement (.otherwise x0 x1) := fun _ => ⟨(by decide : (BitVec.toNat 0x93#8) ∈ assignedOps), rfl⟩

theorem xabort x0 x1 : Statement (.xabort x0 x1) := fun _ => ⟨(by decide : (BitVec.toNat 0x94#8) ∈ assignedOps), rfl⟩

theorem xstat x0 x1 : Statement (.xstat x0 x1) := fun _ => ⟨(by decide : (BitVec.toNat 0x95#8) ∈ assignedOps), rfl⟩

theorem spawn x0 x1 x2 : Statement (.spawn x0 x1 x2) := fun _ => ⟨(by decide : (BitVec.toNat 0x96#8) ∈ assignedOps), rfl⟩

theorem tret x0 : Statement (.tret x0) := fun _ => ⟨(by decide : (BitVec.toNat 0x97#8) ∈ assignedOps), rfl⟩

theorem progress x0 : Statement (.progress x0) := fun _ => ⟨(by decide : (BitVec.toNat 0x98#8) ∈ assignedOps), rfl⟩

theorem evset x0 x1 : Statement (.evset x0 x1) := fun _ => ⟨(by decide : (BitVec.toNat 0x99#8) ∈ assignedOps), rfl⟩

theorem evclr x0 x1 : Statement (.evclr x0 x1) := fun _ => ⟨(by decide : (BitVec.toNat 0x9A#8) ∈ assignedOps), rfl⟩

theorem launch x0 x1 x2 : Statement (.launch x0 x1 x2) := fun _ => ⟨(by decide : (BitVec.toNat 0x9B#8) ∈ assignedOps), rfl⟩

theorem mxc x0 x1 : Statement (.mxc x0 x1) := fun _ => ⟨(by decide : (BitVec.toNat 0xA0#8) ∈ assignedOps), rfl⟩

theorem cpc x0 x1 : Statement (.cpc x0 x1) := fun _ => ⟨(by decide : (BitVec.toNat 0xA1#8) ∈ assignedOps), rfl⟩

theorem ctld x0 x1 x2 x3 : Statement (.ctld x0 x1 x2 x3) := fun _ => ⟨(by decide : (BitVec.toNat 0xA2#8) ∈ assignedOps), rfl⟩

theorem ctswap x0 x1 : Statement (.ctswap x0 x1) := fun _ => ⟨(by decide : (BitVec.toNat 0xA3#8) ∈ assignedOps), rfl⟩

theorem chartld x0 x1 x2 : Statement (.chartld x0 x1 x2) := fun _ => ⟨(by decide : (BitVec.toNat 0xA4#8) ∈ assignedOps), rfl⟩

theorem accrd x0 x1 x2 x3 : Statement (.accrd x0 x1 x2 x3) := fun _ => ⟨(by decide : (BitVec.toNat 0xA5#8) ∈ assignedOps), rfl⟩

theorem accwr x0 x1 x2 x3 : Statement (.accwr x0 x1 x2 x3) := fun _ => ⟨(by decide : (BitVec.toNat 0xA6#8) ∈ assignedOps), rfl⟩

theorem trap x0 x1 : Statement (.trap x0 x1) := fun _ => ⟨(by decide : (BitVec.toNat 0xB0#8) ∈ assignedOps), rfl⟩

theorem eret x0 : Statement (.eret x0) := fun _ => ⟨(by decide : (BitVec.toNat 0xB1#8) ∈ assignedOps), rfl⟩

theorem srr x0 x1 x2 : Statement (.srr x0 x1 x2) := fun _ => ⟨(by decide : (BitVec.toNat 0xB2#8) ∈ assignedOps), rfl⟩

theorem srw x0 x1 x2 : Statement (.srw x0 x1 x2) := fun _ => ⟨(by decide : (BitVec.toNat 0xB3#8) ∈ assignedOps), rfl⟩

theorem tlbi x0 x1 x2 : Statement (.tlbi x0 x1 x2) := fun _ => ⟨(by decide : (BitVec.toNat 0xB4#8) ∈ assignedOps), rfl⟩

theorem tlbsync x0 : Statement (.tlbsync x0) := fun _ => ⟨(by decide : (BitVec.toNat 0xB5#8) ∈ assignedOps), rfl⟩

theorem sighost x0 x1 : Statement (.sighost x0 x1) := fun _ => ⟨(by decide : (BitVec.toNat 0xB6#8) ∈ assignedOps), rfl⟩

theorem halt x0 : Statement (.halt x0) := fun _ => ⟨(by decide : (BitVec.toNat 0xB7#8) ∈ assignedOps), rfl⟩

theorem illegal x0 : Statement (.illegal x0) := fun h => nomatch (show false = true from h)

theorem slotCompletion x0 x1 : Statement (.slotCompletion x0 x1) := fun h => nomatch (show false = true from h)

theorem storePerformedAtHome x0 x1 x2 : Statement (.storePerformedAtHome x0 x1 x2) := fun h => nomatch (show false = true from h)

theorem atomicAtHome x0 x1 x2 : Statement (.atomicAtHome x0 x1 x2) := fun h => nomatch (show false = true from h)

theorem wakeRestart x0 : Statement (.wakeRestart x0) := fun h => nomatch (show false = true from h)

theorem backoffExpiry x0 : Statement (.backoffExpiry x0) := fun h => nomatch (show false = true from h)

theorem feReexecute x0 : Statement (.feReexecute x0) := fun h => nomatch (show false = true from h)

theorem faultQueueEntryWrite x0 : Statement (.faultQueueEntryWrite x0) := fun h => nomatch (show false = true from h)

theorem matrixMma x0 : Statement (.matrixMma x0) := fun h => nomatch (show false = true from h)

theorem matrixMmaz x0 : Statement (.matrixMmaz x0) := fun h => nomatch (show false = true from h)

theorem matrixZero x0 : Statement (.matrixZero x0) := fun h => nomatch (show false = true from h)

theorem matrixKstep x0 : Statement (.matrixKstep x0) := fun h => nomatch (show false = true from h)

theorem lighterStart x0 x1 : Statement (.lighterStart x0 x1) := fun h => nomatch (show false = true from h)

theorem lighterTurn x0 : Statement (.lighterTurn x0) := fun h => nomatch (show false = true from h)

theorem convNone x0 x1 : Statement (.convNone x0 x1) := fun h => nomatch (show false = true from h)

theorem convElementwise x0 x1 : Statement (.convElementwise x0 x1) := fun h => nomatch (show false = true from h)

theorem expandBf16 x0 x1 : Statement (.expandBf16 x0 x1) := fun h => nomatch (show false = true from h)

theorem expandF32 x0 x1 : Statement (.expandF32 x0 x1) := fun h => nomatch (show false = true from h)

theorem packIn x0 x1 : Statement (.packIn x0 x1) := fun h => nomatch (show false = true from h)

theorem packOut x0 x1 : Statement (.packOut x0 x1) := fun h => nomatch (show false = true from h)

theorem quantBf16 x0 x1 : Statement (.quantBf16 x0 x1) := fun h => nomatch (show false = true from h)

theorem quantF32 x0 x1 : Statement (.quantF32 x0 x1) := fun h => nomatch (show false = true from h)

theorem requantBf16 x0 x1 : Statement (.requantBf16 x0 x1) := fun h => nomatch (show false = true from h)

theorem launchCheck x0 : Statement (.launchCheck x0) := fun h => nomatch (show false = true from h)

theorem berthCycle x0 : Statement (.berthCycle x0) := fun h => nomatch (show false = true from h)

theorem statusLineRewrite x0 : Statement (.statusLineRewrite x0) := fun h => nomatch (show false = true from h)

theorem taskPriorityAge x0 x1 : Statement (.taskPriorityAge x0 x1) := fun h => nomatch (show false = true from h)

theorem pilotSend x0 : Statement (.pilotSend x0) := fun h => nomatch (show false = true from h)

theorem remoteWaitExpiry x0 : Statement (.remoteWaitExpiry x0) := fun h => nomatch (show false = true from h)

theorem crewStart x0 x1 : Statement (.crewStart x0 x1) := fun h => nomatch (show false = true from h)

theorem wavePriorityAge x0 : Statement (.wavePriorityAge x0) := fun h => nomatch (show false = true from h)

theorem manifestWrite x0 x1 : Statement (.manifestWrite x0 x1) := fun h => nomatch (show false = true from h)

theorem manifestRetry x0 x1 : Statement (.manifestRetry x0 x1) := fun h => nomatch (show false = true from h)

theorem watchdogHang x0 : Statement (.watchdogHang x0) := fun h => nomatch (show false = true from h)

theorem shadowCompare x0 x1 : Statement (.shadowCompare x0 x1) := fun h => nomatch (show false = true from h)

theorem preempt x0 : Statement (.preempt x0) := fun h => nomatch (show false = true from h)

theorem preemptImageWrite x0 x1 : Statement (.preemptImageWrite x0 x1) := fun h => nomatch (show false = true from h)

theorem restore x0 x1 x2 x3 : Statement (.restore x0 x1 x2 x3) := fun h => nomatch (show false = true from h)

theorem ctxload x0 x1 : Statement (.ctxload x0 x1) := fun h => nomatch (show false = true from h)

theorem ctxset x0 x1 : Statement (.ctxset x0 x1) := fun h => nomatch (show false = true from h)

theorem stealload x0 x1 : Statement (.stealload x0 x1) := fun h => nomatch (show false = true from h)

theorem ctxunload x0 x1 : Statement (.ctxunload x0 x1) := fun h => nomatch (show false = true from h)

theorem resume x0 : Statement (.resume x0) := fun h => nomatch (show false = true from h)

theorem fault x0 x1 : Statement (.fault x0 x1) := fun h => nomatch (show false = true from h)

theorem sysregWrite x0 x1 : Statement (.sysregWrite x0 x1) := fun h => nomatch (show false = true from h)

theorem writeProtectCollapse x0 x1 x2 : Statement (.writeProtectCollapse x0 x1 x2) := fun h => nomatch (show false = true from h)

theorem reReplicate x0 x1 : Statement (.reReplicate x0 x1) := fun h => nomatch (show false = true from h)

theorem pinExpiry x0 x1 : Statement (.pinExpiry x0 x1) := fun h => nomatch (show false = true from h)

theorem migrationWindowReset x0 x1 : Statement (.migrationWindowReset x0 x1) := fun h => nomatch (show false = true from h)

theorem relayoutReencode x0 x1 : Statement (.relayoutReencode x0 x1) := fun h => nomatch (show false = true from h)

theorem memorySweep x0 : Statement (.memorySweep x0) := fun h => nomatch (show false = true from h)

theorem l2Sweep x0 : Statement (.l2Sweep x0) := fun h => nomatch (show false = true from h)

theorem errorInjection x0 x1 x2 x3 x4 x5 : Statement (.errorInjection x0 x1 x2 x3 x4 x5) := fun h => nomatch (show false = true from h)

theorem launchPageTake x0 : Statement (.launchPageTake x0) := fun h => nomatch (show false = true from h)

theorem preemptRequest x0 : Statement (.preemptRequest x0) := fun h => nomatch (show false = true from h)

theorem restoreRequest x0 x1 : Statement (.restoreRequest x0 x1) := fun h => nomatch (show false = true from h)

theorem relayoutRequest x0 : Statement (.relayoutRequest x0) := fun h => nomatch (show false = true from h)

theorem hostWrite x0 x1 x2 x3 : Statement (.hostWrite x0 x1 x2 x3) := fun h => nomatch (show false = true from h)

theorem hostRead x0 x1 x2 x3 : Statement (.hostRead x0 x1 x2 x3) := fun h => nomatch (show false = true from h)

theorem juwinPacket x0 : Statement (.juwinPacket x0) := fun h => nomatch (show false = true from h)

theorem linkRetrain x0 x1 : Statement (.linkRetrain x0 x1) := fun h => nomatch (show false = true from h)

theorem reset : Statement .reset := fun h => nomatch (show false = true from h)

theorem bootcmdGo x0 : Statement (.bootcmdGo x0) := fun h => nomatch (show false = true from h)

theorem bootVerifyDone x0 : Statement (.bootVerifyDone x0) := fun h => nomatch (show false = true from h)

theorem attestation x0 : Statement (.attestation x0) := fun h => nomatch (show false = true from h)

theorem throttle x0 : Statement (.throttle x0) := fun h => nomatch (show false = true from h)

theorem thermalShutdown : Statement .thermalShutdown := fun h => nomatch (show false = true from h)

theorem msixVectorUnmask x0 x1 : Statement (.msixVectorUnmask x0 x1) := fun h => nomatch (show false = true from h)

theorem tlbEntryDrop x0 : Statement (.tlbEntryDrop x0) := fun h => nomatch (show false = true from h)

end Sys2Proof.Laws.Shape
end

