-- ==== Sys2Proof/Tests/Slice0.lean ====
section
/-! SUPPORT. Tests of one step each, worked words, ill-formed terms, and for every statement a state and operands that meet its hypotheses. Expected values
come from the specification's text, tables and worked examples. -/

namespace Sys2Proof.Tests

set_option Elab.async false

open Sys2Proof Sys2Proof.Machine

/-! ## Well-formedness -/

/-- No slot, no wait, unpredicated. -/
def c0 : Ctl := ⟨false, 7, false, 0, 0⟩

/-- Slot sb1 is raised. -/
def cs : Ctl := ⟨false, 7, true, 1, 0⟩

/-- Predicated on p3 inverted, waiting on sb0 and sb2. -/
def cp : Ctl := ⟨true, 3, false, 0, 5⟩

/-- R159, R172: a slot number without SE, SE on a row without a slot, a predicate on an unpredicated row. -/
theorem test_wf_control : ([.nop ⟨false, 7, false, 2, 0⟩, .nop cs, .xbegin cp 0, .tret ⟨false, 0, false, 0, 0⟩,
    .red ⟨false, 7, false, 2, 0⟩ .add .i32 (.v 1) 2] : List Instr).all (fun i => i.wf == false) = true := by decide

/-- R162, R166, R176: a constant as destination, a wide vector, a per-lane source of a scalar, a predicate destination where none is, a type outside the set. -/
theorem test_wf_operands : ([.add c0 .n32 (.k 1) (.v 1) (.v 2), .add c0 .i64 (.v 1) (.s 1) (.s 2), .add c0 .n32 (.s 1) (.v 1) (.s 2), .add c0 .n32 (.p 1) (.s 1) (.s 2),
    .add c0 .f32 (.v 1) (.v 1) (.v 2), .and c0 .b64 (.p 1) (.p 2) (.p 3), .and c0 .i32 (.v 1) (.v 2) (.v 3), .mov c0 (.s 1) (.sp .lane), .mov c0 (.k 0) (.s 1),
    .csel c0 (.p 1) (.s 1) (.s 2) (.p 1), .csel c0 (.v 1) (.v 1) (.v 2) (.v 3), .li c0 (.sp .lane) 0, .mulh c0 .i32 1 (.s 1) (.s 2),
    .mulh c0 .i64 1 (.v 1) (.s 2), .popc c0 .i32 (.v 1) (.v 2)] : List Instr).all (fun i => i.wf == false) = true := by decide

/-- R186, R198, R201 to R203: `loop`, `cmp`, `perm`, `red` and `gaddr`. -/
theorem test_wf_integer_forms : ([.loop c0 false (.v 1) 3, .loop c0 false (.s 1) 0xFFFFFF, .cmp c0 .un .i32 (.p 1) (.v 1) (.v 2), .cmp c0 .eq .b32 (.p 1) (.v 1) (.v 2),
    .cmp c0 .eq .i32 (.v 1) (.v 1) (.v 2), .cmp c0 .eq .i64 (.p 1) (.s 1) (.s 2), .cmpImm c0 .eq .f32 (.p 1) (.v 1) 0, .perm c0 .idx 1 2 (.s 3),
    .perm c0 .rot 1 2 (.v 3), .red cs .add .b32 (.s 1) 2, .red cs .and .i32 (.s 1) 2, .red cs .add .i32 (.p 1) 2, .gaddr c0 (.v 1) (.s 1) (.v 2) none,
    .gaddr c0 (.s 2) (.v 1) (.v 2) none, .gaddr c0 (.s 2) (.s 1) (.p 2) none] : List Instr).all (fun i => i.wf == false) = true := by decide

/-- R165, R208, R222 to R230: random operands, register groups, conversion types. -/
theorem test_wf_float_forms : ([.addFloat c0 .f32 .sr 1 (.v 1) (.v 2) none, .addFloat c0 .f32 .rne 1 (.v 1) (.v 2) (some (.v 3)),
    .addFloat c0 .f32 .sr 1 (.v 1) (.v 2) (some (.k 3)), .fma c0 .f32 .sr 1 (.v 1) (.v 2) (.v 3), .abs c0 .i32 1 (.v 1), .cvt c0 .f32 .f32 .rne 1 (.v 1) none,
    .cvt c0 .b32 .f32 .rne 1 (.v 1) none, .bq c0 .e4m3 1 4, .bq c0 .e4m3 2 6, .bq c0 .f32 2 4, .bdq c0 .f32 .e4m3 .sr 4 (.v 1) (.s 1),
    .bdq c0 .bf16 .e4m3 .rz 4 (.v 1) (.s 1), .bdq c0 .f32 .e4m3 .rne 2 (.v 1) (.s 1), .bdq c0 .f32 .f16 .rne 4 (.v 1) (.s 1), .rnd128 cs 2 4 1,
    .flclr c0 (.v 1), .frnd c0 .f32 .sr 1 (.v 1) none] : List Instr).all (fun i => i.wf == false) = true := by decide

/-- R165, R168, R232, R235, R240: orders, data registers, indexes, pairs. -/
theorem test_wf_memory_forms : ([.ldG cs .b32 (.rel .pkg) (.v 1) ⟨1, none, 0⟩, .stG cs .b32 (.acq .pkg) (.v 1) ⟨1, none, 0⟩, .ldG cs .b128 .plain (.v 125) ⟨1, none, 0⟩,
    .ldG cs .b128 .plain (.s 4) ⟨1, none, 0⟩, .ldG cs .b32 .plain (.s 4) ⟨1, some (.v 1), 0⟩, .ldG cs .b32 .plain (.v 4) ⟨1, some (.k 1), 0⟩,
    .stS cs .b128 .plain (.k 1) ⟨1, none, 0⟩, .atomAdd cs false .b32 .plain (.v 1) ⟨1, none, 0⟩, .atomAnd cs false .i32 .plain (.v 1) ⟨1, none, 0⟩,
    .atomAdd cs false .i64 .plain (.v 1) ⟨1, none, 0⟩, .atomCas cs false .b32 .plain (.v 1) ⟨1, none, 0⟩, .atomXchg cs false .b32 .plain (.s 1) ⟨1, some (.v 1), 0⟩,
    .feset cs (.v 1) (.s 1), .discard cs 1 (.v 1), .ldf cs .b128 (.v 126) ⟨1, none, 0⟩, .pfG c0 ⟨1, some (.p 1), 0⟩] : List Instr).all (fun i => i.wf == false) = true := by
  decide

/-- R145, R165, R248, R256, R273, R290: codes, octets, quads, masks and register numbers. -/
theorem test_wf_task_engine_system : ([.xabort c0 240, .spawn cs 1 12, .evset cs (.v 1), .mxc cs 6, .cpc cs 2, .ctswap c0 0, .srr c0 1 0x00C, .srr c0 1 0x105,
    .srw c0 0x210 1, .srw c0 0x109 1] : List Instr).all (fun i => i.wf == false) = true := by decide

/-! ## Words, byte by byte from R158 to R170: OP, the five bytes of the body, the control fields -/

/-- Control and scalar, OPs 0x01 to 0x0B. -/
theorem test_decode_control : [
    (0x0100FFFFFFFF7000, Instr.nop c0), (0x020285FFFFFE7000, .br c0 (.nz 5) 0xFFFFFE), (0x0207F3000010B005, .br cp (.none 3) 0x10),
    (0x0200FF0000017000, .br c0 .always 1), (0x0301830000047000, .illegal 0x0301830000047000), (0x0300830000047000, .call c0 3 4), (0x0400FF87FFFF7000, .jr c0 7),
    (0x05008182FFFF7000, .jalr c0 1 2), (0x0601940000077000, .loop c0 true (.s 20) 7), (0x0600E40000077000, .loop c0 false (.k 4) 7),
    (0x0701123456787000, .li c0 (.v 1) 0x12345678), (0x0882DEADBEEF7000, .lih c0 2 0xDEADBEEF), (0x090084FFFFFF7000, .lea c0 4 0xFFFFFF),
    (0x0A03818283FF7000, .mulh c0 .i64 1 (.s 2) (.s 3)), (0x0B00010283F47000, .csel c0 (.v 1) (.v 2) (.s 3) (.p 4))].all
      (fun p => decode (BitVec.ofNat 64 p.1) == p.2) = true := by decide +kernel

/-- Integer, predicates, lanes and `gaddr`, OPs 0x20 to 0x3E. -/
theorem test_decode_integer : [
    (0x20060102E1FF7000, Instr.add c0 .n32 (.v 1) (.v 2) (.k 1)), (0x21038182FFFD7000, .addImm c0 .i64 (.s 1) (.s 2) 0xFFFD), (0x22020102C0FFB005, .sub cp .i32 (.v 1) (.v 2) (.sp .lane)),
    (0x2302010203FF7000, .mul c0 .i32 (.v 1) (.v 2) (.v 3)), (0x2406818200107000, .mulImm c0 .n32 (.s 1) (.s 2) 16), (0x2506010203047000, .mad c0 .n32 (.v 1) (.v 2) (.v 3) (.v 4)),
    (0x2600F383FFFF7000, .mov c0 (.p 3) (.s 3)), (0x270AF2F1F3FF7000, .and c0 .b32 (.p 2) (.p 1) (.p 3)), (0x280AF1F600FF7000, .andImm c0 .b32 (.p 1) (.p 6) 0xFF),
    (0x290B818283FF7000, .or c0 .b64 (.s 1) (.s 2) (.s 3)), (0x2A0A010280007000, .orImm c0 .b32 (.v 1) (.v 2) 0x8000), (0x2B0A0102EDFF7000, .xor c0 .b32 (.v 1) (.v 2) (.k 13)),
    (0x2C0A010200017000, .xorImm c0 .b32 (.v 1) (.v 2) 1), (0x2D0AF4F2FFFF7000, .not c0 .b32 (.p 4) (.p 2)), (0x2E020102E6FF7000, .shl c0 .i32 (.v 1) (.v 2) (.k 6)),
    (0x2F0B818200037000, .shlImm c0 .b64 (.s 1) (.s 2) 3), (0x3006010203FF7000, .lsr c0 .n32 (.v 1) (.v 2) (.v 3)), (0x310A010200047000, .lsrImm c0 .b32 (.v 1) (.v 2) 4),
    (0x3203818283FF7000, .asr c0 .i64 (.s 1) (.s 2) (.s 3)), (0x33020102001F7000, .asrImm c0 .i32 (.v 1) (.v 2) 31), (0x3402010203FF7000, .min c0 .i32 (.v 1) (.v 2) (.v 3)),
    (0x3507818283FF7000, .max c0 .n64 (.s 1) (.s 2) (.s 3)), (0x3642F10203FF7000, .cmp c0 .lt .i32 (.p 1) (.v 2) (.v 3)), (0x36CD8102EBFF7000, .cmp c0 .un .f32 (.s 1) (.v 2) (.k 11)),
    (0x37A7818200057000, .cmpImm c0 .ge .n64 (.s 1) (.s 2) 5), (0x38020102E4E67000, .bfx c0 .i32 (.v 1) (.v 2) (.k 4) (.k 6)),
    (0x390A0102E6E47000, .bfi c0 .b32 (.v 1) (.v 2) (.k 6) (.k 4)), (0x3A0A0102FFFF7000, .popc c0 .b32 (.v 1) (.v 2)), (0x3B0B8384FFFF7000, .clz c0 .b64 (.s 3) (.s 4)),
    (0x3C6A0201E1FF7000, .perm c0 .xor 2 1 (.k 1)), (0x3C0A020103FF7000, .perm c0 .idx 2 1 (.v 3)), (0x3D068903FFFF2900, .red ⟨false, 2, true, 1, 0⟩ .add .n32 (.s 9) 3),
    (0x3E00028304FF7000, .gaddr c0 (.v 2) (.s 3) (.v 4) none), (0x3E0082E104057000, .gaddr c0 (.s 2) (.k 1) (.v 4) (some (.v 5)))].all
      (fun p => decode (BitVec.ofNat 64 p.1) == p.2) = true := by decide +kernel

/-- Float, conversion, blocks and random numbers, OPs 0x40 to 0x5B. -/
theorem test_decode_float : [
    (0x400D010203FF7000, Instr.addFloat c0 .f32 .rne 1 (.v 2) (.v 3) none), (0x418E010203057000, .subFloat c0 .bf16 .sr 1 (.v 2) (.v 3) (some (.v 5))),
    (0x422F0102E1FF7000, .mulFloat c0 .f16 .rz 1 (.v 2) (.k 1) none), (0x436D010203047000, .fma c0 .f32 .ru 1 (.v 2) (.v 3) (.v 4)), (0x440D010203047000, .fms c0 .f32 .rne 1 (.v 2) (.v 3) (.v 4)),
    (0x450D010203FF7000, .minFloat c0 .f32 1 (.v 2) (.v 3)), (0x460E010203FF7000, .maxFloat c0 .bf16 1 (.v 2) (.v 3)), (0x470D0102FFFF7000, .abs c0 .f32 1 (.v 2)),
    (0x480F0102FFFF7000, .neg c0 .f16 1 (.v 2)), (0x494D010203FF7900, .div cs .f32 .rd 1 (.v 2) (.v 3) none), (0x4A8D010205FF7900, .sqrt cs .f32 .sr 1 (.v 2) (some (.v 5))),
    (0x4B0D0102FFFF7900, .rcp cs .f32 1 (.v 2)), (0x4C0D0102FFFF7900, .rsqrt cs .f32 1 (.v 2)), (0x4D0E0102FFFF7900, .exp2 cs .bf16 1 (.v 2)),
    (0x4E0D0102FFFF7900, .log2 cs .f32 1 (.v 2)), (0x4F0D0102FFFF7900, .sin cs .f32 1 (.v 2)), (0x500D0102FFFF7900, .cos cs .f32 1 (.v 2)),
    (0x510F0102FFFF7900, .tanh cs .f16 1 (.v 2)), (0x520E0102FF0D7000, .cvt c0 .bf16 .f32 .rne 1 (.v 2) none), (0x52900102050D7000, .cvt c0 .e4m3 .f32 .sr 1 (.v 2) (some (.v 5))),
    (0x53100204FFFF7000, .bq c0 .e4m3 2 4), (0x540D040882157000, .bdq c0 .f32 .cb4 .rne 4 (.v 8) (.s 2)), (0x5507010203FF7000, .cbq c0 7 1 (.v 2) (.v 3)),
    (0x5600010203FF7000, .cbl c0 0 1 (.v 2) (.v 3)), (0x5700040886FF7900, .rnd128 cs 4 8 6), (0x580085FFFFFF7000, .flget c0 5), (0x5900FFE9FFFF7000, .flclr c0 (.k 9)),
    (0x5A0D0102FFFF7000, .fclass c0 .f32 1 (.v 2)), (0x5B2D0102FFFF7000, .frnd c0 .f32 .rz 1 (.v 2) none)].all
      (fun p => decode (BitVec.ofNat 64 p.1) == p.2) = true := by decide +kernel

/-- Memory, atomics, fences and full/empty, OPs 0x60 to 0x8E: TY and MO, D, A, X, OFS8. -/
theorem test_decode_memory : [
    (0x60800196C0007900, Instr.ldG cs .f32 .plain (.v 1) ⟨22, some (.sp .lane), 0⟩), (0x60358182FF027900, .ldG cs .b64 (.acq .pkg) (.s 1) ⟨2, none, 2⟩),
    (0x614A048305FF7900, .stG cs .b128 (.rel .sys) (.v 4) ⟨3, some (.v 5), 0xFF⟩), (0x62500182FF007900, .ldS cs .i8 .plain (.v 1) ⟨2, none, 0⟩),
    (0x63900182C0007900, .stS cs .bf16 .plain (.v 1) ⟨2, some (.sp .lane), 0⟩), (0x6400FF82FF107000, .pfG c0 ⟨2, none, 0x10⟩),
    (0x80CC0182FF007900, .atomAdd cs true .n32 (.full .core) (.v 1) ⟨2, none, 0⟩), (0x81200182FF007900, .atomMin cs false .i32 .plain (.v 1) ⟨2, none, 0⟩),
    (0x82508182FF007900, .atomMax cs false .n64 .plain (.s 1) ⟨2, none, 0⟩), (0x83040182FF007900, .atomAnd cs false .b32 (.acq .core) (.v 1) ⟨2, none, 0⟩),
    (0x84198182FF007900, .atomOr cs false .b64 (.rel .pkg) (.s 1) ⟨2, none, 0⟩), (0x85000182FF007900, .atomXor cs false .b32 .plain (.v 1) ⟨2, none, 0⟩),
    (0x86600182FF007900, .atomXchg cs false .f32 .plain (.v 1) ⟨2, none, 0⟩), (0x87108283FF007900, .atomCas cs false .b64 .plain (.s 2) ⟨3, none, 0⟩),
    (0x880EFFFFFF007000, .fence c0 .full .sys), (0x89D00182FF007900, .ldf cs .f32 (.v 1) ⟨2, none, 0⟩), (0x8A800182FF007900, .ldfc cs .b8 (.v 1) ⟨2, none, 0⟩),
    (0x8BF00182FF007900, .stf cs .f16 (.v 1) ⟨2, none, 0⟩), (0x8C00FF8182FF7900, .feset cs (.s 1) (.s 2)), (0x8D00FFE0E8FF7900, .feclr cs (.k 0) (.k 8)),
    (0x8E00FF8182FF7900, .discard cs 1 (.s 2)), (0x89500182FF007900, .illegal 0x89500182FF007900), (0x60090182FF007900, .illegal 0x60090182FF007900)].all
      (fun p => decode (BitVec.ofNat 64 p.1) == p.2) = true := by decide +kernel

/-- Transactions, tasks, events and launches, OPs 0x90 to 0x9B. -/
theorem test_decode_tasks : [
    (0x9000FF0000037000, Instr.xbegin c0 3), (0x9100FFFFFFFF7000, .xend c0), (0x9200FFFFFFFF7000, .retry c0), (0x9300FFFFFFFE7000, .otherwise c0 0xFFFFFE),
    (0x9400FFFF00EFB005, .xabort cp 239), (0x950081FFFFFF7000, .xstat c0 1), (0x96008188FFFF7900, .spawn cs 1 8), (0x9700FFFFFFFF7000, .tret c0),
    (0x9800FFFFFFFF7000, .progress c0), (0x9900FF81FFFF7900, .evset cs (.s 1)), (0x9A00FFE5FFFF7900, .evclr cs (.k 5)), (0x9B008182FFFF7900, .launch cs 1 2),
    (0x9400FFFF00F07000, .illegal 0x9400FFFF00F07000)].all
      (fun p => decode (BitVec.ofNat 64 p.1) == p.2) = true := by decide +kernel

/-- Engines, tables and charts, OPs 0xA0 to 0xA6; the second and third word stand in R273. -/
theorem test_decode_engines : [
    (0xA000FF84FFFF7900, Instr.mxc cs 4), (0xA200FF9400027800, .ctld ⟨false, 7, true, 0, 0⟩ 20 false 2), (0xA300FFFFFF047001, .ctswap ⟨false, 7, false, 0, 1⟩ 4),
    (0xA100FF88FFFF7900, .cpc cs 8), (0xA200FF9401077900, .ctld cs 20 true 7), (0xA400FF84FF057900, .chartld cs 4 5), (0xA500018203FF7900, .accrd cs 1 (.s 2) 3),
    (0xA600FFC000057900, .accwr cs (.sp .lane) 0 (.v 5))].all
      (fun p => decode (BitVec.ofNat 64 p.1) == p.2) = true := by decide +kernel

/-- The system profile, OPs 0xB0 to 0xB7; five of the words stand in R295. -/
theorem test_decode_system : [
    (0xB000FFFF00057000, Instr.trap c0 5), (0xB20094FF02087000, .srr c0 20 0x208), (0xB300FF9501087000, .srw c0 0x108 21),
    (0xB400FF9496FF7800, .tlbi ⟨false, 7, true, 0, 0⟩ 20 22), (0xB600FF97FFFF7900, .sighost cs 23), (0xB100FFFFFFFF7000, .eret c0),
    (0xB500FFFFFFFF7000, .tlbsync c0), (0xB700FFFFFFFF7000, .halt c0), (0xB800FFFFFFFF7000, .illegal 0xB800FFFFFFFF7000), (0, .illegal 0)].all
      (fun p => decode (BitVec.ofNat 64 p.1) == p.2) = true := by decide +kernel

/-- R4, R158: a word lies little-endian in memory; the host's numbering of its bits is the decoder's. -/
theorem test_table_word : decodeTableWord 64 0x0798400000007000 = some (.li c0 (.s 24) 0x40000000) := by decide +kernel


/-! ## Small states -/

/-- A far wave in slot 0 of far core 0, running at address 0x10000 with all its lanes. -/
def wave : Wave := { Wave.hmReset 0 with gwn := 0, run := .running, pc := 0x10000, crew := 1, vregs := 128, prio := 8, priv := false }

/-- The crew of the wave's task, with one unit of scratch. -/
def crew : Crew := { loaderCrew with units := 1 }

/-- An unprivileged resident context with one launch of the given live count. -/
def ctxOf (live : Nat) : Context := { loaderContext with priv := false, launches := [{ loaderLaunch with live := live }] }

/-- A device in which one far wave runs a task. -/
def far : State := { State.reset with
  me := wave
  others := (List.range 4).map Wave.hmReset
  crews := [crew]
  ctxs := [ctxOf 2]
  berths := [{ Berth.empty 0 with recs := [loaderTask], nextSeq := 2 }]
  cores := [{ FarCore.empty 0 with bound := some 0, served := some 0 }] }

/-- The same, with a leaf of 1 GiB at the bottom of the address space cached. -/
def mapped : State := far.tlbAdd 0 0 1 0 loaderLeaf

/-- A device in which one quay wave runs a task. -/
def quay : State := { far with me := { wave with gwn := 8192 }, crews := [{ crew with unit := 256, waves := [8192] }] }

/-- A device whose harbourmaster core 0 runs. -/
def hm : State := { State.reset with me := { Wave.hmReset 0 with run := .running, pc := 0x10000 } }

/-- Scalar registers set, in order. -/
def sets (s : State) (xs : List (Nat × Word)) : State := xs.foldl (fun s p => s.mapMe fun w => w.setS p.1 p.2) s

/-- Every lane of some vector registers set. -/
def fills (s : State) (xs : List (Nat × Lane)) : State :=
  xs.foldl (fun s p => s.mapMe fun w => w.setLanes p.1 ((List.range 32).map fun l => (l, p.2))) s

/-- The state after one instruction, where it answers a next state. -/
def after (i : Instr) (s : State) : State :=
  match exec i s with
  | .next t => t
  | _ => { s with agenda := [] }

/-- Does every instruction of a list go? -/
def goes (s : State) (is : List Instr) : Bool := is.all fun i => decide (s.verdict i = .go)

/-! ## One step each -/

/-- R193: a sum wraps modulo 2^32 in a vector, and an i32 scalar result is sign-extended (R176). -/
theorem test_add_wraps : ((after (.add c0 .n32 (.v 1) (.v 2) (.v 3)) (fills far [(2, 0xFFFFFFFF), (3, 2)])).me.vreg 1 31 == 1 &&
    (after (.add c0 .i32 (.s 1) (.s 2) (.k 1)) (sets far [(2, 0x7FFFFFFF)])).me.sreg 1 == 0xFFFFFFFF80000000) = true := by decide +kernel

/-- R193, R195: `sub`, `mul`, `mad`, `min` and `max`. -/
theorem test_sub_mul_mad_min_max : (let s := sets far [(2, 0xFFFFFFFFFFFFFFFE), (3, 3), (4, 5)]
    (after (.sub c0 .n64 (.s 1) (.s 4) (.s 3)) s).me.sreg 1 == 2 && (after (.mul c0 .n32 (.s 1) (.s 2) (.s 3)) s).me.sreg 1 == 0xFFFFFFFA &&
    (after (.mad c0 .i64 (.s 1) (.s 2) (.s 3) (.s 4)) s).me.sreg 1 == 0xFFFFFFFFFFFFFFFF && (after (.min c0 .i64 (.s 1) (.s 2) (.s 3)) s).me.sreg 1 == 0xFFFFFFFFFFFFFFFE &&
    (after (.max c0 .n64 (.s 1) (.s 2) (.s 3)) s).me.sreg 1 == 0xFFFFFFFFFFFFFFFE) = true := by decide +kernel

/-- R194: the upper half of 2^63 × 2, unsigned and signed. -/
theorem test_mulh : (let s := sets far [(2, 0x8000000000000000), (3, 2)]
    (after (.mulh c0 .n64 1 (.s 2) (.s 3)) s).me.sreg 1 == 1 && (after (.mulh c0 .i64 1 (.s 2) (.s 3)) s).me.sreg 1 == 0xFFFFFFFFFFFFFFFF) = true := by
  decide +kernel

/-- R196, R177: the literal of an I form is sign-extended; the predicate forms. -/
theorem test_logic : (let s := (sets far [(2, 0xF0)]).mapMe fun w => (w.setP 1 0xFF00).setP 2 0x0FF0
    (after (.andImm c0 .b64 (.s 1) (.s 2) 0xFFEF) s).me.sreg 1 == 0xE0 && (after (.orImm c0 .b64 (.s 1) (.s 2) 0x8000) s).me.sreg 1 == 0xFFFFFFFFFFFF80F0 &&
    (after (.xorImm c0 .b32 (.s 1) (.s 2) 1) s).me.sreg 1 == 0xF1 && (after (.and c0 .b32 (.p 3) (.p 1) (.p 2)) s).me.preg 3 == 0x0F00 &&
    (after (.or c0 .b32 (.p 3) (.p 1) (.p 2)) s).me.preg 3 == 0xFFF0 && (after (.xor c0 .b32 (.p 3) (.p 1) (.p 2)) s).me.preg 3 == 0xF0F0 &&
    (after (.not c0 .b32 (.p 3) (.p 1)) s).me.preg 3 == 0xFFFF00FF && (after (.not c0 .b32 (.p 7) (.p 1)) s).me.preg 7 == 0xFFFFFFFF) = true := by decide +kernel

/-- R197: shifts by the width or more; the amount is the whole operand. -/
theorem test_shifts : (let s := sets (fills far [(2, 0x80000001), (3, 32)]) [(2, 0x8000000000000000), (3, 0x100000001)]
    (after (.shl c0 .b32 (.v 1) (.v 2) (.v 3)) s).me.vreg 1 0 == 0 && (after (.lsr c0 .n32 (.v 1) (.v 2) (.v 3)) s).me.vreg 1 5 == 0 &&
    (after (.asr c0 .i32 (.v 1) (.v 2) (.v 3)) s).me.vreg 1 5 == 0xFFFFFFFF && (after (.asr c0 .i64 (.s 1) (.s 2) (.s 3)) s).me.sreg 1 == 0xFFFFFFFFFFFFFFFF &&
    (after (.lsrImm c0 .b64 (.s 1) (.s 2) 63) s).me.sreg 1 == 1 && (after (.shlImm c0 .n32 (.v 1) (.v 2) 31) s).me.vreg 1 9 == 0x80000000) = true := by decide +kernel

/-- The table of R200. -/
theorem test_fields_and_counts : (let s := sets (fills far [(1, 0x12345678), (2, 0xF80), (3, 0xF)]) [(4, 0x10000)]
    (after (.bfx c0 .i32 (.v 1) (.v 2) (.k 4) (.k 6)) s).me.vreg 1 0 == 0xFFFFFFF8 && (after (.bfx c0 .n32 (.v 1) (.v 2) (.k 4) (.k 6)) s).me.vreg 1 0 == 0xF8 &&
    (after (.bfi c0 .b32 (.v 1) (.v 3) (.k 6) (.k 4)) s).me.vreg 1 0 == 0x12345F78 && (after (.clz c0 .b64 (.s 3) (.s 4)) s).me.sreg 3 == 47 &&
    (after (.popc c0 .b32 (.v 5) (.v 2)) s).me.vreg 5 3 == 5) = true := by decide +kernel

/-- R198: a comparison into a predicate leaves the lanes that are not active. -/
theorem test_cmp : (let s := (fills far [(2, 0xFFFFFFFF)]).mapMe fun w => (w.setP 1 0xF0000000).setP 3 0xFF
    (after (.cmp ⟨false, 3, false, 0, 0⟩ .lt .i32 (.p 1) (.v 2) (.k 0)) s).me.preg 1 == 0xF00000FF &&
    (after (.cmpImm c0 .lt .n32 (.s 1) (.v 2) 0) s).me.sreg 1 == 0) = true := by decide +kernel

/-- R201: `perm.xor v2, v1, 1` swaps neighbouring lanes. -/
theorem test_perm : (let s := far.mapMe fun w => w.setLanes 1 ((List.range 32).map fun l => (l, BitVec.ofNat 32 (10 * l)))
    (List.range 32).all fun l => (after (.perm c0 .xor 2 1 (.k 1)) s).me.vreg 2 l == BitVec.ofNat 32 (10 * (if l % 2 = 0 then l + 1 else l - 1))) = true := by
  decide +kernel

/-- The example of R202: 5 + 6 + 7 + 8 = 26, in flight under its slot, and written when the slot falls. -/
theorem test_red : (let s := far.mapMe fun w => (w.setLanes 3 ((List.range 32).map fun l => (l, BitVec.ofNat 32 (l + 1)))).setP 2 0xF0
    let t := after (.red ⟨false, 2, true, 1, 0⟩ .add .n32 (.s 9) 3) s
    let u := after (.slotCompletion 0 0) t
    t.me.sreg 9 == 0 && t.me.slot 1 == 1 && u.me.sreg 9 == 26 && u.me.slot 1 == 0) = true := by decide +kernel

/-- The chart record that stands after R276, with base 0. -/
def chart3 : List Word := [0x4808000000000000, 32768, 0x1003F00FF, 0x1003F00FF, 0, 0, 0, 0]

/-- The example of R204. -/
theorem test_gaddr : (let s := { fills far [(4, 0x004600C8), (5, 256)] with ctxs := [{ ctxOf 2 with charts := [(3, chart3)] }] }
    let t := after (.gaddr c0 (.v 8) (.k 3) (.v 4) none) s
    let u := after (.gaddr c0 (.v 8) (.k 3) (.v 5) none) s
    t.me.vreg 8 7 == 11 && t.me.vreg 9 7 == 0x1A310 && u.me.vreg 8 0 == 0xFFFFFFFF && u.me.vreg 9 0 == 0xFFFFFFFF) = true := by decide +kernel

/-- R180, R181, R182: targets and links. -/
theorem test_branches_and_calls : (let s := sets far [(1, 0xFFFFFFFFFFFFFFFF), (7, 0x2000)]
    (after (.br c0 (.ltz 1) 0xFFFFFD) s).me.pc == 0xFFF0 && (after (.br c0 (.gez 1) 1) s).me.pc == 0x10008 &&
    (after (.call c0 4 2) s).me.pc == 0x10018 && (after (.call c0 4 2) s).me.sreg 4 == 0x10008 && (after (.lea c0 4 0xFFFFFF) s).me.sreg 4 == 0x10000 &&
    (after (.jr c0 7) s).me.pc == 0x2000 && (after (.jalr c0 7 7) s).me.pc == 0x2000 && (after (.jalr c0 7 7) s).me.sreg 7 == 0x10008 &&
    (after (.nop c0) s).me.pc == 0x10008) = true := by decide +kernel

/-- R186 to R188, the table after R189: at step 3 both loops are checked in one step, the inner first. -/
theorem test_loops_nest : (let s := far.mapMe fun w => { w with
      pc := 0x10028, loops := ⟨⟨true, 2, 0x10010, 0x10028⟩, ⟨true, 1, 0x10020, 0x10028⟩, true⟩ }
    let t := after (.addImm c0 .n64 (.s 32) (.s 32) 1) s
    t.me.pc == 0x10010 && t.me.loops.l0.count == 1 && t.me.loops.l0.armed && !t.me.loops.l1.armed) = true := by decide +kernel

/-- R190 to R192. -/
theorem test_moves : (let s := sets far [(2, 0x89ABCDEF)]
    (after (.li c0 (.s 1) 0x80000000) s).me.sreg 1 == 0x80000000 && (after (.lih c0 2 0x12345678) s).me.sreg 2 == 0x1234567889ABCDEF &&
    (after (.mov c0 (.v 3) (.sp .lane)) s).me.vreg 3 31 == 31 && (after (.csel c0 (.s 1) (.k 1) (.k 2) (.s 2)) s).me.sreg 1 == 1 &&
    (after (.csel c0 (.s 1) (.k 1) (.k 2) (.s 3)) s).me.sreg 1 == 2) = true := by decide +kernel

/-- R212: 1.5 + 0.25 is 1.75; 2 × 3 + 1 is 7; R219: −0.4 rounds to −0 with INX. -/
theorem test_float : (let s := fills far [(2, 0x3FC00000), (3, 0x3E800000), (4, 0x40000000), (5, 0x40400000), (6, 0x3F800000), (7, 0xBECCCCCD)]
    let t := after (.frnd c0 .f32 .rne 1 (.v 7) none) s
    (after (.addFloat c0 .f32 .rne 1 (.v 2) (.v 3) none) s).me.vreg 1 0 == 0x3FE00000 && (after (.fma c0 .f32 .rne 1 (.v 4) (.v 5) (.v 6)) s).me.vreg 1 31 == 0x40E00000 &&
    t.me.vreg 1 4 == 0x80000000 && t.me.flags == 0x01) = true := by decide +kernel

/-- The table after R85: `cvt.bf16.f32.sr`. -/
theorem test_stochastic : (let r (x g : Lane) : Lane := (after (.cvt c0 .bf16 .f32 .sr 1 (.v 2) (some (.v 3))) (fills far [(2, x), (3, g)])).me.vreg 1 0
    r 0x3F804000 0x3FFF == 0x3F81 && r 0x3F804000 0x4000 == 0x3F80 && r 0xBF804001 0x4000 == 0xBF81) = true := by decide +kernel

/-- The example after R92: 13.0, 0.3, −0.0 and 1.5 quantized to E2M3. -/
theorem test_block : (let s := far.mapMe fun w => w.setLanes 4 [(0, 0x41500000), (1, 0x3E99999A), (2, 0x80000000), (3, 0x3FC00000)]
    let t := after (.bq c0 .e2m3 2 4) s
    let u := after (.bdq c0 .bf16 .e2m3 .rne 8 (.v 2) (.v 3)) t
    t.me.vreg 3 0 == 0x80 && t.me.vreg 2 0 == (0x1D ||| 0x01 <<< 6 ||| 0x20 <<< 12 ||| 0x06 <<< 18) && u.me.vreg 8 0 == 0x3E804150 && u.me.vreg 8 1 == 0x3FC08000) = true := by
  decide +kernel

/-- R230: with a zero counter and key, x1 after three rounds is the listing's; the words of twelve rounds are in flight and land when the slot falls. -/
theorem test_rnd128 : (let t := after (.rnd128 cs 4 8 6) far
    t.me.vreg 4 0 == 0 && t.me.slot 1 == 1 && (after (.slotCompletion 0 0) t).me.vreg 4 0 == (after (.slotCompletion 0 0) t).me.vreg 4 31) = true := by decide +kernel

/-- R231. -/
theorem test_flags : (let s := far.mapMe fun w => { w with flags := 0x1F }
    (after (.flget c0 5) s).me.sreg 5 == 0x1F && (after (.flclr c0 (.k 8)) s).me.flags == 0x0F) = true := by decide +kernel

/-- R233, R236, R237: a half stored to scratch and loaded back, sign by type; a misaligned field faults MISALIGNED. -/
theorem test_scratch : (let s := sets far [(1, 0xABCDEF80), (2, 0x100)]
    let t := after (.slotCompletion 0 0) (after (.stS cs .b16 .plain (.s 1) ⟨2, none, 1⟩) s)
    let u := after (.slotCompletion 0 1) (after (.ldS cs .i8 .plain (.s 3) ⟨2, none, 2⟩) t)
    let f := after (.ldS cs .b32 .plain (.s 3) ⟨2, none, 0⟩) (sets s [(2, 0x102)])
    u.me.sreg 3 == 0xFFFFFFFFFFFFFF80 && u.me.slot 1 == 0 && (f.crew? 1).map (fun k => k.fault.map (·.cause)) == some (some 0x03)) = true := by decide +kernel

/-- R234, R237: a store to global memory reaches its line at the home, little-endian. -/
theorem test_global_store : (let s := sets mapped [(1, 0x1122334455667788), (2, 0x20000)]
    let t := after (.stG cs .b64 .plain (.s 1) ⟨2, none, 1⟩) s
    let u := after (.storePerformedAtHome 0 0 (0x20008 / 64)) t
    byteAt t 0x20008 == 0 && byteAt u 0x20008 == 0x88 && byteAt u 0x2000F == 0x11 && byteAt u 0x20010 == 0 && t.me.slot 1 == 1 && u.me.slot 1 == 0) = true := by
  decide +kernel

/-- R240: an atomic returns the old value and adds modulo 2^32. -/
theorem test_atomic : (let s := { sets far [(1, 2), (2, 0x40)] with crews := [{ crew with scratch := [⟨0x40, 0xFF⟩, ⟨0x41, 0xFF⟩, ⟨0x42, 0xFF⟩, ⟨0x43, 0xFF⟩] }] }
    let u := after (.slotCompletion 0 0) (after (.atomAdd cs true .n32 .plain (.s 1) ⟨2, none, 0⟩) s)
    u.me.sreg 1 == 0xFFFFFFFF && (u.crew? 1).map (fun k => k.read 0x40 4) == some 1) = true := by decide +kernel

/-- R112, R156, R244: `ldfc` sleeps on an empty granule with its slot raised; once it is full, `stf`'s value is taken and the granule is empty. -/
theorem test_full_empty : (let s := sets far [(2, 0x40)]
    let t := after (.ldfc cs .b32 (.s 3) ⟨2, none, 0⟩) s
    let q := { s with crews := [{ crew with full := [⟨4, 1⟩] }] }
    let u := after (.ldfc cs .b32 (.s 3) ⟨2, none, 0⟩) q
    t.me.run == .feAsleep (.ldfc cs .b32 (.s 3) ⟨2, none, 0⟩) && t.me.slot 1 == 1 && u.me.run == .running && (u.crew? 1).map (fun k => k.isFull 4) == some false) = true := by
  decide +kernel

/-- R137, R140, R144, R145: an abort restores the scalars of `xbegin`, and leaves the vectors. -/
theorem test_transaction : (let t := after (.xbegin c0 7) (sets far [(1, 5)])
    let u := after (.xabort c0 0x12) ((fills (sets t [(1, 6)]) [(1, 9)]))
    t.me.tx.depth == 1 && t.me.pc == 0x10008 && u.me.sreg 1 == 5 && u.me.vreg 1 0 == 9 && u.me.pc == 0x10040 && u.me.txs == 0x1200000004 &&
    (after (.xend c0) t).me.tx == Tx.zero) = true := by decide +kernel

/-- R293, R295: `trap` and `eret` on a harbourmaster core. -/
theorem test_trap_eret : (let s := { hm with hm := [{ HmCore.reset with evec := 0x4000 }, .reset, .reset, .reset] }
    let t := after (.trap c0 5) s
    let u := after (.eret c0) t
    t.me.pc == 0x4000 && t.hmCore 0 == ⟨true, 0x10008, 0x40, 5, 0x4000, 0⟩ && u.me.pc == 0x10008 && (after (.halt c0) s).me.run == .halted) = true := by decide +kernel

/-- R300: a wave's `trap` parks it. -/
theorem test_trap_parks : ((after (.trap c0 5) far).me.park == some ⟨3, 0, 5, 0x10000, false⟩) = true := by decide +kernel

/-- R290, R291: reads and writes of system registers. -/
theorem test_system_registers : (let s := sets hm [(1, 0xFFFFFFFFFFFFFFFF)]
    (after (.srr c0 2 0x100) (after (.srw c0 0x100 1) s)).me.sreg 2 == 1 && (after (.srr c0 2 0x104) (after (.srw c0 0x104 1) s)).me.sreg 2 == 0xFFFFFFFFFFFFFFF8) = true := by decide +kernel

/-- R174: a step fetches, decodes and executes the word at the program counter. -/
theorem test_step : (match step (State.reset.withFetchWord 64 0x2107818100017000) with
    | .next t => t.me.sreg 1 == 1 && t.me.pc == 0x10008
    | _ => false) = true := by decide +kernel

/-! ## States and operands that meet the hypotheses of the statements -/

/-- `DecodeEncode`, `WordsHaveOneMeaning`: well-formed instructions; words of instructions; opcodes that are not assigned, at the ends of every gap. -/
theorem test_hyps_words : (([.add c0 .n32 (.v 127) (.s 63) (.k 15), .br cp (.none 7) 0xFFFFFF, .stG cs .b128 (.rel .sys) (.v 124) ⟨63, some (.v 127), 0xFF⟩] : List Instr).all
      (fun i => isWord i && i.wf) && ([0x0798400000007000, 0x60800196C0007800] : List Word).all (fun w => isWord (decode w)) &&
    ([0x00, 0x0C, 0x1F, 0x3F, 0x5C, 0x5F, 0x65, 0x7F, 0x8F, 0x9C, 0x9F, 0xA7, 0xAF, 0xB8, 0xFF] : List Nat).all
      fun op => !(assignedOps.contains op) && decode (BitVec.ofNat 64 (op * 2 ^ 56)) == .illegal (BitVec.ofNat 64 (op * 2 ^ 56))) = true := by decide +kernel

/-- `StepRunsDecoded`: a clock of a scheduler whose first ready wave can issue, and whose fetch reads a word that changes something. -/
theorem test_hyps_step : (let s := State.reset.withFetchWord 64 0x2107818100017000
    let u := unitOf s.me.gwn
    let s1 : State := { s with agenda := [], clocked := (u, 0) :: s.clocked }
    let f := (s1.focus 0).fetch
    s.agenda == [.clock u 0] && !s.out.stopped && !s.clocked.contains (u, 0) && s.ticks u &&
    (orderWaves (s.waves.filter fun v => unitOf v.gwn == u && schedOf v.gwn == 0 && s1.eligible v)).map (·.gwn) == [0] &&
    (match f.2 with
      | .word x => decode x == .addImm c0 .n64 (.s 1) (.s 1) 1
      | _ => false) && (after (.addImm c0 .n64 (.s 1) (.s 1) 1) f.1).me.pc != f.1.me.pc) = true := by decide +kernel

/-- `InstructionsThatDoNotAct`: a word that waits for its slot, one whose act is empty, one that a transaction forbids, one that reads a failing register. -/
theorem test_hyps_do_not_act : (far.verdict (.nop ⟨false, 7, false, 0, 1⟩) == .go && !isHm far.me.gwn &&
    (far.mapMe fun w => w.slotUp 0).verdict (.nop ⟨false, 7, false, 0, 1⟩) == .hold && far.verdict (.add ⟨false, 3, false, 0, 0⟩ .n32 (.v 1) (.v 2) (.v 3)) == .idle &&
    (far.mapMe fun w => { w with tx := { w.tx with depth := 1 } }).verdict (.evset cs (.k 1)) == .forbidden &&
    (far.mapMe fun w => { w with bad := [.v 2 31] }).verdict (.add c0 .n32 (.v 1) (.v 2) (.v 3)) == .parity) = true := by decide +kernel

/-- `IllegalEverywhere`: a word that is no instruction, on a wave with a raised slot, on one without, and on a harbourmaster core. -/
theorem test_hyps_illegal_words : ([far, far.mapMe fun w => w.slotUp 7, hm].map (fun s =>
    decide (s.me.run = .running) && !s.frozen s.me && s.me.dueFault.isNone && s.me.duePark.isNone && (s.me.tx.depth == 0 || !s.me.tx.doom)) == [true, true, true] &&
    far.me.slotsZero && !isHm far.me.gwn && !(far.mapMe fun w => w.slotUp 7).me.slotsZero && hm.me.slotsZero && isHm hm.me.gwn) = true := by decide +kernel

/-- `IntegerOperations`: every operation in its R form, and those that have one in their I form, in vectors, scalars and predicates. -/
theorem test_hyps_integer : (far.me.wf && goes far [.mad c0 .n32 (.v 1) (.v 2) (.v 3) (.v 4), .mad c0 .i64 (.s 1) (.s 2) (.k 15) (.s 4)] &&
    ([.add c0 .n32 (.v 1) (.v 2) (.v 3), .addImm c0 .i64 (.s 1) (.s 2) 0x8000, .sub c0 .i32 (.v 1) (.s 2) (.v 3), .mul c0 .n64 (.s 1) (.s 2) (.s 3), .mulImm c0 .n32 (.v 1) (.v 2) 7,
      .and c0 .b32 (.p 1) (.p 2) (.p 3), .andImm c0 .b32 (.p 7) (.p 2) 7, .or c0 .b64 (.s 1) (.s 2) (.s 3), .orImm c0 .b32 (.v 1) (.v 2) 7, .xor c0 .b32 (.v 1) (.sp .lane) (.k 9),
      .xorImm c0 .b64 (.s 1) (.s 2) 7, .shl c0 .b32 (.v 1) (.v 2) (.k 10), .shlImm c0 .b64 (.s 1) (.s 2) 63, .lsr c0 .n32 (.v 1) (.v 2) (.v 3), .lsrImm c0 .n32 (.v 1) (.v 2) 32,
      .asr c0 .i32 (.v 1) (.v 2) (.v 3), .asrImm c0 .i64 (.s 1) (.s 2) 31, .min c0 .i32 (.v 1) (.v 2) (.v 3), .max c0 .n64 (.s 1) (.s 2) (.s 3)] : List Instr).all
        fun i => (intParts i).isSome && i.wf && decide (far.verdict i = .go)) = true := by decide +kernel

/-- `ScalarHelpers`, `MovesSelectsAndStatus`. -/
theorem test_hyps_scalar_helpers : (let is : List Instr := [.popc c0 .b32 (.v 1) (.v 2), .clz c0 .b64 (.s 1) (.s 2), .not c0 .b32 (.p 1) (.p 7), .bfx c0 .i32 (.v 1) (.v 2) (.k 4) (.k 0),
      .bfi c0 .b64 (.s 1) (.s 2) (.s 3) (.k 11), .mulh c0 .i64 1 (.s 2) (.k 13), .li c0 (.v 1) 0xFFFFFFFF, .lih c0 63 5, .mov c0 (.p 7) (.s 1), .mov c0 (.s 1) (.sp .cycle),
      .csel c0 (.v 1) (.v 2) (.v 3) (.p 0), .csel c0 (.s 1) (.s 2) (.s 3) (.s 4), .flget c0 5, .flclr c0 (.k 9), .xstat c0 1]
    far.me.wf && goes far is && is.all Instr.wf) = true := by decide +kernel

/-- `Comparisons`: an integer and a float comparison into a predicate, p7 and a scalar, and the I form. -/
theorem test_hyps_comparisons : (let is : List Instr := [.cmp c0 .lt .i32 (.p 0) (.v 1) (.v 2), .cmp c0 .un .f32 (.p 7) (.v 1) (.k 15), .cmp c0 .ge .n64 (.s 1) (.s 2) (.s 3),
      .cmp c0 .eq .bf16 (.s 1) (.v 1) (.v 2), .cmpImm c0 .ne .i32 (.p 6) (.v 1) 0xFFFF, .cmpImm c0 .le .i64 (.s 1) (.s 2) 0x8000]
    far.me.wf && goes far is && is.all Instr.wf) = true := by decide +kernel

/-- `LaneMovement`: every mode, and reductions over one lane and over all. -/
theorem test_hyps_lanes : (let one := far.mapMe fun w => w.setP 3 0x80000000
    goes far [.perm c0 .idx 1 2 (.v 3), .perm c0 .bcast 1 1 (.k 10), .perm c0 .rot 1 2 (.s 3), .perm c0 .xor 1 2 (.k 1), .red cs .add .n32 (.s 1) 2, .red c0 .max .i32 (.v 1) 2] &&
    goes one [.red ⟨false, 3, true, 7, 0⟩ .xor .b32 (.v 127) 2, .red ⟨false, 3, false, 0, 0⟩ .min .i32 (.s 63) 2] && one.me.wf && !Ty.n32.wide && !Ty.b32.wide) = true := by
  decide +kernel

/-- A device with charts 3 and 15; chart 15 fails its parity. -/
def charted : State := { far with ctxs := [{ ctxOf 2 with charts := [(3, chart3), (15, chart3)], badCharts := [15] }] }

/-- A chart of one dimension: 255 elements in blocks of 16 over four berths. -/
def chart1 : List Word := [0x1804000000000000, 0x40000, 0x00000003000F00FE, 0, 0, 0, 0, 0]

/-- `Charts`: chart 3, the failing chart 15, the absent charts 1 and 16; the last element of a dimension and the first beyond it; another coordinate. -/
theorem test_hyps_charts : (let i (d a : Opnd) : Instr := .gaddr c0 d a (.v 4) none
    let num (a : Opnd) : Nat := (charted.opnd a 0).toNat
    charted.me.wf && goes charted [i (.v 8) (.k 3), i (.s 2) (.k 7), i (.v 8) (.k 1), i (.v 8) (.k 8)] && (i (.v 8) (.k 7)).wf && (i (.s 2) (.k 8)).wf &&
    num (.k 3) == 3 && num (.k 7) == 15 && num (.k 8) == 16 && num (.k 1) == 1 && charted.me.tx.depth == 0 && !isHm charted.me.gwn &&
    wordBits chart1 0 62 2 == 0 && wordBits chart1 2 0 16 == 254 && chartAddr chart1 [254, 0, 0, 0] != (0xFFFFFFFF, 0xFFFFFFFF)) = true := by decide +kernel

/-- `ControlTransfer`: every condition taken and not taken; targets aligned and not. -/
theorem test_hyps_control : (let s := (sets far [(1, 0xFFFFFFFFFFFFFFFF), (2, 0xFFFFFFFFFFFFFFF8), (3, 4)]).mapMe fun w => w.setP 1 1
    goes s [.br c0 .always 0x7FFFFF, .br c0 (.z 0) 1, .br c0 (.z 1) 1, .br c0 (.nz 1) 1, .br c0 (.ltz 1) 1, .br c0 (.gez 1) 1, .br c0 (.any 1) 1, .br c0 (.all 1) 1, .br c0 (.all 7) 1,
      .br c0 (.none 1) 1, .br c0 (.none 2) 1, .nop c0, .lea c0 4 0x800000, .call c0 4 1, .jr c0 2, .jalr c0 2 2, .jr c0 3, .jalr c0 4 3] &&
    (s.me.sreg 2).toNat % 8 == 0 && (s.me.sreg 3).toNat % 8 == 4 && s.me.wf && s.me.tx.depth == 0 && !isHm s.me.gwn) = true := by decide +kernel

/-- A wave at an address with two loop entries. -/
def looped (pc : Word) (l0 l1 : LoopEntry) (inner1 : Bool) : State := far.mapMe fun w => { w with pc := pc, loops := ⟨l0, l1, inner1⟩ }

/-- `HardwareLoops`: a `loop` at its own body's first and last word, at another body's last word, improperly nested, free, and with a count of 0. -/
theorem test_hyps_loop : (let e : LoopEntry := ⟨true, 2, 0x10008, 0x10020⟩
    let z := LoopEntry.zero
    [looped 0x10008 e z false, looped 0x10020 e z false, looped 0x10020 z e true, looped 0x10010 z e true, looped 0x10028 e e true, far].all
      fun s => goes s [.loop c0 false (.k 2) 3, .loop c0 true (.k 0) 0x7FFFFF] && !isHm s.me.gwn) = true := by decide +kernel

/-- `HardwareLoops`: at the last word of both bodies with the inner count 2, with 1 and the outer's 2, with 1 and 1; at the outer's alone; at none. -/
theorem test_hyps_loop_ends : (let w (pc : Word) (n m : BitVec 32) : Wave := (looped pc ⟨true, m, 0x10000, 0x10020⟩ ⟨true, n, 0x10008, 0x10020⟩ true).me
    let ends (w : Wave) (e : LoopEntry) : Bool := e.armed && e.stop == w.pc
    [w 0x10020 2 1, w 0x10020 1 2, w 0x10020 1 1].all (fun w => ends w w.loops.l0 && ends w w.loops.l1) &&
    !ends (w 0x10018 1 1) (w 0x10018 1 1).loops.l1 && (w 0x10018 1 1).fallThrough.pc == 0x10020 &&
    (w 0x10020 2 1).fallThrough.pc == 0x10008 && (w 0x10020 1 2).fallThrough.pc == 0x10000 && (w 0x10020 1 1).fallThrough.pc == 0x10028) = true := by decide +kernel

/-- `FloatArithmetic`, `VariableLatencyVectors`: every form, with one lane active. -/
theorem test_hyps_float : (let s := far.mapMe fun w => w.setP 3 0x80000000
    let c : Ctl := ⟨false, 3, false, 0, 0⟩
    let d : Ctl := ⟨false, 3, true, 7, 0⟩
    s.me.wf && ([.addFloat c .f32 .rne 1 (.v 2) (.v 3) none, .subFloat c .bf16 .sr 1 (.v 2) (.k 1) (some (.v 4)), .mulFloat c .f16 .rz 1 (.v 2) (.s 3) none,
      .fma c .f32 .ru 1 (.v 2) (.v 3) (.v 1), .fms c .f32 .rd 1 (.v 2) (.v 3) (.k 13), .minFloat c .f32 1 (.v 2) (.v 3), .maxFloat c .bf16 1 (.v 2) (.v 3), .abs c .f32 1 (.v 2),
      .neg c .f16 1 (.v 2), .fclass c .f32 1 (.v 2), .frnd c .f32 .sr 1 (.v 2) (some (.v 3))] : List Instr).all
        (fun i => (floatParts s i).isSome && i.wf && decide (s.verdict i = .go)) &&
    ([.div d .f32 .rd 1 (.v 2) (.v 3) none, .sqrt d .f16 .sr 1 (.v 2) (some (.v 3)), .rcp d .f32 1 (.v 2), .rsqrt d .f32 1 (.v 2), .exp2 d .bf16 1 (.v 2), .log2 d .f32 1 (.v 2),
      .sin d .f32 1 (.v 2), .cos d .f32 1 (.v 2), .tanh d .f16 1 (.v 2)] : List Instr).all
        (fun i => (pipeParts s i).isSome && i.wf && decide (s.verdict i = .go)) && goes s [.rnd128 d 4 8 6]) = true := by decide +kernel

/-- `Rounding`: a value that no format holds, rounded in every mode without overflow; the largest and the least finite value of each format. -/
theorem test_hyps_rounding : (floatFormats.all fun f => (f.round .rne false 0xFFFF (.num true 3 (-200))).2 &&& fOVF == 0 && (f.round .rz true 0 (.num false 11 (-3))).2 &&& fINX != 3 &&
    (match f.dec f.maxEnc with
      | .num .. => true
      | _ => false) && (match f.dec 1 with
      | .num .. => true
      | _ => false)) = true := by decide +kernel

/-- `SpecialFloatResults`: a NaN, both infinities, both zeros and a negative value of each format of R213. -/
theorem test_hyps_special_floats : ([(fmtF32, 0x7FC00000, 0x7F800000, 0x80000000), (fmtBF16, 0x7FC0, 0x7F80, 0x8000), (fmtF16, 0x7E00, 0x7C00, 0x8000)].all fun p =>
    p.1.dec p.2.1 == .nan && p.1.dec p.2.2.1 == .inf false && p.1.dec (p.2.2.1 + p.2.2.2) == .inf true && (match p.1.dec p.2.2.2, p.1.dec (p.2.2.2 + 1) with
      | .num true 0 _, .num true m _ => m != 0
      | _, _ => false)) = true := by decide +kernel

/-- `Conversions`, `BlocksAndCodebooks`: one and two elements of a lane, an integer, a random operand; a NaN of a float type; every block form. -/
theorem test_hyps_conversions : (far.me.wf && goes far [.cvt c0 .bf16 .f32 .rne 1 (.v 2) none, .cvt c0 .bf16 .f16 .sr 1 (.v 2) (some (.v 3)), .cvt c0 .i32 .f32 .rz 1 (.v 2) none, .cvt c0 .e2m1 .n32 .ru 1 (.k 15) none,
      .bq c0 .e4m3 2 4, .bq c0 .e2m1 126 0, .bdq c0 .f32 .cb4 .rd 4 (.v 8) (.s 2), .bdq c0 .bf16 .e3m2 .rne 4 (.v 8) (.s 2), .cbq c0 7 1 (.v 2) (.v 3), .cbl c0 0 1 (.v 2) (.k 1)] &&
    cvtValue .f32 0x7FC00000 == .nan && (Fmt.ofTy .f32).isSome && !isHm far.me.gwn && !far.tableBad 7 (fun _ => true) &&
    (let s : State := { far with cores := far.cores.map fun k => { k with badTables := [32 * 7] } }
     s.tableBad 7 (fun _ => true) && goes s [.cbq c0 7 1 (.v 2) (.v 3)])) = true := by decide +kernel

/-- Scalar 1 as a base, with a lane's worth of words above it. -/
def based (s : State) (b : Word) : State := sets s [(1, b)]

/-- An access of 32 words, one for each lane, from s1 on. -/
def perLane : MemArg := ⟨1, some (.sp .lane), 0⟩

/-- `LoadsAndStores`: the last fields of the allocation, and of the mapped gigabyte; a field misaligned and one past the allocation. -/
theorem test_hyps_loads_and_stores : (let ls (s : State) : List Nat := memLanes s c0 (.v 2) perLane
    let fits (s : State) : Bool := (ls s).all fun l => memAt s perLane 4 l % 4 == 0 && decide (memAt s perLane 4 l + 4 ≤ s.scrSize)
    let s := based mapped (65536 - 128)
    let g := based mapped 0x3FFFFF80
    let as := (memLanes g c0 (.v 2) perLane).map fun l => (l, memAt g perLane 4 l)
    let ok (r : State × Checked) : Bool := match r.2 with
      | .ok ts => ts.length == 32
      | _ => false
    goes s [.ldS cs .b32 .plain (.v 2) perLane, .stS cs .b32 (.rel .pkg) (.v 2) perLane, .ldG cs .b32 (.acq .sys) (.v 2) perLane, .stG cs .b32 .plain (.v 2) perLane, .pfG c0 perLane] &&
    fits s && !fits (based mapped (65536 - 124)) && memAt (based mapped 2) perLane 4 0 % 4 != 0 && s.me.tx.depth == 0 && !isHm s.me.gwn &&
    ok (g.checkGlobal ⟨.r, 4, ldWide .b32, true, true⟩ as) && ok (g.checkGlobal ⟨.w, 4, ldWide .b32, true, false⟩ as)) = true := by decide +kernel

/-- `Atomics`: each of the eight, in scratch and in global memory, with targets that pass. -/
theorem test_hyps_atomics : (let m : MemArg := ⟨1, none, 0⟩
    let is (scr : Bool) : List Instr := [.atomAdd cs scr .n32 .plain (.s 2) m, .atomMin cs scr .i64 (.acq .core) (.s 2) m, .atomMax cs scr .n32 (.rel .pkg) (.s 2) m, .atomAnd cs scr .b32 (.full .sys) (.s 2) m,
      .atomOr cs scr .b64 .plain (.s 2) m, .atomXor cs scr .b32 .plain (.s 2) m, .atomXchg cs scr .f32 .plain (.s 2) m, .atomCas cs scr .b64 .plain (.s 2) m]
    let s := based mapped (65536 - 8)
    goes s (is true) && goes s (is false) && (is true).all (fun i => (atomParts i).isSome) && s.me.tx.depth == 0 &&
    (match s.checkScratch 8 [(0, 65528)], (s.checkGlobal ⟨.w, 8, false, true, false⟩ [(0, 65528)]).2 with
      | .ok _, .ok _ => true
      | _, _ => false)) = true := by decide +kernel

/-- A state with one operation of a class in flight at the head of the wave's list. -/
def aloft (c : OrdClass) (s : State) (f : Pending) : State :=
  s.mapMe fun w => ({ w with flights := [⟨7, c, some 1, w.pc, f, false⟩], nextOp := 8 }).slotUp 1

/-- A state with one operation in flight that writes no memory. -/
def flying (s : State) (f : Pending) : State := aloft .other s f

/-- Does an operation in flight go on? -/
def open? (s : State) (g id : Nat) : Bool :=
  match s.wave? g with
  | some w => match w.flight? id with
    | some f => !s.blocked w f && (s.crew? w.crew).isSome
    | none => false
  | none => false

/-- A target in device memory. -/
def devTarget (a : Nat) : Target := ⟨.dev, a, a, 0, 0, false, 0, 1⟩

/-- The line at 0x20000 with all bits of a codeword's bytes wrong. -/
def spoiled (s : State) : State := after (.errorInjection 0 0x20000 0 0xFF true false) s

/-- The crew with the word of scratch at 65,528 failing its check. -/
def failing (s : State) : State := { s with crews := [{ crew with bad := [65528 / 8] }] }

/-- `LoadsComplete`, `ScratchStoresComplete`: a load and a store of two lanes that overlap, which nothing holds back; a load whose first lane is sound and whose second is not. -/
theorem test_hyps_scratch_completes : (let load (s : State) (ts : List Target) : State := aloft .ld s (.load (.v 2) .b32 ((List.range 32).zip ts) false ts [] 0)
    open? (load far [scrTarget 65532, scrTarget 0]) 0 7 && open? (load (failing far) [scrTarget 0, scrTarget 65532]) 0 7 && (failing far).crews.all (fun k => !k.fails 0 4 && k.fails 65532 4) &&
    open? (aloft .st far (.store 4 [(0, scrTarget 65532, 5), (1, scrTarget 65532, 6)] false)) 0 7 && Cells.wf crew.scratch && (scrTarget 65532).space == .scr) = true := by decide +kernel

/-- `LoadsComplete`: a load of a lane of each space, two of them in one line, that nothing holds back and no error faults; one of a line that is uncorrectable. -/
theorem test_hyps_global_loads : (let ts : List Target := [devTarget 0x2003C, devTarget 0x20038, { devTarget 0x40000 with space := .wide, code := 6 }, { devTarget 64 with space := .host },
      { devTarget 8 with space := .status }, scrTarget 16]
    let load (s : State) (ts : List Target) : State := aloft .ld s (.load (.v 2) .b32 ((List.range 32).zip ts) false ts [] 0)
    let judged (s : State) (ts : List Target) : Option (Nat × Nat) := let home := ts.filter fun a => (s.l1Copy 0 true a).isNone; s.judge 0 1 true (s.manyOver 0 4 home) 4 home
    open? (load mapped ts) 0 7 && judged (load mapped ts) ts == none && open? (load (spoiled mapped) [devTarget 0x20000]) 0 7 &&
    judged (load (spoiled mapped) [devTarget 0x20000]) [devTarget 0x20000] == some (5, 0x20000)) = true := by decide +kernel

/-- `StoresAtHome`, `HomeWrites`: the lanes of a store in one line, one lane alone, and lanes that stay; a shadow copy's; a line without error in canonical memory. -/
theorem test_hyps_stores_at_home : (let s (ls : List (Nat × Target × Nat)) : State := aloft .st mapped (.store 4 ls false)
    let line := 0x20000 / 64
    let lf := lineFmt (far.codeAt line 0) (lineInUnit line)
    let one := s [(0, devTarget 0x2003C, 5)]
    [one, s [(0, devTarget 0x20000, 5), (1, devTarget 0x20000, 6), (2, devTarget 0x20040, 7)]].all (fun s => open? s 0 7 && !s.isShadow 1 && s.store.wf) &&
    open? { one with crews := [{ crew with shadow := true }] } 0 7 && { one with crews := [{ crew with shadow := true }] }.isShadow 1 &&
    (lf.decode (far.store.bits1 line)).bits.data == (far.store.bits1 line).data && (lf.decode (far.store.bits1 line)).sFail.all (· == false) && crew.wf && far.ctxs.all (·.images.isEmpty)) = true := by
  decide +kernel

/-- `AtomicsAtHome`: lanes in scratch; in device memory one lane, in a line that decodes and in one that does not, and two at one address. -/
theorem test_hyps_atomics_at_home : (let s (m : State) (as : List Target) : State := aloft .ra m (.atomic .add .n32 (.s 2) ((List.range 32).zip (as.map fun a => (a, 1, 0))) false false as [] 0)
    let a := devTarget 0x20000
    let reads (s : State) : Option Nat := (fieldRead s 0 false (s.manyOver 0 4 [a]) 4 a).2
    let lf := lineFmt (far.codeAt 0x800 0) (lineInUnit 0x800)
    let t := ((s mapped [a, a]).doLane 0 7 0).store.bits1 0x800
    open? (s far [scrTarget 65532, scrTarget 65532]) 0 7 && [s mapped [a], s (spoiled mapped) [a], s mapped [a, a]].all (open? · 0 7) && !far.isShadow 1 && a.at_ / 64 == 0x800 &&
    reads (s mapped [a]) == none && reads (s (spoiled mapped) [a]) == some 5 && (lf.decode t).sFail.all (· == false) && (lf.decode t).bits.data == t.data) = true := by decide +kernel

/-- `Fences`: every kind and scope, in a wave and on a harbourmaster core; a release of core scope with a store in flight that waits for nothing, and behind one not yet performed. -/
theorem test_hyps_fences : ([far, hm].all (fun s => [FenceKind.acq, .rel, .full].all fun k => goes s [.fence c0 k .core, .fence c0 k .pkg, .fence c0 k .sys]) &&
    (let s := aloft .st mapped (.store 4 [(0, devTarget 0x20000, 5)] false)
     goes s [.fence c0 .rel .core] && s.released s.me .relc s.me.nextOp) &&
    (let s := aloft .ld mapped (.load (.s 2) .b32 [(0, devTarget 0x20000)] false [devTarget 0x20000] [] 0)
     goes s [.fence c0 .rel .core] && !s.released s.me .relc s.me.nextOp)) = true := by decide +kernel

/-- A device whose scratch granules below a bound are full. -/
def full (n : Nat) : State := { based far 0 with crews := [{ crew with full := (List.range n).map fun i => ⟨i, 1⟩ }] }

/-- The full/empty instruction of a kind on one word for each lane. -/
def feOf (k : FeKind) : Instr :=
  match k with
  | .ldf => .ldf cs .b32 (.v 2) perLane
  | .ldfc => .ldfc cs .b32 (.v 2) perLane
  | .stf => .stf cs .b32 (.v 2) perLane

/-- `FullEmpty`: the forms where every granule passes and where not, a failing word of scratch, and forms woken. -/
theorem test_hyps_full_empty : (let named := [0, 1, 2, 3, 4, 5, 6, 7]
    let keys := (List.range 32).flatMap fun l => (scrTarget (4 * l)).keys 4
    let passes (n : Nat) (k : FeKind) : Bool := named.all fun x => (full n).fePass k ((full n).crews.any fun c => c.isFull x) x
    let sick : State := { full 8 with crews := (full 8).crews.map fun c => { c with bad := [1] } }
    [FeKind.ldf, .ldfc, .stf].all (fun k => goes (full 8) [feOf k] && goes (full 0) [feOf k] && goes sick [feOf k]) && (full 8).me.wf && !(full 8).busyWith keys && !(full 0).busyWith keys &&
    passes 8 .ldf && passes 8 .ldfc && passes 0 .stf && !passes 7 .ldf && !passes 0 .ldfc && !passes 1 .stf && sick.crews.all (fun c => c.fails 8 4 && !c.fails 4 4) &&
    (full 8).crews.all (fun c => Cells.wf c.full && Cells.wf c.scratch && !c.fails 0 128) && !(full 8).litReserves 0 1 0 &&
    [FeKind.ldf, .ldfc, .stf].all fun k => [8, 0].all fun n => ((full n).mapMe fun w => { w with run := .feWoken (feOf k) }).me.run == .feWoken (feOf k)) = true := by decide +kernel

/-- A device whose context's first 2 MiB have the given level-2 entry, at 0x30000, under a root at 0x20000. -/
def rooted (x : Nat) : State :=
  let s : State := { far with ctxs := [{ ctxOf 2 with ptroot := 0x20000 }] }
  (s.writePhys noWave 0x20000 8 (2 ^ 63 + 0x300)).writePhys noWave 0x30000 8 x

/-- `BitAndDiscardForms`: an empty range past the end, the last granule, a misaligned address and length, one past the end; one line, all of 65,536 bytes and more; a page that is
missing, one that forbids writes, one in host memory and one that is write-protected; both kinds of operation in flight. -/
theorem test_hyps_bits_and_discard : (let s (a n : Word) : State := sets mapped [(1, a), (2, n)]
    let leaf (x : Nat) : State := sets (rooted x) [(1, 0x20000), (2, 64)]
    let tr (s : State) : TrRes := (s.translate 0 0 0x20000 .w).2
    [s 65536 0, s 65520 16, s 8 16, s 16 8, s 65536 16, s 0x20000 64, s 0x20000 65536, s 0x20001 64, s 0x20000 65600].all (fun s =>
      goes s [.feset cs (.s 1) (.s 2), .feclr cs (.s 1) (.s 2), .discard cs 1 (.s 2)] && s.me.tx.depth == 0 && !isHm s.me.gwn && s.scrSize == 65536) &&
    (match (mapped.checkGlobal ⟨.w, 1, false, false, false⟩ [(0, 0x20000)]).2, (far.checkGlobal ⟨.w, 1, false, false, false⟩ [(0, 0x20000)]).2 with
      | .ok _, .fail _ => true
      | _, _ => false) &&
    [far, leaf 0xE800000000000000, leaf 0xFC00000000000000, leaf 0xE900010000000000].all (goes · [.discard cs 1 (.s 2)]) && tr far == .missing && tr (leaf 0xE800000000000000) == .access &&
    tr (leaf 0xE900010000000000) == .writeProtect && (match tr (leaf 0xFC00000000000000) with
      | .ok t => t.space == .host
      | _ => false) &&
    open? (aloft .st mapped (.setFull 65520 16 true)) 0 7 && open? (aloft .st mapped (.discard [devTarget 0x20000, devTarget 0x20040])) 0 7 &&
    [devTarget 0x20000, devTarget 0x20040].all (fun t => mapped.codeAt (t.at_ / 64) t.code != 6)) = true := by decide +kernel

/-- `LoadsAndStores`, refused: a misaligned lane, an address past 2^48, the unmapped addresses below the status window, a store into it, and pages that are missing, forbidden,
write-protected, of an undefined layout and with an uncorrectable entry. -/
theorem test_hyps_refused : (let i := Instr.ldG cs .b32 .plain (.s 2) ⟨1, none, 0⟩
    let j := Instr.stG cs .b32 .plain (.s 2) ⟨1, none, 0⟩
    let leaf (x : Nat) : State := based (rooted x) 0x20000
    let tr (s : State) (n : Need) : TrRes := (s.translate 0 0 0x20000 n).2
    let torn := based (spoiled (rooted 0)) 0x20000
    [based far 2, based far 0x1000000000000, based far (BitVec.ofNat 64 unwalkedBase), based far (BitVec.ofNat 64 statusBase), based far 0x20000, torn].all (fun s => goes s [i, j] && memLanes s cs (.s 2) ⟨1, none, 0⟩ == [0]) &&
    unwalkedBase < statusBase && statusBase < 2 ^ 48 && tr far .r == .missing && tr far .w == .missing && tr (leaf 0xE800000000000000) .w == .access && tr (leaf 0xE900010000000000) .w == .writeProtect &&
    tr (leaf 0xF8D0000000000000) .r == .badLayout && tr torn .r == .ue) = true := by decide +kernel

/-- A wave inside a transaction of some depth. -/
def inTx (n : Nat) : State := mapped.mapMe fun w => { w with tx := { w.tx with depth := n, begin_ := 0xF000, handler := 0xE000 } }

/-- A state whose transaction has some of its fields set. -/
def tx (s : State) (f : Tx → Tx) : State := s.mapMe fun w => { w with tx := f w.tx }

/-- Another wave with an older transaction that has read a line. -/
def older : Wave := { wave with gwn := 33, crew := 2, tx := { Tx.zero with depth := 1, stamp := some (0, 33), lines := [0x800] } }

/-- A transaction of depth 1 that writes a line which an older one has read. -/
def yielding : State := { tx (inTx 1) fun t => { t with
  stamp := some (5, 0), buf := [⟨false, 0x800, 0xFF, 1, 0, 0x20000, 1, []⟩] } with others := older :: far.others }

/-- `TransactionBounds`: depths 0, 1, 14 and 15; the outer end that commits, with an empty buffer and with one, the inner end, the end that waits for another wave's store, and the one
that yields to an older transaction. -/
theorem test_hyps_transactions : (let store : Flight := ⟨7, .st, none, 0x10000, .store 4 [(0, devTarget 0x20000, 5)] false, true⟩
    let held : State := { tx (inTx 1) (fun t => { t with lines := [0x800] }) with others := { wave with gwn := 1, flights := [store] } :: far.others }
    goes (inTx 0) [.xbegin c0 7] && goes (inTx 1) [.xbegin c0 7, .xend c0] && goes (inTx 2) [.xend c0] && goes (inTx 14) [.xbegin c0 7] && goes (inTx 15) [.xbegin c0 7, .xend c0] &&
    !(inTx 1).mustYield && !(inTx 1).commitHeld && held.commitHeld && !held.mustYield && goes held [.xend c0] && yielding.mustYield && goes yielding [.xend c0]) = true := by decide +kernel

/-- `FullEmpty`, inside a transaction: the forms where every granule passes and where not, also where the wave's own buffer has filled them; with an alternative and without; a raised slot. -/
theorem test_hyps_full_empty_tx : (let s (n : Nat) : State := (full n).mapMe fun w => { w with tx := { w.tx with depth := 1, begin_ := 0xF000, handler := 0xE000 } }
    let own : State := tx (s 0) fun t => { t with buf := [⟨true, 0, 0, 0, 0, 0, 0, (List.range 8).map (·, true)⟩] }
    let sees (s : State) (n : Nat) : Bool := (s.overlay.crew? 1).map (fun k => (List.range 8).all k.isFull) == some (n == 8)
    let busy : State := (s 0).mapMe (·.slotUp 3)
    let alt : State := tx (s 0) fun t => { t with alts := [⟨0x9000, 1, 0, .zero⟩] }
    [s 8, s 0, own, busy, alt].all (fun s => [FeKind.ldf, .ldfc, .stf].all (fun k => goes s [feOf k]) && s.me.tx.depth == 1 && s.me.wf && s.me.flights.isEmpty) &&
    sees (s 8) 8 && sees (s 0) 0 && sees own 8 && busy.me.slotsZero == false && alt.me.slotsZero) = true := by decide +kernel

/-- `BufferingAndAborts`: every form that writes, inside a transaction; `xabort` with the largest code. -/
theorem test_hyps_buffering : (let m : MemArg := ⟨1, none, 0⟩
    goes (inTx 1) [.stG cs .b32 .plain (.s 2) m, .stS cs .b32 .plain (.s 2) m, .ldG cs .b32 .plain (.s 2) m, .ldS cs .b32 .plain (.s 2) m, .ldf cs .b32 (.s 2) m, .ldfc cs .b32 (.s 2) m,
      .stf cs .b32 (.s 2) m, .feset cs (.k 0) (.k 8), .feclr cs (.k 0) (.k 8), .atomAdd cs true .n32 .plain (.s 2) m, .atomCas cs false .b32 .plain (.s 2) m, .xabort c0 239]) = true := by decide +kernel

/-- `AlternativesAndRestarts`: with 6 and with 7 alternatives; `retry` with one, with none and something read, doomed, and with nothing read; two waves that one write woke, and one that
backs off, due and not. -/
theorem test_hyps_alternatives : (let alt : Alt := ⟨0x9000, 1, 0, .zero⟩
    let t (n : Nat) : State := tx (inTx 1) fun t => { t with alts := List.replicate n alt }
    let r := tx (inTx 1) fun t => { t with lines := [0x800] }
    let d := tx (inTx 1) fun t => { t with doom := true }
    let woken (g prio : Nat) : Wave := { wave with gwn := g, prio := prio, run := .woken (some 4) }
    let two : State := { far with me := woken 0 8, others := [woken 33 9] }
    let waits (s : State) (g : Nat) : Bool := (s.wave? g).any fun w => s.waves.any fun y => y.gwn != g && y.wokenBefore w
    let off (due : Nat) : State := far.mapMe fun w => { w with run := .backoff due }
    goes (t 6) [.otherwise c0 5] && goes (t 7) [.otherwise c0 5] && goes (t 1) [.retry c0] && (t 1).me.flights.isEmpty && goes r [.retry c0] && !r.me.tx.readsNothing && goes d [.retry c0] &&
    goes (inTx 1) [.retry c0] && (inTx 1).me.tx.readsNothing && waits two 0 && !waits two 33 && ((off 9).wave? 0).isSome && (off 9).time < 9 && ((off 0).wave? 0).isSome) = true := by
  decide +kernel

/-- `HomeWrites`: waves that have registered the line, by its number and by its slice: running in a transaction, asleep in `retry` and in `ldf`; one that has not. -/
theorem test_hyps_dooms : (let hit (s : State) (w : Wave) : Bool := w.gwn != 99 && (w.tx.lines.contains 0x800 || w.tx.coarse.contains (s.sliceOf 0x800))
    let sleeper : Wave := { older with run := .asleep, tx := { older.tx with lines := [], coarse := [far.sliceOf 0x800] } }
    let s (w : Wave) : State := { far with others := w :: far.others }
    hit yielding older && older.run == .running && older.tx.depth == 1 && hit far sleeper && hit far { sleeper with run := .feAsleep (feOf .ldf) } && !hit far far.me && far.waves.contains far.me &&
    [older, sleeper, { sleeper with run := .feAsleep (feOf .ldf) }].all fun w => (s w).waves.contains w) = true := by decide +kernel
/-! ## Tasks, launches and berths -/

/-- A device whose context has one type, with both bodies, in its table at 0x4000, and room for four records at a berth. -/
def typed : State :=
  let s := { mapped.tlbAdd hostTlb 0 1 0 loaderLeaf with ctxs := [{ ctxOf 2 with ntypes := 1, typetab := 0x4000, quota := 4 }] }
  (s.writePhys noWave 0x4000 8 0x8000).writePhys noWave 0x4008 8 (0x9000 + 3 * 2 ^ 52)

/-- The words of a task record of type 0 with an anchor of one line, of some priority. -/
def record (prio : Nat) : List Word := [0x20000, BitVec.ofNat 64 (64 + prio * 2 ^ 32), 1, 2, 3, 4, 5, 6]

/-- The same record in s8 to s15. -/
def withRecord (ws : List Word) : State := sets typed ((List.range 8).map fun i => (8 + i, ws.getD i 0))

/-- Is the record in s8 to s15 one that `spawn` faults on (R248)? -/
def badRecord (s : State) : Bool :=
  let ws := (List.range 8).map fun i => s.me.sreg (8 + i)
  wordBits ws 0 60 4 != 0 || wordBits ws 1 37 3 != 0 || (s.typeEntry s.me.ctx (wordBits ws 0 48 12)).2.isNone || (decide (28 ≤ wordBits ws 1 32 5) && !s.me.priv)

/-- `TaskCommands`: a record that is taken and three that are not; events 255 and 256; a crew with a wave left and one without; an aligned record and one that is not. -/
theorem test_hyps_tasks : (let two : State := { far with crews := [{ crew with alive := 2, waves := [0, 1] }], others := { wave with gwn := 1 } :: far.others }
    goes typed [.spawn cs 1 8, .progress c0, .tret c0, .launch cs 1 2] && !badRecord (withRecord (record 27)) && badRecord (withRecord (record 28)) && badRecord (withRecord [0x1000000020000]) &&
    badRecord (withRecord [0x2000000000020000]) && goes (sets far [(1, 255)]) [.evset cs (.s 1), .evclr cs (.s 1)] && goes (sets far [(1, 256)]) [.evset cs (.s 1), .evclr cs (.s 1)] &&
    goes two [.tret c0] && two.others.any (·.gwn != two.me.gwn) && goes far [.tret c0] && far.others.any (fun w => isHm w.gwn) && crew.alive ≤ 1 &&
    (far.rec? 0 1).map (fun r => !r.hasShadow && r.primary.isNone) == some true && (far.launch? 0 1).map (·.live) == some 2 && !far.isShadow 1 &&
    (match (mapped.checkGlobal ⟨.r, 1, false, true, false⟩ [(0, 0x20080), (1, 0x200C0)]).2 with
      | .ok [(0, _), (1, _)] => true
      | _ => false)) = true := by decide +kernel

/-- The sixteen words of a launch record of type 0: a count, and a wait for event 3 where asked. -/
def launchWords (count wait : Nat) : List Word :=
  [0x20000, BitVec.ofNat 64 (count + 64 * 2 ^ 32), 0x800000040, 0x1000000030000, 3, 0, 0, 0, BitVec.ofNat 64 wait, 0, 0, 0, 0, 0, 0, 0]

/-- The state with the harbourmaster's cores running. -/
def manned (s : State) : State := { s with others := mapWhere (fun w => isHm w.gwn) (fun w => { w with run := .running }) s.others }

/-- A device with a submitted launch record and a number of live launches. -/
def submitted (ws : List Word) (bad : Bool) (n : Nat) : State :=
  let s := manned (aloft .rel typed (.launch 5 []))
  { s with
    subs := [⟨0, 7, 0, ws, bad⟩]
    ctxs := s.ctxs.map fun c => { c with launches := (List.range n).map fun i => { loaderLaunch with id := i + 1 } } }

/-- `EventsAndLaunchChecks`: events 0 and 255; a record unreadable, refused, accepted, and one at the bound of 1,024 live launches. -/
theorem test_hyps_events_and_checks : (let ok (ws : List Word) : Bool := (typed.ctx? 0).map (fun c => launchOk typed.dies c.priv c (typed.typeEntry 0 (wordBits ws 0 48 12)).2 ws) == some true
    let s := submitted (launchWords 1 0) false 1
    open? (aloft .rel far (.event 255 true)) 0 7 && open? (aloft .rel far (.event 0 false)) 0 7 && s.hmAlive 0 && (far.ctx? 0).isSome && ok (launchWords 1 1) && !ok (launchWords 0 0) &&
    s.subs.length == 1 && (s.wave? 0).map (·.wf) == some true && ((s.wave? 0).bind (·.flight? 7)).isSome && (submitted (launchWords 1 0) false 1024).ctxs.map (·.launches.length) == [1024] &&
    (submitted (launchWords 1 0) true 1).subs.map (·.bad) == [true]) = true := by decide +kernel

/-- A device whose berth 0 holds a number of records and one spawn offer. -/
def offering (n : Nat) : State :=
  let s := aloft .rel typed (.spawn 5 (record 3))
  { s with berths := [{ Berth.empty 0 with recs := List.replicate n loaderTask, offers := [⟨0, 0, 7⟩] }] }

/-- `BerthCycles`: a berth with room, one at the context's quota of 4, and a full one. -/
theorem test_hyps_berth_cycles : ([offering 3, offering 4, offering 2048].all (fun s => (s.berth 0).offers == [⟨0, 0, 7⟩] && (s.berth 0).enums.isEmpty &&
      (s.wave? 0).map (·.wf) == some true && ((s.wave? 0).bind (·.flight? 7)).map (·.body) == some (.spawn 5 (record 3)) && (s.crew? 1).isSome) &&
    (record 3).length == 8 && ((offering 3).berth 0).countOf 0 == 3 && (offering 4).quotaOf 0 == 4 && ((offering 2048).berth 0).count == 2048) = true := by decide +kernel

/-- A device with a far body's task unclaimed at a berth, and a pilot for core 0 with the local berths 3 and 0, and berth 70. -/
def piloted (berth : Nat) (remote : Bool) : State := { typed with
  others := typed.others.filter fun w => isHm w.gwn
  berths := [{ Berth.empty berth with recs := [{ loaderTask with words := record 8, st := .unclaimed }] }]
  pilots := [⟨0, [3, 0, 70], 0, remote, none, 0⟩] }

/-- `BerthTimers`: a crew to start; a task and a wave that age, in the clock that raises them and before; a wave that backs off; a status line that changed, due and not; a pilot with a
local candidate, with a remote one and with none, in its turn and not, before its wait is over and after. -/
theorem test_hyps_berth_timers : (let w : Wave := { wave with gwn := 1, run := .off }
    let s : State := { far with others := w :: far.others }
    let at_ (n : Nat) : State := { piloted 0 false with time := n, me := { wave with run := .asleep } }
    let task (s : State) : Bool := ((s.rec? 0 1).any fun r => r.st == .unclaimed && wordBits r.words 1 32 5 == 8 && decide (s.recPrio r < 27) && decide (r.time ≤ s.time)) && s.owing.isEmpty
    let ready : State := { mapped with me := { wave with age := 4095 }, clocked := [(0, 0)] }
    let line (n : Nat) : State := { far with time := 200, berths := far.berths.map fun b => { b with statusTime := some n } }
    s.waves.contains w && w.crew == crew.id && crew.fault == none && w.issued == none && task (at_ 4095) && task (at_ 4094) && ready.eligible ready.me && ready.owing.isEmpty &&
    ready.me.effPrio == 8 && clocksIn 0 0 1 == 1 && !far.eligible { wave with gwn := 33 } && (line 0).berths.all (fun b => b.status != (line 0).statusBytes 0) &&
    (line 20).berths.all (fun b => b.statusTime == some 20) && 20 + 180 ≤ (line 20).time && (line 21).berths.all (fun b => b.statusTime == some 21) && (line 21).time < 21 + 180 &&
    (piloted 0 false).coreOpen 0 && (piloted 0 false).pilots.all (fun p => p.asked.isNone && decide (p.next ≤ (piloted 0 false).time)) && (piloted 0 false).bestBerth 0 [3, 0] == some (0, 8) && (piloted 0 false).pilotNext 0 == some 0 && (piloted 3 false).pilotNext 1 == none &&
    ((piloted 70 true).bestBerth 0 [3, 0]).isNone && (piloted 70 true).bestBerth 0 [70] == some (70, 8) && (piloted 70 true).pilotNext 0 == some 0 && ((piloted 70 false).bestBerth 0 [3, 0]).isNone) = true := by
  decide +kernel

/-- A device with a faulted task's report to write into a ring of one entry at 0x30000, and a live count. -/
def reporting (live : Nat) : State := { manned typed with ctxs := typed.ctxs.map fun c => { c with
  launches := [{ loaderLaunch with words := launchWords 1 0, live := live, reports := [⟨0, 9, 0, 0x20000, 0x03, 0, 0x10000, 0x102, some 4⟩] }] } }

/-- `Manifests`: a report that may be written, with a free entry, and with one whose word 0 is not zero; the last of its launch. -/
theorem test_hyps_manifests : ([reporting 2, reporting 1].all fun s =>
    let busy := s.writePhys noWave 0x30000 8 (2 ^ 63)
    s.crews.all (·.fault.isNone) && (s.launch? 0 1).map (fun l => (l.reports.find? s.reportReady).isSome) == some true && s.hmAlive 0 &&
    (match (s.translate hostTlb 0 0x30000 .w).2 with
      | .ok t => t.space == .dev && t.at_ == 0x30000 && s.entryFree 0 t && !busy.entryFree 0 t
      | _ => false) && s.store.wf) = true := by decide +kernel

/-- A berth with a retired primary and its copy, in some state and with the given signatures. -/
def shadowed (a b : Word) (st : RecState) : State := { typed with berths := [{ Berth.empty 0 with
  recs := [{ loaderTask with id := 4, st := .retired, sig := a, hasShadow := true }, { loaderTask with id := 5, st := st, sig := b, primary := some 4 }] }] }

/-- The image of core 0 that a save leaves, of one section of a line at 0x80000. -/
def savedImage : CoreImage := ⟨0, 0, 0x2000, [(.header, 0, 1)], [{ wave with gwn := 5, watch := 14000000000 }], [crew], none⟩

/-- `WatchdogQueueAndShadows`: a wave below its window and at it; a hung context whose every unit is saved; an entry for a free place of the fault queue, and for its last; copies that
agree, differ, have faulted, and whose primary has gone. -/
theorem test_hyps_watchdog : (let q (next : Nat) : State := { far with parts := [{ Partition.reset with fqbase := 0x40000, fqcap := 2, fqNext := next, fqWait := [⟨0, 1, 0, 0, 0x5000, 0x10000⟩] }, .reset, .reset, .reset] }
    let hung : State := { manned State.reset with me := { Wave.hmReset 0 with run := .running }, ctxs := [{ ctxOf 2 with preempted := true, frozen := true, hang := some 10000000, images := [savedImage] }] }
    let alone : State := { shadowed 7 7 .unclaimed with berths := (shadowed 7 7 .unclaimed).berths.map fun b => { b with recs := b.recs.drop 1 } }
    let at_ (n : Nat) : State := manned { far with me := { wave with watch := n } }
    (ctxOf 2).wdog == 10000000 && [at_ 13999999999, at_ 14000000000].all (fun s => s.me.run == .running && s.hmAlive 0 && (s.ctx? 0).map (·.frozen) == some false) &&
    hung.waves.all (fun v => isHm v.gwn) && hung.crews.isEmpty && hung.hmAlive 0 && savedImage.crews.all (fun k => k.ctx == 0 && !k.shadow) && (hung.launch? 0 1).isSome &&
    (q 0).fqFree 0 && (q 1).fqFree 0 && ((q 1).part 0).fqWait.length == 1 &&
    [shadowed 7 7 .retired, shadowed 7 8 .retired, shadowed 7 8 .failed, shadowed 7 7 .unclaimed].all (fun s => (s.rec? 0 5).map (·.primary) == some (some 4) && (s.rec? 0 4).map (·.st) == some .retired &&
      (s.launch? 0 1).map (·.live) == some 2 && s.crews.all fun k => k.fault.isNone && k.record == 1) &&
    (alone.rec? 0 4).isNone && (alone.rec? 0 5).isSome) = true := by decide +kernel
/-! ## Engines -/

/-- A matrix command of the wave on bank 0 over two operands of BF16 in scratch, with k-steps of 32, in some state of its run. -/
def matCmd (op k state : Nat) : MatCmd where
  id := 5
  gwn := 0
  crew := 1
  pc := 0x10000
  slot := none
  words := if op = 2 then [0x4000000000000000, 0, 0, 0] else [BitVec.ofNat 64 (op * 2 ^ 61 + k), 0, 0x4000, 0x8000000080, 0]
  state := state
  done := 0
  bankA := 0
  bankB := 0
  reserved := false

/-- A lighter command of the wave. -/
def litCmd (words : List Word) (pages : List PageTr) : LitCmd where
  id := 5
  gwn := 0
  crew := 1
  pc := 0x10000
  slot := none
  words := words
  tabBank := 0
  started := true
  parked := false
  pages := pages
  row := 0
  writing := false
  pos := 0
  buffer := []
  wrote := []

/-- A device with commands at the engines of core 0. -/
def engines (mat : List MatCmd) (lit : List LitCmd) : State :=
  { mapped with cores := [{ FarCore.empty 0 with bound := some 0, served := some 0, mat := mat, lit := lit }] }

/-- A command quad in s4 to s7. -/
def quads (ws : List Word) : State := sets mapped ((List.range 4).map fun i => (4 + i, ws.getD i 0))

/-- Copies 512 bytes from scratch 0 to scratch 1024. -/
def copyWords : List Word := [0x8000000000000200, 0, 1024, 0]

/-- `EngineCommands`: commands that pass and that break a check; a table load with its shadow bank free and referenced; chart records aligned and not. -/
theorem test_hyps_engine_commands : (let m := (matCmd 0 32 0).words
    let busy := engines [{ matCmd 0 32 0 with bankA := 6 }] []
    let read (s : State) (n va : Nat) : Bool := match (s.checkGlobal ⟨.r, n, false, true, false⟩ [(0, va)]).2 with
      | .ok [(0, _)] => true
      | _ => false
    goes (quads m) [.mxc cs 4, .cpc cs 4, .ctswap c0 0xFF, .ctld cs 1 true 2, .chartld cs 1 15] && matFault 65536 m == none && matFault 65536 (m.set 1 0x10000) == some 0x06 &&
    litFault 65536 copyWords == none && litFault 65536 [0] == some (0x09, 0) && !(quads m).cores.any (fun k => k.references 6) && busy.cores.any (fun k => k.references 6) &&
    goes busy [.ctld cs 1 false 2] && read mapped 32 0x20020 && read mapped 64 0x20040) = true := by decide +kernel

/-- `Accumulators`, `TablesAndCharts`: the first and the last element, sound and failing; a table and a chart read without a fault, the chart through the host port's translation; a chart
of zeros and one that R275 allows; a chart that fails. -/
theorem test_hyps_accumulators_tables : (let t := devTarget 0x20000
    let s (c : OrdClass) (f : Pending) : State := aloft c (mapped.tlbAdd hostTlb 0 1 0 loaderLeaf) f
    let a := s .other (.accrd 1 3 [(0, 16383), (31, 0)])
    let sick : State := { a with cores := a.cores.map fun k => { k with badBanks := [16384 * 3] } }
    let tab := s .ld (.ctld 7 1 false t 0)
    let cht := s .ld (.chartld 15 t)
    goes (sets mapped [(2, 0x3FFF)]) [.accrd cs 1 (.s 2) 3, .accwr cs (.sp .lane) 0 (.v 5)] && open? a 0 7 && open? sick 0 7 && (sick.core 0).badBanks.contains (16384 * 3 + 0) &&
    open? (s .other (.accwr 3 [(0, 5), (0, 6)])) 0 7 && open? tab 0 7 && open? cht 0 7 && (tab.readWhole 0 1 t 32).2.fault == none &&
    (match cht.translate hostTlb 0 0x20000 .r with
      | (m, .ok t) => t.space == .dev && (m.readWhole 0 1 t 64).2.fault == none
      | _ => false) && !chartBad chart3 0 256 && cbSorted ((List.range 16).map fun i => BitVec.ofNat 16 (0x3F80 + i)) &&
    (mapped.ctx? 0).map (·.badCharts) == some [] && charted.ctxs.all (fun c => c.badCharts.contains 15) && open? (aloft .ld charted (.chartld 15 t)) 0 7 && Cells.wf (mapped.core 0).banks && Cells.wf (mapped.core 0).tables) = true := by decide +kernel

/-- `MatrixUnit`: a ZERO, an MMA of one k-step, and an MMAZ of two, each running alone; an MMA over a bank with a failing element. -/
theorem test_hyps_matrix : ([matCmd 2 0 2, matCmd 0 32 2, matCmd 1 64 2].all (fun m =>
      let s := engines [m] []
      let k := s.core 0
      k.running == some m && k.mat.find? (fun x => x.gwn == m.gwn && x.id == m.id) == some m && (s.crew? 1).map (·.fault) == some none && (s.wave? 0).map (fun w => !s.frozen w) == some true &&
      Cells.wf k.banks && k.badTables.isEmpty && k.badBanks.isEmpty && (s.crew? 1).map (·.bad) == some []) && (matFields (matCmd 0 32 2).words).bank == 0 &&
    (let s : State := { engines [matCmd 0 32 2] [] with cores := (engines [matCmd 0 32 2] []).cores.map fun k => { k with badBanks := [16383] } }
     (s.core 0).badBanks.any (· / 16384 == 0) && (s.core 0).running == some (matCmd 0 32 2) && (s.wave? 0).map (·.run) == some .running) &&
    (matFields (matCmd 0 32 2).words).total == 1 && (matFields (matCmd 1 64 2).words).total == 2 && matFault 65536 (matCmd 1 64 2).words == none &&
    !matGlobal (matFields (matCmd 1 64 2).words).a && !matGlobal (matFields (matCmd 1 64 2).words).b && (matFields (matCmd 2 0 2).words).op == 2) = true := by decide +kernel

/-- `LighterMoves`: a queued and a started command between places of scratch: a copy with more than one turn, and a conversion of F32 to BF16. -/
theorem test_hyps_lighter : (let queued := { litCmd copyWords [] with started := false }
    let conv := litCmd [0x8041000000000100, 0, 1024, 0] []
    [queued, litCmd copyWords [], conv].all (fun l =>
      let s := engines [] [l]
      let k := s.core 0
      k.lit[0]? == some l && k.lit.find? (fun x => x.gwn == l.gwn && x.id == l.id) == some l && (s.wave? 0).map (fun w => !s.frozen w && w.flights.isEmpty) == some true && Cells.wf crew.scratch && k.badTables.isEmpty && crew.bad.isEmpty &&
      (litFields l.words).dir == 2 && litFault crew.size l.words == none && (litFields l.words).rows == 1) &&
    ((engines [] [litCmd copyWords []]).core 0).nextTurn == some (litCmd copyWords []) && (litFields copyWords).conv == 0 && (litFields copyWords).rowBytes == 512 &&
    (litFields conv.words).conv == 0x41) = true := by decide +kernel

/-- A page of a block layout at 0x100000. -/
def blockPage (code : Nat) : PageTr := ⟨0x100000, 65536, { devTarget 0x100000 with code := code }⟩

/-- `BlockConversions`: one block of every conversion, on an E2M1 page and, for the last code, on a CB4 page. -/
theorem test_hyps_block_conversions : (let cmd (dir conv n code : Nat) : LitCmd := litCmd [BitVec.ofNat 64 (dir * 2 ^ 62 + conv * 2 ^ 48 + n), if dir = 0 then 0x100000 else 0, if dir = 0 then 0 else 0x100000, 0] [blockPage code]
    [cmd 0 0x80 64 9, cmd 0 0x81 64 9, cmd 0 0x82 64 9, cmd 1 0x90 80 9, cmd 1 0x91 256 10, cmd 1 0x92 512 9, cmd 1 0x93 256 9].all fun l =>
      let s := engines [] [l]
      let f := litFields l.words
      (s.core 0).lit[0]? == some l && s.coreKeys 0 == [] && (s.core 0).badTables.isEmpty && crew.bad.isEmpty && !crew.shadow && !s.hashes crew && f.rows == 1 && !f.full && f.rowBytes == (convUnits f.conv l.code).1 && 6 ≤ l.code && l.code ≤ 10 &&
      l.pages.all (fun p => p.tgt.space == .dev && p.va == (if f.srcGlobal then f.src else f.dst) / 65536 * 65536) && (litFault crew.size l.words).isNone) = true := by decide +kernel

/-- The elements of a block without error take no action (`BlockConversions`). -/
theorem test_hyps_block_reads : (let s := engines [] []
    (s.readBlock false 0x100000 9 0 0 128).1.all (·.act == 0)) = true := by decide +kernel

/-! ## The system profile -/

/-- A device whose harbourmaster core 0 runs with an exception entered. -/
def hmBusy : State := { hm with hm := [⟨true, 0x2000, 1, 2, 0x4000, 0⟩, .reset, .reset, .reset] }

/-- A harbourmaster core that looks at a wave, at itself, and at no wave. -/
def looking (sel : BitVec 14) (out : List Wave) : State := { hm with hm := [{ HmCore.reset with selw := sel }, .reset, .reset, .reset], others := out ++ hm.others }

/-- `SystemRegisters`, `ExceptionsAndReturns`: reads in both views, a parked wave, one with a matrix command, a selected one; every writable register; a trap with EXC clear and set; a
wave's trap. -/
theorem test_hyps_system : (let other : Wave := { wave with gwn := 33, crew := 2 }
    let busy := engines [matCmd 0 32 2] []
    goes hm [.srr c0 1 0x104, .srr c0 1 0x114, .srw c0 0x100 1, .srw c0 0x101 1, .srw c0 0x104 1, .srw c0 0x108 1, .srw c0 0x110 1, .srw c0 0x111 1, .srw c0 0x112 1, .srw c0 0x113 1, .srw c0 0 1,
      .trap c0 5, .eret c0, .halt c0] && goes hmBusy [.trap c0 0xFFFF, .eret c0] && goes far [.srr c0 1 0, .srr c0 1 7, .trap c0 5] && goes (looking 33 [other]) [.srr c0 1 0x203, .srw c0 0x200 1] &&
    (looking 33 [other]).selected == some other && (looking 34 []).selected == none && (looking 33 [other]).me.gwn == 9216 && (busy.core 0).mat.find? (·.gwn == busy.me.gwn) == some (matCmd 0 32 2) &&
    isFar busy.me.gwn && goes busy [.srr c0 1 2] &&
    goes (far.mapMe fun w => { w with priv := true }) [.srr c0 1 8, .srw c0 0 1] && hm.me.wf && hm.me.gwn == 9216 && hm.hm.length == 4 && hm.parts.length == 4 && !(hm.hmCore 0).exc && (hmBusy.hmCore 0).exc &&
    (after (.trap c0 5) far).me.park.isSome && far.me.park.isNone && (far.ctx? far.me.ctx).isSome && far.parts.length == 4) = true := by decide +kernel

/-- `IllegalEverywhere`: forms that privilege, the unit or the agent bars, with no slot raised. -/
theorem test_hyps_barred : ([far, quay, hm].all (fun s => decide (s.me.run = .running) && !s.frozen s.me && s.me.dueFault.isNone && s.me.duePark.isNone && s.me.tx.depth == 0 && s.me.slotsZero) &&
    !far.me.priv && !isHm far.me.gwn && isQuay quay.me.gwn && isHm hm.me.gwn && !quay.illegalHere (.mxc cs 4) && !quay.illegalHere (.cbl c0 0 1 (.v 2) (.k 1))) = true := by decide +kernel

/-- A privileged wave with two scalars. -/
def privileged (a b : Word) : State := (sets mapped [(1, a), (2, b)]).mapMe fun w => { w with priv := true }

/-- `InvalidationsAndMessages`: the last kind and slot, a kind and a slot beyond; an invalidation and a message in flight, the message of an unmasked vector and of a masked one. -/
theorem test_hyps_invalidations : (let good (y : Nat) : Bool := decide (y / 256 < 3) && decide (y % 256 < 64) && mapped.partOfCtx (y % 64) == mapped.partOf 0
    let off : State := { mapped with out := { mapped.out with msixOn := [0] } }
    goes (privileged 0x20000 0x23F) [.tlbi cs 1 2, .tlbsync c0, .sighost cs 1] && goes (privileged 0 0x300) [.tlbi cs 1 2] && goes hm [.tlbi cs 1 2, .tlbsync c0, .sighost cs 1] && good 0x23F && !good 0x300 && !good 0x240 &&
    open? (flying mapped (.tlbi 0x20000 0 0)) 0 7 && open? (aloft .ara mapped (.sighost 2047)) 0 7 && !mapped.out.msixOn.contains 0 &&
    off.out.msixOn.contains 0 && (off.out.msixWord 0 4095).getLsbD 32 == true &&
    (let on := after (.msixVectorUnmask 0 2047) off
     on.out.msixOn.contains 0 && (on.out.msixWord 0 4095).getLsbD 32 == false && open? (aloft .ara on (.sighost 2047)) 0 7)) = true := by decide +kernel
/-! ## Contexts, pre-emption, pages, the host -/

/-- Words of a size written in memory from a place on. -/
def place (s : State) (at_ n : Nat) (ws : List Nat) : State :=
  (ws.zipIdx).foldl (fun s p => s.writePhys noWave (at_ + n * p.2) n p.1) s

/-- Harbourmaster core 0 with its context table at 0x40000 and its steal table at 0x80000, and a word in s1. -/
def tables (x : Word) : State := sets { hm with parts := [⟨0x40000, 0x80000, 0, 1, 3, 0, []⟩, .reset, .reset, .reset] } [(1, x)]

/-- An entry of the context table that R297 allows. -/
def ctxWords : List Nat := [2 ^ 63 + 5 * 2 ^ 48 + 0x40, 3 * 2 ^ 48 + 0x3000, 1000 * 2 ^ 32]

/-- `ContextCommands`: an entry that is taken and one that is not, for the first and the last slot; a resident idle context; a row of a steal table with no valid
entry and one with two; every operation of HMCMD; a wave parked by each kind and one that is not. -/
theorem test_hyps_context_commands : (let entry (n : Nat) (ws : List Nat) : State := place (tables 0) (0x40000 + 64 * n) 8 ws
    let takes (s : State) (n : Nat) : Bool := (s.ctx? n).isNone && !(s.ctxEntry 0 n).2 && !ctxEntryBad (s.ctxEntry 0 n).1 && s.partOfCtx n == 0
    let idle : State := { hm with ctxs := [{ ctxOf 0 with launches := [] }] }
    takes (entry 0 ctxWords) 0 && takes (entry 63 ctxWords) 63 && ctxEntryBad ((entry 63 []).ctxEntry 0 63).1 && ctxEntryBad ((entry 0 (ctxWords.set 2 0)).ctxEntry 0 0).1 &&
    (idle.ctx? 0).map (fun c => c.images.isEmpty && c.launches.isEmpty) == some true && idle.berths.all (fun b => b.countOf 0 == 0) && idle.parts.length == 4 &&
    !((tables 0).readPhys 0x80000 2).2 && ((place (tables 0) 0x80000 2 [0x8001, 0x8002]).readPhys 0x80002 2).1 == 0x8002 && (tables 0).partOfDie 0 == 0 && 0x80000 + 64 ≤ (tables 0).partSize &&
    (List.range 5).all (fun op => goes (tables (BitVec.ofNat 64 (op * 2 ^ 56 + 63))) [.srw c0 0x115 1])) = true := by decide +kernel

/-- A wave that is parked, beside the harbourmaster that looks at it through SELW. -/
def parked (kind va : Nat) : State :=
  { hm with
    hm := [{ HmCore.reset with selw := 33 }, .reset, .reset, .reset]
    crews := [crew, { crew with id := 2, waves := [33] }]
    ctxs := [ctxOf 2]
    others := { wave with gwn := 33, crew := 2, run := .parked, park := some ⟨kind, 0, BitVec.ofNat 64 va, 0x10000, true⟩ } :: hm.others }

/-- `ContextCommands`: waves parked by a missing page and by a trap, and a write to WCTL of a wave that is not parked. -/
theorem test_hyps_parks : (let s : State := { parked 1 0 with others := [{ wave with gwn := 33 }] }
    [parked 1 0, parked 3 0].all (fun s => ((s.wave? 33).bind (·.park)).isSome) && goes (sets s [(1, 1)]) [.srw c0 0x20B 1] && s.selected.isSome &&
    (s.selected.bind (·.park)).isNone) = true := by decide +kernel

/-- A device whose context is being saved. -/
def saving : State := { manned far with ctxs := [{ ctxOf 2 with preempted := true, frozen := true }] }

/-- A device whose context has an image and no wave. -/
def away : State := { State.reset with me := { Wave.hmReset 0 with run := .running }, ctxs := [{ ctxOf 2 with preempted := true, images := [savedImage] }] }

/-- `Preemption`: a resident context with a wave in a transaction, running and parked; a drained unit with room for its image; an image without a lost line that a free core can take. -/
theorem test_hyps_preemption : (let run := manned (inTx 1)
    let xs := saving.imageSections 0 0 (saving.waves.filter fun w => w.ofCtx 0 && unitOf w.gwn == 0) (saving.crews.filter fun x => x.ctx == 0 && x.unit == 0) (some (saving.core 0).saved)
    (run.ctx? 0).map (·.frozen) == some false && run.hmAlive 0 && run.me.tx.depth == 1 && run.me.flights.isEmpty && decide (run.me.run = .running) &&
    (run.mapMe fun w => { w with run := .parked }).me.run == .parked && (saving.ctx? 0).map (fun c => c.frozen && c.hang.isNone) == some true && saving.hmAlive 0 && saving.store.wf &&
    saving.crews.all (fun c => c.fault.isNone && c.wf) && saving.waves.any (fun w => w.ctx == 0 && !isHm w.gwn && unitOf w.gwn == 0) && saving.others.any (fun w => isHm w.gwn) && saving.drainedUnit 0 0 &&
    decide (64 * linesOf xs + 2 ^ 19 ≤ saving.partSize) && xs.all (fun x => x.data.all fun y => decide (y.1 < x.size)) &&
    away.hmAlive 0 && away.placeable 0 savedImage 255 && savedImage.sections.all (fun x => (List.range x.2.2).all fun j => !away.lineLost (savedImage.line + x.2.1 + j)) &&
    (away.ctx? 0).map (fun c => c.preempted && !c.frozen && c.hang.isNone && c.images.find? (·.id == savedImage.id) == some savedImage) == some true) = true := by decide +kernel

/-- A resident context whose page at 0 has the given leaf, under three levels of tables. -/
def paged (leaf : Nat) : State :=
  place (place (place { far with ctxs := [{ ctxOf 2 with ptroot := 0x400000 }] } 0x400000 8 [2 ^ 63 + 0x5000]) 0x500000 8 [2 ^ 63 + 0x6000]) 0x600000 8 [leaf]

/-- A readable leaf of frame 16: replicated with WREPL, or writable. -/
def replicated : Nat := 0xE900010000001000
/-- The same leaf, writable and not replicated. -/
def writable : Nat := 0xF800010000001000

/-- A state with one migration record of the page at 0, at some time. -/
def migrated (leaf : Nat) (pinned collapsed : Option Nat) (window time : Nat) : State :=
  { manned (paged leaf) with time := time, migrations := [⟨0, 0, window, [1, 2], pinned, collapsed, 7⟩] }

/-- A relayout of the page at line 0x400 from code 0 to 3, at some line. -/
def relaying (ptr : Nat) : State := { mapped with berths := [{ Berth.empty 4 with relayouts := [⟨0x400, 1024, 0, 3, ptr⟩] }] }

/-- `PageUpkeep`: a writer on a pinned replicated page; a page collapsed and unpinned, before its 100 µs are over and after; a pin that stands, and one that has ended; a window to be
reset, and one not; a relayout that goes on and one at its last line. -/
theorem test_hyps_page_upkeep : (let leaf (s : State) : Option (Nat × Bool × Bool) := (s.leafOf 0 24).map fun x => (x.1, pteBit x.2.2 56, pteBit x.2.2 40)
    let old : Nat := 16 * 65536 / 64
    let p := { migrated replicated (some 9) none 1400000 7 with others := (parked 2 24).others ++ (manned far).others }
    let w (time : Nat) : State := migrated writable none (some 5) 1400000 time
    leaf p == some (3, true, true) && !p.linesBusy old 1024 && !p.relaying old 1024 && p.hmAlive 0 && (p.migration 0 24).pinned == some 9 &&
    ((p.wave? 33).bind (·.park)).map (fun k => (k.kind, k.engine)) == some (2, 0) && p.store.wf && p.crews.all (·.wf) &&
    [w 140004, w 140005].all (fun s => leaf s == some (3, false, true) && (s.migration 0 0).collapsed == some 5 && (s.migration 0 0).pinned.isNone && !s.linesBusy old 1024 && s.hmAlive 0) &&
    [migrated writable (some 9) none 1400000 9, migrated writable (some 10) none 1400000 9, w 89600007, w 89600006].all (fun s => s.migrations.any fun m => m.ctx == 0 && m.va == 0) &&
    (relaying 0).ownLine 4 0x400 1024 0 == some 0 && (relaying 255).ownLine 4 0x400 (1024 - 255) 255 == some 255 && ((lineFmt 0 (lineInUnit 0x400)).decode ((relaying 0).store.bits1 0x400)).clean) = true := by
  decide +kernel

/-- `SweepsAndInjections`: a line without error, one with eight bits wrong, and injections that are done and refused. -/
theorem test_hyps_sweeps : (let bad := after (.errorInjection 0 0x20000 0 0xFF true false) mapped
    let clean (s : State) : Bool := ((lineFmt (s.ownCode 0x800) (lineInUnit 0x800)).decode (s.store.bits1 0x800)).clean
    clean mapped && !clean bad && bad.store.wf && mapped.ownCode 0x800 != 12 && 0x20001 % 64 != 0 && decide (0x20000 < mapped.partSize)) = true := by decide +kernel

/-- A launch page of context 0 with some of its words set. -/
def pageWith (s : State) (ws : List (Nat × Nat)) : State := ws.foldl (fun s p => s.setPageWord 0 p.1 (BitVec.ofNat 64 p.2)) s

/-- `LaunchPages`: a page with a new entry, good and uncorrectable, and one without; each request, of a resident context and of none, with an image and without, and of a pair of codes
that R342 admits, one that it does not, and an address without a leaf. -/
theorem test_hyps_launch_pages : (let req (s : State) (op code : Nat) : State := pageWith s [(8, op * 2 ^ 56 + code * 2 ^ 52), (10, 5)]
    let asks (s : State) (op code : Nat) : Bool := (req s op code).request 0 == some (op, code, 0, 5) && (req s op code).hmAlive 0
    let new := pageWith (manned typed) [(0, 1)]
    let torn := after (.errorInjection 0 (new.partSize - 2 ^ 19 + 4096) 0 0xFF true false) new
    let here := manned (paged writable)
    let none_ : State := { State.reset with me := { Wave.hmReset 0 with run := .running } }
    [new, torn].all (fun s => s.pageWord 0 0 != s.pageWord 0 1 && s.hmAlive 0 && (s.ctx? 0).isSome) && !(new.pageRecord 0 0).2 && (torn.pageRecord 0 0).2 && typed.pageWord 0 0 == typed.pageWord 0 1 &&
    asks (manned far) 0 0 && asks (manned far) 1 0 && asks none_ 1 0 && asks away 2 0 && asks (manned far) 3 3 && ((req (manned far) 3 3).leafOf 0 0).isNone &&
    (away.restoreAll 0 3 [0]).isSome && asks here 3 3 && relayoutPair 0 3 && !relayoutPair 0 7 && ((req here 3 3).leafOf 0 0).map (fun x => (x.1, pteBit x.2.2 58)) == some (3, false) &&
    ((req here 3 3).startRelayout 0 3 0 0x600000 3 (BitVec.ofNat 64 writable)).isSome) = true := by decide +kernel

/-- `HostPort`: places before and after the hand-over; the last byte of a line, copied at the host and not; a function that is there and one that is not; a connection, and packets in and
out of sequence, with and without their CRC, to a page that is there, missing and forbidden, and for a context of another partition; a message held pending. -/
theorem test_hyps_host_port : (let on : State := { far with out := { far.out with booted := true } }
    let k : Packet := ⟨3, 0, true, false, 0x20010, [1, 2]⟩
    let late : Packet := { k with seq := 1 }
    let torn : Packet := { k with crcOk := false }
    let bound (s : State) (part ctx : Nat) : State := { s with out := { s.out with conns := [⟨3, part, ctx, 0⟩] } }
    let s := bound (far.tlbAdd netTlb 0 1 0 loaderLeaf) 0 0
    let held : State := { far with out := { far.out with pending := [(0, 5)], msixOn := [0] } }
    on.hostPlace 0 0x2003F 1 == some 0x2003F && far.hostPlace 0 (2 ^ 28) 1 == none && far.hostPlace 0 (2 ^ 28 - 1) 1 == some (2 ^ 28 - 1) && on.out.hostLines.isEmpty && on.store.wf &&
    (after (.hostRead 0 0x2003F 1 .cached) on).out.hostLines.map (·.1) == [0x800] && on.hasFunction 0 && on.hasFunction 3 == decide (3 * on.dies < 4) && !on.hasFunction 4 && far.hasFunction 0 && !far.out.booted &&
    Cells.wf far.out.msix && s.out.conns.find? (·.conn == 3) == some ⟨3, 0, 0, 0⟩ && s.out.conns.find? (·.conn == 4) == none && k.seq == 0 && k.crcOk && late.seq != 0 && !torn.crcOk &&
    s.partOfCtx 0 == 0 && (bound s 1 0).out.conns.any (fun c => s.partOfCtx c.ctx != c.part) && (far.translate netTlb 0 0x20010 .w).2 == .missing &&
    ((rooted 0xE800000000000000).translate netTlb 0 0x20010 .w).2 == .access && (match (s.translate netTlb 0 0x20010 .w).2 with
      | .ok t => t.space == .dev && t.at_ == 0x20010
      | _ => false) && held.out.pending.contains (0, 5) && held.out.msixOn.contains 0) = true := by decide +kernel

/-- `BootAndPower`: before the verification, during it, with a link down, at a throttled clock and at one that is not, and with a reset next and without. -/
theorem test_hyps_boot : (let s : State := { State.reset with out := { State.reset.out with bootStat := 1, bootLen := 64, linksDown := [2] } }
    let t : State := { s with agenda := [.event .reset] }
    !State.reset.out.booted && State.reset.out.bootStat != 1 && !s.out.booted && s.out.bootStat == 1 && s.me.gwn == 9216 && s.out.linksDown.contains 2 && s.time % 16 < (1#4).toNat &&
    15 % 16 ≥ (1#4).toNat && s.agenda.head? != some (.event .reset) && t.agenda.head? == some (.event .reset)) = true := by decide +kernel

/-! ## The invariants -/

/-- Decides `memOk` and `regsOk`. -/
def formsOk (s : State) : Bool :=
  s.store.wf && s.crews.all (·.wf) && s.ctxs.all (fun x => x.images.all fun i => i.crews.all (·.wf) && i.waves.all (·.wf)) && s.waves.all (·.wf)

/-- Does a step answer a next state? -/
def steps (s : State) : Bool :=
  match step s with
  | .next _ => true
  | _ => false

/-- `MemoryStaysCanonical`, `RegistersStayCanonical`, `WavesAreConfined`: states with listed bytes and registers whose step answers, and a wave whose word answers. -/
theorem test_hyps_invariants : (let s := { place far 0x20000 8 [5] with agenda := [.event (.memorySweep 0x800)] }
    let t := { sets (paged writable) [(3, 7)] with agenda := [.clock 0 0] }
    formsOk s && steps s && formsOk t && steps t && !s.store.data.isEmpty && !t.me.s.isEmpty && !isHm far.me.gwn && isWord (.add c0 .n32 (.s 1) (.s 2) (.s 3)) &&
    steps { far with agenda := [.event (.add c0 .n32 (.s 1) (.s 2) (.s 3))] }) = true := by decide +kernel

/-- `AfterReset`, on its decidable part. -/
theorem test_hyps_reset : (formsOk State.reset && State.reset.waves.all (fun w => decide (w.run = .off) && w.priv)) = true := by decide +kernel


/-! ## Forms added to statements -/

/-- `InstructionsThatDoNotAct`: a fault and a park that are due, a doomed transaction; a per-lane word with an empty act whose slot reads 63, and 62. -/
theorem test_hyps_due : (let fault := far.mapMe fun w => { w with dueFault := some ⟨0x15, 5, 0x10000, 0⟩ }
    let park := far.mapMe fun w => { w with duePark := some ⟨1, 2, 0x5000, 0x10000, false⟩ }
    let doomed := tx (inTx 1) fun t => { t with doom := true }
    let i : Instr := .ldG ⟨false, 3, true, 1, 0⟩ .b32 .plain (.v 2) perLane
    let slot (n : BitVec 6) : State := far.mapMe fun w => { w with sb := Cells.set w.sb 1 n }
    [fault, park, doomed].all (fun s => decide (s.me.run = .running) && !s.frozen s.me && !isHm s.me.gwn && s.parts.length == 4) && fault.me.dueFault.isSome &&
    park.me.dueFault.isNone && park.me.duePark.isSome && doomed.me.dueFault.isNone && doomed.me.duePark.isNone && doomed.me.tx.depth == 1 && doomed.me.tx.doom &&
    perLaneForm i && (slot 63).me.slot 1 == 63 && (slot 63).verdict i == .hold && (slot 62).verdict i == .idle) = true := by decide +kernel

/-- A store of another wave of the core that is performed at core scope only. -/
def marked : Flight := ⟨7, .st, none, 0x10000, .store 4 [(0, devTarget 0x20000, 5)] false, true⟩

/-- `Fences`: an acquire beside a store that is performed at core scope only; a wider release after it has reached its home; a release in flight that waits for it. -/
theorem test_hyps_cumulative : (let beside (s : State) : State := { s with others := { wave with gwn := 1, flights := [marked] } :: s.others }
    let saw (s : State) : State := s.mapMe fun w => { w with coreSeen := [(1, 7, 0)] }
    let rel := saw (beside (aloft .rel mapped (.store 4 [(0, devTarget 0x20040, 5)] false)))
    goes (beside far) [.fence c0 .acq .core, .fence c0 .full .core] && (beside far).waves.any (fun x => x.gwn != 0 && unitOf x.gwn == 0 && x.flights.any (·.core)) &&
    goes (saw far) [.fence c0 .rel .pkg] && ((rel.wave? 0).bind (·.flight? 7)).map (fun f => f.cls.releases && !f.cls.coreOnly) == some true &&
    rel.me.coreSeen.contains (1, 7, 0) && ((rel.wave? 1).map (·.flights)) == some [marked]) = true := by decide +kernel

/-- A wave that has registered line 0x800 or granule 0 of the crew. -/
def reader (g : Nat) (run : Run) (depth : Nat) (stamp : Option Nat) (lines granules : List Nat) : Wave :=
  { wave with gwn := g, run := run, tx := { Tx.zero with depth := depth, stamp := stamp.map (·, g), lines := lines, granules := granules } }

/-- A transaction of depth 1 that has buffered bytes of line 0x800 and of granule 0. -/
def buffered (out : List Wave) : State := { tx (inTx 1) fun t => { t with
  stamp := some (5, 0), buf := [⟨false, 0x800, 0xFF, 1, 0, 0x20000, 1, []⟩, ⟨true, 0, 0xFF, 1, 0, 0, 0, [(0, true)]⟩] } with others := out ++ far.others }

/-- `TransactionBounds`: a commit that dooms younger transactions, one of a parked wave, and wakes sleepers of both kinds. -/
theorem test_hyps_commit : (let s := buffered [reader 1 .running 1 (some 9) [0x800] [], reader 2 .asleep 0 none [0x800] [], reader 3 (.feAsleep (feOf .ldf)) 0 none [] [granuleKey 1 0],
      reader 4 .parked 1 (some 9) [0x800] []]
    let lf := lineFmt (s.codeAt 0x800 0) (lineInUnit 0x800)
    goes s [.xend c0] && s.store.wf && s.crews.all Crew.wf && s.me.wf && s.me.tx.depth == 1 && !s.mustYield && !s.commitHeld && s.commitCut.isNone && !s.isShadow 1 &&
    (lf.decode (s.store.bits1 0x800)).bits.data == (s.store.bits1 0x800).data && (lf.decode (s.store.bits1 0x800)).sFail.all (· == false) &&
    s.me.tx.buf.any (fun x => x.scratch && x.granules.contains 0)) = true := by decide +kernel

/-- A transaction with some of the lines of its buffer in use, at an address. -/
def writing (n : Nat) (b : Word) : State := based (tx (inTx 1) fun t => { t with buf := (List.range n).map fun i => ⟨true, i, 1, 1, 0, 64 * i, 0, []⟩ }) b

/-- A transaction over a wide view of a page of E2M1 blocks at 0x20000. -/
def wideTx : State := based ((((far.tlbAdd 0 0 1 0x20000 (2 ^ 63)).tlbAdd 0 0 2 0x20000 (2 ^ 63)).tlbAdd 0 0 3 0x20000 0xF260000000000200).mapMe fun w => { w with tx := { w.tx with depth := 1, begin_ := 0xF000, handler := 0xE000 } }) 0x20000

/-- `BufferingAndAborts`: loads and stores of 32 lanes, in device memory and in scratch, with room in the buffer and with one line too many; a lane of a wide view; a failing line; an
access that waits for an earlier one; a slice whose lists are full. -/
theorem test_hyps_tx_accesses : (let one : MemArg := ⟨1, none, 0⟩
    let is (m : MemArg) (d : Opnd) (t : LdTy) : List Instr := [.ldG cs t .plain d m, .stG cs t .plain d m, .ldS cs t .plain d m, .stS cs t .plain d m]
    let as (s : State) : List (Nat × Nat) := (memLanes s cs (.v 2) perLane).map fun l => (l, memAt s perLane 4 l)
    let ok (r : State × Checked) (sp : Space) (n : Nat) : Bool := match r.2 with
      | .ok ts => ts.length == n && ts.all (fun p => p.2.space == sp) && !r.1.busyWith (ts.flatMap fun p => p.2.keys 4)
      | _ => false
    let dev (s : State) : Bool := ok (s.checkGlobal ⟨.w, 4, false, true, false⟩ (as s)) .dev 32 && ok (s.checkGlobal ⟨.r, 4, false, true, true⟩ (as s)) .dev 32
    let lines (s : State) : Nat := ((s.me.tx.buf.map fun (w : TxWrite) => (w.scratch, w.line)) ++ (as s).map fun (p : Nat × Nat) => (false, p.2 / 64)).eraseDups.length
    let judged (s : State) : Option (Nat × Nat) := s.overlay.judge 0 1 true (s.overlay.manyOver 0 4 [devTarget 0x20000]) 4 [devTarget 0x20000]
    let busy := aloft .st (writing 0 0x20000) (.store 4 [(0, devTarget 0x20000, 5)] false)
    [writing 0 0x20000, writing 62 0x20000, writing 63 0x20000].all (fun s => goes s (is perLane (.v 2) .b32) && s.me.wf && dev s) &&
    lines (writing 62 0x20000) == 64 && lines (writing 63 0x20000) == 65 && ok (writing 0 0, (writing 0 0).checkScratch 4 (as (writing 0 0))) .scr 32 &&
    goes wideTx (is one (.s 2) .b16) && ok (wideTx.checkGlobal ⟨.w, 2, ldWide .b16, true, false⟩ [(0, 0x20000)]) .wide 1 &&
    judged (writing 0 0x20000) == none && judged (spoiled (writing 0 0x20000)) == some (5, 0x20000) && goes (spoiled (writing 0 0x20000)) (is one (.s 2) .b32) &&
    goes busy (is one (.s 2) .b32) && busy.busyWith ((devTarget 0x20000).keys 4)) = true := by decide +kernel

/-- The slice of line 0x800 with its exact list and its coarse list full. -/
def crowded : State :=
  let sl := far.sliceOf 0x800
  let coarse := (List.range 64).map fun i => { reader (2 + i) .running 1 (some 9) [] [] with tx := { Tx.zero with depth := 1, coarse := [sl] } }
  { writing 0 0x20000 with others := reader 1 .running 1 (some 9) (List.replicate 16384 0x800) [] :: coarse ++ far.others }

/-- `BufferingAndAborts`: a load that finds its slice's coarse list full. -/
theorem test_hyps_tx_crowded : (let s := crowded
    goes s [.ldG cs .b32 .plain (.s 2) ⟨1, none, 0⟩] && decide (64 ≤ (s.waves.filter fun w => w.tx.coarse.contains (s.sliceOf 0x800)).length) && s.me.tx.lines.isEmpty &&
    s.me.tx.coarse.isEmpty) = true := by decide +kernel

/-- A list of equal members that pass a test keeps its length. -/
theorem test_filter_length {α} (p : α → Bool) (n : Nat) (a : α) (h : p a = true) : ((List.replicate n a).filter p).length = n := by
  rw [List.filter_replicate_of_pos h, List.length_replicate]

/-- A sum is no less than what it starts from. -/
theorem test_le_sum (l : List Nat) : ∀ (a : Nat), a ≤ l.foldl (· + ·) a := by
  induction l with
  | nil => exact fun _ => Nat.le_refl _
  | cons x l ih => exact fun a => Nat.le_trans (Nat.le_add_right a x) (ih (a + x))

/-- `BufferingAndAborts`: the same load finds the exact list of its slice full. -/
theorem test_hyps_exact_full : 16384 ≤ crowded.exactCount (crowded.sliceOf 0x800) := by
  generalize hsl : crowded.sliceOf 0x800 = sl
  show 16384 ≤ (crowded.waves.map _).foldl (· + ·) 0
  obtain ⟨r, hr⟩ : ∃ r, crowded.waves = crowded.me :: reader 1 .running 1 (some 9) (List.replicate 16384 0x800) [] :: r := ⟨_, rfl⟩
  rw [hr, List.map_cons, List.map_cons, List.foldl_cons, List.foldl_cons]
  refine Nat.le_trans ?_ (test_le_sum _ _)
  rw [show (reader 1 .running 1 (some 9) (List.replicate 16384 0x800) []).tx.lines = List.replicate 16384 0x800 from rfl, test_filter_length _ _ _ (by simp [hsl])]
  exact Nat.le_add_left ..

/-- `BufferingAndAborts`: atomics over a lane of device memory and over 32 lanes of scratch, with room in the buffer and with one line too many. -/
theorem test_hyps_tx_atomics : (let one : MemArg := ⟨1, none, 0⟩
    let dev (s : State) : Bool := match (s.checkGlobal ⟨.w, 4, false, true, false⟩ [(0, 0x20000)]).2 with
      | .ok [(0, a)] => a.space == .dev && !s.busyWith (a.keys 4) && (s.overlay.judge 0 1 false false 4 [a]).isNone
      | _ => false
    [writing 0 0x20000, writing 64 0x20000].all (fun s => goes s [.atomAdd cs false .n32 .plain (.s 2) one, .atomCas cs false .b32 (.full .pkg) (.s 2) one] && s.me.wf && dev s) &&
    goes (writing 0 0) [.atomAdd cs true .n32 .plain (.v 2) perLane, .atomXchg cs true .b32 .plain (.v 2) perLane] &&
    (match (writing 0 0).checkScratch 4 ((memLanes (writing 0 0) cs (.v 2) perLane).map fun l => (l, memAt (writing 0 0) perLane 4 l)) with
      | .ok ts => ts.length == 32 && !(writing 0 0).busyWith (ts.flatMap fun p => p.2.keys 4)
      | _ => false)) = true := by decide +kernel

/-- `BufferingAndAborts`: the addresses that abort: host memory, misaligned, past 2^48, past the allocation; pages missing, forbidden, write-protected, of an undefined layout, and with an
uncorrectable entry. -/
theorem test_hyps_tx_faults : (let one : MemArg := ⟨1, none, 0⟩
    let is : List Instr := [.ldG cs .b32 .plain (.s 2) one, .stG cs .b32 .plain (.s 2) one, .ldS cs .b32 .plain (.s 2) one, .stS cs .b32 .plain (.s 2) one,
      .atomAdd cs false .n32 .plain (.s 2) one, .atomAdd cs true .n32 .plain (.s 2) one]
    let inside (s : State) (b : Word) : State := based (s.mapMe fun w => { w with tx := { w.tx with depth := 1, begin_ := 0xF000, handler := 0xE000 } }) b
    let leaf (x : Nat) : State := inside (rooted x) 0x20000
    let tr (s : State) (n : Need) : TrRes := (s.translate 0 0 0x20000 n).2
    let host := leaf 0xFC00000000000000
    let torn := inside (spoiled (rooted 0)) 0x20000
    [inside far 2, inside far 0x1000000000000, inside far 65536, inside far 0x20000, host, torn, leaf 0xE800000000000000].all (fun s => goes s is && !isHm s.me.gwn && memLanes s cs (.s 2) one == [0]) &&
    host.hostVa .r 0x20000 && host.hostVa .w 0x20000 && !(inside far 0x20000).hostVa .w 0x20000 && !(inside far 2).hostVa .r 2 && far.scrSize == 65536 &&
    tr (inside far 0x20000) .r == .missing && tr (leaf 0xE800000000000000) .w == .access && tr (leaf 0xE900010000000000) .w == .writeProtect &&
    tr (leaf 0xF8D0000000000000) .r == .badLayout && tr torn .r == .ue && far.parts.length == 4) = true := by decide +kernel

/-- `EventsAndLaunchChecks`: a launch to submit whose record can be read, is uncorrectable, and cannot be read, with a harbourmaster core asleep; no submission, with a core that runs and
with none. -/
theorem test_hyps_submissions : (let s (t : State) (va : Nat) : State := { aloft .rel t (.launch 5 [{ devTarget 0x20000 with va := va }]) with
      others := mapWhere (fun w => w.gwn == 9217) (fun w => { w with run := .asleep }) t.others }
    let words (s : State) (va : Nat) : Option Bool := (s.readVirtWords 0 va 16).2.map (·.2)
    let held : State := { manned typed with ctxs := typed.ctxs.map fun c => { c with launches := [{ loaderLaunch with admitted := false, words := launchWords 1 0 }] } }
    [s typed 0x20000, s (spoiled typed) 0x20000, s typed 0x7FFFFFFF0000].all (fun s => open? s 0 7 && s.subs.isEmpty && s.waves.any fun v => isHm v.gwn && s.partOf (unitOf v.gwn) == 0 && decide (v.run = .asleep)) &&
    words typed 0x20000 == some false && words (spoiled typed) 0x20000 == some true && words typed 0x7FFFFFFF0000 == none &&
    held.hmAlive 0 && held.subs.isEmpty && !typed.hmAlive 0 && (held.ctx? 0).map (fun c => c.launches.any fun l => !l.admitted && waitsMet c.events l.words) == some true) = true := by decide +kernel

/-- `BerthCycles`: spawns whose base is never walked, has no translation, lies on a page of an undefined layout, under an uncorrectable entry, in host memory, spans without a far body,
and is sound; the launch that counts an accepted one. -/
theorem test_hyps_spawn_offers : (let s (t : State) (ws : List Word) : State := aloft .rel t (.spawn 5 ws)
    let ws (base len : Nat) : List Word := [BitVec.ofNat 64 base, BitVec.ofNat 64 len, 0, 0, 0, 0, 0, 0]
    let walks (t : State) (base : Nat) (p : State → Walk → Bool) : Bool := let r := t.walk 0 0 base; p r.1 r.2
    let leaf (p : Target → Bool) (t : State) (base : Nat) : Bool := walks t base fun f w => match w with
      | .leaf n e => p (f.leafTarget 0 n e base)
      | _ => false
    [s far (ws 0xFFFFFFFF0000 0), s far (ws 0x20000 64), s typed (ws 0x3FF0 64), s typed (record 3)].all (fun s => open? s 0 7 && s.me.wf && !s.isShadow 1 && s.berths.all (·.offers.isEmpty)) &&
    walks far 0x20000 (fun _ w => w == .missing) && walks (rooted 0xF8D0000000000000) 0x20000 (fun _ w => w == .badLayout) && walks (spoiled (rooted 0)) 0x20000 (fun _ w => w == .ue) &&
    leaf (·.space == .host) (rooted 0xFC00000000000000) 0x20000 && leaf (·.space == .dev) typed 0x3FF0 && spans 0x3FF0 64 && !spans 0x20000 64 &&
    (mapped.typeEntry 0 0).2.isNone && (typed.typeEntry 0 0).2.map (fun t => t.farPc != 0) == some true && (typed.launch? 0 1).isSome) = true := by decide +kernel

/-- A device with one launch of some words being enumerated at the home of its first task, from some index on, under a quota. -/
def enumerating (ws : List Word) (next quota : Nat) : State :=
  let b := typed.berthOf 0x20000
  { typed with
    ctxs := typed.ctxs.map fun c => { c with quota := quota, launches := [{ loaderLaunch with words := ws }] }
    berths := [{ Berth.empty b with enums := [⟨0, 1, next⟩] }] }

/-- `BerthCycles`: launches with and without SHADOW, with room for their next task and without; one whose task spans without a far body, one whose base faults, and one with no task left; the
places of a stride launch and of charts of one and of two dimensions. -/
theorem test_hyps_enumeration : (let b := typed.berthOf 0x20000
    let place (s : State) (i : Nat) : Option Place := (s.launch? 0 1).map fun l => s.placeOf 0 l i
    let home (s : State) (i : Nat) : Bool := (place s i).any fun p => p.owner == b && (match p.home with
      | .ok h => h == b
      | .error _ => false)
    let ws := launchWords 2 0
    let shadow := ws.set 0 (0x20000 + 2 ^ 61)
    let wide := (ws.set 0 0x23FF0).set 2 0
    let bad := (ws.set 0 0x50000000).set 2 0
    let chart (c : List Word) : Launch := { loaderLaunch with words := [2 ^ 60, 4 + 64 * 2 ^ 32] ++ List.replicate 14 0, chart := c }
    let flawed : State := { enumerating bad 0 4 with berths := [{ Berth.empty 0 with enums := [⟨0, 1, 0⟩] }] }
    [enumerating ws 0 4, enumerating ws 1 4, enumerating ws 0 0, enumerating shadow 0 4, enumerating wide 0 4, enumerating ws 2 4].all (fun s =>
      (s.berth b).offers.isEmpty && (s.berth b).steals.isEmpty && (s.berth b).enums.length == 1 && (s.launch? 0 1).isSome) &&
    home (enumerating ws 0 4) 0 && home (enumerating ws 0 4) 1 && (launchFields ws).count == 2 && (launchFields shadow).shadow && !(launchFields ws).shadow && home (enumerating wide 0 4) 0 &&
    spans 0x23FF0 64 && (place flawed 0).any (fun p => p.owner == 0 && (match p.home with
      | .error (0x05, 0) => true
      | _ => false)) && (flawed.berth 0).enums.length == 1 && (enumerating ws 0 4).quotaOf 0 == 4 && (enumerating ws 0 0).quotaOf 0 == 0 &&
    (launchFields (chart chart1).words).chart && (chartDims chart1).length == 1 && (chartDims chart3).length == 2) = true := by decide +kernel

/-- A berth with three unclaimed records of some priority, and a mapping for its quay unit. -/
def claimable (prio : Nat) (bad : Bool) (out : List Wave) : State :=
  let r (id p : Nat) : TaskRec := { loaderTask with id := id, words := record p, st := .unclaimed, bad := bad }
  { typed.tlbAdd (256 + 8) 0 1 0 loaderLeaf with
    others := out ++ typed.others
    berths := [{ Berth.empty 8 with recs := [r 4 prio, { r 5 prio with words := [0x20040, 64 + 5 * 2 ^ 32, 0, 0, 0, 0, 0, 0] }, { r 6 prio with words := [0x20080, 64 + 5 * 2 ^ 32, 0, 0, 0, 0, 0, 0], spans := true }] }] }

/-- `BerthCycles`: a quay claim of the first of two clear records with a near body, sound and uncorrectable, on a unit with room and on one without; the lines that it holds. -/
theorem test_hyps_quay_claims : (let s := claimable 5 false []
    let busy := claimable 5 false ((List.range 4).map fun i => { wave with gwn := 8192 + 32 + i, crew := 9 })
    let window (s : State) : List Nat := (((s.clearRecs 8).filter fun r => decide (r.primary = none ∧ r.spans = false) && (s.typeOf r).any fun t => t.nearPc != 0).take 8).map (·.id)
    let ty (s : State) : Option Nat := ((s.rec? 8 4).bind s.typeOf).map (·.crew)
    [s, busy, claimable 5 true []].all (fun s => (s.berth 8).offers.isEmpty && (s.berth 8).enums.isEmpty && (s.berth 8).steals.isEmpty && window s == [4, 5] && ty s == some 1 && (s.rec? 8 4).isSome &&
      (s.launch? 0 1).isSome && ((s.berth 8).recs.map (·.id)).Nodup) &&
    window far == [] && (s.slotsUsed 264).length == 0 && (busy.slotsUsed 264).length == 4 && s.unitsUsed 264 == 0 && ((claimable 5 true []).rec? 8 4).map (·.bad) == some true &&
    (match s.walkFor 264 0 0x20000 .r with
      | (f, .leaf n e) => let t := f.leafTarget 0 n e 0x20000; t.space == .dev && s.berthOf t.at_ == 8
      | _ => false)) = true := by decide +kernel

/-- `BerthCycles`: steals of a core that can take a task, and of one that is bound to another context; the youngest of equal records, and at 27 the oldest. -/
theorem test_hyps_steals : (let free (prio : Nat) (bound : Option Nat) : State := { claimable prio false [] with
      pilots := [⟨1, [8], 0, false, some 8, 0⟩]
      berths := (claimable prio false []).berths.map fun b => { b with recs := b.recs.map (fun r => { r with words := record prio, spans := true }), steals := [⟨1, 32, 14, bound⟩] } }
    let list (s : State) (q : Option Nat) : List Nat := (((s.clearRecs 8).filter (s.stealable (s.berth 8))).filter fun r => s.canTake 1 r && s.dieAllows 1 8 r &&
      decide (q = none ∨ q = some r.ctx) && (s.typeOf r).any fun t => decide (t.crew ≤ 32 ∧ t.scratch ≤ 14)).map (·.id)
    let prios (s : State) : List Nat := (s.berth 8).recs.map s.recPrio
    [(free 5 none, none), (free 27 none, none), (free 5 (some 3), some 3)].all (fun p => (p.1.berth 8).offers.isEmpty && (p.1.berth 8).enums.isEmpty && (p.1.berth 8).steals.map (·.core) == [1] &&
      (p.1.pilot? 1).isSome && list p.1 p.2 == (if p.2.isNone then [4] else [])) &&
    (let two (prio : Nat) : State := { free prio none with berths := (free prio none).berths.map fun b => { b with recs := b.recs.map fun r =>
        if r.id = 4 then r else { r with words := [BitVec.ofNat 64 (0x40000 * r.id), BitVec.ofNat 64 (64 + prio * 2 ^ 32), 0, 0, 0, 0, 0, 0] } } }
     list (two 5) none == [4, 5, 6] && prios (two 5) == [5, 5, 5] && list (two 27) none == [4, 5, 6] && prios (two 27) == [27, 27, 27] && (two 5).berths.all (fun b => b.recs.all (!·.bad)) &&
     ((two 5).rec? 8 6).isSome && ((two 27).rec? 8 4).isSome)) = true := by decide +kernel

/-- The page at 0x100000 under no layout. -/
def plainPage : PageTr := ⟨0x100000, 65536, devTarget 0x100000⟩

/-- `LighterMoves`: a queued command with FULL set, over empty granules and over a full one; started commands of two rows with strides, from scratch with FULL set, from memory and into
memory, copies and conversions. -/
theorem test_hyps_lighter_rows : (let w0 (dir conv n : Nat) : Word := BitVec.ofNat 64 (dir * 2 ^ 62 + 2 ^ 61 * (if dir = 1 then 0 else 1) + conv * 2 ^ 48 + 2 ^ 32 + n)
    let strides : Word := BitVec.ofNat 64 (512 * 2 ^ 32 + (2 ^ 32 - 256))
    let cmd (dir conv : Nat) : LitCmd := litCmd [w0 dir conv 256, if dir = 0 then 0x100100 else 0x100, if dir = 1 then 0x100000 else 0x400, strides] (if dir = 2 then [] else [plainPage])
    let queued := { cmd 2 0 with started := false }
    let s (l : LitCmd) (n : Nat) : State := { engines [] [l] with crews := [{ crew with full := (List.range n).map fun i => ⟨0x40 + i, 1⟩ }] }
    [cmd 2 0, cmd 2 0x41, cmd 0 0, cmd 0 0x48, cmd 1 0, cmd 1 0x41].all (fun l =>
      let s := s l 0
      let f := litFields l.words
      (s.core 0).lit == [l] && (s.wave? 0).isSome && Cells.wf crew.scratch && Cells.wf crew.full && crew.bad.isEmpty && (s.core 0).badTables.isEmpty && litFault crew.size l.words == none && l.started &&
      (f.conv == 0 || convElem f.conv) && f.rows == 2 && s.coreKeys 0 == [] && l.pages.all (fun p => p.tgt.at_ % 65536 == 0) && s.store.wf && f.full == (f.dir != 1) &&
      (f.dir == 2 || (List.range 2).all fun r => [0, 127].all fun i =>
        let t := l.target ((if f.dir = 0 then rowAddr f.src f.fstride r else rowAddr f.dst f.tstride r) + i)
        let d := (lineFmt (s.codeAt (t.at_ / 64) t.code) (lineInUnit (t.at_ / 64))).decode (s.store.bits1 (t.at_ / 64))
        t.space == .dev && s.cleanAt (t.at_ / 64) t.code && d.bits.data == (s.store.bits1 (t.at_ / 64)).data && d.sFail.all (· == false))) &&
    (let f := litFields queued.words
     (List.range 2).all (fun r => (granules (rowAddr f.dst f.tstride r) (f.dw 0)).all fun g => !crew.isFull g && !(s queued 0).reserved 0 1 g) &&
     (granules (rowAddr f.dst f.tstride 0) (f.dw 0)).contains 0x40 && (s queued 1).crews.all (fun c => c.isFull 0x40) && litFault crew.size queued.words == none && !queued.parked)) = true := by decide +kernel

/-! ## Instructions that wait, links that fail, copies, and services of a halted harbourmaster -/

/-- A state in which the link between dies 0 and 1 has failed; 0x100000 has its home on die 1. -/
def apart (s : State) : State := { s with out := { s.out with linksDown := [1] } }

/-- The executing wave has issued a fence of package scope and waits, with some accesses in flight. -/
def waiting (fs : List Flight) : State :=
  { far with me := { wave with run := .stalled (.fence c0 .rel .pkg), flights := fs, issued := some 3, age := 7 }, agenda := [.advance 0] }

/-- `StepRunsDecoded`, `WhenAnInstructionGoes`, `InstructionsThatDoNotAct`: a fence that has issued and goes on, and one that still waits; words that issue and wait; a loop counter that fails
its parity at the end of its body, with an empty act, under a branch that is taken, and away from the end. -/
theorem test_hyps_stalled : (let e : LoopEntry := ⟨true, 2, 0x10000, 0x10000⟩
    let worn (pc : Word) : State := (looped pc e .zero false).mapMe fun w => { w with bad := [.lc false] }
    let idle : Instr := .add ⟨false, 3, false, 0, 0⟩ .n32 (.v 1) (.v 2) (.v 3)
    let go (s : State) : Option Bool := match step s with
      | .next t => some (t.me.run == .running && t.me.pc == 0x10008 && t.me.issued == some 3)
      | _ => none
    [waiting [], waiting [marked]].all (fun s => !s.out.stopped && s.me.run == .stalled (.fence c0 .rel .pkg) && !s.frozen s.me && s.me.gwn == 0) &&
    go (waiting []) == some true && go (waiting [marked]) == some false && (far.mapMe fun w => { w with flights := [marked] }).verdict (.fence c0 .rel .pkg) == .stall &&
    (worn 0x10000).me.loops.reads 0x10000 false && (worn 0x10000).verdict idle == .parity && (worn 0x10008).verdict idle == .idle && (worn 0x10000).verdict (.br c0 .always 5) == .go) = true := by
  decide +kernel

/-- `Fences`: an acquire behind a load, every kind behind an engine command, a release of package scope behind a store. -/
theorem test_hyps_fences_wait : (let load := aloft .ld mapped (.load (.s 2) .b32 [(0, devTarget 0x20000)] false [devTarget 0x20000] [] 0)
    let store := aloft .st mapped (.store 4 [(0, devTarget 0x20000, 5)] false)
    let engine := engines [matCmd 0 32 0] []
    load.verdict (.fence c0 .acq .core) == .stall && store.verdict (.fence c0 .acq .core) == .go && store.verdict (.fence c0 .rel .pkg) == .stall &&
    [FenceKind.acq, .rel, .full].all (fun k => engine.verdict (.fence c0 k .core) == .stall && engine.verdict (.fence c0 k .sys) == .stall)) = true := by decide +kernel

/-- `LoadsComplete`, `StoresAtHome`, `AtomicsAtHome`, `BitAndDiscardForms`, `TransactionBounds`, `HostPort`: places that only the failed link reaches, of a wave and of a shadow copy; a load of
which one lane is cut; a commit with such a line in its buffer; a packet to one. -/
theorem test_hyps_links : (let a := devTarget 0x100000
    let load : State := aloft .ld (apart mapped) (.load (.v 2) .b32 [(0, devTarget 0x20000), (1, a)] false [devTarget 0x20000, a] [] 0)
    let shadow : State := { apart mapped with crews := [{ crew with shadow := true }] }
    let commit := apart (tx (inTx 1) fun t => { t with buf := [⟨false, 0x100000 / 64, 0xFF, 1, 0, 0x100000, 1, []⟩] })
    let port := apart (far.tlbAdd netTlb 0 1 0 loaderLeaf)
    (apart mapped).cutOff 0 4 a && !mapped.cutOff 0 4 a && !(apart mapped).cutOff 0 4 (devTarget 0x20000) && load.judge 0 1 true false 4 [devTarget 0x20000, a] == some (5, 0x100000) &&
    load.judge 0 1 true false 4 [devTarget 0x20000] == none && open? load 0 7 && open? (aloft .st (apart mapped) (.store 4 [(0, a, 5)] false)) 0 7 &&
    open? (aloft .st (apart mapped) (.discard [devTarget 0x20000, a])) 0 7 && open? (aloft .ra (apart mapped) (.atomic .add .n32 (.s 2) [(0, a, 1, 0)] false false [a] [] 0)) 0 7 &&
    (fieldRead (apart mapped) 0 false false 4 a).2 == some 5 && shadow.isShadow 1 && goes commit [.xend c0] && commit.commitCut.isSome && (match (port.translate netTlb 0 0x100010 .w).2 with
      | .ok t => t.space == .dev && port.cutOff (port.hmDie 0) 2 t
      | _ => false)) = true := by decide +kernel

/-- A replicated place of another die, whose copy on die 0 holds other bits than its home, and a load of it. -/
def copies : State := aloft .ld { mapped with caches := { mapped.caches with replicas := [⟨0, 0x100000 / 64, 7, 15042205⟩] } }
  (.load (.s 2) .b32 [(0, { devTarget 0x100000 with repl := true })] false [{ devTarget 0x100000 with repl := true }] [] 0)

/-- R335: the copy on the wave's die serves the load, also when the link to the home has failed. -/
theorem test_replica : ([copies, apart copies].all fun s =>
    let t := after (.slotCompletion 0 7) s
    open? s 0 7 && t.me.sreg 2 == 7 && t.me.slot 1 == 0) = true := by decide +kernel

/-- `FullEmpty`: forms behind an earlier access, and forms in a transaction that needs a 65th line, and does not. -/
theorem test_hyps_full_empty_more : (let keys := (List.range 32).flatMap fun l => (scrTarget (4 * l)).keys 4
    let busy (n : Nat) : State := aloft .st (full n) (.store 4 [(0, scrTarget 0, 5)] false)
    let inside (n lines : Nat) : State :=
      let buf : List TxWrite := (List.range lines).map fun i => ⟨true, 100 + i, 1, 1, 0, 0, 0, []⟩
      (full n).mapMe fun w => { w with tx := { w.tx with depth := 1, begin_ := 0xF000, handler := 0xE000, buf := buf } }
    let lines (s : State) : Nat := ((s.me.tx.buf.map fun (w : TxWrite) => (w.scratch, w.line)) ++ (List.range 32).map fun l => (true, 4 * l / 64)).eraseDups.length
    [FeKind.ldf, .ldfc, .stf].all (fun k => [8, 0].all fun n => goes (busy n) [feOf k] && (busy n).busyWith keys && goes (inside n 62) [feOf k] && goes (inside n 63) [feOf k] && !(inside n 63).busyWith keys) &&
    lines (inside 8 62) == 64 && lines (inside 8 63) == 65 && (inside 8 63).me.wf && !(inside 8 63).me.tx.doom && (inside 8 63).store.wf) = true := by decide +kernel

/-- `HomeWrites`, `AlternativesAndRestarts`: a parked wave in a transaction that has registered the line; two sleepers of one priority, by the time of their stamps and by the numbers in them. -/
theorem test_hyps_parked_reader : (let p := reader 4 .parked 1 (some 9) [0x800] []
    let s : State := { far with others := p :: far.others }
    let w (g t n : Nat) : Wave := { wave with gwn := g, run := .woken (some 4), tx := { Tx.zero with stamp := some (t, n) } }
    s.waves.contains p && p.tx.depth == 1 && (s.touchLine 0 0x800).waves.contains { p with tx := { p.tx with doom := true } } && (w 1 5 9).wokenBefore (w 2 6 3) && (w 1 5 3).wokenBefore (w 2 5 9) &&
    !(w 1 5 9).wokenBefore (w 2 5 3)) = true := by decide +kernel

/-- `EventsAndLaunchChecks`, `TablesAndCharts`, `ContextCommands`: an event, a chart and a command while every core of the partition is halted and while one runs; contexts that hold an image, a
launch and a record; words of HMCMD with a reserved OP and with a bit that must be zero; words of WCTL with a cause, without one, and with another OP. -/
theorem test_hyps_services : (let chart (s : State) : State := aloft .ld s (.chartld 15 (devTarget 0x20000))
    let held (c : Context) (bs : List Berth) : State := { hm with ctxs := [c], berths := bs }
    let none_ : Context := { ctxOf 0 with launches := [] }
    let word (x : Nat) : State := sets (parked 1 0) [(1, BitVec.ofNat 64 x)]
    !far.hmAlive 0 && (manned far).hmAlive 0 && [far, manned far].all (fun s => open? (aloft .rel s (.event 255 true)) 0 7 && open? (chart s) 0 7) && hm.hmAlive 0 && 0 < hm.parts.length &&
    (held { none_ with images := [savedImage] } []).ctxs.any (!·.images.isEmpty) && (held (ctxOf 1) []).ctxs.any (!·.launches.isEmpty) && (held none_ far.berths).berths.any (fun b => b.countOf 0 != 0) &&
    [5 * 2 ^ 56, 2 ^ 56 + 2 ^ 16, 2 ^ 57, 2 ^ 57 + 0x22, 2 ^ 57 + 0x23, 3 * 2 ^ 56].all (fun x => goes (word x) [.srw c0 0x115 1, .srw c0 0x20B 1] && ((word x).selected.bind (·.park)).isSome) &&
    causeKnown 0x22 && !causeKnown 0x23) = true := by decide +kernel

/-- `BerthCycles`: the next index is taken by another berth; its home has passed it; it is another berth's. -/
theorem test_hyps_taken : (let b := typed.berthOf 0x20000
    let c := typed.berthOf 0x24000
    let s (base : Nat) (taken : List Nat) (es : List Enum) : State :=
      let t := enumerating ((launchWords 2 0).set 0 base) 0 4
      { t with ctxs := t.ctxs.map fun x => { x with launches := x.launches.map fun l => { l with taken := taken } }, berths := t.berths ++ [{ Berth.empty c with enums := es }] }
    let next (s : State) : Option (Option Nat) := (s.launch? 0 1).map fun l => (s.nextTask 0 l b 2 0).map (·.1)
    [s 0x20000 [0] [], s 0x24000 [] [], s 0x24000 [] [⟨0, 1, 0⟩]].all (fun s => (s.berth b).enums == [⟨0, 1, 0⟩] && (s.berth b).offers.isEmpty && (s.berth b).steals.isEmpty) &&
    next (s 0x20000 [0] []) == some (some 1) && next (s 0x24000 [] []) == some (some 0) && next (s 0x24000 [] [⟨0, 1, 0⟩]) == some none) = true := by decide +kernel

/-- `Manifests`: an entry that is not free, whose failure has been recorded and has not. -/
theorem test_hyps_manifest_full : (let s (noted : Bool) : State :=
      let t := (reporting 2).writePhys noWave 0x30000 8 (2 ^ 63)
      { t with ctxs := t.ctxs.map fun c => { c with launches := c.launches.map fun l => { l with noted := noted } } }
    [false, true].all fun n =>
      let f := ((s n).translate hostTlb 0 0x30000 .w).1
      ((s n).launch? 0 1).map (fun l => l.noted == n && (l.reports.find? (s n).reportReady).isSome) == some true && (match ((s n).translate hostTlb 0 0x30000 .w).2 with
        | .ok t => t.space == .dev && !f.entryFree 0 t
        | _ => false)) = true := by decide +kernel

/-- R374: the mailbox keeps what the host writes, GO starts the verification, and an image fetched over the management port leaves BOOTLEN. -/
theorem test_bootcmd : (let at_ (k x : Nat) (s : State) : State := after (.hostWrite 0 (8 * k) (toBytes 8 x) .bar0) s
    let read (s : State) (k : Nat) : Nat := ofBytes (after (.hostRead 0 (8 * k) 8 .bar0) s).out.hostData
    let go := at_ 7681 0xFF (at_ 7680 64 far)
    let fetched := match (at_ 7680 77 far).act (.mgmtFetch (List.replicate 70 3)) with
      | .next u => u
      | _ => far
    read (at_ 7681 0xFE far) 7681 == 0 && read go 7681 == 1 && read go 7682 == 1 && go.out.imageLen == 64 && read fetched 7680 == 77 && fetched.out.imageLen == 70) = true := by decide +kernel

/-- `Conversions`: floats beyond the range, at its bounds and within, and both infinities (R86). -/
theorem test_saturation : (cvtElem .i32 .f32 .rne 0 0x4F000000 == (0x7FFFFFFF, fSAT) && cvtElem .i32 .f32 .rz 0 0xCF000001 == (0x80000000, fSAT) && cvtElem .i32 .f32 .rz 0 0xCF000000 == (0x80000000, 0) &&
    cvtElem .n32 .f32 .ru 0 0xBF800000 == (0, fSAT) && cvtElem .n32 .f32 .rd 0 0x3FC00000 == (1, fINX) && cvtElem .i32 .f32 .rne 0 0x7F800000 == (0x7FFFFFFF, fSAT) &&
    cvtElem .n32 .f32 .rne 0 0xFF800000 == (0, fSAT) && cvtValue .f32 0x7F800000 == .inf false && (Fmt.ofTy .f32).isSome) = true := by decide +kernel

/-- `InvalidationsAndMessages`: an access, a lighter command and transactions of the context, translated through the page and through another one. -/
theorem test_hyps_tlbi_lists : (let at_ (a : Nat) : Target := { devTarget a with level := 3 }
    let reader (g a : Nat) : Wave := { wave with gwn := g, flights := [⟨3, .ld, none, 0x10000, .load (.s 1) .b32 [(0, at_ a)] false [at_ a] [] 0, false⟩] }
    let writer (g a : Nat) : Wave := { wave with gwn := g, tx := { wave.tx with depth := 1, since := 8, buf := [⟨false, a / 64, 1, 1, 0, a, 3, []⟩] } }
    let s (kind : Nat) : State := { flying mapped (.tlbi 0x20000 0 kind) with others := [reader 33 0x20000, reader 34 0x90000, writer 35 0x20000, writer 36 0x90000] ++ mapped.others }
    let noted (kind : Nat) : Option (List (Nat × Nat) × List (Nat × Nat)) := ((after (.slotCompletion 0 7) (s kind)).wave? 0).map fun w => (w.sync, w.syncTx)
    [0, 1, 2].all (fun k => open? (s k) 0 7) && noted 0 == some ([(33, 3)], [(35, 8)]) && noted 1 == some ([(33, 3), (34, 3)], [(35, 8), (36, 8)])) = true := by decide +kernel

/-- `Preemption`: a wave whose `xend` has issued and waits, in a transaction. -/
theorem test_hyps_preempt_stalled : (let s := manned ((inTx 1).mapMe fun w => { w with run := .stalled (.xend c0) })
    s.me.run == .stalled (.xend c0) && s.me.tx.depth == 1 && s.me.flights.isEmpty && s.hmAlive 0 && ((s.ctx? 0).map (·.frozen)) == some false) = true := by decide +kernel

end Sys2Proof.Tests
end

section
/-! SUPPORT and O5. When an instruction word issues: what its gate and its verdict ask. -/
open Sys2Proof Sys2Proof.Machine
namespace Sys2Proof.Machine

/-! ## The gate of an instruction word (R17, R172, R174) -/

/-- The bit test on numbers reads the bits of a word. -/
theorem bitAt_toNat {w : Nat} (x : BitVec w) (n : Nat) : bitAt x.toNat n = x.getLsbD n := by
  simp [bitAt, BitVec.getLsbD, Nat.testBit, Nat.shiftRight_eq_div_pow, Nat.and_one_is_mod, Nat.and_comm 1]

/-- WM waits exactly for the slots that it names (R17). -/
theorem Wave.waited_iff (w : Wave) (c : Ctl) :
    w.waited c = true ↔ ∀ n, n < 8 → c.wm.getLsbD n = true → w.slot n = 0 := by
  simp [Wave.waited, setBits, bitAt_toNat, imp_iff_not_or]

theorem Wave.slotRoom_iff (w : Wave) (c : Ctl) : w.slotRoom c = true ↔ (c.se = true → w.slot c.ss.toNat ≠ 63) := by
  cases h : c.se <;> simp [Wave.slotRoom, h]

theorem Wave.hasDue_eq_false_iff (w : Wave) : w.hasDue = false ↔ w.dueFault = none ∧ w.duePark = none := by
  simp [Wave.hasDue]

/-- A doomed attempt goes on past a boundary only with the `retry` that would restart it (R153). -/
theorem Wave.endsDoomed_eq_false_iff (w : Wave) (i : Instr) :
    w.endsDoomed i = false ↔ (w.tx.depth ≠ 0 → w.tx.doom = true → ∃ c, i = .retry c) := by
  unfold Wave.endsDoomed
  by_cases hr : ∃ c, i = .retry c
  · obtain ⟨c, rfl⟩ := hr
    simp
  · split
    · rename_i c; exact absurd ⟨c, rfl⟩ hr
    · simp [hr]

/-- A branch of a case distinction that cannot give the value is one not taken. -/
theorem ite_eq_iff_of_ne {α : Type} {p : Prop} [Decidable p] {x y v : α} (h : x ≠ v) : (if p then x else y) = v ↔ ¬ p ∧ y = v := by
  by_cases hp : p <;> simp [hp, h]

/-- Where a word neither stops, waits, idles, fails a parity nor is forbidden, its gate asks only whether it may act already. -/
theorem State.gate_eq_iff (s : State) (i : Instr) (v : Verdict) (hv : v = .go ∨ v = .stall) :
    s.gate i = v ↔ s.illegalHere i = false ∧ ¬ (isQuay s.me.gwn = true ∧ farOnly i = true) ∧ s.me.waited (ctlOf i) = true ∧
      s.me.bad.contains (.p (ctlOf i).pr.toNat) = false ∧ s.idleAct (ctlOf i) = false ∧ s.me.slotRoom (ctlOf i) = true ∧
      s.drained i = true ∧ ¬ (s.me.tx.depth ≠ 0 ∧ txForbids i = true) ∧ s.readsBad i = false ∧
      (if s.acts i then Verdict.go else .stall) = v := by
  have other (x : Verdict) (hx : x ≠ .go ∧ x ≠ .stall) : x ≠ v := by
    rcases hv with rfl | rfl
    exacts [hx.1, hx.2]
  have stops (b : Bool) (n : Nat) : (if b then Verdict.stop n else .hold) ≠ v := by cases b <;> exact other _ (by simp)
  have idles (b d : Bool) : (if b then Verdict.hold else if d then .parity else .idle) ≠ v := by
    cases b <;> cases d <;> exact other _ (by simp)
  unfold State.gate
  rw [ite_eq_iff_of_ne (stops _ _), ite_eq_iff_of_ne (stops _ _), ite_eq_iff_of_ne (other .hold (by decide)),
    ite_eq_iff_of_ne (other .parity (by decide)), ite_eq_iff_of_ne (idles _ _), ite_eq_iff_of_ne (other .hold (by decide)),
    ite_eq_iff_of_ne (other .forbidden (by decide)), ite_eq_iff_of_ne (other .parity (by decide))]
  cases s.acts i <;> simp [and_assoc]

/-- A word issues, or has issued and waits, only where nothing else reaches the wave at this boundary. -/
theorem State.verdict_eq_iff (s : State) (i : Instr) (v : Verdict) (hv : v = .go ∨ v = .stall) :
    s.verdict i = v ↔ s.me.run = .running ∧ s.frozen s.me = false ∧ s.me.hasDue = false ∧ s.me.endsDoomed i = false ∧ s.gate i = v := by
  have other (x : Verdict) (hx : x ≠ .go ∧ x ≠ .stall) : x ≠ v := by
    rcases hv with rfl | rfl
    exacts [hx.1, hx.2]
  unfold State.verdict
  rw [ite_eq_iff_of_ne (other .hold (by decide)), ite_eq_iff_of_ne (other .due (by decide)), ite_eq_iff_of_ne (other .doomed (by decide))]
  simp [and_assoc]

end Sys2Proof.Machine

/-- Settles O5: both verdicts that follow an issue, `go` and `stall`, read as what the gate asks and whether the instruction acts. -/
theorem whenAnInstructionGoes : Obligations.WhenAnInstructionGoes := by
  unfold Obligations.WhenAnInstructionGoes
  intro s i issues
  have reading (v : Verdict) (hv : v = .go ∨ v = .stall) :
      s.verdict i = v ↔ issues ∧ (if s.acts i then Verdict.go else .stall) = v := by
    rw [State.verdict_eq_iff s i v hv, State.gate_eq_iff s i v hv, Wave.hasDue_eq_false_iff, Wave.endsDoomed_eq_false_iff,
      Wave.waited_iff, Wave.slotRoom_iff]
    simp only [issues, State.idleAct, beq_eq_false_iff_ne, List.contains_eq_mem, decide_eq_false_iff_not, and_assoc]
  refine ⟨(reading .go (.inl rfl)).trans ?_, (reading .stall (.inr rfl)).trans ?_⟩ <;> cases s.acts i <;> simp
end

section
/-! SUPPORT and O6. What a word does that may not act: the consequence of each verdict but `go`. -/
open Sys2Proof Sys2Proof.Machine
namespace Sys2Proof.Machine

/-! ## The consequences of a verdict (R17, R142, R153, R172, R263, R355) -/

theorem State.perform_due (s : State) (i : Instr) (e : State → State) (h : s.verdict i = .due) : s.perform i e = .next s.takeDue := by
  rw [State.perform_eq, h]

theorem State.perform_doomed (s : State) (i : Instr) (e : State → State) (h : s.verdict i = .doomed) :
    s.perform i e = .next (s.mapMe (Wave.conflictAbort s.time)) := by
  rw [State.perform_eq, h]

theorem State.perform_stop (s : State) (i : Instr) (e : State → State) (cause : Nat) (h : s.verdict i = .stop cause) :
    s.perform i e = .next (s.raise cause 0 0) := by
  rw [State.perform_eq, h]

theorem State.perform_parity (s : State) (i : Instr) (e : State → State) (h : s.verdict i = .parity) :
    s.perform i e = .next s.parityFault := by
  rw [State.perform_eq, h]

theorem State.perform_forbidden (s : State) (i : Instr) (e : State → State) (h : s.verdict i = .forbidden) :
    s.perform i e = .next (s.abortTx 6 0 0x09) := by
  rw [State.perform_eq, h]

/-- `exec_perform` for every row that is not one of the device's own steps: a word that is no instruction has its verdict too (R173). -/
theorem exec_perform_of_not_deviceStep (s : State) (i : Instr) (h : deviceStep i = false) : ∃ e, exec i s = s.perform i e := by
  by_cases hw : isWord i = true
  · exact exec_perform s i hw
  · cases i <;> first
      | exact absurd rfl hw
      | exact nomatch (show true = false from h)
      | exact ⟨id, rfl⟩

/-- A fault or park that is due comes before any word of a running wave (R263, R283). -/
theorem State.verdict_due (s : State) (i : Instr) (hr : s.me.run = .running) (hf : s.frozen s.me = false) (hd : s.me.hasDue = true) :
    s.verdict i = .due := by
  unfold State.verdict
  rw [if_neg (by simp [hr, hf]), if_pos hd]

/-- With nothing due, a doomed attempt ends before any word but the `retry` that would restart it (R153). -/
theorem State.verdict_doomed (s : State) (i : Instr) (hr : s.me.run = .running) (hf : s.frozen s.me = false) (hd : s.me.hasDue = false)
    (he : s.me.endsDoomed i = true) : s.verdict i = .doomed := by
  unfold State.verdict
  rw [if_neg (by simp [hr, hf]), if_neg (by simp [hd]), if_pos he]

/-- Only a word whose per-lane form has room in its slot, and at which no end check reads a failing counter, is idle under an empty act (R17, R172, R355). -/
theorem State.idle_of_gate (s : State) (i : Instr) (h : s.gate i = .idle) :
    (perLaneForm i = true → s.me.slotRoom (ctlOf i) = true) ∧ s.endBad = false := by
  have stops (b : Bool) (n : Nat) : (if b then Verdict.stop n else .hold) ≠ .idle := by cases b <;> simp
  unfold State.gate at h
  rw [ite_eq_iff_of_ne (stops _ _), ite_eq_iff_of_ne (stops _ _), ite_eq_iff_of_ne (by simp), ite_eq_iff_of_ne (by simp)] at h
  obtain ⟨-, -, -, -, h⟩ := h
  split at h
  · rw [ite_eq_iff_of_ne (by simp), ite_eq_iff_of_ne (by simp)] at h
    obtain ⟨hroom, hend, -⟩ := h
    exact ⟨by simpa using hroom, by simpa using hend⟩
  · simp only [ite_eq_iff_of_ne, ne_eq, reduceCtorEq, not_false_eq_true, and_false] at h

theorem State.gate_of_verdict_idle (s : State) (i : Instr) (h : s.verdict i = .idle) : s.gate i = .idle := by
  unfold State.verdict at h
  rw [ite_eq_iff_of_ne (by simp), ite_eq_iff_of_ne (by simp), ite_eq_iff_of_ne (by simp)] at h
  exact h.2.2.2

theorem State.endBad_of_mem (s : State) (k : Bool) (hb : .lc k ∈ s.me.bad) (hr : s.me.loops.reads s.me.pc k = true) : s.endBad = true :=
  List.any_eq_true.mpr ⟨.lc k, hb, hr⟩

/-- Everything that a due fault does (R263). -/
theorem State.takeDue_fault (s : State) (f : FaultInfo) (h : s.me.dueFault = some f) : s.takeDue = s.failTask s.me.crew f := by
  unfold State.takeDue
  rw [h]

/-- The partition of a wave that is no harbourmaster core is one of four (R302, R303). -/
theorem State.partOf_lt_four (s : State) (g : Nat) (h : isHm g = false) : s.partOf (unitOf g) < 4 := by
  have hg : g < 9216 := by simpa [isHm] using h
  have hu : unitOf g < 512 := by
    unfold unitOf
    split_ifs <;> omega
  rw [State.partOf, if_pos hu]
  exact lt_of_le_of_lt (Nat.div_le_self _ _) (by omega)

/-- A change of a partition that the device has is what its number reads as. -/
theorem State.part_modPart_same (s : State) (p : Nat) (f : Partition → Partition) (h : p < s.parts.length) :
    (s.modPart p f).part p = f (s.part p) := by
  simp [State.part, State.modPart, List.getD, Nat.min_eq_left h.le]

/-- Everything that a due park does: the wave is parked, and its partition's fault queue is asked for an entry (R269, R300). -/
theorem State.takeDue_park (s : State) (p : Park) (hf : s.me.dueFault = none) (hp : s.me.duePark = some p) :
    s.takeDue = ({ s with me := { s.me with duePark := none, run := .parked, park := some ⟨p.kind, p.engine, p.addr, p.pc, false⟩ } } : State).modPart
      (s.partOf (unitOf s.me.gwn)) fun q => { q with fqWait := q.fqWait ++ [⟨s.me.gwn, p.kind, p.engine, s.me.ctx, p.addr, p.pc⟩] } := by
  simp [State.takeDue, hf, hp, State.parkWave, State.wave?, State.modWave, State.mapMe]
  rfl

/-- With nothing in flight, landing everything changes no vector register. -/
theorem Wave.landAll_v_of_flights_nil (w : Wave) (h : w.flights = []) : w.landAll.v = w.v := by
  simp [Wave.landAll, h]

/-- What reaches a running wave before any word of it: a due fault, a due park, the abort of a doomed attempt. -/
theorem exec_at_boundary (s : State) (i : Instr) (hi : deviceStep i = false) (hr : s.me.run = .running) (hz : s.frozen s.me = false) :
    (∀ f, s.me.dueFault = some f → exec i s = .next (s.failTask s.me.crew f)) ∧
    (∀ p, s.me.dueFault = none → s.me.duePark = some p → exec i s = .next s.takeDue) ∧
    (s.me.dueFault = none → s.me.duePark = none → s.me.tx.depth ≠ 0 → s.me.tx.doom = true → (∀ c, i ≠ .retry c) →
      exec i s = .next (s.mapMe (Wave.conflictAbort s.time))) := by
  obtain ⟨e, he⟩ := exec_perform_of_not_deviceStep s i hi
  rw [he]
  refine ⟨fun f hf => ?_, fun p hf hp => ?_, fun hf hp hd hm hn => ?_⟩
  · rw [State.perform_due s i e (s.verdict_due i hr hz (by simp [Wave.hasDue, hf])), s.takeDue_fault f hf]
  · rw [State.perform_due s i e (s.verdict_due i hr hz (by simp [Wave.hasDue, hp]))]
  · refine State.perform_doomed s i e (s.verdict_doomed i hr hz ((Wave.hasDue_eq_false_iff _).mpr ⟨hf, hp⟩) ?_)
    rw [← Bool.not_eq_false, Wave.endsDoomed_eq_false_iff]
    intro h
    obtain ⟨c, hc⟩ := h hd hm
    exact hn c hc

end Sys2Proof.Machine

/-- Settles O6: what is taken at the boundary before any word, and then the one consequence of each verdict but `go`. -/
theorem instructionsThatDoNotAct : Obligations.InstructionsThatDoNotAct := by
  unfold Obligations.InstructionsThatDoNotAct
  refine ⟨fun s i hi hr hz => ?_, fun s i hw => ?_⟩
  · obtain ⟨hfault, hpark, hdoom⟩ := exec_at_boundary s i hi hr hz
    refine ⟨hfault, fun p hf hp hm hl => ⟨_, hpark p hf hp, ?_⟩, fun hf hp hd hm hn => ⟨_, hdoom hf hp hd hm hn, ?_⟩⟩
    · rw [s.takeDue_park p hf hp]
      refine ⟨rfl, rfl, ?_⟩
      exact congrArg Partition.fqWait (State.part_modPart_same _ _ _ (hl.symm ▸ s.partOf_lt_four s.me.gwn hm))
    · exact ⟨rfl, rfl, rfl, rfl, rfl, rfl, rfl, rfl, rfl, rfl, rfl, rfl, s.me.landAll_v_of_flights_nil, rfl, rfl⟩
  · obtain ⟨e, he⟩ := exec_perform s i hw
    have hidle (h : s.verdict i = .idle) := s.idle_of_gate i (s.gate_of_verdict_idle i h)
    rw [he]
    refine ⟨s.perform_hold i e, fun h => ⟨_, s.perform_stall i e h, rfl, rfl, rfl, rfl⟩, fun k hb hl h => ?_,
      fun h => ⟨_, s.perform_idle i e h, s.onlyIssued_finish⟩, fun hp hse hfull h => ?_,
      fun h => ⟨_, s.perform_forbidden i e h, rfl, rfl, rfl, rfl, rfl, rfl⟩, fun h hm => ?_⟩
    · exact absurd (hidle h).2 (by simp [s.endBad_of_mem k hb hl])
    · exact (Wave.slotRoom_iff _ _).mp ((hidle h).1 hp) hse hfull
    · rw [s.perform_parity i e h, State.parityFault, if_neg (by simp [hm])]
end

section
/-! SUPPORT and O48. Words that no agent executes, and words that this agent may not execute. -/
open Sys2Proof Sys2Proof.Machine
namespace Sys2Proof.Machine

/-! ## Words that stop their agent (R13, R63, R173, R174, R289, R290, R293) -/

/-- A word that is ILLEGAL here waits until every slot reads zero, and stops its agent then (R174). -/
theorem State.gate_of_illegalHere (s : State) (i : Instr) (h : s.illegalHere i = true) :
    s.gate i = if s.me.slotsZero then .stop 0x01 else .hold := by
  unfold State.gate
  rw [if_pos h]

/-- A word that only a far core may execute stops a quay wave once every slot reads zero (R13, R174). -/
theorem State.gate_of_farOnly (s : State) (i : Instr) (h : s.illegalHere i = false) (hq : isQuay s.me.gwn = true) (hf : farOnly i = true) :
    s.gate i = if s.me.slotsZero then .stop 0x02 else .hold := by
  unfold State.gate
  rw [if_neg (by simp [h]), if_pos (by simp [hq, hf])]

/-- ILLEGAL faults a wave's task, transaction or not (R63, R142). -/
theorem State.raise_illegal_of_wave (s : State) (h : isHm s.me.gwn = false) :
    s.raise 0x01 0 0 = s.failTask s.me.crew ⟨0x01, 0, s.me.pc, 0⟩ := by
  simp [State.raise, hardCause, h]

/-- On a harbourmaster core ILLEGAL is an exception (R293). -/
theorem State.raise_illegal_of_hm (s : State) (h : isHm s.me.gwn = true) :
    s.raise 0x01 0 0 = (s.mapMe (Wave.stamp s.time)).hmException s.me.pc 0x01 0 := by
  simp [State.raise, hardCause, h]

/-- Outside a transaction every cause faults a wave's task (R63). -/
theorem State.raise_of_outsideTx (s : State) (cause : Nat) (h : isHm s.me.gwn = false) (ht : s.me.tx.depth = 0) :
    s.raise cause 0 0 = faults s cause 0 := by
  simp [State.raise, faults, h, ht]

theorem isHm_of_isQuay (g : Nat) (h : isQuay g = true) : isHm g = false := by
  simp only [isQuay, Bool.and_eq_true, decide_eq_true_eq] at h
  simp only [isHm, decide_eq_false_iff_not]
  omega

/-- Where its word is reached, a word that the gate stops raises the cause. -/
theorem exec_of_gate_stop (s : State) (i : Instr) (cause : Nat) (hi : deviceStep i = false) (hv : s.verdict i = s.gate i)
    (hg : s.gate i = .stop cause) : exec i s = .next (s.raise cause 0 0) := by
  obtain ⟨e, he⟩ := exec_perform_of_not_deviceStep s i hi
  rw [he, s.perform_stop i e cause (hv.trans hg)]

/-- What an agent may not execute is no step of the device's own. -/
theorem deviceStep_of_farOnly (i : Instr) (h : farOnly i = true) : deviceStep i = false := by
  cases i <;> first
    | rfl
    | exact nomatch (show false = true from h)

theorem illegalHere_illegal (s : State) (w : Word) : s.illegalHere (.illegal w) = true := rfl

/-- ILLEGAL for a wave: forms of harbourmaster cores, privileged forms without privilege, system registers out of reach (R289, R290, R295). -/
theorem State.illegalHere_of_wave (s : State) (i : Instr) (hm : isHm s.me.gwn = false)
    (h : hmForm i = true ∨ (privForm i = true ∧ s.me.priv = false) ∨
      sysIllegal false s.me.priv (hmNumber (s.hmCore (s.me.gwn - 9216)).selw.toNat) i = true) : s.illegalHere i = true := by
  unfold State.illegalHere
  rcases h with h | ⟨h, hp⟩ | h
  · simp [hm, h]
  · simp [hm, h, hp]
  · simp [hm, h]

/-- ILLEGAL for a harbourmaster core: every word that it may not execute (R163, R171). -/
theorem State.illegalHere_of_hm (s : State) (i : Instr) (hm : isHm s.me.gwn = true) (h : hmAllows i = false) : s.illegalHere i = true := by
  simp [State.illegalHere, hm, h]

/-- A wave has the registers up to 0x007, and with privilege those up to 0x00A (R290). -/
theorem sysIllegal_srr_of_wave (priv sel : Bool) (c : Ctl) (d : BitVec 6) (r : BitVec 16) (h : 0x00B ≤ r.toNat ∨ (8 ≤ r.toNat ∧ priv = false)) :
    sysIllegal false priv sel (.srr c d r) = true := by
  rcases h with h | ⟨h, rfl⟩
  · simp only [sysIllegal, Bool.false_and, Bool.false_or, Bool.or_false, Bool.not_eq_true', Bool.or_eq_false_iff, decide_eq_false_iff_not,
      Bool.and_eq_false_iff]
    omega
  · simp only [sysIllegal, Bool.false_and, Bool.false_or, Bool.or_false, Bool.and_false, Bool.not_eq_true', decide_eq_false_iff_not]
    omega

theorem illegalWords : Claim.IllegalWords := by
  intro s w hr hz hf hp ht
  have hv : s.verdict (.illegal w) = if s.me.slotsZero then .stop 0x01 else .hold := by
    rw [s.verdict_eq_gate _ hr hz ((Wave.hasDue_eq_false_iff _).mpr ⟨hf, hp⟩), s.gate_of_illegalHere _ (illegalHere_illegal s w)]
    refine (Wave.endsDoomed_eq_false_iff _ _).mpr fun hd hm => ?_
    rcases ht with ht | ht
    · exact absurd ht hd
    · exact absurd hm (by simp [ht])
  refine ⟨fun h => ?_, fun h hm => ?_, fun h hm => ?_⟩
  · exact s.perform_hold _ id (by simp [hv, h])
  · exact (s.perform_stop _ id 0x01 (by simp [hv, h])).trans (by rw [s.raise_illegal_of_wave hm])
  · exact (s.perform_stop _ id 0x01 (by simp [hv, h])).trans (by rw [s.raise_illegal_of_hm hm])

/-- The words that the statement names of a wave, as the gate sees them. -/
theorem wave_may_not (s : State) (i : Instr) (hm : isHm s.me.gwn = false)
    (h : match i with
      | .srw .. | .tlbi .. | .tlbsync _ | .sighost .. => s.me.priv = false
      | .eret _ | .halt _ => True
      | .srr _ _ r => 0x00B ≤ r.toNat ∨ (8 ≤ r.toNat ∧ s.me.priv = false)
      | _ => False) : deviceStep i = false ∧ s.illegalHere i = true := by
  split at h
  case h_7 => exact ⟨rfl, s.illegalHere_of_wave _ hm (.inr (.inr (sysIllegal_srr_of_wave _ _ _ _ _ h)))⟩
  case h_8 => exact h.elim
  case h_5 | h_6 => exact ⟨rfl, s.illegalHere_of_wave _ hm (.inl rfl)⟩
  all_goals exact ⟨rfl, s.illegalHere_of_wave _ hm (.inr (.inl ⟨rfl, h⟩))⟩

/-- The words that the statement names of a harbourmaster core. -/
theorem hm_may_not (i : Instr)
    (h : match i with
      | .ldS .. | .stS .. | .ldf .. | .stf .. | .spawn .. | .tret _ | .launch .. | .mxc .. | .cpc .. | .ctld .. | .gaddr .. | .red .. | .fma .. => True
      | _ => False) : deviceStep i = false ∧ hmAllows i = false := by
  split at h <;> first | exact h.elim | exact ⟨rfl, rfl⟩

/-- The words that the statement names of a quay wave. -/
theorem quay_may_not (i : Instr)
    (h : match i with
      | .launch .. | .mxc .. | .cpc .. | .ctld .. | .ctswap .. | .chartld .. | .accrd .. | .accwr .. | .cbl .. | .cbq .. => True
      | _ => False) : farOnly i = true := by
  split at h <;> first | exact h.elim | rfl

theorem whereWordsAreIllegal : Claim.WhereWordsAreIllegal := by
  intro s i hr hz hf hp ht hs
  have hv : s.verdict i = s.gate i :=
    s.verdict_eq_gate i hr hz ((Wave.hasDue_eq_false_iff _).mpr ⟨hf, hp⟩)
      ((Wave.endsDoomed_eq_false_iff _ _).mpr fun hd => absurd ht hd)
  have stops (h : s.illegalHere i = true) : s.gate i = .stop 0x01 := by rw [s.gate_of_illegalHere i h, if_pos hs]
  refine ⟨fun hm h => ?_, fun hq hl h => ?_, fun hm h => ?_⟩
  · obtain ⟨hd, hl⟩ := wave_may_not s i hm h
    rw [exec_of_gate_stop s i 0x01 hd hv (stops hl), s.raise_of_outsideTx 0x01 hm ht]
  · have hfar := quay_may_not i h
    have hg : s.gate i = .stop 0x02 := by rw [s.gate_of_farOnly i hl hq hfar, if_pos hs]
    rw [exec_of_gate_stop s i 0x02 (deviceStep_of_farOnly i hfar) hv hg, s.raise_of_outsideTx 0x02 (isHm_of_isQuay _ hq) ht]
  · obtain ⟨hd, hl⟩ := hm_may_not i h
    rw [exec_of_gate_stop s i 0x01 hd hv (stops (s.illegalHere_of_hm i hm hl)), s.raise_illegal_of_hm hm]

end Sys2Proof.Machine

/-- Settles O48: the words that no agent executes, and those that this agent may not. -/
theorem illegalEverywhere : Obligations.IllegalEverywhere := ⟨illegalWords, whereWordsAreIllegal⟩
end

section
/-! SUPPORT of O59. The canonical form of a wave's registers, checkpoints and write buffer, and what each update of a wave makes of it. -/

open Sys2Proof
namespace Sys2Proof.Machine

/-! ## Waves whose registers are canonical -/

/-- The transaction part of `Wave.wf`: checkpoints and the write buffer. -/
def Tx.wf (t : Tx) : Bool := t.cp.wf && (t.alts.all fun a => a.cp.wf) && bufOk t.buf

theorem Tx.wf_iff (t : Tx) : t.wf = true ↔ t.cp.wf = true ∧ (∀ a ∈ t.alts, a.cp.wf = true) ∧ bufOk t.buf = true := by
  simp [Tx.wf, and_assoc]

theorem Wave.wf_iff (w : Wave) : w.wf = true ↔
    Cells.wf w.s = true ∧ Cells.wf w.v = true ∧ Cells.wf w.p = true ∧ Cells.wf w.sb = true ∧ w.tx.wf = true := by
  simp [Wave.wf, Tx.wf, and_assoc]

theorem Checkpoint.wf_iff (c : Checkpoint) : c.wf = true ↔ Cells.wf c.s = true ∧ Cells.wf c.p = true := by simp [Checkpoint.wf]

theorem bufOk_nil : bufOk [] = true := rfl

theorem Wave.wf_tx {w : Wave} (h : w.wf = true) : w.tx.wf = true := ((Wave.wf_iff w).mp h).2.2.2.2

theorem Wave.wf_cp {w : Wave} (h : w.wf = true) : w.tx.cp.wf = true := ((Tx.wf_iff _).mp (Wave.wf_tx h)).1

theorem Wave.wf_alts {w : Wave} (h : w.wf = true) : ∀ a ∈ w.tx.alts, a.cp.wf = true := ((Tx.wf_iff _).mp (Wave.wf_tx h)).2.1

theorem Wave.wf_buf {w : Wave} (h : w.wf = true) : bufOk w.tx.buf = true := ((Tx.wf_iff _).mp (Wave.wf_tx h)).2.2

/-- A transaction with canonical checkpoints and buffer may stand in the place of a wave's. -/
theorem Wave.wf_withTx {w : Wave} {t : Tx} (h : w.wf = true) (ht : t.wf = true) : ({ w with tx := t } : Wave).wf = true := by
  obtain ⟨hs, hv, hp, hb, -⟩ := (Wave.wf_iff w).mp h
  exact (Wave.wf_iff _).mpr ⟨hs, hv, hp, hb, ht⟩

/-- A change of a wave that keeps its registers canonical. -/
def KeepsWf (f : Wave → Wave) : Prop := ∀ w, w.wf = true → (f w).wf = true

theorem KeepsWf.id : KeepsWf id := fun _ h => h

/-! ## Updates of a wave -/

theorem Wave.wf_setS {w : Wave} {n : Nat} {x : Word} (h : w.wf = true) : (w.setS n x).wf = true := by
  obtain ⟨hs, hr⟩ := (Wave.wf_iff w).mp h
  exact (Wave.wf_iff _).mpr ⟨Cells.wf_set _ _ _ hs, hr⟩

theorem Wave.wf_setHigh {w : Wave} {n : Nat} {x : Lane} (h : w.wf = true) : (w.setHigh n x).wf = true := by
  obtain ⟨hs, hr⟩ := (Wave.wf_iff w).mp h
  exact (Wave.wf_iff _).mpr ⟨Cells.wf_set _ _ _ hs, hr⟩

theorem Wave.wf_setV {w : Wave} {n l : Nat} {x : Lane} (h : w.wf = true) : (w.setV n l x).wf = true := by
  obtain ⟨hs, hv, hr⟩ := (Wave.wf_iff w).mp h
  exact (Wave.wf_iff _).mpr ⟨hs, Cells.wf_set _ _ _ hv, hr⟩

theorem Wave.wf_setP {w : Wave} {n : Nat} {x : Lane} (h : w.wf = true) : (w.setP n x).wf = true := by
  obtain ⟨hs, hv, hp, hr⟩ := (Wave.wf_iff w).mp h
  unfold Wave.setP
  split
  · exact h
  · exact (Wave.wf_iff _).mpr ⟨hs, hv, Cells.wf_set _ _ _ hp, hr⟩

/-- Writing a slot. -/
theorem Wave.wf_setSlot {w : Wave} {n : Nat} {x : BitVec 6} (h : w.wf = true) : ({ w with sb := Cells.set w.sb n x } : Wave).wf = true := by
  obtain ⟨hs, hv, hp, hb, ht⟩ := (Wave.wf_iff w).mp h
  exact (Wave.wf_iff _).mpr ⟨hs, hv, hp, Cells.wf_set _ _ _ hb, ht⟩

theorem Wave.wf_slotUp {w : Wave} {n : Nat} (h : w.wf = true) : (w.slotUp n).wf = true := Wave.wf_setSlot h

theorem Wave.wf_slotDown {w : Wave} {o : Option Nat} (h : w.wf = true) : (w.slotDown o).wf = true := by
  cases o with
  | none => exact h
  | some n => exact Wave.wf_setSlot h

theorem Wave.wf_setLanes {w : Wave} {n : Nat} {l : List (Nat × Lane)} (h : w.wf = true) : (w.setLanes n l).wf = true := by
  induction l generalizing w with
  | nil => exact h
  | cons p r ih => exact ih (Wave.wf_setV h)

theorem Wave.wf_setWhole {w : Wave} {n : Nat} {xs : List Lane} (h : w.wf = true) : (w.setWhole n xs).wf = true := Wave.wf_setLanes h

theorem Wave.wf_write {w : Wave} {x : RegWrite} (h : w.wf = true) : (w.write x).wf = true := by
  cases x with
  | s r x => exact Wave.wf_setS h
  | v r l x => exact Wave.wf_setV h

theorem Wave.wf_writes {w : Wave} {l : List RegWrite} (h : w.wf = true) : (w.writes l).wf = true := by
  induction l generalizing w with
  | nil => exact h
  | cons x r ih => exact ih (Wave.wf_write h)

theorem Wave.wf_orFlags {w : Wave} {f : BitVec 5} (h : w.wf = true) : (w.orFlags f).wf = true := h

theorem Wave.wf_stamp {w : Wave} {t : Nat} (h : w.wf = true) : (w.stamp t).wf = true := h

theorem Wave.wf_land {w : Wave} {f : Flight} (h : w.wf = true) : (w.land f).wf = true := by
  unfold Wave.land
  split
  · exact Wave.wf_slotDown (Wave.wf_orFlags (Wave.wf_writes h))
  · exact Wave.wf_slotDown h

theorem Wave.wf_foldl {α : Type} {f : Wave → α → Wave} (hf : ∀ w a, w.wf = true → (f w a).wf = true) (l : List α) {w : Wave}
    (h : w.wf = true) : (l.foldl f w).wf = true := by
  induction l generalizing w with
  | nil => exact h
  | cons a r ih => exact ih (hf w a h)

theorem Wave.wf_landAll {w : Wave} (h : w.wf = true) : w.landAll.wf = true :=
  Wave.wf_foldl (f := Wave.land) (fun _ _ => Wave.wf_land) _ h

/-- Restoring a canonical checkpoint. -/
theorem Wave.wf_restore {w : Wave} {c : Checkpoint} (h : w.wf = true) (hc : c.wf = true) : (w.restore c).wf = true := by
  obtain ⟨-, hv, -, hr⟩ := (Wave.wf_iff w).mp h
  obtain ⟨hs, hp⟩ := (Checkpoint.wf_iff c).mp hc
  exact (Wave.wf_iff _).mpr ⟨hs, hv, hp, hr⟩

theorem Wave.wf_checkpoint {w : Wave} (h : w.wf = true) : w.checkpoint.wf = true := by
  obtain ⟨hs, -, hp, -⟩ := (Wave.wf_iff w).mp h
  exact (Checkpoint.wf_iff _).mpr ⟨hs, hp⟩

theorem Wave.wf_enterHandler {w : Wave} {status code cause : Nat} (h : w.wf = true) : (w.enterHandler status code cause).wf = true := by
  have hr : (w.landAll.restore w.tx.cp).wf = true := Wave.wf_restore (Wave.wf_landAll h) (Wave.wf_cp h)
  exact Wave.wf_withTx (w := { w.landAll.restore w.tx.cp with pc := w.tx.handler }) hr rfl

theorem Wave.wf_conflictAbort {w : Wave} {t : Nat} (h : w.wf = true) : (w.conflictAbort t).wf = true := by
  have hr : (w.landAll.restore w.tx.cp).wf = true := Wave.wf_restore (Wave.wf_landAll h) (Wave.wf_cp h)
  exact Wave.wf_withTx (w := { w.landAll.restore w.tx.cp with
    pc := w.tx.begin_, run := .backoff (t + backoffWait (min (w.tx.confl + 1) 63) w.gwn) }) hr rfl

theorem Wave.wf_dropTx {w : Wave} (h : w.wf = true) : w.dropTx.wf = true := by
  unfold Wave.dropTx
  split
  · exact h
  · exact Wave.wf_withTx h rfl

theorem Wave.wf_hit {w : Wave} {o : Option Nat} (h : w.wf = true) : (w.hit o).wf = true := by
  unfold Wave.hit
  split
  · exact h
  · exact h
  · split <;> exact h

theorem Wave.wf_flyRaised {w : Wave} {c : Ctl} {cls : OrdClass} {b : Pending} (h : w.wf = true) : (w.flyRaised c cls b).wf = true := h

theorem Wave.wf_raiseSlot {w : Wave} {c : Ctl} (h : w.wf = true) : (w.raiseSlot c).wf = true := by
  unfold Wave.raiseSlot
  split
  · exact Wave.wf_slotUp h
  · exact h

theorem Wave.wf_fly {w : Wave} {c : Ctl} {cls : OrdClass} {b : Pending} (h : w.wf = true) : (w.fly c cls b).wf = true :=
  Wave.wf_flyRaised (Wave.wf_raiseSlot h)

theorem State.wf_putResult {s : State} {c : Ctl} {t : Ty} {d : Opnd} {f : Nat → Nat} {w : Wave} (h : w.wf = true) :
    (s.putResult c t d f w).wf = true := by
  unfold State.putResult
  split
  · exact Wave.wf_setLanes h
  · exact Wave.wf_setS h
  · exact Wave.wf_setP h
  · exact h

/-! ## Lists of waves and contexts -/

/-- Every wave of a list has canonical registers. -/
def wavesOk (l : List Wave) : Prop := ∀ w ∈ l, w.wf = true

/-- Every wave saved in an image of a context has canonical registers. -/
def Context.imagesOk (c : Context) : Prop := ∀ i ∈ c.images, wavesOk i.waves

/-- Every wave saved in an image has canonical registers. -/
def ctxsOk (l : List Context) : Prop := ∀ c ∈ l, c.imagesOk

theorem regsOk_iff (s : State) : regsOk s ↔ s.me.wf = true ∧ wavesOk s.others ∧ ctxsOk s.ctxs := by
  simp [regsOk, State.waves, wavesOk, ctxsOk, Context.imagesOk, and_assoc]

theorem wavesOk.append {a b : List Wave} (ha : wavesOk a) (hb : wavesOk b) : wavesOk (a ++ b) :=
  fun w hw => (List.mem_append.mp hw).elim (ha w) (hb w)

theorem wavesOk.cons {w : Wave} {l : List Wave} (hw : w.wf = true) (hl : wavesOk l) : wavesOk (w :: l) :=
  List.forall_mem_cons.mpr ⟨hw, hl⟩

theorem wavesOk.filter {l : List Wave} (h : wavesOk l) (p : Wave → Bool) : wavesOk (l.filter p) :=
  fun w hw => h w (List.mem_filter.mp hw).1

theorem wavesOk.map {l : List Wave} {f : Wave → Wave} (h : wavesOk l) (hf : KeepsWf f) : wavesOk (l.map f) := by
  intro w hw
  obtain ⟨x, hx, rfl⟩ := List.mem_map.mp hw
  exact hf x (h x hx)

theorem mem_mapWhere {α : Type} {p : α → Bool} {f : α → α} {l : List α} {x : α} (h : x ∈ mapWhere p f l) :
    ∃ y ∈ l, x = if p y then f y else y := by
  obtain ⟨y, hy, rfl⟩ := List.mem_map.mp h
  exact ⟨y, hy, rfl⟩

theorem wavesOk.mapWhere {l : List Wave} {p : Wave → Bool} {f : Wave → Wave} (h : wavesOk l) (hf : KeepsWf f) :
    wavesOk (mapWhere p f l) :=
  h.map fun w hw => by
    split
    · exact hf w hw
    · exact hw

theorem ctxsOk.mapWhere {l : List Context} {p : Context → Bool} {f : Context → Context} (h : ctxsOk l)
    (hf : ∀ c : Context, c.imagesOk → (f c).imagesOk) : ctxsOk (mapWhere p f l) := by
  intro c hc
  obtain ⟨x, hx, rfl⟩ := mem_mapWhere hc
  split
  · exact hf x (h x hx)
  · exact h x hx

theorem ctxsOk.append {a b : List Context} (ha : ctxsOk a) (hb : ctxsOk b) : ctxsOk (a ++ b) :=
  fun c hc => (List.mem_append.mp hc).elim (ha c) (hb c)

theorem ctxsOk.filter {l : List Context} (h : ctxsOk l) (p : Context → Bool) : ctxsOk (l.filter p) :=
  fun c hc => h c (List.mem_filter.mp hc).1

/-- A context without images. -/
theorem Context.imagesOk_of_nil {c : Context} (h : c.images = []) : c.imagesOk := by
  simp [Context.imagesOk, h]

/-! ## Shared operations of the state -/

namespace regsOk
variable {s : State}

theorem me (h : regsOk s) : s.me.wf = true := ((regsOk_iff s).mp h).1

theorem others (h : regsOk s) : wavesOk s.others := ((regsOk_iff s).mp h).2.1

theorem ctxs (h : regsOk s) : ctxsOk s.ctxs := ((regsOk_iff s).mp h).2.2

theorem waves (h : regsOk s) : wavesOk s.waves := h.1

/-- The form looks at the waves and contexts alone: an update of anything else keeps it. -/
theorem of_eq {t : State} (h : regsOk s) (hm : t.me = s.me) (ho : t.others = s.others) (hc : t.ctxs = s.ctxs) : regsOk t := by
  rw [regsOk_iff, hm, ho, hc]
  exact (regsOk_iff s).mp h

theorem foldl {α : Type} {f : State → α → State} (h : regsOk s) (hf : ∀ s a, regsOk s → regsOk (f s a)) (l : List α) : regsOk (l.foldl f s) := by
  induction l generalizing s with
  | nil => exact h
  | cons a r ih => exact ih (hf s a h)

theorem mapMe {f : Wave → Wave} (h : regsOk s) (hf : KeepsWf f) : regsOk (s.mapMe f) :=
  (regsOk_iff _).mpr ⟨hf _ h.me, h.others, h.ctxs⟩

theorem modWave {g : Nat} {f : Wave → Wave} (h : regsOk s) (hf : KeepsWf f) : regsOk (s.modWave g f) := by
  unfold State.modWave
  split
  · exact h.mapMe hf
  · exact (regsOk_iff _).mpr ⟨h.me, h.others.mapWhere hf, h.ctxs⟩

theorem modWaves {p : Wave → Bool} {f : Wave → Wave} (h : regsOk s) (hf : KeepsWf f) : regsOk (s.modWaves p f) := by
  refine (regsOk_iff _).mpr ⟨?_, h.others.mapWhere hf, h.ctxs⟩
  simp only [State.modWaves_me]
  split
  · exact hf _ h.me
  · exact h.me

theorem focus {g : Nat} (h : regsOk s) : regsOk (s.focus g) := by
  unfold State.focus
  split
  · exact h
  · split
    · exact h
    · next w hw =>
      exact (regsOk_iff _).mpr ⟨h.others w (List.mem_of_find?_eq_some hw), (h.others.filter _).cons h.me, h.ctxs⟩

theorem dropWaves {p : Wave → Bool} (h : regsOk s) : regsOk (s.dropWaves p) := by
  unfold State.dropWaves
  extract_lets gone rest
  have hr : wavesOk rest := h.others.filter _
  clear_value rest
  split
  · cases rest with
    | nil => exact (regsOk_iff _).mpr ⟨h.me, hr, h.ctxs⟩
    | cons w r => exact (regsOk_iff _).mpr ⟨hr w List.mem_cons_self, fun x hx => hr x (List.mem_cons_of_mem _ hx), h.ctxs⟩
  · exact (regsOk_iff _).mpr ⟨h.me, hr, h.ctxs⟩

theorem setBerth {b : Berth} (h : regsOk s) : regsOk (s.setBerth b) := h.of_eq rfl rfl rfl

theorem setCore {c : FarCore} (h : regsOk s) : regsOk (s.setCore c) := h.of_eq rfl rfl rfl

theorem modCrew {id : Nat} {f : Crew → Crew} (h : regsOk s) : regsOk (s.modCrew id f) := h.of_eq rfl rfl rfl

theorem modPart {p : Nat} {f : Partition → Partition} (h : regsOk s) : regsOk (s.modPart p f) := h.of_eq rfl rfl rfl

theorem modHm {n : Nat} {f : HmCore → HmCore} (h : regsOk s) : regsOk (s.modHm n f) := h.of_eq rfl rfl rfl

theorem modOut {f : Outside → Outside} (h : regsOk s) : regsOk (s.modOut f) := h.of_eq rfl rfl rfl

theorem record {a v : Nat} (h : regsOk s) : regsOk (s.record a v) := h.of_eq rfl rfl rfl

/-- A change of a context's images that keeps their waves canonical. -/
theorem modCtxImages {c : Nat} {f : Context → Context} (h : regsOk s) (hf : ∀ c : Context, c.imagesOk → (f c).imagesOk) :
    regsOk (s.modCtx c f) :=
  (regsOk_iff _).mpr ⟨h.me, h.others, h.ctxs.mapWhere hf⟩

/-- A change of a context that leaves its images alone. -/
theorem modCtx {c : Nat} {f : Context → Context} (h : regsOk s) (hf : ∀ c, (f c).images = c.images) : regsOk (s.modCtx c f) :=
  h.modCtxImages fun x hx => by
    rw [Context.imagesOk, hf x]
    exact hx

theorem modLaunch {c l : Nat} {f : Launch → Launch} (h : regsOk s) : regsOk (s.modLaunch c l f) := h.modCtx fun _ => rfl

theorem finish {f : Wave → Wave} (h : regsOk s) (hf : KeepsWf f) : regsOk (s.finish f) := h.mapMe fun w hw => hf (w.stamp s.time) hw

theorem jump {a : Word} {f : Wave → Wave} (h : regsOk s) (hf : KeepsWf f) : regsOk (s.jump a f) := h.mapMe fun w hw => hf (w.stamp s.time) hw

theorem stall {i : Instr} (h : regsOk s) : regsOk (s.stall i) := h.mapMe fun _ hw => hw

theorem launchFlight {c : Ctl} {cls : OrdClass} {b : Pending} (h : regsOk s) : regsOk (s.launchFlight c cls b) := h.finish fun _ => Wave.wf_fly

theorem abortTx {status code cause : Nat} (h : regsOk s) : regsOk (s.abortTx status code cause) := h.mapMe fun _ hw => Wave.wf_enterHandler (Wave.wf_stamp hw)

theorem hmException {epc : Word} {cause : Nat} {val : Word} (h : regsOk s) : regsOk (s.hmException epc cause val) := by
  unfold State.hmException
  extract_lets n
  split_ifs
  · exact h
  · exact modOut (h.mapMe fun w hw => (Wave.wf_dropTx hw : w.dropTx.wf = true))
  · exact h.modHm.mapMe fun w hw => (Wave.wf_dropTx hw : w.dropTx.wf = true)

theorem hmReturn (h : regsOk s) : regsOk s.hmReturn := h.mapMe fun _ hw => hw

theorem report {c l : Nat} {r : Report} (h : regsOk s) : regsOk (s.report c l r) := h.modLaunch

theorem failTask {id : Nat} {info : FaultInfo} (h : regsOk s) : regsOk (s.failTask id info) := by
  unfold State.failTask
  split
  · exact h
  · next c _ =>
    split
    · exact h
    · extract_lets s1 s2 s3 b s4
      have h2 : regsOk s2 := modWaves h.modCrew fun w hw => Wave.wf_withTx (w := { w with
        run := .off, park := none, dueFault := none, duePark := none, flights := w.flights.filter (!Flight.bank ·) }) hw rfl
      have h4 : regsOk s4 := h2.of_eq rfl rfl rfl
      split
      · exact h4
      · exact h4.report

theorem raise {cause sev : Nat} {d : Word} (h : regsOk s) : regsOk (s.raise cause sev d) := by
  unfold State.raise
  extract_lets w
  split_ifs
  · exact h.abortTx
  · exact hmException (h.mapMe fun _ => Wave.wf_stamp)
  · exact h.failTask

theorem parityFault (h : regsOk s) : regsOk s.parityFault := by
  unfold State.parityFault
  split
  · exact hmException (h.mapMe fun _ => Wave.wf_stamp)
  · exact h.failTask

theorem badCommand (h : regsOk s) : regsOk s.badCommand := h.raise

theorem parkWave {g kind engine : Nat} {addr pc : Word} (h : regsOk s) : regsOk (s.parkWave g kind engine addr pc) := by
  unfold State.parkWave
  split
  · exact h
  · extract_lets s1
    have h1 : regsOk s1 := h.modWave fun _ hw => hw
    exact h1.modPart

theorem notice {addr pc : Word} (h : regsOk s) : regsOk (s.notice addr pc) := h.of_eq rfl rfl rfl

theorem touchLine {writer line : Nat} (h : regsOk s) : regsOk (s.touchLine writer line) := by
  have ht (p : Wave → Bool) : regsOk (s.modWaves p (Wave.hit (some s.wakes))) := h.modWaves fun _ => Wave.wf_hit
  unfold State.touchLine
  extract_lets sl reg t
  split
  · exact ht reg
  · exact ht reg

theorem touchGranule {writer unit crew g : Nat} (h : regsOk s) : regsOk (s.touchGranule writer unit crew g) := h.modWaves fun _ => Wave.wf_hit

theorem wakeGranule {unit crew g : Nat} (h : regsOk s) : regsOk (s.wakeGranule unit crew g) :=
  h.modWaves fun w hw => by split <;> exact hw

theorem wakeGranules {unit crew : Nat} {gs : List Nat} (h : regsOk s) : regsOk (s.wakeGranules unit crew gs) :=
  h.foldl (fun _ _ h => h.wakeGranule) gs

theorem touchGranules {writer unit crew : Nat} {gs : List Nat} (h : regsOk s) : regsOk (s.touchGranules writer unit crew gs) := by
  induction gs generalizing s with
  | nil => exact h
  | cons g r ih => exact ih h.touchGranule

theorem registerLine {line : Nat} {u : State} (h : regsOk s) (hu : s.registerLine line = some u) : regsOk u := by
  unfold State.registerLine at hu
  dsimp only at hu
  split_ifs at hu <;> cases hu
  · exact h
  · exact h.mapMe fun _ hw => hw
  · exact h.mapMe fun _ hw => hw

theorem registerGranule {g : Nat} (h : regsOk s) : regsOk (s.registerGranule g) := by
  unfold State.registerGranule
  extract_lets k u
  split_ifs
  · exact h
  · exact h.mapMe fun _ hw => hw
  · exact h.mapMe fun _ hw => hw

theorem takeDue (h : regsOk s) : regsOk s.takeDue := by
  unfold State.takeDue
  split
  · exact h.failTask
  · exact parkWave (h.mapMe fun _ hw => hw)
  · exact h

end regsOk
end Sys2Proof.Machine
end

section
/-! SUPPORT of O59. Reads, writes and translation of memory keep the registers of every wave as they are, but for what R151 and R152 doom and wake. -/

open Sys2Proof
namespace Sys2Proof.Machine
namespace regsOk
variable {s : State}

/-! ## The home of a line -/

theorem homeWrite {writer line mask value code : Nat} {scale : Option Nat} (h : regsOk s) :
    regsOk (s.homeWrite writer line mask value scale code) := by
  unfold State.homeWrite
  extract_lets code lf a b st _ t
  have ht : regsOk t := h.of_eq rfl rfl rfl
  exact ht.touchLine

theorem recordAll {a : Nat} {r : List ErrNote} (h : regsOk s) : regsOk (s.recordAll a r) :=
  h.foldl (fun s n hs => by
    cases n with
    | counted => exact hs.modOut
    | recorded sev => exact hs.record) r

theorem recordIdle {sp : List Span} (h : regsOk s) : regsOk (s.recordIdle sp) :=
  h.foldl (fun t line ht => by
    dsimp only
    split
    · exact ht
    · exact ht.recordAll) _

theorem writePhys {writer at_ size value : Nat} (h : regsOk s) : regsOk (s.writePhys writer at_ size value) := h.homeWrite

theorem homeWrites {writer : Nat} {l : List LineWrite} (h : regsOk s) : regsOk (s.homeWrites writer l) :=
  h.foldl (fun _ _ hs => hs.homeWrite) _

theorem writeBlock {writer at_ code field scale : Nat} (h : regsOk s) : regsOk (s.writeBlock writer at_ code field scale) :=
  h.foldl (fun _ _ hs => hs.homeWrite) _

theorem discardLine {writer line code : Nat} (h : regsOk s) : regsOk (s.discardLine writer line code) := by
  unfold State.discardLine
  extract_lets code st st2 _ t t2
  have ht : regsOk t := h.of_eq rfl rfl rfl
  have ht2 : regsOk t2 := ht.touchLine
  split
  · exact ht2.homeWrite
  · exact ht2

/-! ## Translation and fetch -/

theorem tlbAdd {tlb ctx level va : Nat} {e : Word} (h : regsOk s) : regsOk (s.tlbAdd tlb ctx level va e) := h.of_eq rfl rfl rfl

theorem tlbDrop {p : TlbEntry → Bool} (h : regsOk s) : regsOk (s.tlbDrop p) := h.of_eq rfl rfl rfl

theorem walkRead {die at_ : Nat} (h : regsOk s) : regsOk (s.walkRead die at_).1 := by
  unfold State.walkRead
  split
  · exact h
  · dsimp only
    split
    · exact h.recordIdle.record
    · exact h.recordIdle

theorem walkFrom {tlb ctx va n table : Nat} (h : regsOk s) : regsOk (State.walkFrom tlb ctx va n s table).1 := by
  induction n generalizing s table with
  | zero => exact h
  | succ n ih =>
    unfold State.walkFrom
    extract_lets level idx p step r t e
    have hstep (t : State) (e : Word) (ht : regsOk t) : regsOk (step t e).1 := by
      dsimp only [step]
      split
      · exact ht
      · exact ih ht
    split
    · exact hstep _ _ h
    · split
      · exact h
      · have ht : regsOk t := h.walkRead
        split_ifs
        · exact ht
        · exact ht
        · exact ht
        · exact hstep _ _ ht.tlbAdd

theorem walk {tlb ctx va : Nat} (h : regsOk s) : regsOk (s.walk tlb ctx va).1 := by
  unfold State.walk
  split
  · exact h
  · exact h.walkFrom

theorem walkFor {tlb ctx va : Nat} {n : Need} (h : regsOk s) : regsOk (s.walkFor tlb ctx va n).1 := by
  unfold State.walkFor
  extract_lets a
  have ha : regsOk a.1 := h.walk
  split
  · split
    · exact ha
    · exact ha.tlbDrop.walk
  · exact ha

theorem translate {tlb ctx va : Nat} {n : Need} (h : regsOk s) : regsOk (s.translate tlb ctx va n).1 := h.walkFor

theorem fetchAt {unit : Nat} {t : Target} (h : regsOk s) : regsOk (s.fetchAt unit t).1 := by
  unfold State.fetchAt
  split
  · exact h
  · split
    · exact h
    · extract_lets r bad u w
      have hu : regsOk u := h.recordAll.recordIdle
      split_ifs
      · exact hu
      · exact hu.of_eq rfl rfl rfl
      · exact hu

theorem fetch (h : regsOk s) : regsOk s.fetch.1 := by
  unfold State.fetch
  extract_lets w pc u p r
  have hr : regsOk r.1 := h.translate
  split_ifs
  · exact h
  · exact h
  · exact h.fetchAt
  · exact h
  · exact h
  · exact h
  · split
    · split
      · exact hr.fetchAt
      · exact hr
      · exact hr
    · exact hr
    · exact hr
    · exact hr
    · exact hr

/-! ## Accesses -/

theorem virtRes {tlb ctx va : Nat} {k : AccKind} (h : regsOk s) : regsOk (s.virtRes tlb ctx k va).1 := by
  unfold State.virtRes
  split_ifs
  · exact h
  · exact h
  · exact h
  · exact h.translate

theorem laneRes {tlb va : Nat} {k : AccKind} (h : regsOk s) : regsOk (s.laneRes tlb k va).1 := by
  unfold State.laneRes
  split
  · exact h
  · exact h.virtRes

theorem laneAll {tlb : Nat} {k : AccKind} {l : List (Nat × Nat)} (h : regsOk s) : regsOk (s.laneAll tlb k l).1 := by
  induction l generalizing s with
  | nil => exact h
  | cons p r ih => exact ih h.laneRes

theorem checkGlobal {k : AccKind} {as : List (Nat × Nat)} (h : regsOk s) : regsOk (s.checkGlobal k as).1 := by
  unfold State.checkGlobal
  split
  · exact h
  · split
    · exact h
    · split
      · exact h
      · extract_lets r ts
        have hr : regsOk r.1 := h.laneAll
        split
        · exact hr
        · split
          · exact hr
          · exact hr

theorem failAccess {f : Fail} (h : regsOk s) : regsOk (s.failAccess f) := by
  unfold State.failAccess
  split
  · exact h.raise
  · split
    · exact h.notice.abortTx
    · exact parkWave (h.mapMe fun _ => Wave.wf_stamp)

/-- An access that passes its checks goes on in a state of the same form. -/
theorem withChecked {r : State × Checked} {f : State → List (Nat × Target) → State} (h : regsOk r.1) (hf : ∀ s ts, regsOk s → regsOk (f s ts)) :
    regsOk (State.withChecked r f) := by
  unfold State.withChecked
  split
  · exact h.failAccess
  · exact h.abortTx
  · exact hf _ _ h

theorem dropL1 {core line : Nat} (h : regsOk s) : regsOk (s.dropL1 core line) := h.of_eq rfl rfl rfl

theorem flushL1 {unit : Nat} (h : regsOk s) : regsOk (s.flushL1 unit) := h.of_eq rfl rfl rfl

theorem flushIc {unit : Nat} (h : regsOk s) : regsOk (s.flushIc unit) := h.of_eq rfl rfl rfl

theorem fillL1 {core line code : Nat} (h : regsOk s) : regsOk (s.fillL1 core line code) := by
  unfold State.fillL1
  extract_lets s1 d _
  have h1 : regsOk s1 := h.dropL1
  split
  · exact h1.of_eq rfl rfl rfl
  · exact h1

theorem refreshL1 {core line code : Nat} (h : regsOk s) : regsOk (s.refreshL1 core line code) := by
  unfold State.refreshL1
  split
  · exact h.fillL1
  · exact h

theorem noteReplica {die : Nat} {t : Target} (h : regsOk s) : regsOk (s.noteReplica die t) := by
  unfold State.noteReplica
  split
  · exact h.of_eq rfl rfl rfl
  · exact h

theorem recordFrom {die : Nat} {ts : List (Target × Nat)} {spans : State → Target × Nat → List Span} (h : regsOk s) :
    regsOk (s.recordFrom die ts spans) := by
  unfold State.recordFrom
  extract_lets near home
  have hh : regsOk home := h.recordIdle
  split
  · exact hh
  · exact hh.of_eq rfl rfl rfl

theorem recordUnread {unit size : Nat} {ts : List Target} (h : regsOk s) : regsOk (s.recordUnread unit size ts) := h.recordFrom

theorem readAt {unit crew size : Nat} {nan many : Bool} {t : Target} (h : regsOk s) : regsOk (s.readAt unit crew nan many t size).1 := by
  unfold State.readAt
  split
  · exact h
  · split
    · exact h.recordAll.noteReplica
    · dsimp only
      split
      · exact recordAll (h.of_eq rfl rfl rfl)
      · exact h.recordAll
    · exact h
    · exact h
    · exact h

theorem dropCopies {unit size : Nat} {t : Target} (h : regsOk s) : regsOk (s.dropCopies unit size t) := by
  unfold State.dropCopies
  split
  · exact h.foldl (fun _ _ hs => hs.dropL1) _
  · exact h

theorem fillFrom {core : Nat} {t : Target} (h : regsOk s) : regsOk (s.fillFrom core t) := h.of_eq rfl rfl rfl

theorem readLane {unit crew size : Nat} {plain many : Bool} {t : Target} (h : regsOk s) :
    regsOk (s.readLane unit crew plain many t size).1 := by
  unfold State.readLane
  split
  · exact h
  · dsimp only
    split
    · exact h.readAt.fillFrom
    · exact h.readAt.dropCopies

theorem readWhole {unit crew size : Nat} {t : Target} (h : regsOk s) : regsOk (s.readWhole unit crew t size).1 :=
  h.recordUnread.readAt.dropCopies

theorem hash {crew : Nat} {m : List Byte} (h : regsOk s) : regsOk (s.hash crew m) := by
  unfold State.hash
  split
  · exact h
  · split
    · exact h.modCrew
    · exact h

theorem writeScratch {writer crew ofs size x : Nat} (h : regsOk s) : regsOk (s.writeScratch writer crew ofs size x) := by
  unfold State.writeScratch
  split
  · exact h
  · exact h.modCrew.touchGranules

theorem writeLines {g : Nat} {l : List LineWrite} (h : regsOk s) : regsOk (s.writeLines g l) := by
  unfold State.writeLines
  extract_lets u t
  have ht : regsOk t := h.homeWrites
  split
  · exact ht.foldl (fun _ _ hs => hs.refreshL1) _
  · exact ht

theorem useFree {t : Target} (h : regsOk s) : regsOk (s.useFree t) := by
  unfold State.useFree
  split
  · exact h.of_eq rfl rfl rfl
  · exact h

theorem putHost {at_ size x : Nat} (h : regsOk s) : regsOk (s.putHost at_ size x) := h.modOut

theorem writeAt {writer size x : Nat} {t : Target} (h : regsOk s) : regsOk (s.writeAt writer t size x).1 := by
  unfold State.writeAt
  dsimp only
  split
  · exact h.putHost
  · exact h.useFree.homeWrites

theorem storeField {g crew size x : Nat} {t : Target} (h : regsOk s) : regsOk (s.storeField g crew size t x).1 := by
  unfold State.storeField
  extract_lets w u
  have hu : regsOk u := by
    apply useFree
    split
    · exact h
    · exact h.hash
  split
  · exact hu.writeScratch
  · dsimp only
    split
    · exact hu
    · exact hu.putHost
  · exact hu

theorem storeFields {g crew size : Nat} {l : List (Target × Nat)} (h : regsOk s) : regsOk (s.storeFields g crew size l).1 := by
  induction l generalizing s with
  | nil => exact h
  | cons p r ih => exact ih h.storeField

theorem storeLanes {g crew size : Nat} {l : List (Target × Nat)} (h : regsOk s) : regsOk (s.storeLanes g crew size l).1 := by
  unfold State.storeLanes
  dsimp only
  split
  · exact h.storeFields
  · exact h.storeFields.writeLines

theorem applyTx {writer crew : Nat} {b : List TxWrite} (h : regsOk s) : regsOk (s.applyTx writer crew b) :=
  writeLines (h.foldl (fun _ _ hs => hs.modCrew) _)

end regsOk
end Sys2Proof.Machine
end

section
/-! SUPPORT of O59. The write buffer of a transaction: its writes lie under their masks, on at most 64 lines (R137, R141). -/

open Sys2Proof
namespace Sys2Proof.Machine

/-- The bits of a write lie under its mask (R141). -/
def UnderMask (mask value : Nat) : Prop := value &&& mask = value

theorem bufOk_iff (b : List TxWrite) : bufOk b = true ↔ (∀ w ∈ b, UnderMask w.mask w.value) ∧ (bufLines b).length ≤ 64 := by
  simp [bufOk, UnderMask]

/-- n low bits of a number, moved up, lie under a mask of n ones moved as far. -/
theorem underMask_shift (n o x : Nat) : UnderMask ((2 ^ n - 1) <<< o) ((x % 2 ^ n) <<< o) := by
  refine Nat.eq_of_testBit_eq fun i => ?_
  simp only [Nat.testBit_and, Nat.testBit_shiftLeft, Nat.testBit_mod_two_pow, Nat.testBit_two_pow_sub_one]
  grind

theorem underMask_byteMask (o n x : Nat) : UnderMask (byteMask o n) ((x % 2 ^ (8 * n)) <<< (8 * o)) := underMask_shift _ _ _

/-- The mask of bits from `lo` up to `hi`. -/
theorem underMask_span (lo n x : Nat) : UnderMask (2 ^ (lo + n) - 2 ^ lo) ((x % 2 ^ n) <<< lo) := by
  have h : 2 ^ (lo + n) - 2 ^ lo = (2 ^ n - 1) <<< lo := by
    rw [Nat.shiftLeft_eq, Nat.sub_mul, Nat.one_mul, pow_add, Nat.mul_comm]
  rw [h]
  exact underMask_shift _ _ _

theorem underMask_blockWrites {at_ code p w x : Nat} {l : LineWrite} (hl : l ∈ blockWrites at_ code p w x) : UnderMask l.mask l.value := by
  obtain ⟨⟨line, lo, hi, ofs⟩, hq, rfl⟩ := List.mem_map.mp hl
  have hle : lo ≤ hi := by
    simp only [bitParts, List.mem_cons, Prod.mk.injEq] at hq
    rcases hq with ⟨-, rfl, rfl, -⟩ | hq
    · omega
    · split at hq
      · simp only [List.mem_singleton, Prod.mk.injEq] at hq
        omega
      · exact nomatch hq
  have h := underMask_span lo (hi - lo) (x >>> ofs)
  rwa [Nat.add_sub_cancel' hle] at h

theorem underMask_wideWrites {s : State} {unit code wofs n x : Nat} {table : List (BitVec 16)} {l : LineWrite}
    (hl : l ∈ (s.wideWrites unit code wofs table n x).1) : UnderMask l.mask l.value := by
  induction n generalizing wofs x with
  | zero => exact nomatch hl
  | succ n ih =>
    unfold State.wideWrites at hl
    dsimp only at hl
    split at hl
    · exact ih hl
    · rcases List.mem_append.mp hl with hl | hl
      · exact underMask_blockWrites hl
      · exact ih hl

theorem underMask_fieldWrites {s : State} {t : Target} {size x : Nat} {l : LineWrite} (hl : l ∈ (s.fieldWrites t size x).1) :
    UnderMask l.mask l.value := by
  unfold State.fieldWrites at hl
  split at hl
  · rw [List.mem_singleton.mp hl]
    exact underMask_byteMask _ _ _
  · exact underMask_wideWrites hl
  · exact nomatch hl

theorem underMask_txWrites {s : State} {t : Target} {size x : Nat} {w : TxWrite} (hw : w ∈ (s.txWrites t size x).1) :
    UnderMask w.mask w.value := by
  unfold State.txWrites at hw
  split at hw
  · rw [List.mem_singleton.mp hw]
    exact underMask_byteMask _ _ _
  · obtain ⟨l, hl, rfl⟩ := List.mem_map.mp hw
    exact underMask_fieldWrites hl

/-- A change of full/empty bits alone writes nothing. -/
theorem underMask_bitWrites {gs : List Nat} {b : Bool} {w : TxWrite} (hw : w ∈ bitWrites gs b) : UnderMask w.mask w.value := by
  obtain ⟨l, -, rfl⟩ := List.mem_map.mp hw
  exact Nat.and_self 0

/-- A buffer cut back to a part of itself holds no more lines. -/
theorem bufLines_length_take (b : List TxWrite) (n : Nat) : (bufLines (b.take n)).length ≤ (bufLines b).length := by
  conv_rhs => rw [bufLines, ← List.take_append_drop n b, List.map_append, List.eraseDups_append, List.length_append]
  exact Nat.le_add_right _ _

theorem bufOk_take {b : List TxWrite} (n : Nat) (h : bufOk b = true) : bufOk (b.take n) = true := by
  obtain ⟨hm, hl⟩ := (bufOk_iff b).mp h
  exact (bufOk_iff _).mpr ⟨fun w hw => hm w (List.mem_of_mem_take hw), (bufLines_length_take b n).trans hl⟩

namespace regsOk
variable {s : State}

/-- A write that lies under its mask enters the buffer only where the buffer then holds at most 64 lines (R141). -/
theorem bufferWrite {w : TxWrite} {u : State} (h : regsOk s) (hw : UnderMask w.mask w.value) (hu : s.bufferWrite w = some u) : regsOk u := by
  unfold State.bufferWrite at hu
  extract_lets b at hu
  split at hu
  · exact nomatch hu
  · next hlen =>
    cases hu
    obtain ⟨hm, -⟩ := (bufOk_iff _).mp (Wave.wf_buf h.me)
    have hb : bufOk b = true := (bufOk_iff _).mpr ⟨fun x hx => by
      rcases List.mem_append.mp hx with hx | hx
      · exact hm x hx
      · rw [List.mem_singleton.mp hx]
        exact hw, Nat.not_lt.mp hlen⟩
    have ht : ({ s.me.tx with buf := b } : Tx).wf = true := (Tx.wf_iff _).mpr ⟨Wave.wf_cp h.me, Wave.wf_alts h.me, hb⟩
    exact (regsOk_iff _).mpr ⟨Wave.wf_withTx h.me ht, h.others, h.ctxs⟩

theorem bufferAll {l : List TxWrite} {u : State} (h : regsOk s) (hl : ∀ w ∈ l, UnderMask w.mask w.value) (hu : s.bufferAll l = some u) :
    regsOk u := by
  induction l generalizing s with
  | nil => cases hu; exact h
  | cons w r ih =>
    obtain ⟨t, ht, hu⟩ := Option.bind_eq_some_iff.mp hu
    exact ih (h.bufferWrite (hl w List.mem_cons_self) ht) (fun x hx => hl x (List.mem_cons_of_mem _ hx)) hu

/-! ## Accesses inside a transaction -/

theorem registerLines {l : List Nat} {u : State} (h : regsOk s) (hu : s.registerLines l = some u) : regsOk u := by
  induction l generalizing s with
  | nil => cases hu; exact h
  | cons a r ih =>
    obtain ⟨t, ht, hu⟩ := Option.bind_eq_some_iff.mp hu
    exact ih (h.registerLine ht) hu

theorem registerGranules {l : List Nat} (h : regsOk s) : regsOk (s.registerGranules l) := by
  induction l generalizing s with
  | nil => exact h
  | cons g r ih => exact ih h.registerGranule

theorem registerTarget {t : Target} {size : Nat} {u : State} (h : regsOk s) (hu : s.registerTarget t size = some u) : regsOk u := by
  unfold State.registerTarget at hu
  split at hu
  · cases hu; exact h.registerGranules
  · exact h.registerLines hu

theorem txRead {nan many : Bool} {t : Target} {size : Nat} {r : State × ReadRes} (h : regsOk s) (hr : s.txRead nan many t size = some r) :
    regsOk r.1 := by
  obtain ⟨u, hu, rfl⟩ := Option.map_eq_some_iff.mp hr
  exact dropCopies ((h.registerTarget hu).of_eq rfl rfl rfl)

theorem txUnread {size : Nat} {ts : List Target} (h : regsOk s) : regsOk (s.txUnread size ts) := h.of_eq rfl rfl rfl

theorem txWrite {t : Target} {size x : Nat} {r : State × Flags} (h : regsOk s) (hr : s.txWrite t size x = .ok r) : regsOk r.1 := by
  have hreg {u : State} (hu : (if t.space = .wide then s.registerLines (t.devLines size) else some s) = some u) : regsOk u := by
    split at hu
    · exact h.registerLines hu
    · cases hu; exact h
  unfold State.txWrite at hr
  split at hr
  · exact nomatch hr
  · next u hu =>
    dsimp only at hr
    split at hr
    · exact nomatch hr
    · next v hv =>
      cases hr
      exact ((hreg hu).bufferAll (fun _ => underMask_txWrites) hv).useFree

/-- What an access inside a transaction leaves, whether it goes on or aborts. -/
def ofExcept {α : Type} (r : Except State (State × α)) : Prop :=
  match r with
  | .error s => regsOk s
  | .ok x => regsOk x.1

theorem txLoad {many : Bool} {t : LdTy} {d : Opnd} {l : List (Nat × Target)} {ws : List RegWrite} {fl : Flags} (h : regsOk s) :
    ofExcept (s.txLoad many t d l ws fl) := by
  induction l generalizing s ws fl with
  | nil => exact h
  | cons p r ih =>
    unfold State.txLoad
    split
    · exact h.abortTx
    · next u v hu =>
      have hr := h.txRead hu
      split
      · exact hr.raise
      · exact ih hr

theorem txStore {size : Nat} {l : List (Target × Nat)} {fl : Flags} (h : regsOk s) : ofExcept (s.txStore size l fl) := by
  induction l generalizing s fl with
  | nil => exact h
  | cons p r ih =>
    unfold State.txStore
    split
    · exact h.abortTx
    · next u v hu => exact ih (h.txWrite hu)

theorem txAtomic {many : Bool} {op : AtomOp} {t : AtTy} {d : Opnd} {l : List (Nat × Target × Nat × Nat)} {ws : List RegWrite} {fl : Flags}
    (h : regsOk s) : ofExcept (s.txAtomic many op t d l ws fl) := by
  induction l generalizing s ws fl with
  | nil => exact h
  | cons p r ih =>
    unfold State.txAtomic
    split
    · exact h.abortTx
    · next u v hu =>
      have hr := h.txRead hu
      split
      · exact hr.raise
      · dsimp only
        split
        · exact hr.abortTx
        · next hw => exact ih (hr.txWrite hw)

theorem txThen {α : Type} {r : Except State (State × α)} {f : State × α → State} (h : ofExcept r) (hf : ∀ x, regsOk x.1 → regsOk (f x)) :
    regsOk (txThen r f) := by
  cases r with
  | error s => exact h
  | ok x => exact hf x h

end regsOk
end Sys2Proof.Machine
end

section
/-! SUPPORT of O59. The effects of the instruction words keep the registers of every wave canonical. -/

open Sys2Proof
namespace Sys2Proof.Machine

/-! ## More updates of a wave -/

theorem Wave.wf_noteUse {w : Wave} {b : BitVec 4} {t : BitVec 8} (h : w.wf = true) : (w.noteUse b t).wf = true := h

theorem Wave.wf_command {w : Wave} {c : Ctl} (h : w.wf = true) : (w.command c).wf = true := Wave.wf_raiseSlot (c := c) h

theorem State.wf_cmpWrite {s : State} {c : Ctl} {d : Opnd} {lanes : Bool} {cond : Nat → Bool} {w : Wave} (h : w.wf = true) :
    (s.cmpWrite c d lanes cond w).wf = true := by
  unfold State.cmpWrite
  cases d with
  | p n => exact (Wave.wf_setP h : (w.setP n.toNat _).wf = true)
  | s n => exact Wave.wf_setS h
  | _ => exact h

theorem Wave.wf_setTx {w : Wave} {f : Tx → Tx} (h : w.wf = true) (hf : w.tx.wf = true → (f w.tx).wf = true) : (w.setTx f).wf = true :=
  Wave.wf_withTx (w := { w with bad := clearBad (· == .txs) w.bad }) h (hf (Wave.wf_tx h))

/-- A transaction that begins holds the wave's checkpoint alone (R137). -/
theorem Wave.wf_txBegin {w : Wave} {t : Nat} {a : Word} (h : w.wf = true) : (w.txBegin t a).wf = true := by
  refine Wave.wf_setTx h fun _ => ?_
  have hc := Wave.wf_checkpoint h
  split <;> exact (Tx.wf_iff _).mpr ⟨hc, List.forall_mem_nil _, bufOk_nil⟩

theorem Wave.wf_abandon {w : Wave} {last : Nat} {keep : Bool} {run : Run} (h : w.wf = true) : (w.abandon last keep run).wf = true := by
  have hr : (w.landAll.restore w.tx.cp).wf = true := Wave.wf_restore (Wave.wf_landAll h) (Wave.wf_cp h)
  exact Wave.wf_withTx (w := { w.landAll.restore w.tx.cp with pc := w.tx.begin_, run := run }) hr rfl

/-- A retry that goes on at a pending alternative: its checkpoint, and the buffer as it stood then (R147). -/
theorem Wave.wf_alternative {w : Wave} {a : Alt} {r : List Alt} (h : w.wf = true) (ha : w.tx.alts = a :: r) (n pc : Nat) (p : Word) :
    ({ (w.landAll.restore a.cp) with
      pc := p, ready := pc, tx := { w.tx with depth := n, alts := r, buf := w.tx.buf.take a.mark } } : Wave).wf = true := by
  have halts := Wave.wf_alts h
  rw [ha, List.forall_mem_cons] at halts
  obtain ⟨hcp, hrest⟩ := halts
  have ht : ({ w.tx with depth := n, alts := r, buf := w.tx.buf.take a.mark } : Tx).wf = true :=
    (Tx.wf_iff _).mpr ⟨Wave.wf_cp h, hrest, bufOk_take _ (Wave.wf_buf h)⟩
  have hr : (w.landAll.restore a.cp).wf = true := Wave.wf_restore (Wave.wf_landAll h) hcp
  exact Wave.wf_withTx (w := { w.landAll.restore a.cp with pc := p, ready := pc }) hr ht

theorem Wave.wf_wakeUp {w : Wave} (h : w.wf = true) : w.wakeUp.wf = true := by
  unfold Wave.wakeUp
  split
  · exact h
  · exact h

theorem Wave.wf_backOn {w : Wave} {t : Nat} (h : w.wf = true) : (w.backOn t).wf = true := by
  unfold Wave.backOn
  split
  · split <;> exact h
  · exact h

theorem Wave.wf_unlist {w : Wave} (h : w.wf = true) : w.unlist.wf = true := h

theorem Wave.wf_setFlags {w : Wave} {x : BitVec 5} (h : w.wf = true) : (w.setFlags x).wf = true := h

theorem Wave.wf_markCore {w : Wave} {id : Nat} (h : w.wf = true) : (w.markCore id).wf = true := h

theorem State.wf_fenceSees {s : State} {k : FenceKind} {w : Wave} (h : w.wf = true) : (s.fenceSees k w).wf = true := by
  unfold State.fenceSees
  split <;> exact h

/-- What a step answers with, where it answers with a state. -/
def Result.regsOk (r : Result) : Prop := ∀ u, r = .next u → Machine.regsOk u

theorem Result.regsOk_next {u : State} (h : Machine.regsOk u) : Result.regsOk (.next u) := fun _ hv => by cases hv; exact h

namespace regsOk
variable {s : State}

/-- A change of the executing wave that keeps its registers canonical as they stand. -/
theorem mapMe_of {f : Wave → Wave} (h : regsOk s) (hf : (f s.me).wf = true) : regsOk (s.mapMe f) :=
  (regsOk_iff _).mpr ⟨hf, h.others, h.ctxs⟩

/-- Each verdict's one consequence keeps the form, where the instruction's effect does. -/
theorem perform {i : Instr} {e : State → State} (h : regsOk s) (he : regsOk (e s)) : (s.perform i e).regsOk := by
  apply Result.regsOk_next
  split
  · exact h
  · exact h.takeDue
  · exact h.mapMe fun _ => Wave.wf_conflictAbort
  · exact h.raise
  · exact h.finish KeepsWf.id
  · exact h.parityFault
  · exact h.abortTx
  · exact h.stall
  · exact he

/-! ## Integer and float words -/

theorem putResult {c : Ctl} {t : Ty} {d : Opnd} {f : Nat → Nat} (h : regsOk s) : regsOk (s.finish (s.putResult c t d f)) :=
  h.finish fun _ => State.wf_putResult

theorem intV {c : Ctl} {t : Ty} {d a b : Opnd} {f : Nat → Nat → Nat} (h : regsOk s) : regsOk (s.intV c t d a b f) := h.putResult

theorem intI {c : Ctl} {t : Ty} {d a : Opnd} {imm : BitVec 16} {f : Nat → Nat → Nat} (h : regsOk s) : regsOk (s.intI c t d a imm f) := h.putResult

theorem intUn {c : Ctl} {t : Ty} {d a : Opnd} {f : Nat → Nat} (h : regsOk s) : regsOk (s.intUn c t d a f) := h.putResult

theorem fltFixed {c : Ctl} {d : BitVec 7} {f : Nat → Nat × Flags} (h : regsOk s) : regsOk (s.fltFixed c d f) :=
  h.finish fun _ hw => Wave.wf_orFlags (Wave.wf_setLanes hw)

theorem fltSlot {c : Ctl} {d : BitVec 7} {f : Nat → Nat × Flags} (h : regsOk s) : regsOk (s.fltSlot c d f) := h.launchFlight

theorem approx {fn : ApproxFn} {c : Ctl} {t : Ty} {d : BitVec 7} {a : Opnd} (h : regsOk s) : regsOk (s.approx fn c t d a) := h.fltSlot

/-! ## Loads, stores, atomics and fences -/

theorem loadTargets {i : Instr} {c : Ctl} {t : LdTy} {acq : Bool} {d : Opnd} {ts : List (Nat × Target)} (h : regsOk s) :
    regsOk (s.loadTargets i c t acq d ts) := by
  unfold State.loadTargets
  split
  · exact h.launchFlight
  · split
    · exact h.stall
    · dsimp only
      split
      · exact h.txUnread.raise
      · exact txThen h.txUnread.txLoad fun _ hx => hx.launchFlight

theorem storeTargets {i : Instr} {c : Ctl} {t : LdTy} {o : MemOrd} {d : Opnd} {ts : List (Nat × Target)} (h : regsOk s) :
    regsOk (s.storeTargets i c t o d ts) := by
  unfold State.storeTargets
  dsimp only
  split
  · exact h.launchFlight
  · split
    · exact h.stall
    · split
      · exact h.raise
      · exact txThen h.txStore fun _ hx => hx.launchFlight

theorem atom {i : Instr} {op : AtomOp} {c : Ctl} {scr : Bool} {t : AtTy} {o : MemOrd} {d : Opnd} {m : MemArg} (h : regsOk s) :
    regsOk (s.atom i op c scr t o d m) := by
  refine withChecked ?_ fun u ts hu => ?_
  · split
    · exact h
    · exact h.checkGlobal
  · dsimp only
    split
    · exact hu.launchFlight
    · split
      · exact hu.stall
      · split
        · exact hu.txUnread.raise
        · exact txThen hu.txUnread.txAtomic fun _ hx => hx.launchFlight

theorem prefetch {va : Nat} (h : regsOk s) : regsOk (s.prefetch va) := by
  unfold State.prefetch
  extract_lets u r
  have hr : regsOk r.1 := h.laneRes
  split
  · exact h
  · split
    · split
      · exact hr.noteReplica.fillFrom
      · exact hr
    · exact hr

theorem fenceHost (h : regsOk s) : regsOk s.fenceHost := h.modOut

theorem fenceEffect {k : FenceKind} {sc : Scope} (h : regsOk s) : regsOk (s.fenceEffect k sc) := by
  unfold State.fenceEffect
  extract_lets u s1 s2
  have h1 : regsOk s1 := by
    dsimp only [s1]
    split
    · exact h
    · exact h.flushL1
  have h2 : regsOk s2 := by
    dsimp only [s2]
    split
    · exact h1.flushIc
    · exact h1
  split
  · exact h2.fenceHost
  · exact h2

/-! ## The host's page, events and launches -/

theorem setPageWord {c i : Nat} {x : Word} (h : regsOk s) : regsOk (s.setPageWord c i x) := h.writePhys

theorem sendMsix {f v : Nat} (h : regsOk s) : regsOk (s.sendMsix f v) := h.fenceHost.modOut

theorem sendPending (h : regsOk s) : regsOk s.sendPending :=
  h.foldl (fun _ _ hs => by
    split
    · exact hs.modOut.sendMsix
    · exact hs) _

theorem signalPage {c : Nat} (h : regsOk s) : regsOk (s.signalPage c) := h.sendMsix

theorem mirror {c : Nat} {ev : BitVec 256} (h : regsOk s) : regsOk (s.mirror c ev) :=
  h.fenceHost.foldl (fun _ _ hs => hs.setPageWord) _

theorem setEvents {c : Nat} {new : BitVec 256} (h : regsOk s) : regsOk (s.setEvents c new) := by
  unfold State.setEvents
  split
  · exact h
  · split
    · exact h
    · extract_lets u
      have hu : regsOk u := mirror (h.modCtx fun _ => rfl)
      split
      · exact hu
      · exact hu.signalPage

theorem hmPlace {ctx va : Nat} {n : Need} (h : regsOk s) : regsOk (s.hmPlace ctx va n).1 := by
  unfold State.hmPlace
  split
  · exact h
  · exact h.translate

theorem readVirt {ctx va : Nat} (h : regsOk s) : regsOk (s.readVirt ctx va).1 := h.hmPlace

theorem readVirtWords {ctx va n : Nat} (h : regsOk s) : regsOk (s.readVirtWords ctx va n).1 := by
  induction n generalizing s va with
  | zero => exact h
  | succ n ih =>
    unfold State.readVirtWords
    dsimp only
    split
    · exact h.readVirt
    · exact ih h.readVirt

theorem typeEntry {ctx ty : Nat} (h : regsOk s) : regsOk (s.typeEntry ctx ty).1 := by
  unfold State.typeEntry
  split
  · exact h
  · split
    · exact h
    · exact h.readVirtWords

theorem anchor {tlb ctx len : Nat} {base : Int} (h : regsOk s) : regsOk (s.anchor tlb ctx base len).1 := by
  unfold State.anchor
  split
  · exact h
  · exact h.walk

theorem flood {ctx launch : Nat} (h : regsOk s) : regsOk (s.flood ctx launch) := h.foldl (fun _ _ hs => hs.setBerth) _

theorem admitLaunch {ctx launch : Nat} (h : regsOk s) : regsOk (s.admitLaunch ctx launch) := h.modLaunch.flood

theorem examine {ctx : Nat} (h : regsOk s) : regsOk (s.examine ctx) := by
  unfold State.examine
  split
  · exact h
  · split
    · exact h
    · exact h.foldl (fun _ _ hs => hs.admitLaunch) _

theorem completeLaunch {ctx launch : Nat} (h : regsOk s) : regsOk (s.completeLaunch ctx launch) := by
  unfold State.completeLaunch
  split
  · exact h
  · split
    · exact h
    · exact examine (h.setEvents.modCtx fun _ => rfl)

theorem completeOver {ctx : Nat} (h : regsOk s) : regsOk (s.completeOver ctx) := h.foldl (fun _ _ hs => hs.completeLaunch) _

theorem lowerLive {ctx launch : Nat} (h : regsOk s) : regsOk (s.lowerLive ctx launch) := by
  unfold State.lowerLive
  split
  · exact h
  · extract_lets u
    have hu : regsOk u := h.modLaunch
    split
    · exact hu.completeLaunch
    · exact hu

theorem raiseLive {ctx launch : Nat} (h : regsOk s) : regsOk (s.raiseLive ctx launch) := h.modLaunch

theorem enqueue {b ctx launch : Nat} {ws : List Word} {primary : Option Nat} {hasShadow : Bool} (h : regsOk s) :
    regsOk (s.enqueue b ctx launch ws primary hasShadow) := h.setBerth

theorem modRec {b id : Nat} {f : TaskRec → TaskRec} (h : regsOk s) : regsOk (s.modRec b id f) := h.setBerth

theorem freeRec {b id : Nat} (h : regsOk s) : regsOk (s.freeRec b id) := h.setBerth

theorem releaseHolds {ls : List Nat} (h : regsOk s) : regsOk (s.releaseHolds ls) := h.of_eq rfl rfl rfl

theorem releaseRec {b id : Nat} (h : regsOk s) : regsOk (s.releaseRec b id) := by
  unfold State.releaseRec
  split
  · exact h
  · exact h.releaseHolds.modRec

theorem unbind {unit : Nat} (h : regsOk s) : regsOk (s.unbind unit) := by
  unfold State.unbind
  split
  · dsimp only
    split
    · exact h
    · exact h.setCore
  · exact h

theorem freeCrew {id : Nat} (h : regsOk s) : regsOk (s.freeCrew id) := by
  unfold State.freeCrew
  split
  · exact h
  · apply unbind
    have hu : regsOk { (s.dropWaves fun w => w.crew == id && !isHm w.gwn) with
        crews := (s.dropWaves fun w => w.crew == id && !isHm w.gwn).crews.filter (·.id != id) } := h.dropWaves.of_eq rfl rfl rfl
    dsimp only
    split
    · split
      · exact hu.setCore
      · exact hu
    · exact hu

theorem retire {id : Nat} (h : regsOk s) : regsOk (s.retire id) := by
  unfold State.retire
  split
  · exact h
  · extract_lets r paired u v
    have hu : regsOk u := h.releaseRec.freeCrew
    have hv : regsOk v := hu.modRec
    split
    · split
      · exact hv
      · exact hv.lowerLive
    · exact hu.freeRec.lowerLive

theorem endWave {g crew : Nat} (h : regsOk s) : regsOk (s.endWave g crew) := by
  unfold State.endWave
  split
  · exact h
  · split
    · exact h.retire
    · exact h.modCrew.dropWaves

theorem event {c : Ctl} {e : Opnd} {on : Bool} (h : regsOk s) : regsOk (s.event c e on) := by
  unfold State.event
  extract_lets n
  split_ifs
  · exact h.badCommand
  · exact h.launchFlight
  · exact h.launchFlight

/-! ## Transactions and full/empty words -/

theorem commitWrites (h : regsOk s) : regsOk s.commitWrites := by
  unfold State.commitWrites
  extract_lets g crew b hashed todo done
  have hh : regsOk hashed := h.foldl (fun _ _ hs => hs.hash) _
  have hd : regsOk done := hh.applyTx
  exact hd.touchGranules

theorem commit {i : Instr} (h : regsOk s) : regsOk (s.commit i) := by
  unfold State.commit
  split
  · exact h.raise
  · split_ifs
    · exact h.mapMe fun _ hw => Wave.wf_conflictAbort (Wave.wf_stamp hw)
    · exact h.stall
    · exact finish h.commitWrites.flushL1 fun w hw => (Wave.wf_setTx hw fun _ => rfl : (w.setTx fun _ => Tx.zero).wf = true)

theorem doRetry (h : regsOk s) : regsOk s.doRetry := by
  unfold State.doRetry
  extract_lets tx
  split
  · exact h.mapMe fun _ hw => Wave.wf_abandon (Wave.wf_stamp hw)
  · split
    · next a r ha => exact h.mapMe_of (Wave.wf_alternative (w := s.me.stamp s.time) h.me ha _ _ _)
    · split
      · exact h.abortTx
      · exact h.mapMe fun _ hw => Wave.wf_abandon (Wave.wf_stamp hw)

theorem feSleep {i : Instr} {c : Ctl} {gs : List Nat} {again : Bool} (h : regsOk s) : regsOk (s.feSleep i c gs again) :=
  h.registerGranules.mapMe fun w hw => by
    have hr : (if again then w else w.raiseSlot c).wf = true := by
      split
      · exact hw
      · exact Wave.wf_raiseSlot hw
    exact hr

theorem feAct {k : FeKind} {c : Ctl} {t : FeTy} {d : Opnd} {ts : List (Nat × Target)} {again : Bool} (h : regsOk s) :
    regsOk (s.feAct k c t d ts again) := by
  unfold State.feAct
  extract_lets g crew gs n go bitsTo
  have hgo (u : State) (cls : OrdClass) (ws : List RegWrite) (hu : regsOk u) : regsOk (go u cls ws) :=
    hu.finish fun w hw => by
      dsimp only
      apply Wave.wf_flyRaised
      split
      · exact Wave.wf_unlist hw
      · exact Wave.wf_raiseSlot (Wave.wf_unlist hw)
  have hbits (u : State) (b : Bool) (hu : regsOk u) : regsOk (bitsTo u b) := hu.modCrew.touchGranules
  split
  · exact hgo _ _ _ h
  · exact hgo _ _ _ (hbits _ _ h)
  · exact hgo _ _ _ (hbits _ _ (h.foldl (fun _ _ hs => hs.writeScratch) _))

theorem feTx {k : FeKind} {c : Ctl} {t : FeTy} {d : Opnd} {ts : List (Nat × Target)} (h : regsOk s) : regsOk (s.feTx k c t d ts) := by
  unfold State.feTx
  extract_lets gs u orAbort n ws
  have hu : regsOk u := h.registerGranules
  have hor {l : List TxWrite} {f : State → State} (hl : ∀ w ∈ l, UnderMask w.mask w.value) (hf : ∀ v, regsOk v → regsOk (f v)) :
      regsOk (orAbort (u.bufferAll l) f) := by
    dsimp only [orAbort]
    split
    · exact hu.abortTx
    · next v hv => exact hf v (hu.bufferAll hl hv)
  split
  · exact hu.launchFlight
  · exact hor (fun _ => underMask_bitWrites) fun _ hv => hv.launchFlight
  · refine hor (fun w hw => ?_) fun _ hv => hv.launchFlight
    rcases List.mem_append.mp hw with hw | hw
    · obtain ⟨p, -, hw⟩ := List.mem_flatMap.mp hw
      exact underMask_txWrites hw
    · exact underMask_bitWrites hw

theorem fe {k : FeKind} {i : Instr} {c : Ctl} {t : FeTy} {d : Opnd} {m : MemArg} {again : Bool} (h : regsOk s) :
    regsOk (s.fe k i c t d m again) := by
  refine withChecked (r := (s, _)) h fun u ts hu => ?_
  dsimp only
  split_ifs
  · exact hu.stall
  · split
    · exact hu.raise
    · exact hu.feAct
  · split
    · exact hu.raise
    · exact hu.feTx
  · exact hu.feSleep
  · exact hu.registerGranules.doRetry
  · exact hu.stall

theorem feBits {c : Ctl} {a n : Opnd} {full : Bool} (h : regsOk s) : regsOk (s.feBits c a n full) := by
  unfold State.feBits
  extract_lets ofs len
  split_ifs
  · exact h.raise
  · exact h.raise
  · exact h.launchFlight
  · split
    · exact h.abortTx
    · next u hu => exact (h.bufferAll (fun _ => underMask_bitWrites) hu).launchFlight

/-! ## System words -/

theorem setRes {p : Nat} {r : BitVec 2} (h : regsOk s) : regsOk (s.setRes p r) := h.modPart

/-- A context is loaded without an image (R297, R357). -/
theorem ctxLoad {p slot : Nat} {u : State} (h : regsOk s) (hu : s.ctxLoad p slot = some u) : regsOk u := by
  unfold State.ctxLoad at hu
  extract_lets e ws c at hu
  split at hu
  · exact nomatch hu
  · cases hu
    apply mirror
    exact (regsOk_iff _).mpr ⟨h.me, h.others, h.ctxs.append fun x hx => by
      rw [List.mem_singleton.mp hx]
      exact Context.imagesOk_of_nil rfl⟩

theorem ctxSet {p slot : Nat} {u : State} (h : regsOk s) (hu : s.ctxSet p slot = some u) : regsOk u := by
  unfold State.ctxSet at hu
  extract_lets e at hu
  split at hu
  · exact nomatch hu
  · cases hu
    exact h.modCtx fun _ => rfl

theorem ctxUnload {p slot : Nat} {u : State} (h : regsOk s) (hu : s.ctxUnload p slot = some u) : regsOk u := by
  unfold State.ctxUnload at hu
  split at hu
  · exact nomatch hu
  · split at hu
    · exact nomatch hu
    · cases hu
      exact (regsOk_iff _).mpr ⟨h.me, h.others, h.ctxs.filter _⟩

theorem stealLoad {p core : Nat} {u : State} (h : regsOk s) (hu : s.stealLoad p core = some u) : regsOk u := by
  unfold State.stealLoad at hu
  extract_lets at_ rs bs old at hu
  split at hu
  · exact nomatch hu
  · cases hu
    exact h.of_eq rfl rfl rfl

theorem hmDone {p : Nat} {r : Option State} (h : regsOk s) (hr : ∀ u, r = some u → regsOk u) : regsOk (s.hmDone p r) := by
  unfold State.hmDone
  split
  · exact h.setRes
  · next u => exact (hr u rfl).setRes

theorem hmStep {p : Nat} {r : Option State} (h : regsOk s) (hr : ∀ u, r = some u → regsOk u) : regsOk (s.hmStep p r) := by
  unfold State.hmStep
  split
  · exact h.hmDone hr
  · exact h

theorem hmCommand {p : Nat} {x : Word} (h : regsOk s) : regsOk (s.hmCommand p x) := by
  unfold State.hmCommand
  extract_lets op slot
  split_ifs
  · exact h.setRes
  · exact h.hmDone fun _ => h.ctxLoad
  · exact h.hmDone fun _ => h.ctxSet
  · exact h.hmDone fun _ => h.stealLoad
  · exact h.hmDone fun _ => h.ctxUnload
  · exact h.setRes

theorem unparkCommands {g : Nat} (h : regsOk s) : regsOk (s.unparkCommands g) := by
  unfold State.unparkCommands
  split
  · exact h
  · exact h.setCore

theorem resumeWave {g : Nat} (h : regsOk s) : regsOk (s.resumeWave g) := by
  unfold State.resumeWave
  split
  · exact h
  · split
    · exact h
    · next p _ =>
      extract_lets u
      have hu : regsOk u := by
        dsimp only [u]
        split
        · exact h
        · exact h.unparkCommands
      exact hu.modWave fun w hw => by
        dsimp only
        split <;> exact hw

theorem faultWave {g cause : Nat} (h : regsOk s) : regsOk (s.faultWave g cause) := by
  unfold State.faultWave
  split
  · exact h
  · split
    · exact h
    · exact h.failTask

theorem wctl {x : Word} {u : State} (h : regsOk s) (hu : s.wctl x = some u) : regsOk u := by
  unfold State.wctl at hu
  split at hu
  · cases hu; exact h
  · dsimp only at hu
    split_ifs at hu <;> cases hu
    · exact h
    · exact h.resumeWave
    · exact h.faultWave

theorem sysregStore {n : Nat} {x : Word} (h : regsOk s) : regsOk (s.sysregStore n x) := by
  unfold State.sysregStore
  extract_lets k pn low
  split
  case h_1 => exact h.mapMe fun _ => Wave.wf_setFlags
  case h_10 =>
    split
    · exact h
    · exact h.modWave fun _ => Wave.wf_setFlags
  case h_11 => exact h
  case h_2 | h_3 | h_4 | h_5 => exact h.modHm
  all_goals exact h.modPart

end regsOk
end Sys2Proof.Machine
end

section
/-! SUPPORT of O59. What completes later, operations in flight and matrix commands, keeps the registers of every wave canonical. -/

open Sys2Proof
namespace Sys2Proof.Machine
namespace regsOk
variable {s : State}

/-- A change of the outside alone. -/
theorem withOut {o : Outside} (h : regsOk s) : regsOk { s with out := o } := h.of_eq rfl rfl rfl

/-! ## Operations in flight (R17, R19) -/

theorem endFlight {g : Nat} {f : Flight} {upd : Wave → Wave} (h : regsOk s) (hu : KeepsWf upd) : regsOk (s.endFlight g f upd) :=
  h.modWave fun w hw => Wave.wf_slotDown (w := { upd w with flights := w.flights.filter (·.id != f.id) }) (hu w hw)

theorem setBody {g id : Nat} {b : Pending} (h : regsOk s) : regsOk (s.setBody g id b) := h.modWave fun _ hw => hw

theorem flightFault {g : Nat} {f : Flight} {cause sev : Nat} {detail : Word} (h : regsOk s) : regsOk (s.flightFault g f cause sev detail) := by
  unfold State.flightFault
  extract_lets u back
  have hu : regsOk u := h.endFlight KeepsWf.id
  split
  · exact hu
  · split
    · exact hu.focus.hmException.focus
    · exact hu.failTask

theorem acquired {t : State} {acq : Bool} {f : Flight} : KeepsWf (t.acquired acq f) := fun _ hw => by
  unfold State.acquired
  split <;> exact hw

theorem readLanes {unit crew : Nat} {plain many : Bool} {t : LdTy} {d : Opnd} {l : List (Nat × Target)} {ws : List RegWrite} {fl : Flags}
    (h : regsOk s) : regsOk (s.readLanes unit crew plain many t d l ws fl).1 := by
  induction l generalizing s ws fl with
  | nil => exact h
  | cons p r ih => exact ih h.readLane

theorem recordReads {unit crew size : Nat} {nan many : Bool} {ts : List Target} (h : regsOk s) :
    regsOk (s.recordReads unit crew nan many size ts) :=
  h.foldl (fun _ _ hs => hs.withOut) _

/-- What a load or an atomic leaves as it ends: its writes, its flags, and what its acquire has seen. -/
theorem landValues {t : State} {acq : Bool} {f : Flight} {ws : List RegWrite} {fl : Flags} :
    KeepsWf fun x => t.acquired acq f ((x.writes ws).orFlags fl) :=
  fun _ hw => acquired _ (Wave.wf_orFlags (Wave.wf_writes hw))

theorem doLoad {w : Wave} {f : Flight} {d : Opnd} {t : LdTy} {left now later : List (Nat × Target)} {acq : Bool} {all : List Target}
    {got : List RegWrite} {fl : Flags} (h : regsOk s) : regsOk (s.doLoad w f d t left now later acq all got fl) := by
  unfold State.doLoad
  extract_lets u n home many r
  split
  · exact h.recordUnread.recordReads.flightFault
  · have hr : regsOk r.1 := by
      apply readLanes
      split
      · exact h.recordUnread
      · exact h
    split
    · refine endFlight ?_ landValues
      split
      · exact hr.flushL1
      · exact hr
    · exact hr.setBody

theorem showHost {sys : Bool} (h : regsOk s) : regsOk (s.showHost sys) := by
  unfold State.showHost
  split
  · exact h.fenceHost
  · exact h

theorem doStore {w : Wave} {f : Flight} {size : Nat} {now later : List (Nat × Target × Nat)} {sys : Bool} (h : regsOk s) :
    regsOk (s.doStore w f size now later sys) := by
  unfold State.doStore
  split
  · exact h.flightFault
  · extract_lets r u
    have hu : regsOk u := h.showHost.storeLanes.modWave fun _ => Wave.wf_orFlags
    split
    · exact hu.showHost.endFlight KeepsWf.id
    · exact hu.setBody

theorem atomLanes {g crew : Nat} {many : Bool} {op : AtomOp} {t : AtTy} {d : Opnd} {l : List (Nat × Target × Nat × Nat)} {ws : List RegWrite}
    {fl : Flags} (h : regsOk s) : regsOk (s.atomLanes g crew many op t d l ws fl).1 := by
  induction l generalizing s ws fl with
  | nil => exact h
  | cons p r ih => exact ih h.readAt.storeLanes.dropCopies

theorem doAtomic {w : Wave} {f : Flight} {op : AtomOp} {t : AtTy} {d : Opnd} {left now later : List (Nat × Target × Nat × Nat)} {acq sys : Bool}
    {all : List Target} {got : List RegWrite} {fl : Flags} (h : regsOk s) :
    regsOk (s.doAtomic w f op t d left now later acq sys all got fl) := by
  unfold State.doAtomic
  extract_lets u n tgs many r v
  split
  · exact h.recordUnread.recordReads.flightFault
  · have hr : regsOk r.1 := by
      apply atomLanes
      apply showHost
      split
      · exact h.recordUnread
      · exact h
    have hv : regsOk v := hr.showHost
    split
    · refine endFlight ?_ landValues
      split
      · exact hv.flushL1
      · exact hv
    · exact hr.setBody

theorem doSetFull {w : Wave} {f : Flight} {ofs len : Nat} {full : Bool} (h : regsOk s) : regsOk (s.doSetFull w f ofs len full) := by
  unfold State.doSetFull
  split
  · exact h.endFlight KeepsWf.id
  · exact h.modCrew.touchGranules.endFlight KeepsWf.id

theorem discardOne {g crew : Nat} {t : Target} (h : regsOk s) : regsOk (s.discardOne g crew t) := by
  unfold State.discardOne
  extract_lets a u b
  have ha : regsOk a := h.hash
  have hb : regsOk b := ha.discardLine
  split_ifs
  · exact ha
  · exact hb.dropL1
  · exact hb

theorem doDiscard {w : Wave} {f : Flight} {now later : List Target} (h : regsOk s) : regsOk (s.doDiscard w f now later) := by
  unfold State.doDiscard
  split
  · exact h.flightFault
  · extract_lets u
    have hu : regsOk u := h.foldl (fun _ _ hs => hs.discardOne) _
    split
    · exact hu.endFlight KeepsWf.id
    · exact hu.setBody

theorem doCtld {w : Wave} {f : Flight} {n bank : Nat} {sorted : Bool} {src : Target} (h : regsOk s) : regsOk (s.doCtld w f n bank sorted src) := by
  unfold State.doCtld
  extract_lets r es k bit
  have hr : regsOk r.1 := h.readWhole
  split
  · exact hr.flightFault
  · split
    · exact hr.flightFault
    · exact hr.setCore.endFlight KeepsWf.id

theorem doChartld {w : Wave} {f : Flight} {n : Nat} {src : Target} (h : regsOk s) : regsOk (s.doChartld w f n src) := by
  unfold State.doChartld
  split
  · exact h
  · split
    · exact h.flightFault
    · extract_lets q
      have hq : regsOk q.1 := h.hmPlace
      split
      · exact hq.flightFault
      · extract_lets r ws m p
        have hr : regsOk r.1 := hq.readWhole
        split
        · exact hr.flightFault
        · split
          · exact endFlight (hr.modCtx fun _ => rfl) KeepsWf.id
          · split
            · exact hr.flightFault
            · exact endFlight (hr.modCtx fun _ => rfl) KeepsWf.id

theorem doAccrd {w : Wave} {f : Flight} {d bank : Nat} {els : List (Nat × Nat)} (h : regsOk s) : regsOk (s.doAccrd w f d bank els) := by
  unfold State.doAccrd
  extract_lets k
  split
  · exact h.flightFault
  · exact h.endFlight fun _ => Wave.wf_setLanes

theorem doAccwr {w : Wave} {f : Flight} {bank : Nat} {els : List (Nat × Lane)} (h : regsOk s) : regsOk (s.doAccwr w f bank els) :=
  h.setCore.endFlight KeepsWf.id

theorem doTlbi {w : Wave} {f : Flight} {va ctx kind : Nat} (h : regsOk s) : regsOk (s.doTlbi w f va ctx kind) :=
  h.tlbDrop.endFlight fun _ hw => hw

theorem answer {g d status : Nat} {f : Flight} (h : regsOk s) : regsOk (s.answer g f d status) := h.endFlight fun _ => Wave.wf_setS

theorem doSpawn {w : Wave} {f : Flight} {d : Nat} {ws : List Word} (h : regsOk s) : regsOk (s.doSpawn w f d ws) := by
  unfold State.doSpawn
  extract_lets launch t a e
  have ha : regsOk a.1 := h.anchor
  have he : regsOk e.1 := ha.typeEntry
  split
  · exact h.hash.answer
  · split
    · exact h
    · split
      · exact ha.answer
      · dsimp only
        split
        · exact he.answer
        · exact he.setBerth

theorem doEvent {w : Wave} {f : Flight} {e : Nat} {on : Bool} (h : regsOk s) : regsOk (s.doEvent w f e on) := by
  unfold State.doEvent
  split
  · exact h
  · exact h.setEvents.examine.endFlight KeepsWf.id

theorem wakeHm {p : Nat} (h : regsOk s) : regsOk (s.wakeHm p) := h.modWaves fun _ => Wave.wf_hit

theorem doLaunch {w : Wave} {f : Flight} {ts : List Target} (h : regsOk s) : regsOk (s.doLaunch w f ts) := by
  unfold State.doLaunch
  extract_lets va r x u
  have hu : regsOk u := by
    dsimp only [u]
    split
    · exact h.readVirtWords.record
    · exact h.readVirtWords
  split
  · exact h
  · exact wakeHm (hu.of_eq rfl rfl rfl)

theorem doSighost {w : Wave} {f : Flight} {vec : Nat} (h : regsOk s) : regsOk (s.doSighost w f vec) :=
  h.flushL1.flushIc.sendMsix.endFlight acquired

theorem doFlight {w : Wave} {f : Flight} (h : regsOk s) : regsOk (s.doFlight w f) := by
  unfold State.doFlight
  split
  · exact h.endFlight fun _ hw => Wave.wf_orFlags (Wave.wf_writes hw)
  · exact h.doLoad
  · exact h.doStore
  · exact h.doAtomic
  · exact h.doSetFull
  · exact h.doDiscard
  · exact h.doSpawn
  · exact h.doEvent
  · exact h.doLaunch
  · exact h.doCtld
  · exact h.doChartld
  · exact h.doAccrd
  · exact h.doAccwr
  · exact h.doTlbi
  · exact h.doSighost

theorem withFlight {g id : Nat} {k : State → Wave → Flight → State} (h : regsOk s) (hk : ∀ s w f, regsOk s → regsOk (k s w f)) :
    regsOk (s.withFlight g id k) := by
  unfold State.withFlight
  split
  · exact h
  · split
    · exact h
    · split
      · exact h
      · apply hk
        split
        · exact h.modWave fun _ => Wave.wf_markCore
        · exact h

theorem doLane {g id lane : Nat} (h : regsOk s) : regsOk (s.doLane g id lane) :=
  h.withFlight fun u w f hu => by
    split
    · dsimp only
      split
      · exact hu
      · exact hu.doLoad
    · dsimp only
      split
      · exact hu
      · exact hu.doStore
    · dsimp only
      split
      · exact hu
      · exact hu.doAtomic
    · split
      · exact hu.doDiscard
      · exact hu
    · exact hu

/-! ## Engines (R258 to R264, R269, R283) -/

theorem readPiece {unit n : Nat} {many : Bool} {t : Target} (h : regsOk s) : regsOk (s.readPiece unit many t n).1 := by
  unfold State.readPiece
  split
  · exact h
  · split
    · exact h.recordAll.noteReplica
    · exact h.readAt

theorem engineFault {g crew cause sev addr : Nat} {pc : Word} (h : regsOk s) : regsOk (s.engineFault g crew cause sev addr pc) := by
  unfold State.engineFault
  extract_lets info
  split
  · exact h
  · split
    case h_5 => exact h.failTask
    all_goals exact h.modWave fun _ hw => hw

theorem feBack : KeepsWf Wave.feBack := fun w hw => by
  unfold Wave.feBack
  split
  · exact Wave.wf_slotDown (Wave.wf_unlist hw)
  · exact Wave.wf_slotDown (Wave.wf_unlist hw)
  · exact hw

theorem enginePark {g kind engine addr : Nat} {pc : Word} (h : regsOk s) : regsOk (s.enginePark g kind engine addr pc) := by
  unfold State.enginePark
  split
  · exact h
  · split
    · exact parkWave (h.modWave fun _ hw => hw)
    · exact parkWave (h.modWave feBack)
    · exact parkWave (h.modWave feBack)
    · split
      · exact h
      · exact h.modWave fun _ hw => hw

theorem addFlags {g : Nat} {fl : Flags} (h : regsOk s) : regsOk (s.addFlags g fl) := h.modWave fun _ => Wave.wf_orFlags

theorem pieceTargets {core ctx : Nat} {k : AccKind} {l : List (Nat × Nat)} (h : regsOk s) : regsOk (s.pieceTargets core ctx k l).1 := by
  induction l generalizing s with
  | nil => exact h
  | cons p r ih =>
    unfold State.pieceTargets
    extract_lets a b
    have ha : regsOk a.1 := h.virtRes
    split
    · exact h
    · split
      · exact ha
      · exact ha
      · exact ih ha

theorem matUnread {core ctx n : Nat} {a b : MatSide} (h : regsOk s) : regsOk (s.matUnread core ctx a b n) := h.recordFrom

theorem readPieces {core : Nat} {many : Bool} {l : List (Target × Nat)} (h : regsOk s) : regsOk (s.readPieces core many l).1 := by
  induction l generalizing s with
  | nil => exact h
  | cons p r ih => exact ih h.readPiece

theorem matRows {core : Nat} {c : Crew} {d : MatSide} {many : Bool} {k0 n : Nat} {l : List Nat} (h : regsOk s) :
    regsOk (s.matRows core c d many k0 n l).1 := by
  induction l generalizing s with
  | nil => exact h
  | cons row rs ih =>
    unfold State.matRows
    split
    · dsimp only
      split
      · exact h.pieceTargets
      · exact ih h.pieceTargets.readPieces
    · exact ih h

theorem modMat {core : Nat} {m : MatCmd} {f : MatCmd → MatCmd} (h : regsOk s) : regsOk (s.modMat core m f) := h.setCore

theorem dropMat {core : Nat} {m : MatCmd} (h : regsOk s) : regsOk (s.dropMat core m) := h.setCore.wakeGranules

theorem startMat {core : Nat} {m : MatCmd} (h : regsOk s) : regsOk (s.startMat core m) := h.modMat

theorem chooseIdle {core : Nat} (h : regsOk s) : regsOk (s.chooseIdle core) := by
  unfold State.chooseIdle
  split
  · exact h
  · exact h.startMat

theorem chooseAt {core : Nat} {m : MatCmd} (h : regsOk s) : regsOk (s.chooseAt core m) := by
  unfold State.chooseAt
  split
  · exact h
  · split
    · exact h.modMat.startMat
    · exact h

theorem finishMat {core : Nat} {m : MatCmd} (h : regsOk s) : regsOk (s.finishMat core m) :=
  h.dropMat.modCrew.touchGranules.modWave fun _ => Wave.wf_slotDown

theorem stopMat {core : Nat} {m : MatCmd} {low : Nat → Nat} {unread : State → State} {f : Fail} (h : regsOk s)
    (hu : ∀ s, regsOk s → regsOk (unread s)) : regsOk (s.stopMat core m low unread f) := by
  unfold State.stopMat
  split
  · exact (hu _ h).dropMat.engineFault
  · split
    · exact (hu _ h).dropMat
    · exact h.modMat.enginePark

theorem kStepOf {core : Nat} {m : MatCmd} (h : regsOk s) : regsOk (s.kStepOf core m) := by
  unfold State.kStepOf
  extract_lets f k n k0 fresh low m'
  split
  · exact h.dropMat
  · next c _ =>
    extract_lets many ra unread rb u k2
    have hun (n : Nat) (v : State) (hv : regsOk v) : regsOk (unread n v) := hv.matUnread
    have ha : regsOk ra.1 := h.matRows
    have hb : regsOk rb.1 := ha.matRows
    split
    · exact h.setCore.finishMat
    · split
      · exact ha.stopMat (hun _)
      · split
        · exact hb.stopMat (hun _)
        · split
          · exact hb.stopMat (hun _)
          · extract_lets new v v2
            have hv : regsOk v2 := modMat (addFlags (setCore (hb : regsOk u)))
            split_ifs
            · exact (hun _ _ hv).finishMat
            · exact (hun _ _ hv).dropMat
            · exact hv.modMat
            · exact hv.chooseAt

theorem matTurn {core : Nat} (h : regsOk s) : regsOk (s.matTurn core) := by
  unfold State.matTurn
  extract_lets s1
  have h1 : regsOk s1 := by
    dsimp only [s1]
    split
    · exact h
    · exact h.kStepOf
  split_ifs
  · exact h
  · exact h1.chooseIdle
  · exact h1

theorem matUntil {core n : Nat} {m : MatCmd} (h : regsOk s) : regsOk (State.matUntil core m n s) := by
  induction n generalizing s with
  | zero => exact h
  | succ n ih =>
    unfold State.matUntil
    split
    · exact h
    · split
      · exact h
      · exact ih h.matTurn

theorem matRun {core op : Nat} (h : regsOk s) : regsOk (s.matRun core op) := by
  unfold State.matRun
  extract_lets u
  have hu : regsOk u := by
    dsimp only [u]
    split
    · exact h.chooseIdle
    · exact h
  split
  · exact hu
  · split
    · exact hu.matUntil
    · exact hu

end regsOk
end Sys2Proof.Machine
end

section
/-! SUPPORT of O59. Lighter commands, berths, crews and manifests keep the registers of every wave canonical. -/

open Sys2Proof
namespace Sys2Proof.Machine

/-- The registers with which a wave starts (R62) are canonical. -/
theorem State.wf_newWave {s : State} {u slot crew berth ix n pc : Nat} {r : TaskRec} {t : TypeEntry} :
    (s.newWave u slot crew r t berth ix n pc).wf = true :=
  (Wave.wf_iff _).mpr ⟨Cells.wf_setMany _ _ Cells.wf_nil, Cells.wf_nil, Cells.wf_set _ _ _ Cells.wf_nil, Cells.wf_nil, rfl⟩

namespace regsOk
variable {s : State}

/-! ## Lighter commands (R266 to R269) -/

theorem litPage {core ctx va : Nat} {need : Need} {block : Bool} {first : Option Nat} (h : regsOk s) :
    regsOk (s.litPage core ctx need block first va).1 := by
  unfold State.litPage
  split
  · exact h
  · extract_lets k a o
    have ha : regsOk a.1 := h.virtRes
    split
    · exact ha
    · exact ha
    · split
      · exact ha
      · exact ha

theorem litPages {core ctx : Nat} {need : Need} {block : Bool} {first : Option Nat} {l : List Nat} {ps : List PageTr} (h : regsOk s) :
    regsOk (s.litPages core ctx need block first l ps).1 := by
  induction l generalizing s ps with
  | nil => exact h
  | cons va r ih =>
    unfold State.litPages
    split
    · exact ih h
    · extract_lets a
      have ha : regsOk a.1 := h.litPage
      split
      · exact ha
      · exact ih ha

theorem litPrepare {core : Nat} {c : Crew} {l : LitCmd} (h : regsOk s) : regsOk (s.litPrepare core c l).1 := by
  unfold State.litPrepare
  extract_lets f need rowsOf a b
  have ha : regsOk a.1 := h.litPage
  have hb : regsOk b.1 := h.litPages
  split
  · exact h
  · split
    · split
      · exact ha
      · dsimp only
        split
        · exact ha
        · split
          · exact ha.litPages
          · exact ha.litPages
    · split
      · exact hb
      · split
        · exact hb
        · exact hb

theorem modLit {core : Nat} {l : LitCmd} {f : LitCmd → LitCmd} (h : regsOk s) : regsOk (s.modLit core l f) := h.setCore

theorem dropLit {core : Nat} {l : LitCmd} (h : regsOk s) : regsOk (s.dropLit core l) := h.setCore.wakeGranules

theorem hashLit {core : Nat} {l : LitCmd} (h : regsOk s) : regsOk (s.hashLit core l) := h.foldl (fun _ _ hs => hs.hash) _

theorem litUnread {l : LitCmd} {n : Nat} (h : regsOk s) : regsOk (s.litUnread l n) := by
  unfold State.litUnread
  extract_lets f
  split
  · exact h
  · exact h.recordFrom

theorem failLit {core : Nat} {l : LitCmd} {f : Fail} (h : regsOk s) : regsOk (s.failLit core l f) := by
  unfold State.failLit
  split
  · exact h.hashLit.dropLit.engineFault
  · exact h.modLit.enginePark

theorem startLit {core : Nat} {l : LitCmd} (h : regsOk s) : regsOk (s.startLit core l) := by
  unfold State.startLit
  extract_lets mine
  split
  · exact h
  · split
    · exact h
    · extract_lets p
      have hp : regsOk p.1 := h.litPrepare
      split
      · exact hp.failLit
      · dsimp only
        split
        · exact hp
        · exact hp.modLit

theorem copyPiece {core n : Nat} {many : Bool} {t : Target} (h : regsOk s) : regsOk (s.copyPiece core many t n).1 := by
  unfold State.copyPiece
  split
  · exact h.readPiece
  · exact h.recordAll.noteReplica

theorem litLines {core : Nat} {l : LitCmd} {copy many : Bool} {ps : List (Nat × Nat)} (h : regsOk s) :
    regsOk (s.litLines core l copy many ps).1 := by
  induction ps generalizing s with
  | nil => exact h
  | cons p r ih =>
    apply ih
    split
    · exact h.copyPiece
    · exact h.readPiece

theorem litBlocks {core va n : Nat} {l : LitCmd} {many : Bool} (h : regsOk s) : regsOk (s.litBlocks core l many va n).1 := by
  induction n generalizing s va with
  | zero => exact h
  | succ n ih => exact ih (h.recordAll.foldl (fun _ _ hs => hs.noteReplica) _)

theorem litRead {core : Nat} {c : Crew} {l : LitCmd} {f : LitFields} (h : regsOk s) : regsOk (s.litRead core c l f) := by
  unfold State.litRead
  extract_lets n at_ take
  have htake (u : State) (bs : List Byte) (fl : Flags) (hu : regsOk u) : regsOk (take u bs fl) := hu.addFlags.modLit
  split
  · exact h.litUnread.failLit
  · split
    · split
      · exact h.failLit
      · split
        · split
          · exact h.failLit
          · exact htake _ _ _ h
        · exact htake _ _ _ h
    · split
      · split
        · exact h.litBlocks.litUnread.failLit
        · exact htake _ _ _ h.litBlocks
      · split
        · exact h.litLines.litUnread.failLit
        · exact htake _ _ _ h.litLines

theorem litNote {core va : Nat} {l : LitCmd} {bs : List Byte} (h : regsOk s) : regsOk (s.litNote core l va bs) := by
  unfold State.litNote
  split
  · exact h.modLit
  · exact h

theorem dropLines {core : Nat} {ls : List Nat} (h : regsOk s) : regsOk (s.dropLines core ls) := h.foldl (fun _ _ hs => hs.dropL1) _

theorem litStore {core va : Nat} {l : LitCmd} {shadow : Bool} {bs : List Byte} (h : regsOk s) : regsOk (s.litStore core l shadow va bs) :=
  h.foldl (fun _ _ hs => by
    dsimp only
    split
    · exact hs.useFree.addFlags
    · exact hs.writeAt.dropLines.addFlags) _

theorem litBlock {core va : Nat} {l : LitCmd} {shadow : Bool} {bs : List Byte} (h : regsOk s) : regsOk (s.litBlock core l shadow va bs).1 := by
  unfold State.litBlock
  extract_lets f t w el lines put rs field u q
  have hput (field scale : Nat) (fl : Flags) : regsOk (put field scale fl).1 := by
    dsimp only [put]
    split
    · exact h.addFlags
    · exact h.addFlags.writeBlock.dropLines
  have hu : regsOk u := h.addFlags
  split
  · exact hput _ _ _
  · split
    · dsimp only
      split
      · exact hu
      · exact hu.homeWrites.dropLines
    · exact hput _ _ _

theorem litBlocksOut {core : Nat} {l : LitCmd} {shadow : Bool} {ps : List (Nat × List Byte)} (h : regsOk s) :
    regsOk (s.litBlocksOut core l shadow ps) := by
  induction ps generalizing s with
  | nil => exact h
  | cons p r ih => exact ih h.litBlock.litNote

theorem finishLit {core : Nat} {l : LitCmd} (h : regsOk s) : regsOk (s.finishLit core l) :=
  h.litUnread.hashLit.dropLit.modCrew.touchGranules.modWave fun _ => Wave.wf_slotDown

theorem litWrite {core : Nat} {l : LitCmd} {f : LitFields} (h : regsOk s) : regsOk (s.litWrite core l f) := by
  have last (u : State) (hu : regsOk u) (n : Nat) : regsOk (
      if l.pos + n < f.rowBytes then u.modLit core l fun x => { x with pos := l.pos + n }
      else if l.row + 1 < f.rows then u.modLit core l fun x => { x with row := l.row + 1, writing := false, pos := 0, buffer := [] }
      else u.finishLit core l) := by
    split_ifs
    · exact hu.modLit
    · exact hu.modLit
    · exact hu.finishLit
  unfold State.litWrite
  refine last _ ?_ _
  split
  · exact h.writeScratch
  · split
    · exact h.litBlocksOut
    · dsimp only
      split
      · exact h.addFlags.litNote.litStore
      · exact h.addFlags.writeScratch

theorem turnOf {core : Nat} {l : LitCmd} (h : regsOk s) : regsOk (s.turnOf core l) := by
  unfold State.turnOf
  split
  · exact h.dropLit
  · split
    · exact h.litUnread.failLit
    · dsimp only
      split
      · exact h.litWrite
      · exact h.litRead

theorem litTurn {core : Nat} (h : regsOk s) : regsOk (s.litTurn core) := by
  unfold State.litTurn
  extract_lets k
  split
  · exact h
  · split
    · exact h
    · exact h.setCore.turnOf

theorem litUntil {core n : Nat} {l : LitCmd} (h : regsOk s) : regsOk (State.litUntil core l n s) := by
  induction n generalizing s with
  | zero => exact h
  | succ n ih =>
    unfold State.litUntil
    split
    · exact ih h.litTurn
    · exact h

theorem litRun {core cmd : Nat} {conv : Nat → Bool} (h : regsOk s) : regsOk (s.litRun core cmd conv) := by
  unfold State.litRun
  split
  · exact h
  · split
    · exact h.litUntil
    · exact h

/-! ## Launches, berths and crews (R43 to R69) -/

theorem submit {ctx : Nat} {ws : List Word} {bad : Bool} (h : regsOk s) : regsOk (s.submit ctx ws bad).1 := by
  unfold State.submit
  split
  · exact h
  · split
    · exact h
    · extract_lets f e
      have he : regsOk e.1 := h.typeEntry
      split
      · exact he
      · split
        · exact he
        · exact examine (he.modCtx fun _ => rfl)

theorem launchCheck {part : Nat} (h : regsOk s) : (execLaunchCheck part s).regsOk := by
  apply Result.regsOk_next
  split
  · exact h
  · split
    · exact h.foldl (fun _ _ hs => hs.completeOver.examine) _
    · extract_lets s1 r
      have hr : regsOk r.1 := submit (h.of_eq rfl rfl rfl)
      split
      · exact hr
      · split
        · exact hr.answer
        · exact hr

theorem nearLines {b ctx base len : Nat} (h : regsOk s) : regsOk (s.nearLines b ctx base len).1 := by
  unfold State.nearLines
  split
  · exact h
  · extract_lets r
    have hr : regsOk r.1 := h.walkFor
    split
    · dsimp only
      split
      · exact hr
      · exact hr
    · exact hr

theorem holdLines {ls : List Nat} (h : regsOk s) : regsOk (s.holdLines ls) := h.of_eq rfl rfl rfl

theorem bind {core ctx : Nat} (h : regsOk s) : regsOk (s.bind core ctx) := by
  unfold State.bind
  extract_lets k
  split
  · exact h.setCore
  · exact h.setCore

theorem claimBad {b : Nat} {r : TaskRec} (h : regsOk s) : regsOk (s.claimBad b r) := by
  unfold State.claimBad
  extract_lets u
  have hu : regsOk u := h.modRec
  split
  · exact hu
  · exact hu.report

/-- Waves join the device. -/
theorem addCrew {c : Crew} {ws : List Wave} (h : regsOk s) (hw : wavesOk ws) :
    regsOk { s with crews := s.crews ++ [c], others := s.others ++ ws } :=
  (regsOk_iff _).mpr ⟨h.me, h.others.append hw, h.ctxs⟩

theorem claim {u b : Nat} {r : TaskRec} (h : regsOk s) : regsOk (s.claim u b r) := by
  unfold State.claim
  split
  · exact h
  · next t _ =>
    split
    · exact h.claimBad
    · extract_lets id near f n slots ws c hl s1 s2 s3 s4
      have hws : wavesOk ws := fun w hw => by
        obtain ⟨i, -, rfl⟩ := List.mem_map.mp hw
        exact State.wf_newWave
      have h1 : regsOk s1 := by
        apply holdLines
        dsimp only [hl]
        split
        · exact h.nearLines
        · exact h
      have h3 : regsOk s3 := (modRec h1 : regsOk s2).addCrew hws
      have h4 : regsOk s4 := by
        dsimp only [s4]
        split
        · exact h3
        · exact h3.bind
      exact h4.flushL1.flushIc

theorem answerOffer {b : Nat} {o : Offer} (h : regsOk s) : regsOk (s.answerOffer b o) := by
  unfold State.answerOffer
  split
  · exact h
  · split
    · exact h
    · split
      · dsimp only
        split
        · exact h.answer
        · split
          · exact h.answer
          · exact h.raiseLive.enqueue.hash.answer
      · exact h

theorem takeOffers {b : Nat} (h : regsOk s) : regsOk (s.takeOffers b) := h.setBerth.foldl (fun _ _ hs => hs.answerOffer) _

theorem enumOne {b : Nat} {e : Enum} {u : State} (h : regsOk s) (hu : s.enumOne b e = some u) : regsOk u := by
  unfold State.enumOne at hu
  split at hu
  · cases hu; exact h.setBerth
  · dsimp only at hu
    split at hu
    · cases hu; exact h.setBerth
    · split at hu
      · cases hu; exact h.setBerth.modLaunch.report
      · split_ifs at hu <;> cases hu
        · exact h.setBerth.modLaunch.report
        · exact h.setBerth.modLaunch.enqueue.raiseLive.enqueue
        · exact h.setBerth.modLaunch.enqueue

theorem firstSome_mem {α β : Type} {f : α → Option β} {l : List α} {b : β} (hb : firstSome f l = some b) : ∃ a ∈ l, f a = some b := by
  induction l with
  | nil => exact nomatch hb
  | cons a r ih =>
    unfold firstSome at hb
    split at hb
    · next x hx => exact ⟨a, List.mem_cons_self, hx.trans hb⟩
    · obtain ⟨y, hy, he⟩ := ih hb
      exact ⟨y, List.mem_cons_of_mem _ hy, he⟩

theorem enumStep {b : Nat} (h : regsOk s) : regsOk (s.enumStep b) := by
  unfold State.enumStep
  cases hf : firstSome (s.enumOne b) (s.enumOrder b) with
  | none => exact h
  | some u =>
    obtain ⟨e, -, he⟩ := firstSome_mem hf
    exact h.enumOne he

theorem quayClaim {b : Nat} (h : regsOk s) : regsOk (s.quayClaim b) := by
  unfold State.quayClaim
  extract_lets near
  split
  · exact h
  · split
    · exact h
    · split
      · exact h.claim
      · exact h

theorem steal {b : Nat} {q : StealReq} (h : regsOk s) : regsOk (s.steal b q) := by
  unfold State.steal
  extract_lets s1
  have h1 : regsOk s1 := h.of_eq rfl rfl rfl
  split
  · exact h1.of_eq rfl rfl rfl
  · exact h1.claim

theorem takeSteals {b : Nat} (h : regsOk s) : regsOk (s.takeSteals b) := h.setBerth.foldl (fun _ _ hs => hs.steal) _

theorem berthCycle {turn : BerthTurn} (h : regsOk s) : (execBerthCycle turn s).regsOk := by
  apply Result.regsOk_next
  apply takeSteals
  split
  · exact h.takeOffers.enumStep.quayClaim
  · exact h.takeOffers.enumStep

theorem freeFaulted {c : Crew} (h : regsOk s) : regsOk (s.freeFaulted c) := by
  unfold State.freeFaulted
  split
  · exact h.releaseRec.modRec.freeCrew
  · exact h

theorem freeSettled {ctx launch : Nat} (h : regsOk s) : regsOk (s.freeSettled ctx launch) := h.foldl (fun _ _ hs => hs.freeFaulted) _

theorem writeEntry {t : Target} {ws : List Word} (h : regsOk s) : regsOk (s.writeEntry t ws) :=
  fenceHost (h.fenceHost.foldl (fun _ _ hs => hs.writeAt) _)

theorem noteReport {ctx va : Nat} {l : Launch} {out : Outside} (h : regsOk s) : regsOk (s.noteReport ctx l va out) := by
  unfold State.noteReport
  split
  · exact h.withOut
  · exact h.record.modLaunch

theorem writeReport {ctx launch : Nat} (h : regsOk s) : regsOk (s.writeReport ctx launch) := by
  unfold State.writeReport
  split
  · exact h
  · split
    · exact h
    · extract_lets f va tr
      have htr : regsOk tr.1 := h.hmPlace
      split
      · split
        · apply lowerLive
          split
          · exact htr.writeEntry.modLaunch
          · exact htr.writeEntry.modLaunch.freeRec
        · exact htr.noteReport
      · exact htr.noteReport

theorem manifest {ctx launch : Nat} (h : regsOk s) : regsOk (s.manifest ctx launch) := by
  unfold State.manifest
  extract_lets u
  have hu : regsOk u := h.freeSettled
  split
  · exact hu.writeReport
  · exact hu

theorem shadowEnd {b : Nat} {r p : TaskRec} (h : regsOk s) : regsOk (s.shadowEnd b r p) := by
  unfold State.shadowEnd
  extract_lets u
  have hu : regsOk u := h.freeRec
  split
  · exact hu.freeRec.lowerLive
  · exact hu.modRec.report

theorem shadowCompare {b : Nat} {r : TaskRec} (h : regsOk s) : regsOk (s.shadowCompare b r) := by
  unfold State.shadowCompare
  split
  · split
    · exact h.shadowEnd
    · exact h
  · split
    · exact h
    · exact h.freeRec.lowerLive

end regsOk
end Sys2Proof.Machine
end

section
/-! SUPPORT of O59. Clocks, pilots, pre-emption, restore, upkeep and the ports keep the registers of every wave canonical. -/

open Sys2Proof
namespace Sys2Proof.Machine

/-- The counts of a wave are no registers. -/
theorem Wave.wf_grow {eligible : Bool} {n : Nat} {w : Wave} (h : w.wf = true) : (w.grow eligible n).wf = true := by
  unfold Wave.grow
  split
  · exact h
  · split
    · exact h
    · exact h

/-- Leaving a transaction's registrations keeps its checkpoints and its buffer. -/
theorem Wave.wf_leave {w : Wave} (h : w.wf = true) : ({ w with tx := w.tx.leave } : Wave).wf = true := h

theorem Wave.wf_freeze : KeepsWf Wave.freeze := fun w h => by
  unfold Wave.freeze
  extract_lets x
  have hx : x.wf = true := by
    dsimp only [x]
    split
    · exact Wave.wf_enterHandler h
    · exact h
  split
  · exact Wave.wf_leave hx
  · exact Wave.wf_leave hx
  · exact hx
  · exact hx
  · exact regsOk.feBack _ hx

theorem Wave.wf_saved : KeepsWf Wave.saved := fun w h => by
  unfold Wave.saved
  split
  · exact h
  · exact h
  · exact h

theorem Wave.wf_restored {t g : Nat} : KeepsWf (Wave.restored t g) := fun w h => by
  unfold Wave.restored
  dsimp only
  split
  · exact h
  · exact h

namespace regsOk
variable {s : State}

/-! ## Clocks and pilots (R306 to R317) -/

theorem growAll {d : Nat} (h : regsOk s) : regsOk (s.growAll d) :=
  (regsOk_iff _).mpr ⟨Wave.wf_grow h.me, h.others.map fun _ => Wave.wf_grow, h.ctxs⟩

theorem elapse {d : Nat} (h : regsOk s) : regsOk (s.elapse d) := h.growAll.of_eq rfl rfl rfl

theorem modPilot {core : Nat} {f : PilotCore → PilotCore} (h : regsOk s) : regsOk (s.modPilot core f) := h.of_eq rfl rfl rfl

theorem pilotSend {core : Nat} (h : regsOk s) : (execPilotSend core s).regsOk := by
  apply Result.regsOk_next
  split
  · exact h
  · split
    · exact h
    · split
      · exact h
      · exact h.of_eq rfl rfl rfl

theorem remoteWaitExpiry {core : Nat} (h : regsOk s) : (execRemoteWaitExpiry core s).regsOk := by
  apply Result.regsOk_next
  split
  · exact h
  · dsimp only
    split
    · exact h.modPilot
    · exact h

theorem taskPriorityAge {b id : Nat} (h : regsOk s) : (execTaskPriorityAge b id s).regsOk := by
  apply Result.regsOk_next
  split
  · exact h
  · split
    · exact h.elapse
    · exact h

theorem wavePriorityAge {g : Nat} (h : regsOk s) : (execWavePriorityAge g s).regsOk := by
  apply Result.regsOk_next
  split
  · exact h
  · split
    · exact h.elapse
    · exact h

/-! ## Core images (R348, R358 to R361) -/

/-- The waves saved in the images of a resident context are canonical. -/
theorem ctx? {n : Nat} {c : Context} (h : regsOk s) (hc : s.ctx? n = some c) : c.imagesOk := h.ctxs c (List.mem_of_find?_eq_some hc)

theorem touchRun {line n : Nat} (h : regsOk s) : regsOk (s.touchRun line n) := by
  unfold State.touchRun
  extract_lets inside regs _ u
  have hu : regsOk u := h.of_eq rfl rfl rfl
  exact hu.foldl (fun _ _ hs => hs.touchLine) _

theorem zeroContext {line n : Nat} (h : regsOk s) : regsOk (s.zeroContext line n) := touchRun (h.of_eq rfl rfl rfl)

theorem putSections {line : Nat} {xs : List Section} (h : regsOk s) : regsOk (s.putSections line xs) :=
  h.zeroContext.foldl (fun _ _ hs => hs.foldl (fun _ _ ht => ht.homeWrite) _) _

theorem preempt {ctx : Nat} (h : regsOk s) : regsOk (s.preempt ctx) := by
  unfold State.preempt
  split
  · exact h
  · split
    · exact h
    · exact modWaves (h.modCtx fun _ => rfl) Wave.wf_freeze

theorem byHm {ctx : Nat} {t : State} (h : regsOk s) (ht : regsOk t) : regsOk (s.byHm ctx t) := by
  unfold State.byHm
  split
  · exact ht
  · exact h

theorem loseTask {c : Crew} {info : FaultInfo} (h : regsOk s) : regsOk (s.loseTask c info) := by
  unfold State.loseTask
  extract_lets u
  have hu : regsOk u := h.releaseRec.modRec
  split
  · exact hu
  · exact hu.report

theorem endHang {ctx : Nat} (h : regsOk s) : regsOk (s.endHang ctx) := by
  unfold State.endHang
  split
  · exact h
  · split
    · exact h
    · split
      · exact h
      · exact (h.foldl (fun _ _ hs => hs.loseTask) _).modCtxImages fun _ _ => Context.imagesOk_of_nil rfl

/-- The image of a unit holds waves that were canonical on it. -/
theorem addImage {ctx : Nat} {img : CoreImage} (h : regsOk s) (hi : wavesOk img.waves) :
    regsOk (s.modCtx ctx fun c => { c with images := c.images ++ [img], nextImage := c.nextImage + 1 }) :=
  h.modCtxImages fun _ hc i hm => (List.mem_append.mp hm).elim (hc i) fun hl => by
    rw [List.mem_singleton.mp hl]
    exact hi

theorem saveUnit {ctx unit pa : Nat} (h : regsOk s) : regsOk (s.saveUnit ctx unit pa) := by
  unfold State.saveUnit
  extract_lets u mine crews k engine ws xs lines line
  have hu : regsOk u := h.foldl (fun _ _ hs => hs.freeFaulted) _
  split
  · exact hu
  · extract_lets img s1 s2 s3
    have hws : wavesOk ws := (hu.waves.filter _).map Wave.wf_saved
    have h1 : regsOk s1 := hu.putSections.addImage hws
    have h3 : regsOk s3 := (h1.dropWaves : regsOk s2).of_eq rfl rfl rfl
    split
    · exact hu.endHang
    · split
      · exact hu
      · apply endHang
        split
        · exact h3.setCore
        · exact h3

theorem reportLost {c : Crew} {w : Wave} (h : regsOk s) : regsOk (s.reportLost c w) := h.loseTask

theorem dropLostCharts {ctx : Nat} (h : regsOk s) : regsOk (s.dropLostCharts ctx) := by
  unfold State.dropLostCharts
  split
  · exact h
  · exact h.foldl (fun _ _ hs => record (by exact hs.modCtx fun _ => rfl)) _

theorem loadImage {ctx unit : Nat} {img : CoreImage} (h : regsOk s) (hi : wavesOk img.waves) : regsOk (s.loadImage ctx img unit) := by
  unfold State.loadImage
  extract_lets gone s1 live ws names new s2 s3
  have h1 : regsOk s1 := h.foldl (fun _ _ hs => hs.reportLost) _
  have hw : wavesOk (ws.map fun w : Wave => w.restored s1.time (new w.gwn)) := (hi.filter _).map fun _ => Wave.wf_restored _
  have h2 : regsOk s2 := (regsOk_iff _).mpr ⟨h1.me, h1.others.append hw, h1.ctxs⟩
  have h3 : regsOk s3 := by
    dsimp only [s3]
    split
    · exact h2
    · split
      · exact h2
      · exact h2.setCore
  exact h3.flushL1.flushIc

theorem resumeClaims {ctx : Nat} (h : regsOk s) : regsOk (s.resumeClaims ctx) :=
  h.modCtx fun _ => by
    split
    · rfl
    · rfl

theorem dropImage {ctx image : Nat} (h : regsOk s) :
    regsOk (s.modCtx ctx fun c => { c with images := c.images.filter (·.id != image) }) :=
  h.modCtxImages fun _ hc i hi => hc i (List.mem_filter.mp hi).1

theorem restore {ctx image unit : Nat} (h : regsOk s) : regsOk (s.restore ctx image unit) := by
  unfold State.restore
  split
  · exact h
  · next c hc =>
    split
    · exact h
    · split
      · split
        · exact h.resumeClaims
        · exact h
      · next img hi =>
        split
        · exact (h.dropLostCharts.dropImage.loadImage (h.ctx? hc _ (List.mem_of_find?_eq_some hi))).resumeClaims
        · exact h

theorem execRestore {part slot image unit : Nat} (h : regsOk s) : (execRestore part slot image unit s).regsOk := by
  apply Result.regsOk_next
  split
  · exact h.byHm h.restore
  · exact h

theorem hang {g : Nat} (h : regsOk s) : regsOk (s.hang g) := by
  unfold State.hang
  split
  · exact h
  · split
    · exact h
    · split
      · exact h
      · exact h.byHm (h.preempt.modCtx fun _ => rfl)

end regsOk
end Sys2Proof.Machine
end

section
/-! SUPPORT of O59. What the harbourmaster, the sweepers and the ports do keeps the registers of every wave canonical. -/

open Sys2Proof
namespace Sys2Proof.Machine

theorem Wave.wf_hmReset {n : Nat} : (Wave.hmReset n).wf = true := rfl

namespace regsOk
variable {s : State}

theorem reset : regsOk State.reset :=
  (regsOk_iff _).mpr ⟨Wave.wf_hmReset,
    .cons Wave.wf_hmReset (.cons Wave.wf_hmReset (.cons Wave.wf_hmReset (List.forall_mem_nil _))), List.forall_mem_nil _⟩

/-! ## The fault queue (R300) -/

theorem fqWrite {p : Nat} (h : regsOk s) : regsOk (s.fqWrite p) := by
  unfold State.fqWrite
  extract_lets x at_ notes u
  have hu : regsOk u := h.modPart
  split
  · exact h
  · split
    · extract_lets s1 s2
      have h2 : regsOk s2 := modPart (h.foldl (fun _ _ hs => hs.writePhys) _)
      split
      · exact h2
      · exact h2.modWave fun _ hw => hw
    · split
      · exact h
      · exact hu.foldl (fun _ _ hs => hs.record) _

/-! ## Replicated pages and migration (R338 to R341) -/

theorem putEntry {place : Nat} {e : Word} (h : regsOk s) : regsOk (s.putEntry place e) := h.writePhys

theorem dropPage {ctx level va : Nat} (h : regsOk s) : regsOk (s.dropPage ctx level va) := h.tlbDrop

theorem setMigration {m : Migration} (h : regsOk s) : regsOk (s.setMigration m) := h.of_eq rfl rfl rfl

theorem splitLeaf {p ctx va place table : Nat} {e : Word} (h : regsOk s) : regsOk (s.splitLeaf p ctx va place table e) :=
  dropPage (putEntry (h.foldl (fun _ _ hs => hs.putEntry) _))

theorem resumeWriters {ctx va : Nat} (h : regsOk s) : regsOk (s.resumeWriters ctx va) := h.foldl (fun _ _ hs => hs.resumeWave) _

theorem collapse {ctx va die place frame : Nat} {e : Word} (h : regsOk s) : regsOk (s.collapse ctx va die place frame e) := by
  unfold State.collapse
  extract_lets p old new m stay _ m2 _ u e2
  have hu : regsOk u := by
    dsimp only [u]
    split
    · exact h
    · exact touchRun (touchRun (h.of_eq rfl rfl rfl))
  split
  · exact h
  · split
    · exact h
    · exact hu.setMigration.putEntry.dropPage.resumeWriters

theorem resolveWrite {g frame table : Nat} (h : regsOk s) : regsOk (s.resolveWrite g frame table) := by
  unfold State.resolveWrite
  split
  · exact h
  · split
    · exact h
    · extract_lets va
      split
      · exact h
      · split
        · exact h.resumeWave
        · split
          · exact h.resumeWriters
          · split
            · exact h.collapse
            · split
              · exact h
              · extract_lets u
                have hu : regsOk u := h.splitLeaf
                split
                · exact hu
                · exact hu.collapse

theorem writeProtectCollapse {g frame table : Nat} (h : regsOk s) : (execWriteProtectCollapse g frame table s).regsOk := by
  apply Result.regsOk_next
  split
  · exact h
  · exact h.byHm h.resolveWrite

theorem replicateAgain {ctx va : Nat} (h : regsOk s) : regsOk (s.replicateAgain ctx va) := by
  unfold State.replicateAgain
  extract_lets m
  split
  · split
    · exact h
    · split
      · exact h.setMigration.putEntry.dropPage
      · exact h.setMigration
  · exact h

theorem settlePage {ctx va : Nat} (h : regsOk s) : regsOk (s.settlePage ctx va) := by
  unfold State.settlePage
  split
  · exact h.setMigration
  · exact h

/-! ## Relayout, sweeping and injection (R342 to R344, R352, R353) -/

theorem startRelayout {ctx level va place code : Nat} {e : Word} {u : State} (h : regsOk s)
    (hu : s.startRelayout ctx level va place code e = some u) : regsOk u := by
  unfold State.startRelayout at hu
  dsimp only at hu
  split at hu
  · cases hu
  · cases hu
    exact dropPage (putEntry (h.foldl (fun _ _ hs => hs.setBerth) _))

theorem reencode {line old new : Nat} (h : regsOk s) : regsOk (s.reencode line old new) := h.of_eq rfl rfl rfl

theorem endRelayout {line : Nat} (h : regsOk s) : regsOk (s.endRelayout line) := by
  unfold State.endRelayout
  split
  · exact h.of_eq rfl rfl rfl
  · exact h

theorem relayoutReencode {b entry : Nat} (h : regsOk s) : (execRelayoutReencode b entry s).regsOk := by
  apply Result.regsOk_next
  split
  · exact h
  · dsimp only
    split
    · exact h.setBerth.endRelayout
    · exact h.reencode.setBerth.endRelayout

theorem sweep {line : Nat} (h : regsOk s) : regsOk (s.sweep line) := by
  unfold State.sweep
  dsimp only
  split
  · split
    · exact h.of_eq rfl rfl rfl
    · split
      · exact h.of_eq rfl rfl rfl
      · exact h.record
  · split
    · exact h.of_eq rfl rfl rfl
    · exact h.record

theorem dropReplicas {line : Nat} (h : regsOk s) : regsOk (s.dropReplicas line) := h.of_eq rfl rfl rfl

theorem errorInjection {part pa : Nat} {side : Word} {data : BitVec 512} {first second : Bool} (h : regsOk s) :
    (execErrorInjection part pa side data first second s).regsOk := by
  apply Result.regsOk_next
  dsimp only
  split
  · exact h.modOut
  · split
    · split
      · exact h.modOut
      · exact dropReplicas (h.of_eq rfl rfl rfl)
    · split
      · exact h.modOut
      · exact dropReplicas (h.of_eq rfl rfl rfl)

/-! ## Launch pages (R367 to R370) -/

theorem takeEntry {c : Nat} (h : regsOk s) : regsOk (s.takeEntry c) := by
  unfold State.takeEntry
  extract_lets submit taken i rec_ r s1 s2
  have hr : regsOk r.1 := by
    apply regsOk.submit
    split
    · exact h.record
    · exact h
  have h2 : regsOk s2 := hr.writePhys.setPageWord
  split
  · exact h
  · split
    · exact h2.signalPage
    · exact h2

theorem ackRequest {c : Nat} {res seq : Word} (h : regsOk s) : regsOk (s.ackRequest c res seq) := h.fenceHost.setPageWord.setPageWord

theorem preemptRequest {c : Nat} (h : regsOk s) : regsOk (s.preemptRequest c) := by
  unfold State.preemptRequest
  split
  · exact h
  · split
    · exact h.ackRequest
    · split
      · split
        · exact h.ackRequest
        · apply ackRequest
          split
          · exact h
          · exact h.preempt
      · exact h

theorem restoreAll {c unit : Nat} {l : List Nat} {u : State} (h : regsOk s) (hu : s.restoreAll c unit l = some u) : regsOk u := by
  induction l generalizing s with
  | nil => cases hu; exact h
  | cons i r ih =>
    unfold State.restoreAll at hu
    split at hu
    · cases hu
    · obtain ⟨v, -, hv⟩ := Option.bind_eq_some_iff.mp hu
      exact ih h.restore hv

theorem restoreRequest {c unit : Nat} (h : regsOk s) : regsOk (s.restoreRequest c unit) := by
  unfold State.restoreRequest
  split
  · exact h
  · split
    · exact h.ackRequest
    · split
      · exact h
      · split
        · exact h.ackRequest
        · split
          · exact h
          · split
            · exact h.ackRequest
            · split
              · exact h
              · next hu => exact (h.restoreAll hu).ackRequest

theorem relayoutRequest {c : Nat} (h : regsOk s) : regsOk (s.relayoutRequest c) := by
  unfold State.relayoutRequest
  split
  · exact h
  · split
    · exact h.ackRequest
    · split
      · exact h
      · split
        · exact h.ackRequest
        · split
          · exact h.ackRequest
          · split
            · exact h
            · next hu => exact (h.startRelayout hu).ackRequest

/-! ## The host port and the boot mailbox (R135, R282, R366, R374) -/

theorem dropHostLines {line n : Nat} (h : regsOk s) : regsOk (s.dropHostLines line n) := h.modOut

theorem portWrite {place : Nat} {bs : List Byte} (h : regsOk s) : regsOk (s.portWrite place bs) := h.homeWrites

theorem hostWrite {part pa : Nat} {data : List Byte} (h : regsOk s) : regsOk (s.hostWrite part pa data) := by
  unfold State.hostWrite
  split
  · exact h
  · exact h.dropHostLines.portWrite

theorem loaderBlock {part pa code : Nat} {data : List Byte} (h : regsOk s) : regsOk (s.loaderBlock part pa data code) := by
  unfold State.loaderBlock
  split
  · exact h
  · dsimp only
    split
    · exact h
    · exact h.dropHostLines.writeBlock

theorem hostRead {part pa len : Nat} {cached : Bool} (h : regsOk s) : regsOk (s.hostRead part pa len cached) := by
  unfold State.hostRead
  split
  · exact h
  · exact h.modOut

theorem manage {r : MgmtReport} (h : regsOk s) : regsOk (s.manage r) := h.modOut

theorem bootStat {x : Word} (h : regsOk s) : regsOk (s.bootStat x) := by
  unfold State.bootStat
  split
  · exact h
  · exact h.modOut.sendMsix

theorem bootRefuse {cause : Nat} (h : regsOk s) : regsOk (s.bootRefuse cause) := h.bootStat.manage

theorem verifyImage {n : Nat} (h : regsOk s) : regsOk (s.verifyImage n) := by
  unfold State.verifyImage
  split
  · exact h.bootRefuse
  · exact h.modOut.bootStat

theorem bootGo (h : regsOk s) : regsOk s.bootGo := by
  unfold State.bootGo
  split
  · exact h
  · exact h.verifyImage

theorem putBar0 {f k : Nat} {x : Word} (h : regsOk s) : regsOk (s.putBar0 f k x) := by
  unfold State.putBar0
  split
  · exact h.modOut.sendPending
  · split
    · exact h
    · split
      · exact h.modOut
      · dsimp only
        split
        · exact h.modOut.bootGo
        · exact h.modOut
      · exact h.modOut
      · exact h

theorem bar0Write {f at_ : Nat} {bs : List Byte} (h : regsOk s) : regsOk (s.bar0Write f at_ bs) := by
  unfold State.bar0Write
  split
  · exact h
  · exact h.foldl (fun _ _ hs => by
      dsimp only
      split
      · exact hs
      · exact hs.putBar0) _

theorem msixEnable {f : Nat} {on : Bool} (h : regsOk s) : regsOk (s.msixEnable f on) := by
  unfold State.msixEnable
  split
  · exact h.modOut.sendPending
  · exact h

theorem execHostWrite {part pa : Nat} {data : List Byte} {form : HostForm} (h : regsOk s) : (execHostWrite part pa data form s).regsOk := by
  apply Result.regsOk_next
  cases form with
  | bar0 => exact h.bar0Write
  | msixEnable on => exact h.msixEnable
  | plain => exact h.hostWrite
  | loaderBlock c => exact h.loaderBlock

theorem execHostRead {part pa len : Nat} {how : HostRead} (h : regsOk s) : (execHostRead part pa len how s).regsOk := by
  apply Result.regsOk_next
  cases how with
  | bar0 => exact h.modOut
  | plain => exact h.hostRead
  | cached => exact h.hostRead

/-! ## The network port (R337, R371, R372) -/

theorem juwinTargets {ctx : Nat} {l : List (Nat × Nat)} (h : regsOk s) : regsOk (s.juwinTargets ctx l).1 := by
  induction l generalizing s with
  | nil => exact h
  | cons p r ih =>
    unfold State.juwinTargets
    split
    · exact h
    · split
      · exact h
      · split
        · exact h
        · extract_lets a res
          have ha : regsOk a.1 := h.translate
          clear_value res
          split
          · exact ha
          · split
            · exact ha
            · exact ih ha

theorem juwinFault {conn cause : Nat} (h : regsOk s) : regsOk (s.juwinFault conn cause) := h.modOut.manage

theorem juwinWrite {c : Conn} {addr : Nat} {data : List Byte} (h : regsOk s) : regsOk (s.juwinWrite c addr data) := by
  unfold State.juwinWrite
  split
  · exact h.juwinFault
  · extract_lets r
    have hr : regsOk r.1 := h.juwinTargets
    split
    · exact hr.juwinFault
    · exact hr.foldl (fun _ _ hs => hs.writeAt) _

theorem juwinPacket {p : Packet} (h : regsOk s) : (execJuwinPacket p s).regsOk := by
  apply Result.regsOk_next
  split
  · exact h
  · split
    · exact h
    · exact h.modOut.juwinWrite

/-! ## Links, boot, attestation, power (R354, R373 to R377) -/

theorem linkRetrain {link : Nat} {ok : Bool} (h : regsOk s) : (execLinkRetrain link ok s).regsOk := by
  apply Result.regsOk_next
  split
  · exact h.modOut
  · exact h.modOut.manage

theorem execReset : (execReset s).regsOk := Result.regsOk_next (reset.of_eq rfl rfl rfl)

theorem bootcmdGo {length : Word} (h : regsOk s) : (execBootcmdGo length s).regsOk := by
  apply Result.regsOk_next
  split
  · exact h
  · exact h.modOut.bootGo

theorem mgmtFetch {image : List Byte} (h : regsOk s) : regsOk (s.mgmtFetch image) := by
  unfold State.mgmtFetch
  split
  · exact h
  · exact h.portWrite.verifyImage

theorem handOver {mode : BitVec 2} {entry : Nat} (h : regsOk s) : regsOk (s.handOver mode entry) := h.bootStat.modOut.modWave fun _ hw => hw

theorem bootVerifyDone {key : List Byte} (h : regsOk s) : (execBootVerifyDone key s).regsOk := by
  apply Result.regsOk_next
  extract_lets image m u signed
  have hu : regsOk u := h.modOut
  split
  · exact h
  · split
    · exact hu.bootRefuse
    · split
      · exact hu.bootRefuse
      · exact hu.handOver

theorem thermalShutdown (h : regsOk s) : (execThermalShutdown s).regsOk := by
  apply Result.regsOk_next
  extract_lets s1 s2
  have h2 : regsOk s2 := (h.dropWaves : regsOk s1).modWaves fun _ hw => Wave.wf_withTx (t := Tx.zero) hw rfl
  exact manage ((regsOk_iff _).mpr ⟨h2.me, h2.others, List.forall_mem_nil _⟩)

end regsOk
end Sys2Proof.Machine
end

section
/-! SUPPORT of O59. Every instruction and every device step keeps the registers of every wave canonical. -/

open Sys2Proof
namespace Sys2Proof.Machine
namespace regsOk
variable {s : State}

/-! ## Branches and loops (R179 to R188) -/

theorem br {c : Ctl} {cond : BrCond} {off : BitVec 24} (h : regsOk s) : (execBr c cond off s).regsOk := by
  apply h.perform
  split
  · exact h.jump KeepsWf.id
  · exact h.finish KeepsWf.id

theorem jr {c : Ctl} {a : BitVec 6} (h : regsOk s) : (execJr c a s).regsOk := by
  apply h.perform
  dsimp only
  split
  · exact h.raise
  · exact h.jump KeepsWf.id

theorem jalr {c : Ctl} {d a : BitVec 6} (h : regsOk s) : (execJalr c d a s).regsOk := by
  apply h.perform
  dsimp only
  split
  · exact h.raise
  · exact h.jump fun _ => Wave.wf_setS

theorem loop {c : Ctl} {lc1 : Bool} {count : Opnd} {off : BitVec 24} (h : regsOk s) : (execLoop c lc1 count off s).regsOk := by
  apply h.perform
  dsimp only
  split
  · exact h.raise
  · exact h.mapMe fun w hw => by
      split
      · exact hw
      · exact hw

/-! ## Charts and blocks (R203, R204, R224 to R230) -/

theorem gaddr {c : Ctl} {d a b : Opnd} {x : Option Opnd} (h : regsOk s) : (execGaddr c d a b x s).regsOk := by
  apply h.perform
  extract_lets n chart
  cases chart with
  | none => exact h.badCommand
  | some r =>
    dsimp only
    split
    · exact h.badCommand
    · split
      · exact h.parityFault
      · exact h.finish fun w hw => by
          split
          · exact Wave.wf_setLanes (Wave.wf_setLanes hw)
          · exact Wave.wf_setS (Wave.wf_setS hw)

theorem bq {c : Ctl} {t : Ty} {d a : BitVec 7} (h : regsOk s) : (execBq c t d a s).regsOk :=
  h.perform (h.finish fun _ hw => Wave.wf_orFlags (Wave.wf_setWhole (Wave.wf_setWhole hw)))

theorem bdq {c : Ctl} {t et : Ty} {rm : Rm} {d : BitVec 7} {a b : Opnd} (h : regsOk s) : (execBdq c t et rm d a b s).regsOk := by
  apply h.perform
  extract_lets x tab el field
  split
  · exact h.parityFault
  · exact h.finish fun _ hw => Wave.wf_orFlags (Wave.wf_foldl (fun _ _ => Wave.wf_setWhole) _ hw)

theorem cbq {c : Ctl} {tab : BitVec 3} {d : BitVec 7} {a b : Opnd} (h : regsOk s) : (execCbq c tab d a b s).regsOk := by
  apply h.perform
  dsimp only
  split
  · exact h.parityFault
  · exact h.finish fun w hw => Wave.wf_orFlags (Wave.wf_setLanes (Wave.wf_noteUse hw))

theorem cbl {c : Ctl} {tab : BitVec 3} {d : BitVec 7} {a b : Opnd} (h : regsOk s) : (execCbl c tab d a b s).regsOk := by
  apply h.perform
  dsimp only
  split
  · exact h.parityFault
  · exact h.finish fun w hw => Wave.wf_setLanes (Wave.wf_noteUse hw)

/-! ## Memory (R233 to R246) -/

theorem ldG {c : Ctl} {t : LdTy} {o : MemOrd} {d : Opnd} {m : MemArg} (h : regsOk s) : (execLdG c t o d m s).regsOk :=
  h.perform (withChecked h.checkGlobal fun _ _ => loadTargets)

theorem stG {c : Ctl} {t : LdTy} {o : MemOrd} {d : Opnd} {m : MemArg} (h : regsOk s) : (execStG c t o d m s).regsOk :=
  h.perform (withChecked h.checkGlobal fun _ _ => storeTargets)

theorem ldS {c : Ctl} {t : LdTy} {o : MemOrd} {d : Opnd} {m : MemArg} (h : regsOk s) : (execLdS c t o d m s).regsOk :=
  h.perform (withChecked (r := (s, _)) h fun _ _ => loadTargets)

theorem stS {c : Ctl} {t : LdTy} {o : MemOrd} {d : Opnd} {m : MemArg} (h : regsOk s) : (execStS c t o d m s).regsOk :=
  h.perform (withChecked (r := (s, _)) h fun _ _ => storeTargets)

theorem pfG {c : Ctl} {m : MemArg} (h : regsOk s) : (execPfG c m s).regsOk := by
  apply h.perform
  apply finish (hf := KeepsWf.id)
  split
  · exact h.foldl (fun _ _ hs => hs.prefetch) _
  · exact h

theorem fence {c : Ctl} {k : FenceKind} {sc : Scope} (h : regsOk s) : (execFence c k sc s).regsOk := by
  apply h.perform
  split
  · split
    · exact (h.mapMe fun _ => Wave.wf_markCore).fenceEffect.finish fun _ => State.wf_fenceSees
    · exact h.stall
  · exact h.fenceEffect.finish fun _ => State.wf_fenceSees

theorem discard {c : Ctl} {a : BitVec 6} {n : Opnd} (h : regsOk s) : (execDiscard c a n s).regsOk := by
  apply h.perform
  dsimp only
  split
  · exact h.raise
  · split
    · exact h.badCommand
    · exact withChecked h.checkGlobal fun _ _ => launchFlight

/-! ## Transactions (R137 to R150) -/

theorem xbegin {c : Ctl} {off : BitVec 24} (h : regsOk s) : (execXbegin c off s).regsOk := by
  apply h.perform
  split
  · exact h.finish fun _ => Wave.wf_txBegin
  · split
    · exact h.finish fun _ hw => Wave.wf_setTx hw fun ht => ht
    · exact h.abortTx

theorem xend {c : Ctl} (h : regsOk s) : (execXend c s).regsOk := by
  apply h.perform
  split
  · exact h.commit
  · exact h.finish fun w hw => Wave.wf_setTx hw fun _ =>
      (Tx.wf_iff _).mpr ⟨Wave.wf_cp hw, fun a ha => Wave.wf_alts hw a (List.mem_filter.mp ha).1, Wave.wf_buf hw⟩

/-- The checkpoint of a new alternative is the wave's registers (R146). -/
theorem otherwise {c : Ctl} {off : BitVec 24} (h : regsOk s) : (execOtherwise c off s).regsOk := by
  apply h.perform
  split
  · exact h.abortTx
  · exact h.finish fun w hw => Wave.wf_setTx hw fun _ =>
      (Tx.wf_iff _).mpr ⟨Wave.wf_cp hw, List.forall_mem_cons.mpr ⟨Wave.wf_checkpoint hw, Wave.wf_alts hw⟩, Wave.wf_buf hw⟩

/-! ## Tasks (R248 to R253) -/

theorem spawn {c : Ctl} {d q : BitVec 6} (h : regsOk s) : (execSpawn c d q s).regsOk := by
  apply h.perform
  extract_lets ws t
  have ht : regsOk t.1 := h.typeEntry
  split
  · exact ht.badCommand
  · exact ht.launchFlight

theorem progress {c : Ctl} (h : regsOk s) : (execProgress c s).regsOk :=
  h.perform (h.finish fun w hw => by
    split
    · exact hw
    · exact hw)

theorem launch {c : Ctl} {d a : BitVec 6} (h : regsOk s) : (execLaunch c d a s).regsOk := by
  apply h.perform
  dsimp only
  split
  · exact h.raise
  · refine withChecked h.checkGlobal fun u _ hu => ?_
    split
    · exact hu.launchFlight
    · exact hu.launchFlight

/-! ## Engine words (R255 to R275) -/

theorem mxc {c : Ctl} {q : BitVec 6} (h : regsOk s) : (execMxc c q s).regsOk := by
  apply h.perform
  dsimp only
  split
  · exact h.raise
  · exact h.setCore.finish fun _ hw => Wave.wf_noteUse (Wave.wf_command hw)

theorem cpc {c : Ctl} {q : BitVec 6} (h : regsOk s) : (execCpc c q s).regsOk := by
  apply h.perform
  dsimp only
  split
  · exact h.raise
  · exact h.setCore.finish fun _ hw => Wave.wf_noteUse (Wave.wf_command hw)

theorem ctld {c : Ctl} {a : BitVec 6} {sorted : Bool} {n : BitVec 3} (h : regsOk s) : (execCtld c a sorted n s).regsOk := by
  apply h.perform
  dsimp only
  split
  · exact h.raise
  · refine withChecked h.checkGlobal fun u _ hu => ?_
    split
    · exact (hu.mapMe fun _ => Wave.wf_noteUse).launchFlight
    · exact hu

theorem chartld {c : Ctl} {a : BitVec 6} {n : BitVec 4} (h : regsOk s) : (execChartld c a n s).regsOk := by
  refine h.perform (withChecked h.checkGlobal fun u _ hu => ?_)
  split
  · exact hu.launchFlight
  · exact hu

theorem accrd {c : Ctl} {d : BitVec 7} {index : Opnd} {bank : BitVec 2} (h : regsOk s) : (execAccrd c d index bank s).regsOk := by
  apply h.perform
  dsimp only
  split
  · exact (h.mapMe fun _ => Wave.wf_noteUse).launchFlight
  · split
    · exact h.stall
    · split
      · exact h.parityFault
      · exact h.finish fun _ hw => Wave.wf_fly (Wave.wf_setLanes (Wave.wf_noteUse hw))

theorem accwr {c : Ctl} {index : Opnd} {bank : BitVec 2} {data : Opnd} (h : regsOk s) : (execAccwr c index bank data s).regsOk := by
  apply h.perform
  dsimp only
  split
  · exact (h.mapMe fun _ => Wave.wf_noteUse).launchFlight
  · split
    · exact h.stall
    · exact h.setCore.finish fun _ hw => Wave.wf_fly (Wave.wf_noteUse hw)

/-! ## System words (R293 to R295) -/

theorem trap {c : Ctl} {imm : BitVec 16} (h : regsOk s) : (execTrap c imm s).regsOk := by
  apply h.perform
  extract_lets s1
  have h1 : regsOk s1 := h.mapMe fun _ => Wave.wf_stamp
  split
  · exact h1.hmException
  · exact h1.parkWave

theorem srw {c : Ctl} {reg : BitVec 16} {a : BitVec 6} (h : regsOk s) : (execSrw c reg a s).regsOk := by
  apply h.perform
  extract_lets x
  split
  · exact h.hmCommand.finish KeepsWf.id
  · split
    · split
      · exact h.badCommand
      · next hu => exact (h.wctl hu).finish KeepsWf.id
    · exact h.sysregStore.finish KeepsWf.id

theorem tlbi {c : Ctl} {a b : BitVec 6} (h : regsOk s) : (execTlbi c a b s).regsOk := by
  apply h.perform
  dsimp only
  split
  · exact h.badCommand
  · exact h.launchFlight

theorem halt {c : Ctl} (h : regsOk s) : (execHalt c s).regsOk := h.perform ((h.mapMe fun _ => Wave.wf_stamp).mapMe fun _ hw => hw)

/-! ## Operations in flight and waves that go on (R143, R153, R156, R236) -/

theorem storePerformedAtHome {g id line : Nat} (h : regsOk s) : (execStorePerformedAtHome g id line s).regsOk :=
  Result.regsOk_next (h.withFlight fun u w f hu => by
    split
    · exact hu.doStore
    · exact hu)

theorem atomicAtHome {g id line : Nat} (h : regsOk s) : (execAtomicAtHome g id line s).regsOk :=
  Result.regsOk_next (h.withFlight fun u w f hu => by
    split
    · exact hu.doAtomic
    · exact hu)

theorem wakeRestart {g : Nat} (h : regsOk s) : (execWakeRestart g s).regsOk := by
  apply Result.regsOk_next
  split
  · exact h
  · exact h.modWave fun _ => Wave.wf_wakeUp

theorem feReexecute {g : Nat} (h : regsOk s) : (execFeReexecute g s).regsOk := by
  apply Result.regsOk_next
  extract_lets back s1
  have h1 : regsOk s1 := h.focus
  split
  · split
    · apply focus
      have h2 : regsOk (s1.mapMe Wave.unlist) := h1.mapMe fun _ => Wave.wf_unlist
      split
      · exact h2.fe
      · exact h2.fe
      · exact h2.fe
      · exact h2
    · exact h
  · exact h

/-! ## Other device steps -/

theorem lighterStart {core cmd : Nat} (h : regsOk s) : (execLighterStart core cmd s).regsOk := by
  apply Result.regsOk_next
  split
  · exact h
  · exact h.startLit

theorem statusLineRewrite {b : Nat} (h : regsOk s) : (execStatusLineRewrite b s).regsOk := by
  apply Result.regsOk_next
  dsimp only
  split
  · exact h
  · exact h.setBerth.touchLine

theorem crewStart {unit crew : Nat} (h : regsOk s) : (execCrewStart unit crew s).regsOk := by
  apply Result.regsOk_next
  split
  · exact h
  · split
    · exact h
    · exact h.modWaves fun _ hw => hw

theorem execShadowCompare {b id : Nat} (h : regsOk s) : (execShadowCompare b id s).regsOk := by
  apply Result.regsOk_next
  split
  · exact h
  · split
    · exact h
    · extract_lets u
      have hu : regsOk u := h.freeSettled
      split
      · exact hu
      · exact hu.shadowCompare

theorem resume {g : Nat} (h : regsOk s) : (execResume g s).regsOk := by
  apply Result.regsOk_next
  split
  · exact h
  · exact h.resumeWave

theorem execFault {g : Nat} {cause : BitVec 8} (h : regsOk s) : (execFault g cause s).regsOk := by
  apply Result.regsOk_next
  split
  · exact h.faultWave
  · exact h

theorem sysregWrite {reg : BitVec 16} {value : Word} (h : regsOk s) : (execSysregWrite reg value s).regsOk := by
  apply Result.regsOk_next
  split
  · exact h.sysregStore
  · exact h

end regsOk
end Sys2Proof.Machine
end

section
/-! SUPPORT of O59. One step of the device keeps the registers of every wave canonical. -/

open Sys2Proof
namespace Sys2Proof.Machine
namespace regsOk
variable {s : State}

/-- Every instruction and every device step, each by the lemma about its one effect. -/
theorem exec (i : Instr) (h : regsOk s) : Result.regsOk (Machine.exec i s) := by
  unfold Machine.exec
  cases i with
  | nop _ => exact h.perform (h.finish KeepsWf.id)
  | br _ _ _ => exact h.br
  | call _ _ _ => exact h.perform (h.jump fun _ => Wave.wf_setS)
  | lea _ _ _ => exact h.perform (h.finish fun _ => Wave.wf_setS)
  | jr _ _ => exact h.jr
  | jalr _ _ _ => exact h.jalr
  | loop _ _ _ _ => exact h.loop
  | li _ _ _ => exact h.perform h.putResult
  | lih _ _ _ => exact h.perform (h.finish fun _ => Wave.wf_setHigh)
  | mulh _ _ _ _ _ => exact h.perform (h.finish fun _ => Wave.wf_setS)
  | csel _ _ _ _ _ => exact h.perform h.putResult
  | add _ _ _ _ _ => exact h.perform h.intV
  | addImm _ _ _ _ _ => exact h.perform h.intI
  | sub _ _ _ _ _ => exact h.perform h.intV
  | mul _ _ _ _ _ => exact h.perform h.intV
  | mulImm _ _ _ _ _ => exact h.perform h.intI
  | mad _ _ _ _ _ _ => exact h.perform h.putResult
  | mov _ _ _ => exact h.perform h.putResult
  | and _ _ _ _ _ => exact h.perform h.intV
  | andImm _ _ _ _ _ => exact h.perform h.intI
  | or _ _ _ _ _ => exact h.perform h.intV
  | orImm _ _ _ _ _ => exact h.perform h.intI
  | xor _ _ _ _ _ => exact h.perform h.intV
  | xorImm _ _ _ _ _ => exact h.perform h.intI
  | not _ _ _ _ => exact h.perform h.intUn
  | shl _ _ _ _ _ => exact h.perform h.intV
  | shlImm _ _ _ _ _ => exact h.perform h.intI
  | lsr _ _ _ _ _ => exact h.perform h.intV
  | lsrImm _ _ _ _ _ => exact h.perform h.intI
  | asr _ _ _ _ _ => exact h.perform h.intV
  | asrImm _ _ _ _ _ => exact h.perform h.intI
  | min _ _ _ _ _ => exact h.perform h.intV
  | max _ _ _ _ _ => exact h.perform h.intV
  | cmp _ _ _ _ _ _ => exact h.perform (h.finish fun _ => State.wf_cmpWrite)
  | cmpImm _ _ _ _ _ _ => exact h.perform (h.finish fun _ => State.wf_cmpWrite)
  | bfx _ _ _ _ _ _ => exact h.perform h.putResult
  | bfi _ _ _ _ _ _ => exact h.perform h.putResult
  | popc _ _ _ _ => exact h.perform h.intUn
  | clz _ _ _ _ => exact h.perform h.intUn
  | perm _ _ _ _ _ => exact h.perform (h.finish fun _ => Wave.wf_setLanes)
  | red _ _ _ _ _ => exact h.perform h.launchFlight
  | gaddr _ _ _ _ _ => exact h.gaddr
  | addFloat _ _ _ _ _ _ _ => exact h.perform h.fltFixed
  | subFloat _ _ _ _ _ _ _ => exact h.perform h.fltFixed
  | mulFloat _ _ _ _ _ _ _ => exact h.perform h.fltFixed
  | fma _ _ _ _ _ _ _ => exact h.perform h.fltFixed
  | fms _ _ _ _ _ _ _ => exact h.perform h.fltFixed
  | minFloat _ _ _ _ _ => exact h.perform h.fltFixed
  | maxFloat _ _ _ _ _ => exact h.perform h.fltFixed
  | abs _ _ _ _ => exact h.perform h.fltFixed
  | neg _ _ _ _ => exact h.perform h.fltFixed
  | div _ _ _ _ _ _ _ => exact h.perform h.fltSlot
  | sqrt _ _ _ _ _ _ => exact h.perform h.fltSlot
  | rcp _ _ _ _ => exact h.perform h.approx
  | rsqrt _ _ _ _ => exact h.perform h.approx
  | exp2 _ _ _ _ => exact h.perform h.approx
  | log2 _ _ _ _ => exact h.perform h.approx
  | sin _ _ _ _ => exact h.perform h.approx
  | cos _ _ _ _ => exact h.perform h.approx
  | tanh _ _ _ _ => exact h.perform h.approx
  | cvt _ _ _ _ _ _ _ => exact h.perform h.fltFixed
  | bq _ _ _ _ => exact h.bq
  | bdq _ _ _ _ _ _ _ => exact h.bdq
  | cbq _ _ _ _ _ => exact h.cbq
  | cbl _ _ _ _ _ => exact h.cbl
  | rnd128 _ _ _ _ => exact h.perform h.launchFlight
  | flget _ _ => exact h.perform (h.finish fun _ => Wave.wf_setS)
  | flclr _ _ => exact h.perform (h.finish fun _ hw => hw)
  | fclass _ _ _ _ => exact h.perform h.fltFixed
  | frnd _ _ _ _ _ _ => exact h.perform h.fltFixed
  | ldG _ _ _ _ _ => exact h.ldG
  | stG _ _ _ _ _ => exact h.stG
  | ldS _ _ _ _ _ => exact h.ldS
  | stS _ _ _ _ _ => exact h.stS
  | pfG _ _ => exact h.pfG
  | atomAdd _ _ _ _ _ _ => exact h.perform h.atom
  | atomMin _ _ _ _ _ _ => exact h.perform h.atom
  | atomMax _ _ _ _ _ _ => exact h.perform h.atom
  | atomAnd _ _ _ _ _ _ => exact h.perform h.atom
  | atomOr _ _ _ _ _ _ => exact h.perform h.atom
  | atomXor _ _ _ _ _ _ => exact h.perform h.atom
  | atomXchg _ _ _ _ _ _ => exact h.perform h.atom
  | atomCas _ _ _ _ _ _ => exact h.perform h.atom
  | fence _ _ _ => exact h.fence
  | ldf _ _ _ _ => exact h.perform h.fe
  | ldfc _ _ _ _ => exact h.perform h.fe
  | stf _ _ _ _ => exact h.perform h.fe
  | feset _ _ _ => exact h.perform h.feBits
  | feclr _ _ _ => exact h.perform h.feBits
  | discard _ _ _ => exact h.discard
  | xbegin _ _ => exact h.xbegin
  | xend _ => exact h.xend
  | retry _ => exact h.perform h.doRetry
  | otherwise _ _ => exact h.otherwise
  | xabort _ _ => exact h.perform h.abortTx
  | xstat _ _ => exact h.perform (h.finish fun _ => Wave.wf_setS)
  | spawn _ _ _ => exact h.spawn
  | tret _ => exact h.perform h.endWave
  | progress _ => exact h.progress
  | evset _ _ => exact h.perform h.event
  | evclr _ _ => exact h.perform h.event
  | launch _ _ _ => exact h.launch
  | mxc _ _ => exact h.mxc
  | cpc _ _ => exact h.cpc
  | ctld _ _ _ _ => exact h.ctld
  | ctswap _ _ => exact h.perform (h.setCore.finish fun _ => Wave.wf_noteUse)
  | chartld _ _ _ => exact h.chartld
  | accrd _ _ _ _ => exact h.accrd
  | accwr _ _ _ _ => exact h.accwr
  | trap _ _ => exact h.trap
  | eret _ => exact h.perform h.hmReturn
  | srr _ _ _ => exact h.perform (h.finish fun _ => Wave.wf_setS)
  | srw _ _ _ => exact h.srw
  | tlbi _ _ _ => exact h.tlbi
  | tlbsync _ => exact h.perform (h.finish fun _ hw => hw)
  | sighost _ _ => exact h.perform h.launchFlight
  | halt _ => exact h.halt
  | illegal _ => exact h.perform h
  | slotCompletion _ _ => exact Result.regsOk_next (h.withFlight fun _ _ _ => doFlight)
  | storePerformedAtHome _ _ _ => exact h.storePerformedAtHome
  | atomicAtHome _ _ _ => exact h.atomicAtHome
  | wakeRestart _ => exact h.wakeRestart
  | backoffExpiry _ => exact Result.regsOk_next (h.modWave fun _ => Wave.wf_backOn)
  | feReexecute _ => exact h.feReexecute
  | faultQueueEntryWrite _ => exact Result.regsOk_next h.fqWrite
  | matrixMma _ => exact Result.regsOk_next h.matRun
  | matrixMmaz _ => exact Result.regsOk_next h.matRun
  | matrixZero _ => exact Result.regsOk_next h.matRun
  | matrixKstep _ => exact Result.regsOk_next h.matTurn
  | lighterStart _ _ => exact h.lighterStart
  | lighterTurn _ => exact Result.regsOk_next h.litTurn
  | convNone _ _ => exact Result.regsOk_next h.litRun
  | convElementwise _ _ => exact Result.regsOk_next h.litRun
  | expandBf16 _ _ => exact Result.regsOk_next h.litRun
  | expandF32 _ _ => exact Result.regsOk_next h.litRun
  | packIn _ _ => exact Result.regsOk_next h.litRun
  | packOut _ _ => exact Result.regsOk_next h.litRun
  | quantBf16 _ _ => exact Result.regsOk_next h.litRun
  | quantF32 _ _ => exact Result.regsOk_next h.litRun
  | requantBf16 _ _ => exact Result.regsOk_next h.litRun
  | launchCheck _ => exact h.launchCheck
  | berthCycle _ => exact h.berthCycle
  | statusLineRewrite _ => exact h.statusLineRewrite
  | taskPriorityAge _ _ => exact h.taskPriorityAge
  | pilotSend _ => exact h.pilotSend
  | remoteWaitExpiry _ => exact h.remoteWaitExpiry
  | crewStart _ _ => exact h.crewStart
  | wavePriorityAge _ => exact h.wavePriorityAge
  | manifestWrite _ _ => exact Result.regsOk_next h.manifest
  | manifestRetry _ _ => exact Result.regsOk_next h.manifest
  | watchdogHang _ => exact Result.regsOk_next h.hang
  | shadowCompare _ _ => exact h.execShadowCompare
  | preempt _ => exact Result.regsOk_next (h.byHm h.preempt)
  | preemptImageWrite _ _ => exact Result.regsOk_next (h.byHm h.saveUnit)
  | restore _ _ _ _ => exact h.execRestore
  | ctxload _ _ => exact Result.regsOk_next (h.hmStep fun _ => h.ctxLoad)
  | ctxset _ _ => exact Result.regsOk_next (h.hmStep fun _ => h.ctxSet)
  | stealload _ _ => exact Result.regsOk_next (h.hmStep fun _ => h.stealLoad)
  | ctxunload _ _ => exact Result.regsOk_next (h.hmStep fun _ => h.ctxUnload)
  | resume _ => exact h.resume
  | fault _ _ => exact h.execFault
  | sysregWrite _ _ => exact h.sysregWrite
  | writeProtectCollapse _ _ _ => exact h.writeProtectCollapse
  | reReplicate _ _ => exact Result.regsOk_next (h.byHm h.replicateAgain)
  | pinExpiry _ _ => exact Result.regsOk_next h.settlePage
  | migrationWindowReset _ _ => exact Result.regsOk_next h.settlePage
  | relayoutReencode _ _ => exact h.relayoutReencode
  | memorySweep _ => exact Result.regsOk_next h.sweep
  | l2Sweep _ => exact Result.regsOk_next h.sweep
  | errorInjection _ _ _ _ _ _ => exact h.errorInjection
  | launchPageTake _ => exact Result.regsOk_next (h.byHm h.takeEntry)
  | preemptRequest _ => exact Result.regsOk_next (h.byHm h.preemptRequest)
  | restoreRequest _ _ => exact Result.regsOk_next (h.byHm h.restoreRequest)
  | relayoutRequest _ => exact Result.regsOk_next (h.byHm h.relayoutRequest)
  | hostWrite _ _ _ _ => exact h.execHostWrite
  | hostRead _ _ _ _ => exact h.execHostRead
  | juwinPacket _ => exact h.juwinPacket
  | linkRetrain _ _ => exact h.linkRetrain
  | reset => exact execReset
  | bootcmdGo _ => exact h.bootcmdGo
  | bootVerifyDone _ => exact h.bootVerifyDone
  | attestation _ => exact Result.regsOk_next h.manage
  | throttle _ => exact Result.regsOk_next h.modOut
  | thermalShutdown => exact h.thermalShutdown
  | msixVectorUnmask _ _ => exact Result.regsOk_next h.modOut.sendPending
  | tlbEntryDrop _ => exact Result.regsOk_next (h.of_eq rfl rfl rfl)

/-! ## Issue, clocks and the agenda -/

theorem upset {p : Upset} (h : regsOk s) : regsOk (s.upset p) := by
  unfold State.upset
  cases p with
  | reg g r => exact h.modWave fun _ hw => hw
  | scratch c k => exact h.modCrew
  | bank c k => exact h.setCore
  | table c k => exact h.setCore
  | chart c n =>
    refine h.modCtx fun x => ?_
    split
    · rfl
    · rfl
  | record b i => exact h.modRec
  | line l data side => exact h.of_eq rfl rfl rfl

theorem fetchFault {cause sev : Nat} (h : regsOk s) : regsOk (s.fetchFault cause sev) := by
  unfold State.fetchFault
  dsimp only
  split
  · exact h.takeDue
  · split
    · exact h.mapMe fun _ => Wave.wf_conflictAbort
    · split
      · exact h.raise
      · exact h

theorem issue (h : regsOk s) : s.issue.regsOk := by
  unfold State.issue
  extract_lets r
  have hr : regsOk r.1 := h.fetch
  split
  · exact hr.exec _
  · exact Result.regsOk_next hr.fetchFault

theorem advance {g : Nat} (h : regsOk s) : (s.advance g).regsOk := by
  unfold State.advance
  extract_lets s1 w
  have h1 : regsOk s1 := h.focus
  split
  · exact Result.regsOk_next h
  · split
    · next i _ =>
      have h2 : regsOk (s1.mapMe fun x => { x with run := .running }) := h1.mapMe fun _ hw => hw
      have he := h2.exec i
      split
      · next t ht =>
        extract_lets u
        have hu : regsOk u := by
          dsimp only [u]
          split
          · exact (he t ht).mapMe fun _ hw => hw
          · exact he t ht
        apply Result.regsOk_next
        split
        · exact h
        · exact hu
      · exact he
    · apply Result.regsOk_next
      split
      · exact h1.takeDue
      · split
        · exact h1.mapMe fun _ => Wave.wf_conflictAbort
        · exact h
    · exact Result.regsOk_next h

theorem clock {unit sched : Nat} (h : regsOk s) : (s.clock unit sched).regsOk := by
  unfold State.clock
  extract_lets u
  have hu : regsOk u := h.of_eq rfl rfl rfl
  split
  · exact Result.regsOk_next h
  · split
    · exact Result.regsOk_next hu
    · exact hu.focus.issue

theorem passTime {n : Nat} (h : regsOk s) : (s.passTime n).regsOk := by
  unfold State.passTime
  extract_lets rest
  have hrest (t : State) (m : Nat) (ht : regsOk t) : regsOk (rest t m) := by
    dsimp only [rest]
    split
    · exact ht
    · exact ht.of_eq rfl rfl rfl
  split
  · next p _ _ =>
    have hc : (s.clock p.1 p.2).regsOk := h.clock
    split
    · next t ht => exact Result.regsOk_next (hrest _ _ (hc t ht))
    · exact hc
  · exact Result.regsOk_next (hrest _ _ h.elapse)

theorem act {a : Action} (h : regsOk s) : (s.act a).regsOk := by
  unfold State.act
  cases a with
  | clock u n => exact h.clock
  | event i =>
    dsimp only
    split
    · exact h.exec i
    · exact Result.regsOk_next h
  | pass n => exact h.passTime
  | lane g id lane => exact Result.regsOk_next h.doLane
  | advance g => exact h.advance
  | dropL1 core line => exact Result.regsOk_next (h.of_eq rfl rfl rfl)
  | dropIc unit at_ => exact Result.regsOk_next (h.of_eq rfl rfl rfl)
  | backInvalidate line => exact Result.regsOk_next h.modOut
  | upset p => exact Result.regsOk_next h.upset
  | connect conn part ctx => exact Result.regsOk_next h.modOut
  | mgmtFetch image => exact Result.regsOk_next h.mgmtFetch

/-! ## The default order (log entry 2) -/

theorem firstChange {l : List Instr} {u : State} (h : regsOk s) (hu : s.firstChange l = some u) : regsOk u := by
  induction l with
  | nil => cases hu
  | cons i r ih =>
    unfold State.firstChange at hu
    split at hu
    · next t ht =>
      split at hu
      · exact ih hu
      · cases hu; exact h.exec i _ ht
    · exact ih hu

theorem firstAdvance {l : List Wave} {u : State} (h : regsOk s) (hu : s.firstAdvance l = some u) : regsOk u := by
  induction l with
  | nil => cases hu
  | cons w r ih =>
    unfold State.firstAdvance at hu
    split at hu
    · next t ht =>
      split at hu
      · exact ih hu
      · cases hu; exact h.advance _ ht
    · exact ih hu

theorem ownStep (h : regsOk s) : s.ownStep.regsOk := by
  unfold State.ownStep
  split
  · exact Result.regsOk_next h.modOut
  · next t _ ht =>
    obtain hf | ⟨-, hf⟩ := Option.or_eq_some_iff.mp ht
    · exact Result.regsOk_next (h.firstAdvance hf)
    · exact Result.regsOk_next (h.firstChange hf)
  · exact h.clock
  · split
    · next t ht =>
      apply Result.regsOk_next
      split
      · exact (h.firstChange ht).elapse
      · exact h.firstChange ht
    · exact Result.regsOk_next h.elapse

theorem step (h : regsOk s) : Result.regsOk (Machine.step s) := by
  have ht : regsOk s.took := h.of_eq rfl rfl rfl
  unfold Machine.step
  split
  · exact ht.act
  · exact fun _ hu => by cases hu
  · exact ht.act
  · exact h.ownStep

end regsOk

/-- Settles O59: each shared operation of the model keeps the form, so every instruction and every device step does, and so each action and the default
order. -/
theorem registersStayCanonical : Obligations.RegistersStayCanonical := by
  unfold Obligations.RegistersStayCanonical
  exact fun _ u h hu => h.step u hu

end Sys2Proof.Machine
end

section
/-! SUPPORT of O36, O37, O38, O54. What a lookup finds after an update: berths, cores, contexts, launches, records, crews, pilots and waves by their numbers. -/

open Sys2Proof
namespace Sys2Proof.Machine

/-- A step that answers one state answers any that equals it. -/
theorem Result.next_congr {t u : State} (h : t = u) : (.next t : Result) = .next u := by rw [h]

/-! ## Lookups in lists -/

/-- A search whose test an update does not change finds the updated element. -/
theorem find?_mapWhere {α : Type} {p q : α → Bool} {f : α → α} (hf : ∀ a, p a = true → q (f a) = q a) (l : List α) :
    (mapWhere p f l).find? q = (l.find? q).map fun a => if p a then f a else a := by
  have hq : (q ∘ fun a => if p a then f a else a) = q := by
    funext a
    by_cases h : p a = true
    · simp [h, hf a h]
    · simp [h]
  rw [mapWhere, List.find?_map, hq]

/-- A search for the number under which an element is put finds it. -/
theorem find?_putWhere_same {α : Type} {q : α → Bool} {x : α} (hx : q x = true) (l : List α) : (putWhere q x l).find? q = some x := by
  induction l with
  | nil => simp [putWhere, hx]
  | cons a r ih =>
    by_cases h : q a = true
    · simp [putWhere, h, hx]
    · simp [putWhere, h, ih]

/-- A search for another number finds what it found before. -/
theorem find?_putWhere_ne {α : Type} {p q : α → Bool} {x : α} (hx : q x = false) (hpq : ∀ a, p a = true → q a = false) (l : List α) :
    (putWhere p x l).find? q = l.find? q := by
  induction l with
  | nil => simp [putWhere, hx]
  | cons a r ih =>
    by_cases h : p a = true
    · simp [putWhere, h, hx, hpq a h]
    · simp [putWhere, h, List.find?_cons, ih]

/-- To put an element where it stands already changes nothing. -/
theorem putWhere_found {α : Type} {p : α → Bool} {x : α} {l : List α} (h : l.find? p = some x) : putWhere p x l = l := by
  induction l with
  | nil => cases h
  | cons a r ih =>
    by_cases ha : p a = true
    · rw [List.find?_cons_of_pos ha] at h
      obtain rfl : a = x := Option.some.inj h
      rw [putWhere, if_pos ha]
    · rw [List.find?_cons_of_neg ha] at h
      simp [putWhere, ha, ih h]

/-! ## Berths and cores -/

@[simp] theorem State.berth_n (s : State) (b : Nat) : (s.berth b).n = b := by
  unfold State.berth
  cases h : s.berths.find? (·.n == b) with
  | none => rfl
  | some x => simpa using List.find?_some h

@[simp] theorem State.core_core (s : State) (n : Nat) : (s.core n).core = n := by
  unfold State.core
  cases h : s.cores.find? (·.core == n) with
  | none => rfl
  | some x => simpa using List.find?_some h

theorem State.berth_setBerth_same (s : State) {b : Berth} {c : Nat} (h : b.n = c) : (s.setBerth b).berth c = b := by
  subst h
  simp [State.berth, State.setBerth, find?_putWhere_same]

theorem State.berth_setBerth_ne (s : State) {b : Berth} {c : Nat} (h : b.n ≠ c) : (s.setBerth b).berth c = s.berth c := by
  unfold State.berth
  rw [State.setBerth_berths, find?_putWhere_ne (by simpa using h)]
  intro a ha
  simp only [beq_iff_eq] at ha
  simpa [ha] using h

theorem State.core_setCore_same (s : State) {k : FarCore} {n : Nat} (h : k.core = n) : (s.setCore k).core n = k := by
  subst h
  simp [State.core, State.setCore, find?_putWhere_same]

/-- A berth that holds something stands in the list of berths, so to set it as it is changes nothing. -/
theorem State.setBerth_berth (s : State) {b : Nat} (h : s.berth b ≠ Berth.empty b) : s.setBerth (s.berth b) = s := by
  have hn : (fun x : Berth => x.n == (s.berth b).n) = fun x => x.n == b := by simp
  cases hf : s.berths.find? (·.n == b) with
  | none => exact absurd (by simp [State.berth, hf]) h
  | some x =>
    have hx : s.berth b = x := by simp [State.berth, hf]
    rw [State.setBerth, hn, hx, putWhere_found hf]

theorem State.berth_congr {s t : State} (h : t.berths = s.berths) (b : Nat) : t.berth b = s.berth b := by
  rw [State.berth, State.berth, h]

/-! ## Contexts and launches -/

theorem State.ctx?_congr {s t : State} (h : t.ctxs = s.ctxs) (c : Nat) : t.ctx? c = s.ctx? c := by
  rw [State.ctx?, State.ctx?, h]

theorem State.launch?_congr {s t : State} (h : t.ctxs = s.ctxs) (c l : Nat) : t.launch? c l = s.launch? c l := by
  rw [State.launch?, State.launch?, State.ctx?_congr h]

theorem State.ctx?_modCtx_same (s : State) {c : Nat} {f : Context → Context} (hf : ∀ x, (f x).slot = x.slot) :
    (s.modCtx c f).ctx? c = (s.ctx? c).map f := by
  rw [State.ctx?, State.modCtx_ctxs, find?_mapWhere fun a _ => by rw [hf a]]
  cases h : s.ctxs.find? (·.slot == c) with
  | none => simp [State.ctx?, h]
  | some x => simp [State.ctx?, h, show x.slot = c by simpa using List.find?_some h]

theorem State.ctx?_modCtx_ne (s : State) {c n : Nat} {f : Context → Context} (hf : ∀ x, (f x).slot = x.slot) (h : n ≠ c) :
    (s.modCtx c f).ctx? n = s.ctx? n := by
  rw [State.ctx?, State.modCtx_ctxs, find?_mapWhere fun a _ => by rw [hf a]]
  cases hx : s.ctxs.find? (·.slot == n) with
  | none => simp [State.ctx?, hx]
  | some x =>
    have : x.slot = n := by simpa using List.find?_some hx
    simp [State.ctx?, hx, this, h]

theorem State.launch?_id {s : State} {c i : Nat} {l : Launch} (h : s.launch? c i = some l) : l.id = i := by
  obtain ⟨x, -, hx⟩ := Option.bind_eq_some_iff.mp h
  simpa using List.find?_some hx

/-- A change of one launch is found under its number, and every other launch as it was. -/
theorem State.launch?_modLaunch (s : State) {c i : Nat} {f : Launch → Launch} (hf : ∀ l, (f l).id = l.id) (d j : Nat) :
    (s.modLaunch c i f).launch? d j = if d = c ∧ j = i then (s.launch? d j).map f else s.launch? d j := by
  unfold State.launch? State.modLaunch
  by_cases hd : d = c
  · subst hd
    rw [State.ctx?_modCtx_same]
    · cases s.ctx? d with
      | none => simp
      | some x =>
        simp only [Option.map_some, Option.bind_some, true_and]
        rw [find?_mapWhere fun a _ => by rw [hf a]]
        cases hl : x.launches.find? (·.id == j) with
        | none => simp
        | some l =>
          simp only [show l.id = j by simpa using List.find?_some hl, beq_iff_eq, Option.map_some]
          split <;> rfl
    · exact fun _ => rfl
  · rw [if_neg fun h => hd h.1, State.ctx?_modCtx_ne]
    · exact fun _ => rfl
    · exact hd

theorem State.launch?_modLaunch_same (s : State) {c i : Nat} {f : Launch → Launch} (hf : ∀ l, (f l).id = l.id) :
    (s.modLaunch c i f).launch? c i = (s.launch? c i).map f := by
  rw [State.launch?_modLaunch s hf, if_pos ⟨rfl, rfl⟩]

/-! ## Records, crews and pilots -/

theorem State.pilot?_core {s : State} {n : Nat} {p : PilotCore} (h : s.pilot? n = some p) : p.core = n := by
  simpa using List.find?_some h

theorem State.berth_modRec_same (s : State) (b id : Nat) (f : TaskRec → TaskRec) :
    (s.modRec b id f).berth b = { s.berth b with recs := mapWhere (·.id == id) f (s.berth b).recs } :=
  State.berth_setBerth_same s (s.berth_n b)

theorem State.berth_modRec_ne (s : State) {b c : Nat} (id : Nat) (f : TaskRec → TaskRec) (h : c ≠ b) : (s.modRec b id f).berth c = s.berth c :=
  State.berth_setBerth_ne s (by simpa using Ne.symm h)

theorem State.berth_freeRec_same (s : State) (b id : Nat) : (s.freeRec b id).berth b = { s.berth b with recs := (s.berth b).recs.filter (·.id != id) } :=
  State.berth_setBerth_same s (s.berth_n b)

/-- A record that has been freed is gone. -/
theorem State.rec?_freeRec_same (s : State) (b id : Nat) : (s.freeRec b id).rec? b id = none := by
  rw [State.rec?, State.berth_freeRec_same, List.find?_eq_none]
  intro r hr
  simpa using (List.mem_filter.mp hr).2

theorem State.rec?_modRec_same (s : State) (b id : Nat) {f : TaskRec → TaskRec} (hf : ∀ r, (f r).id = r.id) :
    (s.modRec b id f).rec? b id = (s.rec? b id).map f := by
  rw [State.rec?, State.berth_modRec_same, find?_mapWhere fun a _ => by rw [hf a]]
  cases h : (s.berth b).recs.find? (·.id == id) with
  | none => simp [State.rec?, h]
  | some r => simp [State.rec?, h, show r.id = id by simpa using List.find?_some h]

theorem find?_pilots_mapWhere {l : List PilotCore} {n : Nat} {p : PilotCore} {f : PilotCore → PilotCore} (hf : ∀ q, (f q).core = q.core)
    (h : l.find? (·.core == n) = some p) : (mapWhere (·.core == n) f l).find? (·.core == n) = some (f p) := by
  rw [find?_mapWhere fun a _ => by rw [hf a], h]
  simp [show p.core = n by simpa using List.find?_some h]

/-! ## Waves -/

theorem State.wave?_gwn {s : State} {g : Nat} {w : Wave} (h : s.wave? g = some w) : w.gwn = g := by
  unfold State.wave? at h
  split at h
  · next hg => cases h; exact hg
  · simpa using List.find?_some h

theorem State.wave?_congr {s t : State} (h : t.waves = s.waves) (g : Nat) : t.wave? g = s.wave? g := by
  obtain ⟨hm, ho⟩ : t.me = s.me ∧ t.others = s.others := by simpa [State.waves] using h
  rw [State.wave?, State.wave?, hm, ho]

/-- Where every wave is changed by a function that keeps numbers, a wave is found changed. -/
theorem State.wave?_map {s u : State} {h : Wave → Wave} (hg : ∀ w, (h w).gwn = w.gwn) (hm : u.me = h s.me) (ho : u.others = s.others.map h)
    (g : Nat) : u.wave? g = (s.wave? g).map h := by
  have hq : ((fun w : Wave => w.gwn == g) ∘ h) = fun w => w.gwn == g := by
    funext w
    simp [hg w]
  rw [State.wave?, State.wave?, hm, hg]
  split
  · rfl
  · rw [ho, List.find?_map, hq]

theorem State.wave?_modWave_same (s : State) {g : Nat} {f : Wave → Wave} (hf : ∀ w, (f w).gwn = w.gwn) :
    (s.modWave g f).wave? g = (s.wave? g).map f := by
  unfold State.modWave
  by_cases h : s.me.gwn = g
  · simp [State.wave?, h, hf]
  · rw [if_neg h, State.wave?, State.wave?, if_neg h, if_neg h, find?_mapWhere fun a _ => by rw [hf a]]
    cases hw : s.others.find? (·.gwn == g) with
    | none => rfl
    | some w => simp [show w.gwn = g by simpa using List.find?_some hw]

end Sys2Proof.Machine
end

section
/-! SUPPORT of O38, O54. What a write at a home leaves alone: it stores, it dooms and wakes, and nothing else is changed. What it stores depends on device memory, the relayout entries
and the partitioning alone. -/

open Sys2Proof
namespace Sys2Proof.Machine

/-! ## Waves that a write dooms or wakes (R151) -/

/-- A wave before and after dooms and wakes: its transaction and run state may differ, but what is off or halted stays so, and nothing else becomes so. -/
def Wave.touched (w x : Wave) : Prop := x = { w with run := x.run, tx := x.tx } ∧ (x.run = .off ↔ w.run = .off) ∧ (x.run = .halted ↔ w.run = .halted)

theorem Wave.touched_refl (w : Wave) : w.touched w := ⟨rfl, Iff.rfl, Iff.rfl⟩

theorem Wave.touched.trans {w x y : Wave} (h : w.touched x) (k : x.touched y) : w.touched y := by
  obtain ⟨h1, h2, h3⟩ := h
  obtain ⟨k1, k2, k3⟩ := k
  exact ⟨by rw [k1, h1], k2.trans h2, k3.trans h3⟩

theorem Wave.touched.gwn {w x : Wave} (h : w.touched x) : x.gwn = w.gwn := by rw [h.1]

theorem Wave.touched.flights {w x : Wave} (h : w.touched x) : x.flights = w.flights := by rw [h.1]

theorem Wave.touched_hit (o : Option Nat) (w : Wave) : w.touched (w.hit o) := by
  unfold Wave.hit
  split
  · next h => exact ⟨rfl, by simp [h], by simp [h]⟩
  · next h => exact ⟨rfl, by simp [h], by simp [h]⟩
  · split
    · exact w.touched_refl
    · exact ⟨rfl, Iff.rfl, Iff.rfl⟩

/-- Every wave of a state stands in another as dooms and wakes may have left it. -/
def wavesTouched (s u : State) : Prop := ∃ h : Wave → Wave, (∀ w : Wave, w.touched (h w)) ∧ u.me = h s.me ∧ u.others = s.others.map h

/-- What homes, ports and the host's pages are written with changes: device memory and its caches, the outside but for the partitioning, and the waves that a
write dooms or wakes. -/
structure homed (s u : State) : Prop where
  rest : u = { s with me := u.me, others := u.others, store := u.store, wakes := u.wakes, caches := u.caches, fresh := u.fresh, out := u.out }
  mode : u.out.mode = s.out.mode
  errors : u.out.errors = s.out.errors
  waves : wavesTouched s u

namespace homed
variable {s t u : State}

/-- An update that leaves the waves and the partitioning alone. -/
theorem of_eq (hr : u = { s with me := u.me, others := u.others, store := u.store, wakes := u.wakes, caches := u.caches, fresh := u.fresh, out := u.out })
    (hmode : u.out.mode = s.out.mode) (herr : u.out.errors = s.out.errors) (hm : u.me = s.me) (ho : u.others = s.others) : homed s u :=
  ⟨hr, hmode, herr, id, Wave.touched_refl, hm, ho.trans s.others.map_id.symm⟩

theorem refl (s : State) : homed s s := of_eq rfl rfl rfl rfl rfl

theorem trans (h : homed s t) (k : homed t u) : homed s u := by
  obtain ⟨f, hf, hm, ho⟩ := h.waves
  obtain ⟨g, hg, km, ko⟩ := k.waves
  refine ⟨by rw [k.rest, h.rest], k.mode.trans h.mode, k.errors.trans h.errors, g ∘ f, fun w => (hf w).trans (hg _), ?_, ?_⟩
  · rw [km, hm, Function.comp_apply]
  · rw [ko, ho, List.map_map]

theorem foldl {α : Type} {f : State → α → State} (hf : ∀ s a, homed s (f s a)) (l : List α) (s : State) : homed s (l.foldl f s) := by
  induction l generalizing s with
  | nil => exact refl s
  | cons a r ih => exact (hf s a).trans (ih _)

theorem ctxs (h : homed s u) : u.ctxs = s.ctxs := by rw [h.rest]

theorem berths (h : homed s u) : u.berths = s.berths := by rw [h.rest]

theorem crews (h : homed s u) : u.crews = s.crews := by rw [h.rest]

theorem dies (h : homed s u) : u.dies = s.dies := by rw [State.dies, State.dies, h.mode]

theorem partOfCtx (h : homed s u) (c : Nat) : u.partOfCtx c = s.partOfCtx c := by rw [State.partOfCtx, State.partOfCtx, h.dies]

theorem wave? (h : homed s u) (g : Nat) : ∃ f : Wave → Wave, (∀ w : Wave, w.touched (f w)) ∧ u.wave? g = (s.wave? g).map f := by
  obtain ⟨f, hf, hm, ho⟩ := h.waves
  exact ⟨f, hf, State.wave?_map (fun w => (hf w).gwn) hm ho g⟩

/-- A change of the outside that keeps the partitioning and the errors recorded. -/
theorem of_out {f : Outside → Outside} (hf : ∀ o, (f o).mode = o.mode ∧ (f o).errors = o.errors) (s : State) : homed s (s.modOut f) :=
  of_eq rfl (hf s.out).1 (hf s.out).2 rfl rfl

theorem touchLine (s : State) (writer line : Nat) : homed s (s.touchLine writer line) := by
  refine ⟨by rw [State.touchLine_eq], by rw [State.touchLine_eq], by rw [State.touchLine_eq], ?_⟩
  unfold State.touchLine
  extract_lets sl reg t
  have key : wavesTouched s t := ⟨fun w => if reg w then w.hit (some s.wakes) else w, fun w => by
    dsimp only
    split
    · exact w.touched_hit _
    · exact w.touched_refl, rfl, rfl⟩
  split
  · exact key
  · exact key

theorem homeWrite (s : State) (writer line mask value : Nat) (scale : Option Nat) (code : Nat) : homed s (s.homeWrite writer line mask value scale code) := by
  unfold State.homeWrite
  extract_lets code lf a b st _ t
  have ht : homed s t := of_eq rfl rfl rfl rfl rfl
  exact ht.trans (touchLine t writer line)

theorem writePhys (s : State) (writer a size value : Nat) : homed s (s.writePhys writer a size value) := homeWrite ..

theorem setPageWord (s : State) (c i : Nat) (x : Word) : homed s (s.setPageWord c i x) := writePhys ..

theorem fenceHost (s : State) : homed s s.fenceHost := of_eq rfl rfl rfl rfl rfl

theorem sendMsix (s : State) (f v : Nat) : homed s (s.sendMsix f v) := by
  unfold State.sendMsix
  refine (fenceHost s).trans (of_out ?_ s.fenceHost)
  intro o
  split <;> exact ⟨rfl, rfl⟩

theorem signalPage (s : State) (c : Nat) : homed s (s.signalPage c) := sendMsix ..

theorem mirror (s : State) (c : Nat) (ev : BitVec 256) : homed s (s.mirror c ev) :=
  (fenceHost s).trans (foldl (fun _ _ => setPageWord ..) _ _)

end homed

/-- A harbourmaster core that runs is kept running by dooms and wakes. -/
theorem homed.hmAlive {s u : State} (h : homed s u) (p : Nat) : u.hmAlive p = s.hmAlive p := by
  obtain ⟨f, hf, hm, ho⟩ := h.waves
  have hpart (n : Nat) : u.partOf n = s.partOf n := by simp only [State.partOf, State.partOfDie, State.partOfHm, h.dies, h.mode]
  have hw : u.waves = s.waves.map f := by rw [State.waves, State.waves, hm, ho, List.map_cons]
  have hne (w : Wave) : ((f w).run != .off) = (w.run != .off) ∧ ((f w).run != .halted) = (w.run != .halted) := by
    obtain ⟨-, h1, h2⟩ := hf w
    constructor <;> rw [Bool.eq_iff_iff, bne_iff_ne, bne_iff_ne] <;> exact not_congr ‹_›
  unfold State.hmAlive
  rw [hw, List.any_map]
  congr 1
  funext w
  simp only [Function.comp_apply, (hf w).gwn, hpart, hne w]

/-! ## What a write at a home stores (R97, R351) -/

/-- Two states at whose homes the same is stored: device memory, relayout entries and partitioning agree. -/
def sameHomes (s t : State) : Prop := t.store = s.store ∧ t.berths = s.berths ∧ t.out.mode = s.out.mode

namespace sameHomes
variable {s t : State}

theorem launchPage (h : sameHomes s t) (c : Nat) : t.launchPage c = s.launchPage c := by
  simp only [State.launchPage, State.partBase, State.partSize, State.partOfCtx, State.dies, h.2.2]

theorem codeAt (h : sameHomes s t) (line code : Nat) : t.codeAt line code = s.codeAt line code := by
  simp only [State.codeAt, State.berth, State.berthOf, State.partSize, State.dies, h.2.1, h.2.2]

theorem homeWrite (h : sameHomes s t) (writer line mask value : Nat) (scale : Option Nat) (code : Nat) :
    sameHomes (s.homeWrite writer line mask value scale code) (t.homeWrite writer line mask value scale code) := by
  refine ⟨?_, ?_, ?_⟩
  · simp only [State.homeWrite, State.touchLine_store, h.codeAt, h.1]
  · rw [(homed.homeWrite ..).berths, (homed.homeWrite ..).berths, h.2.1]
  · rw [(homed.homeWrite ..).mode, (homed.homeWrite ..).mode, h.2.2]

theorem writePhys (h : sameHomes s t) (writer a size value : Nat) : sameHomes (s.writePhys writer a size value) (t.writePhys writer a size value) := by
  have hc : t.ownCode (a / 64) = s.ownCode (a / 64) := by rw [State.ownCode, State.ownCode, h.codeAt, h.1]
  simp only [State.writePhys, hc]
  exact h.homeWrite ..

theorem setPageWord (h : sameHomes s t) (c i : Nat) (x : Word) : sameHomes (s.setPageWord c i x) (t.setPageWord c i x) := by
  unfold State.setPageWord
  rw [h.launchPage]
  exact h.writePhys ..

theorem fenceHost (s : State) : sameHomes s s.fenceHost := ⟨rfl, rfl, rfl⟩

end sameHomes
end Sys2Proof.Machine
end

section
/-! SUPPORT of O36, O38, O54. Translation, the type table and anchors change nothing but what a walk changes: the caches, and the errors recorded (R329, R330, R350). -/

open Sys2Proof
namespace Sys2Proof.Machine

/-- A walk adds entries to TLBs and drops some, and records errors. -/
def tlbWalked (s t : State) : Prop := t = { s with caches := { s.caches with tlb := t.caches.tlb }, out := { s.out with errors := t.out.errors } }

namespace tlbWalked
variable {s t u : State}

theorem refl (s : State) : tlbWalked s s := rfl

theorem trans (h : tlbWalked s t) (k : tlbWalked t u) : tlbWalked s u := by
  unfold tlbWalked at *
  rw [k, h]

theorem foldl {α : Type} {f : State → α → State} (hf : ∀ s a, tlbWalked s (f s a)) (l : List α) (s : State) : tlbWalked s (l.foldl f s) := by
  induction l generalizing s with
  | nil => exact refl s
  | cons a r ih => exact (hf s a).trans (ih _)

theorem onlyWalked (h : tlbWalked s u) : onlyWalked s u := by
  unfold tlbWalked at h
  unfold Machine.onlyWalked
  rw [h]

theorem near (h : tlbWalked s u) : u.caches.near = s.caches.near := by rw [h]

theorem l1 (h : tlbWalked s u) : u.caches.l1 = s.caches.l1 := by rw [h]

theorem tlbAdd (s : State) (tlb ctx level va : Nat) (e : Word) : tlbWalked s (s.tlbAdd tlb ctx level va e) := rfl

theorem tlbDrop (s : State) (p : TlbEntry → Bool) : tlbWalked s (s.tlbDrop p) := rfl

theorem record (s : State) (a v : Nat) : tlbWalked s (s.record a v) := rfl

/-- Errors that are recorded and not counted. -/
theorem recordAll (s : State) (a : Nat) {r : List ErrNote} (hr : ErrNote.counted ∉ r) : tlbWalked s (s.recordAll a r) := by
  unfold State.recordAll
  induction r generalizing s with
  | nil => exact refl s
  | cons n r ih =>
    cases n with
    | counted => exact absurd List.mem_cons_self hr
    | recorded v => exact (record s a v).trans (ih _ fun h => hr (List.mem_cons_of_mem _ h))

/-- The failing fields of a line that affect nothing delivered are recorded, and none of them is counted (R350). -/
theorem counted_not_mem_idleFields (lf : LineFmt) (d : Decoded) (els : List (Nat × Nat)) : ErrNote.counted ∉ idleFields lf d els := by
  simp [idleFields]

theorem recordIdle (s : State) (sp : List Span) : tlbWalked s (s.recordIdle sp) := by
  unfold State.recordIdle
  refine foldl (fun t line => ?_) _ s
  dsimp only
  split
  · exact refl t
  · exact recordAll _ _ (counted_not_mem_idleFields _ _ _)

theorem walkRead (s : State) (die a : Nat) : tlbWalked s (s.walkRead die a).1 := by
  unfold State.walkRead
  split
  · exact refl s
  · dsimp only
    split
    · exact (recordIdle s _).trans (record ..)
    · exact recordIdle s _

theorem walkFrom (tlb ctx va n : Nat) (s : State) (table : Nat) : tlbWalked s (State.walkFrom tlb ctx va n s table).1 := by
  induction n generalizing s table with
  | zero => exact refl s
  | succ n ih =>
    unfold State.walkFrom
    extract_lets level idx p step r t e
    have hstep (t : State) (e : Word) : tlbWalked t (step t e).1 := by
      dsimp only [step]
      split
      · exact refl t
      · exact ih ..
    split
    · exact hstep ..
    · split
      · exact refl s
      · have ht : tlbWalked s t := walkRead ..
        split_ifs
        · exact ht
        · exact ht
        · exact ht
        · exact (ht.trans (tlbAdd ..)).trans (hstep ..)

theorem walk (s : State) (tlb ctx va : Nat) : tlbWalked s (s.walk tlb ctx va).1 := by
  unfold State.walk
  split
  · exact refl s
  · exact walkFrom ..

theorem walkFor (s : State) (tlb ctx va : Nat) (n : Need) : tlbWalked s (s.walkFor tlb ctx va n).1 := by
  unfold State.walkFor
  extract_lets a
  have ha : tlbWalked s a.1 := walk ..
  split
  · split
    · exact ha
    · exact (ha.trans (tlbDrop ..)).trans (walk ..)
  · exact ha

theorem translate (s : State) (tlb ctx va : Nat) (n : Need) : tlbWalked s (s.translate tlb ctx va n).1 := walkFor ..

theorem hmPlace (s : State) (ctx va : Nat) (n : Need) : tlbWalked s (s.hmPlace ctx va n).1 := by
  unfold State.hmPlace
  split
  · exact refl s
  · exact translate ..

theorem readVirtWords (s : State) (ctx va n : Nat) : tlbWalked s (s.readVirtWords ctx va n).1 := by
  induction n generalizing s va with
  | zero => exact refl s
  | succ n ih =>
    have hr : tlbWalked s (s.readVirt ctx va).1 := hmPlace ..
    unfold State.readVirtWords
    dsimp only
    split
    · exact hr
    · exact hr.trans (ih ..)

theorem typeEntry (s : State) (ctx ty : Nat) : tlbWalked s (s.typeEntry ctx ty).1 := by
  unfold State.typeEntry
  split
  · exact refl s
  · split
    · exact refl s
    · exact readVirtWords ..

theorem anchor (s : State) (tlb ctx : Nat) (base : Int) (len : Nat) : tlbWalked s (s.anchor tlb ctx base len).1 := by
  unfold State.anchor
  split
  · exact refl s
  · exact walk ..

theorem nearLines (s : State) (b ctx base len : Nat) : tlbWalked s (s.nearLines b ctx base len).1 := by
  unfold State.nearLines
  split
  · exact refl s
  · extract_lets r
    have hr : tlbWalked s r.1 := walkFor ..
    split
    · dsimp only
      split
      · exact hr
      · exact hr
    · exact hr

end tlbWalked

namespace onlyWalked
variable {s t u : State}

theorem refl (s : State) : onlyWalked s s := rfl

theorem trans (h : onlyWalked s t) (k : onlyWalked t u) : onlyWalked s u := by
  unfold onlyWalked at *
  rw [k, h]

theorem foldl {α : Type} {f : State → α → State} (hf : ∀ s a, onlyWalked s (f s a)) (l : List α) (s : State) : onlyWalked s (l.foldl f s) := by
  induction l generalizing s with
  | nil => exact refl s
  | cons a r ih => exact (hf s a).trans (ih _)

theorem store (h : onlyWalked s u) : u.store = s.store := by rw [h]

theorem me (h : onlyWalked s u) : u.me = s.me := by rw [h]

theorem others (h : onlyWalked s u) : u.others = s.others := by rw [h]

theorem waves (h : onlyWalked s u) : u.waves = s.waves := by rw [h]; rfl

theorem berths (h : onlyWalked s u) : u.berths = s.berths := by rw [h]

theorem ctxs (h : onlyWalked s u) : u.ctxs = s.ctxs := by rw [h]

theorem crews (h : onlyWalked s u) : u.crews = s.crews := by rw [h]

theorem time (h : onlyWalked s u) : u.time = s.time := by rw [h]

theorem mode (h : onlyWalked s u) : u.out.mode = s.out.mode := by rw [h]

theorem dies (h : onlyWalked s u) : u.dies = s.dies := by rw [State.dies, State.dies, h.mode]

theorem berthOf (h : onlyWalked s u) (g : Nat) : u.berthOf g = s.berthOf g := by
  simp only [State.berthOf, State.partSize, h.dies]

theorem wave? (h : onlyWalked s u) (g : Nat) : u.wave? g = s.wave? g := State.wave?_congr h.waves g

theorem walk (s : State) (tlb ctx va : Nat) : onlyWalked s (s.walk tlb ctx va).1 := (tlbWalked.walk ..).onlyWalked

theorem walkFor (s : State) (tlb ctx va : Nat) (n : Need) : onlyWalked s (s.walkFor tlb ctx va n).1 := (tlbWalked.walkFor ..).onlyWalked

theorem translate (s : State) (tlb ctx va : Nat) (n : Need) : onlyWalked s (s.translate tlb ctx va n).1 := (tlbWalked.translate ..).onlyWalked

theorem hmPlace (s : State) (ctx va : Nat) (n : Need) : onlyWalked s (s.hmPlace ctx va n).1 := (tlbWalked.hmPlace ..).onlyWalked

theorem readVirtWords (s : State) (ctx va n : Nat) : onlyWalked s (s.readVirtWords ctx va n).1 := (tlbWalked.readVirtWords ..).onlyWalked

theorem typeEntry (s : State) (ctx ty : Nat) : onlyWalked s (s.typeEntry ctx ty).1 := (tlbWalked.typeEntry ..).onlyWalked

theorem anchor (s : State) (tlb ctx : Nat) (base : Int) (len : Nat) : onlyWalked s (s.anchor tlb ctx base len).1 := (tlbWalked.anchor ..).onlyWalked

theorem nearLines (s : State) (b ctx base len : Nat) : onlyWalked s (s.nearLines b ctx base len).1 := (tlbWalked.nearLines ..).onlyWalked

end onlyWalked
end Sys2Proof.Machine
end

section
/-! SUPPORT of O38, O54. What the admission of held launches leaves alone, and which launches it admits (R45, R46, R304). -/

open Sys2Proof
namespace Sys2Proof.Machine

/-- What the admission of launches changes: contexts, and at the berths no record. -/
def flooded (s u : State) : Prop := u = { s with ctxs := u.ctxs, berths := u.berths } ∧ ∀ b, (u.berth b).recs = (s.berth b).recs

namespace flooded
variable {s t u : State}

theorem refl (s : State) : flooded s s := ⟨rfl, fun _ => rfl⟩

theorem trans (h : flooded s t) (k : flooded t u) : flooded s u :=
  ⟨by rw [k.1, h.1], fun b => (k.2 b).trans (h.2 b)⟩

theorem foldl {α : Type} {f : State → α → State} (hf : ∀ s a, flooded s (f s a)) (l : List α) (s : State) : flooded s (l.foldl f s) := by
  induction l generalizing s with
  | nil => exact refl s
  | cons a r ih => exact (hf s a).trans (ih _)

theorem out (h : flooded s u) : u.out = s.out := by rw [h.1]

theorem store (h : flooded s u) : u.store = s.store := by rw [h.1]

/-- A berth whose records are kept. -/
theorem setBerth (s : State) {b : Berth} (hb : b.recs = (s.berth b.n).recs) : flooded s (s.setBerth b) := by
  refine ⟨rfl, fun c => ?_⟩
  by_cases h : b.n = c
  · rw [State.berth_setBerth_same s h, hb, h]
  · rw [State.berth_setBerth_ne s h]

theorem modCtx (s : State) (c : Nat) (f : Context → Context) : flooded s (s.modCtx c f) := ⟨rfl, fun _ => rfl⟩

theorem flood (s : State) (c i : Nat) : flooded s (s.flood c i) := foldl (fun s b => setBerth s (by simp)) _ s

theorem admitLaunch (s : State) (c i : Nat) : flooded s (s.admitLaunch c i) := (modCtx ..).trans (flood ..)

theorem examine (s : State) (c : Nat) : flooded s (s.examine c) := by
  unfold State.examine
  split
  · exact refl s
  · split
    · exact refl s
    · exact foldl (fun _ _ => admitLaunch ..) _ s

end flooded

/-! ## The launches of a context that is examined -/

@[simp] theorem State.flood_ctxs (s : State) (c i : Nat) : (s.flood c i).ctxs = s.ctxs := by
  unfold State.flood
  induction s.partBerths (s.partOfCtx c) generalizing s with
  | nil => rfl
  | cons b r ih => rw [List.foldl_cons, ih]; rfl

/-- A launch before and after the admission of the launches with some ids. -/
def Launch.admittedBy (ids : List Nat) (l m : Launch) : Prop :=
  m.id = l.id ∧ m.words = l.words ∧ (l.id ∈ ids → m.admitted = true) ∧ (l.id ∉ ids → m = l)

/-- A context before and after the admission of its launches with some ids. -/
def Context.admittedBy (ids : List Nat) (x y : Context) : Prop :=
  y.slot = x.slot ∧ y.events = x.events ∧ ∃ g : Launch → Launch, y.launches = x.launches.map g ∧ ∀ l, Launch.admittedBy ids l (g l)

theorem Context.admittedBy_nil (x : Context) : Context.admittedBy [] x x :=
  ⟨rfl, rfl, id, x.launches.map_id.symm, fun _ => ⟨rfl, rfl, nofun, fun _ => rfl⟩⟩

theorem Context.admittedBy.cons {i : Nat} {ids : List Nat} {x y z : Context} (h : Context.admittedBy [i] x y) (k : Context.admittedBy ids y z) :
    Context.admittedBy (i :: ids) x z := by
  obtain ⟨hs, he, g, hg, hl⟩ := h
  obtain ⟨ks, ke, g', kg, kl⟩ := k
  refine ⟨ks.trans hs, ke.trans he, g' ∘ g, by rw [kg, hg, List.map_map], fun l => ?_⟩
  obtain ⟨h1, h2, h3, h4⟩ := hl l
  obtain ⟨k1, k2, k3, k4⟩ := kl (g l)
  rw [h1] at k1 k3 k4
  refine ⟨k1, k2.trans h2, fun hm => ?_, fun hm => ?_⟩
  · by_cases hi : l.id ∈ ids
    · exact k3 hi
    · have hi' : l.id ∈ [i] := by simpa [hi] using hm
      exact (congrArg Launch.admitted (k4 hi)).trans (h3 hi')
  · obtain ⟨h5, h6⟩ := not_or.mp (mt List.mem_cons.mpr hm)
    exact (k4 h6).trans (h4 (by simpa using h5))

theorem State.ctx?_admitLaunch {s : State} {c : Nat} {x : Context} (hx : s.ctx? c = some x) (i : Nat) :
    ∃ y, (s.admitLaunch c i).ctx? c = some y ∧ Context.admittedBy [i] x y := by
  unfold State.admitLaunch
  extract_lets now
  rw [State.ctx?_congr (State.flood_ctxs ..), State.modLaunch, State.ctx?_modCtx_same, hx]
  · refine ⟨_, rfl, rfl, rfl, _, rfl, fun l => ?_⟩
    by_cases hi : l.id = i
    · simp [Launch.admittedBy, hi]
    · simp [Launch.admittedBy, hi]
  · exact fun _ => rfl

theorem State.ctx?_admitLaunches {s : State} {c : Nat} {x : Context} (hx : s.ctx? c = some x) (ids : List Nat) :
    ∃ y, (ids.foldl (fun s i => s.admitLaunch c i) s).ctx? c = some y ∧ Context.admittedBy ids x y := by
  induction ids generalizing s x with
  | nil => exact ⟨x, hx, x.admittedBy_nil⟩
  | cons i ids ih =>
    obtain ⟨y, hy, hxy⟩ := s.ctx?_admitLaunch hx i
    obtain ⟨z, hz, hyz⟩ := ih hy
    exact ⟨z, hz, hxy.cons hyz⟩

/-- Every launch of a context that is ready is admitted, and no other launch changes. -/
theorem State.ctx?_examine {s : State} {c : Nat} {x : Context} (hx : s.ctx? c = some x) (ha : s.hmAlive (s.partOfCtx c) = true) :
    ∃ y, (s.examine c).ctx? c = some y ∧ Context.admittedBy ((x.launches.filter x.ready).map (·.id)) x y := by
  simp only [State.examine, hx, ha, Bool.not_true, Bool.false_eq_true, if_false]
  exact s.ctx?_admitLaunches hx _

/-- No launch stays held whose wait events are all set. -/
theorem Context.admittedBy.held {x y : Context} (h : Context.admittedBy ((x.launches.filter x.ready).map (·.id)) x y) :
    ∀ l ∈ y.launches, l.admitted = false → waitsMet y.events l.words = false := by
  obtain ⟨-, he, g, hg, hl⟩ := h
  rw [hg, he]
  rintro _ hm hadm
  obtain ⟨l, hx, rfl⟩ := List.mem_map.mp hm
  obtain ⟨-, hw, h1, h2⟩ := hl l
  by_cases hi : l.id ∈ (x.launches.filter x.ready).map (·.id)
  · exact absurd (h1 hi) (by simp [hadm])
  · have hr : x.ready l = false := Bool.eq_false_iff.mpr fun hr => hi (List.mem_map.mpr ⟨l, List.mem_filter.mpr ⟨hx, hr⟩, rfl⟩)
    rw [h2 hi] at hadm
    simpa [Context.ready, hadm, ← hw] using hr

/-! ## Submission (R43) -/

theorem State.submit_bad (s : State) (c : Nat) (ws : List Word) : (s.submit c ws true).1 = s := by
  unfold State.submit
  split <;> rfl

theorem State.submit_mode (s : State) (c : Nat) (ws : List Word) (bad : Bool) : (s.submit c ws bad).1.out.mode = s.out.mode := by
  unfold State.submit
  split
  · rfl
  · split
    · rfl
    · extract_lets f e id l
      have he : e.1.out.mode = s.out.mode := (onlyWalked.typeEntry ..).mode
      split_ifs
      · exact he
      · exact he
      · exact (congrArg Outside.mode ((flooded.modCtx ..).trans (flooded.examine ..)).out).trans he

end Sys2Proof.Machine
end

section
/-! O54. Launch-page entries and requests, as a running harbourmaster core of the partition takes and answers them (R368, R370). -/

open Sys2Proof
namespace Sys2Proof.Machine

/-! ## Requests (R370) -/

/-- A request is answered with its result, then its number, as one release at system scope: what is stored is those two words. -/
theorem State.ackRequest_store (v : State) (n : Nat) (res q : Word) :
    (v.ackRequest n res q).store = ((v.setPageWord n 12 res).setPageWord n 11 q).store :=
  (((sameHomes.fenceHost v).setPageWord n 12 res).setPageWord n 11 q).1

theorem homed.ackRequest (v : State) (n : Nat) (res q : Word) : homed v (v.ackRequest n res q) :=
  ((homed.fenceHost v).trans (homed.setPageWord ..)).trans (homed.setPageWord ..)

theorem State.byHm_of_alive {s : State} {n : Nat} (h : s.hmAlive (s.partOfCtx n) = true) (t : State) : s.byHm n t = t := if_pos h

/-- A pre-emption stores nothing, and changes neither relayout entries nor the partitioning. -/
theorem sameHomes.preempt (s : State) (n : Nat) : sameHomes s (s.preempt n) := by
  unfold State.preempt
  split
  · exact ⟨rfl, rfl, rfl⟩
  · split <;> exact ⟨rfl, rfl, rfl⟩

/-- A pre-emption of a context that runs stops its claims. -/
theorem State.preempt_preempted {s : State} {n : Nat} {c : Context} (hc : s.ctx? n = some c) (hf : c.frozen = false) :
    ((s.preempt n).ctx? n).map (·.preempted) = some true := by
  simp only [State.preempt, hc, hf, Bool.false_eq_true, if_false]
  rw [State.ctx?_congr (State.modWaves_ctxs ..), State.ctx?_modCtx_same, hc]
  · rfl
  · exact fun _ => rfl

/-- Op 1: the answer, and the pre-emption where it is due. -/
theorem State.preemptRequest_op1 {s : State} {n code va : Nat} {q : Word} (hr : s.request n = some (1, code, va, q)) :
    (s.ctx? n = none → s.preemptRequest n = s.ackRequest n 1 q) ∧
    ∀ c, s.ctx? n = some c → s.preemptRequest n = (if c.preempted then s else s.preempt n).ackRequest n 0 q := by
  constructor
  · intro hc
    simp [State.preemptRequest, hr, hc]
  · intro c hc
    simp [State.preemptRequest, hr, hc]

/-- Op 2 of a context whose save is complete: refused without an image, else done once every image stands on a unit. -/
theorem State.restoreRequest_op2 {s : State} {n k code va : Nat} {q : Word} {c : Context} (hr : s.request n = some (2, code, va, q)) (hc : s.ctx? n = some c)
    (hh : c.hang = none) (hf : c.frozen = false ∨ ∀ w ∈ s.waves, w.ctx = n → isHm w.gwn = true) :
    (c.images = [] → s.restoreRequest n k = s.ackRequest n 1 q) ∧
    ∀ v, c.images ≠ [] → s.restoreAll n k (c.images.map (·.id)) = some v → s.restoreRequest n k = v.ackRequest n 0 q := by
  have hsaved : (c.frozen && s.waves.any (Wave.ofCtx n)) = false := by
    rw [Bool.and_eq_false_iff]
    refine hf.imp_right fun h => List.any_eq_false.mpr fun w hw hn => ?_
    obtain ⟨h1, h2⟩ : w.ctx = n ∧ isHm w.gwn = false := by simpa [Wave.ofCtx] using hn
    exact absurd (h w hw h1) (by simp [h2])
  constructor
  · intro hi
    simp [State.restoreRequest, hr, hc, hh, hsaved, hi]
  · intro v hi hv
    simp [State.restoreRequest, hr, hc, hh, hsaved, hi, hv]

/-- Op 3: refused of an address without a leaf, and where R342 refuses; else done where the relayout starts. -/
theorem State.relayoutRequest_op3 {s : State} {n code va : Nat} {q : Word} (hr : s.request n = some (3, code, va, q)) :
    (s.leafOf n va = none → s.relayoutRequest n = s.ackRequest n 1 q) ∧
    ∀ level place e, s.leafOf n va = some (level, place, e) →
      (pteBit e 58 = true ∨ relayoutPair (pte e 52 4) code = false → s.relayoutRequest n = s.ackRequest n 1 q) ∧
      ∀ v, pteBit e 58 = false → relayoutPair (pte e 52 4) code = true → s.startRelayout n level va place code e = some v →
        s.relayoutRequest n = v.ackRequest n 0 q := by
  refine ⟨fun hl => by simp [State.relayoutRequest, hr, hl], fun level place e hl => ⟨fun h => ?_, fun v h1 h2 hv => ?_⟩⟩
  · have hb : (pteBit e 58 || !relayoutPair (pte e 52 4) code) = true := by simpa using h
    simp only [State.relayoutRequest, hr, hl, hb, if_true]
    rfl
  · simp [State.relayoutRequest, hr, hl, h1, h2, hv]

/-! ## Entries (R368) -/

theorem State.signalPage_store (v : State) (n : Nat) : (v.signalPage n).store = v.store := rfl

/-- The taking of a new entry of a resident context. -/
theorem State.takeEntry_new {s : State} {n : Nat} (hc : (s.ctx? n).isSome = true) (hne : s.pageWord n 0 ≠ s.pageWord n 1) :
    let i := (s.pageWord n 1).toNat % 32
    let e := s.pageRecord n i
    let place := s.launchPage n + 4096 + 128 * i
    let r := (if e.2 then s.record place 5 else s).submit n e.1 e.2
    let v := (r.1.writePhys noWave (s.launchPage n + 256 + 8 * i) 8 r.2).setPageWord n 1 (s.pageWord n 1 + 1)
    s.takeEntry n = if bitAt (v.pageWord n 2).toNat 63 then v.signalPage n else v := by
  intro i e place r v
  have hp : r.1.launchPage n = s.launchPage n := by
    have hm : r.1.out.mode = s.out.mode := by
      refine (State.submit_mode ..).trans ?_
      split <;> rfl
    simp only [State.launchPage, State.partBase, State.partSize, State.partOfCtx, State.dies, hm]
  have hn : ¬ ((s.ctx? n).isNone = true ∨ s.pageWord n 0 = s.pageWord n 1) := by
    rintro (h | h)
    · simp [Option.isNone_iff_eq_none.mp h] at hc
    · exact hne h
  unfold State.takeEntry
  simp only [if_neg hn]
  rw [show (if e.2 = true then s.record place 5 else s).submit n e.1 e.2 = r from rfl, hp]

/-- What taking a new entry leaves. -/
theorem State.takeEntry_leaves {s : State} {n : Nat} (hc : (s.ctx? n).isSome = true) (hne : s.pageWord n 0 ≠ s.pageWord n 1) :
    let i := (s.pageWord n 1).toNat % 32
    let e := s.pageRecord n i
    let place := s.launchPage n + 4096 + 128 * i
    let r := (if e.2 then s.record place 5 else s).submit n e.1 e.2
    (s.takeEntry n).ctxs = r.1.ctxs ∧ (s.takeEntry n).berths = r.1.berths ∧ (e.2 = true → ⟨place, 5⟩ ∈ (s.takeEntry n).out.errors) ∧
      (s.takeEntry n).store = ((r.1.writePhys noWave (s.launchPage n + 256 + 8 * i) 8 r.2).setPageWord n 1 (s.pageWord n 1 + 1)).store := by
  intro i e place r
  have ht := s.takeEntry_new hc hne
  dsimp only at ht
  set v := (r.1.writePhys noWave (s.launchPage n + 256 + 8 * i) 8 r.2).setPageWord n 1 (s.pageWord n 1 + 1) with hv
  have hrv : homed r.1 v := (homed.writePhys ..).trans (homed.setPageWord ..)
  have hvt : homed v (s.takeEntry n) := by
    rw [ht]
    split
    · exact homed.signalPage ..
    · exact homed.refl v
  have hst : (s.takeEntry n).store = v.store := by
    rw [ht]
    split
    · exact v.signalPage_store n
    · rfl
  refine ⟨hvt.ctxs.trans hrv.ctxs, hvt.berths.trans hrv.berths, fun he => ?_, hst⟩
  have hr : r.1.out.errors = s.out.errors ++ [⟨place, 5⟩] := by
    simp only [r, he, if_true, State.submit_bad]
    rfl
  rw [hvt.errors, hrv.errors, hr]
  exact List.mem_append_right _ List.mem_cons_self

/-- Settles O54: what a running harbourmaster core leaves of an entry and of each request. -/
theorem launchPages : Obligations.LaunchPages := by
  unfold Obligations.LaunchPages
  intro s n k ha page taken answered
  have hby (t : State) : s.byHm n t = t := State.byHm_of_alive ha t
  have hack (v : State) (res q : Word) : answered v (v.ackRequest n res q) res q := State.ackRequest_store v n res q
  refine ⟨⟨fun hc hne => ?_, fun he => ?_⟩, fun op code va q hr => ⟨?_, ?_, ?_, ?_⟩⟩
  · exact ⟨_, Result.next_congr (hby _), State.takeEntry_leaves hc hne⟩
  · refine Result.next_congr ((hby _).trans ?_)
    exact if_pos (Or.inr he)
  · rintro rfl
    have hx : s.preemptRequest n = s.ackRequest n 1 q := by simp [State.preemptRequest, hr]
    exact ⟨_, Result.next_congr ((hby _).trans hx), hack .., (homed.ackRequest ..).ctxs⟩
  · rintro rfl
    obtain ⟨hnone, hsome⟩ := State.preemptRequest_op1 hr
    refine ⟨_, Result.next_congr (hby _), fun hc => ?_, fun c hc => ?_⟩
    · rw [hnone hc]
      exact ⟨hack .., (homed.ackRequest ..).ctxs⟩
    · rw [hsome c hc]
      have hctxs (v : State) : (v.ackRequest n 0 q).ctxs = v.ctxs := (homed.ackRequest ..).ctxs
      refine ⟨(hack ..).trans ?_, fun hp => ?_, fun hp hf => ?_⟩
      · split
        · rfl
        · exact (((sameHomes.preempt s n).setPageWord n 12 0).setPageWord n 11 q).1
      · rw [hp, if_pos rfl, hctxs]
      · rw [hp, if_neg Bool.false_ne_true, State.ctx?_congr (hctxs _), hctxs]
        exact ⟨rfl, State.preempt_preempted hc hf⟩
  · rintro rfl c hc hh hf
    obtain ⟨hnone, hall⟩ := State.restoreRequest_op2 (k := k) hr hc hh hf
    refine ⟨fun hi => ⟨_, Result.next_congr ((hby _).trans (hnone hi)), hack .., (homed.ackRequest ..).ctxs⟩, fun v hi hv =>
      ⟨_, Result.next_congr ((hby _).trans (hall v hi hv)), hack .., (homed.ackRequest ..).ctxs, (homed.ackRequest ..).crews⟩⟩
  · rintro rfl
    obtain ⟨hnone, hsome⟩ := State.relayoutRequest_op3 hr
    refine ⟨fun hl => ⟨_, Result.next_congr ((hby _).trans (hnone hl)), hack .., (homed.ackRequest ..).berths⟩, fun level place e hl => ?_⟩
    obtain ⟨hno, hyes⟩ := hsome level place e hl
    exact ⟨fun h => ⟨_, Result.next_congr ((hby _).trans (hno h)), hack .., (homed.ackRequest ..).berths⟩, fun v h1 h2 hv =>
      ⟨_, Result.next_congr ((hby _).trans (hyes v h1 h2 hv)), hack .., (homed.ackRequest ..).berths⟩⟩

end Sys2Proof.Machine
end

section
/-! O35. A state in which a launch check with nothing submitted completes a launch that was held when it began. -/

open Sys2Proof
namespace Sys2Proof.Machine

/-- A held launch without tasks that waits for no event. -/
def heldLaunch : Launch := ⟨1, [], false, [], 0, [], 0, [], false⟩

/-- Context 0 with that launch. -/
def heldContext : Context := ⟨0, false, 0, 0, 0, 0, 0, 0, [], [heldLaunch], 2, false, false, [], 0, [], none⟩

/-- A device whose harbourmaster core 0 runs, and in whose list of contexts that of slot 0 stands twice. -/
def twiceListed : State := { State.reset with
  me := { Wave.hmReset 0 with run := .running }
  ctxs := [heldContext, heldContext] }

/-- Both of its contexts are the one context. -/
theorem twiceListed_ctx? {c : Nat} {x : Context} (h : twiceListed.ctx? c = some x) : x = heldContext := by
  simpa [twiceListed] using List.mem_of_find?_eq_some h

/-- The first turn of slot 0 admits the launch, whose live count is 0, and the second completes it. -/
theorem launchCheck_twiceListed :
    ∃ u, exec (.launchCheck 0) twiceListed = .next u ∧ (u.ctx? 0).map (fun c : Context => c.launches.length) = some 0 := ⟨_, rfl, by decide +kernel⟩

end Sys2Proof.Machine

open Sys2Proof.Machine in
/-- Refutes O35, in its last clause: of a partition whose launches are all held or have a live count above zero, a launch check with no submission is said to
leave every context as many launches. Where a slot stands twice in the list of contexts, which no rule of the statement excludes, the check serves it twice: `twiceListed` loses its
one launch. -/
theorem not_eventsAndLaunchChecks : ¬ Obligations.EventsAndLaunchChecks := by
  unfold Obligations.EventsAndLaunchChecks Claim.LaunchSubmissions
  rintro ⟨-, -, -, -, h⟩
  obtain ⟨-, hcheck⟩ := h twiceListed 0
  obtain ⟨u, hu, -, -, -, hkept⟩ := hcheck (by decide +kernel) rfl
  have hheld : ∀ c x, twiceListed.ctx? c = some x → twiceListed.partOfCtx c = 0 → ∀ l ∈ x.launches, l.admitted = false ∨ l.live ≠ 0 := by
    intro c x hx _ l hl
    rw [twiceListed_ctx? hx] at hl
    obtain rfl : l = heldLaunch := List.mem_singleton.mp hl
    exact Or.inl rfl
  obtain ⟨-, -, hlaunches⟩ := hkept hheld
  obtain ⟨y, hy, -, hlen⟩ := hlaunches 0 heldContext rfl rfl
  obtain ⟨v, hv, hnone⟩ := launchCheck_twiceListed
  obtain rfl : v = u := by
    rw [hv] at hu
    injection hu
  rw [hy] at hnone
  exact absurd (hlen.symm.trans (Option.some.inj hnone)) (by decide)
end

section
/-! O37. Crew starts, ageing, the status line and the pilot's requests (R53, R61, R66, R68, R308 to R310, R314, R317). -/

open Sys2Proof
namespace Sys2Proof.Machine

/-! ## Waves -/

theorem State.mem_waves_modWaves {s : State} {p : Wave → Bool} {f : Wave → Wave} {w : Wave} (h : w ∈ s.waves) :
    (if p w then f w else w) ∈ (s.modWaves p f).waves := by
  have hw : (s.modWaves p f).waves = s.waves.map fun w => if p w then f w else w := rfl
  rw [hw]
  exact List.mem_map.mpr ⟨w, h, rfl⟩

/-- A crew whose task has not faulted starts with all its waves that have not (R61). -/
theorem exec_crewStart {s : State} {k : Nat} {c : Crew} (hc : s.crew? k = some c) (hf : c.fault = none) :
    exec (.crewStart c.unit k) s = .next (s.modWaves (fun w => w.crew == k && !isHm w.gwn && w.run == .off && w.issued.isNone) fun w =>
      { w with run := .running, ready := s.time }) := by
  refine Result.next_congr ?_
  simp only [hc]
  exact if_neg (by simp [hf])

/-- The age of a wave and its watchdog after n clocks (R314, R317). -/
theorem State.wave?_elapse (s : State) (g n : Nat) :
    (s.elapse n).wave? g = (s.wave? g).map fun w => w.grow (s.eligible w) (clocksIn w.gwn s.time n) := by
  refine State.wave?_map (fun w => ?_) rfl rfl g
  unfold Wave.grow
  split
  · rfl
  · split <;> rfl

/-- A wave that is eligible runs (R313). -/
theorem State.run_of_eligible {s : State} {g : Nat} {w : Wave} (hw : s.wave? g = some w) (he : s.eligible w = true) : w.run = .running := by
  have hg := State.wave?_gwn hw
  have hme : (s.focus g).me = w := by
    unfold State.focus
    unfold State.wave? at hw
    split at hw
    · next h => rw [if_pos h]; exact Option.some.inj hw
    · next h => rw [if_neg h, hw]
  simp only [State.eligible, State.canIssue, State.active, hg, Bool.and_eq_true] at he
  obtain ⟨-, ⟨-, hrun, -⟩, -⟩ := he
  rw [hme] at hrun
  exact of_decide_eq_true hrun

theorem Wave.grow_of_eligible {w : Wave} (hr : w.run = .running) (n : Nat) : w.grow true n = { w with age := w.age + n, watch := w.watch + n } := by
  simp [Wave.grow, hr]

/-- A wave's effective priority rises by 1 in the clock in which it has waited another 4,096 clocks (R314). -/
theorem Wave.effPrio_age {w x : Wave} (hp : w.prio < 28) (he : w.effPrio < 27) (ha : (w.age + 1) % 4096 = 0) (hx : x.prio = w.prio)
    (hage : x.age = w.age + 1) : x.effPrio = w.effPrio + 1 := by
  have hw : w.effPrio = min (w.prio + w.age / 4096) 27 := if_pos hp
  rw [hw] at he ⊢
  rw [Wave.effPrio, hx, hage, if_pos hp]
  omega

/-! ## Queued tasks (R53) -/

theorem State.recPrio_of_lt (s : State) {r : TaskRec} (hp : wordBits r.words 1 32 5 < 28) :
    s.recPrio r = min (wordBits r.words 1 32 5 + (s.time - r.time) / 4096) 27 := if_pos hp

theorem State.recPrio_elapse {s : State} {r : TaskRec} (hp : wordBits r.words 1 32 5 < 28) (hr : s.recPrio r < 27) (ht : r.time ≤ s.time) :
    (s.elapse 1).recPrio r = if (s.time + 1 - r.time) % 4096 = 0 then s.recPrio r + 1 else s.recPrio r := by
  have htime : (s.elapse 1).time = s.time + 1 := rfl
  rw [s.recPrio_of_lt hp] at hr ⊢
  rw [State.recPrio_of_lt _ hp, htime]
  split <;> omega

/-! ## The status line (R66, R68) -/

theorem Cells.get_setMany_range {w : Nat} (f : Nat → BitVec w) (n m k : Nat) (c : Cells w) (hc : Cells.wf c = true) :
    Cells.get (Cells.setMany c ((List.range' m n).map fun i => (i, f i))) k = if m ≤ k ∧ k < m + n then f k else Cells.get c k := by
  induction n generalizing m c with
  | zero => rw [if_neg (by omega)]; rfl
  | succ n ih =>
    rw [List.range'_succ, List.map_cons, Cells.setMany, ih _ _ (Cells.wf_set c m (f m) hc), Cells.get_set c m (f m) k hc]
    by_cases h : m = k
    · subst h
      rw [if_neg (by omega), if_pos rfl, if_pos (by omega)]
    · rw [if_neg h]
      by_cases h1 : m + 1 ≤ k ∧ k < m + 1 + n
      · rw [if_pos h1, if_pos (by omega)]
      · rw [if_neg h1, if_neg (by omega)]

/-- The byte of each context in a berth's status line (R66). -/
theorem State.get_statusBytes (s : State) (b : Nat) {n : Nat} (hn : n < 64) : Cells.get (s.statusBytes b) n =
    if 2048 ≤ (s.berth b).count ∨ ((s.ctx? n).isSome = true ∧ s.quotaOf n ≤ (s.berth b).countOf n) then 255
    else BitVec.ofNat 8 (min ((s.berth b).countOf n) 254) := by
  rw [State.statusBytes, List.range_eq_range', Cells.get_setMany_range _ _ _ _ _ Cells.wf_nil, if_pos ⟨Nat.zero_le n, by omega⟩]
  simp only [State.statusByte, Bool.or_eq_true, Bool.and_eq_true, decide_eq_true_eq]
  split <;> rfl

/-- The rewrite of a status line that has changed, where 256 L2 clocks have passed since the last one (R68). -/
theorem exec_statusLineRewrite {s : State} {b : Nat} (hne : (s.berth b).status ≠ s.statusBytes b)
    (ht : ∀ t, (s.berth b).statusTime = some t → t + 180 ≤ s.time) :
    exec (.statusLineRewrite b) s = .next ((s.setBerth { s.berth b with status := s.statusBytes b, statusTime := some s.time }).touchLine noWave (statusLine b)) := by
  refine Result.next_congr (if_neg ?_)
  rw [not_or]
  refine ⟨hne, ?_⟩
  cases h : (s.berth b).statusTime with
  | none => simp
  | some t =>
    have := ht t h
    rw [Option.any_some, decide_eq_true_iff, statusGap]
    omega

theorem State.touchLine_time (s : State) (writer line : Nat) : (s.touchLine writer line).time = s.time := by rw [State.touchLine_eq]

/-- What the rewrite leaves: the new bytes and the time, and no change of memory. -/
theorem statusLineRewrite_leaves {s : State} {b : Nat} (hne : (s.berth b).status ≠ s.statusBytes b)
    (ht : ∀ t, (s.berth b).statusTime = some t → t + 180 ≤ s.time) :
    ∃ u, exec (.statusLineRewrite b) s = .next u ∧ u.store = s.store ∧ (u.berth b).status = s.statusBytes b ∧ (u.berth b).statusTime = some s.time ∧
      u.time = s.time := by
  set x : Berth := { s.berth b with status := s.statusBytes b, statusTime := some s.time } with hx
  have hb : ((s.setBerth x).touchLine noWave (statusLine b)).berth b = x := by
    rw [State.berth_congr (homed.touchLine ..).berths]
    exact State.berth_setBerth_same _ (s.berth_n b)
  exact ⟨_, exec_statusLineRewrite hne ht, State.touchLine_store .., by rw [hb], by rw [hb], State.touchLine_time ..⟩

theorem exec_statusLineRewrite_early {s : State} {b t : Nat} (h : (s.berth b).statusTime = some t) (ht : s.time < t + 180) :
    exec (.statusLineRewrite b) s = .next s := by
  refine Result.next_congr (if_pos (Or.inr ?_))
  rw [h, Option.any_some, decide_eq_true_iff]
  exact ht

/-! ## Pilots (R308 to R310) -/

theorem State.pilot?_modPilot {s : State} {n : Nat} {p : PilotCore} {f : PilotCore → PilotCore} (hf : ∀ q, (f q).core = q.core)
    (hp : s.pilot? n = some p) : (s.modPilot n f).pilot? n = some (f p) :=
  find?_pilots_mapWhere hf hp

theorem State.pilotCount_core (s : State) (p : PilotCore) : (s.pilotCount p).core = p.core := by
  unfold State.pilotCount
  split <;> rfl

/-- A pilot's turn of a core: the core's request stands at the berth to which it is sent, and its pilot waits for the answer. -/
theorem State.pilotSend_sends {s : State} {n b : Nat} {p : PilotCore} (hp : s.pilot? n = some p) (hgoal : s.pilotGoal p = some b)
    (hturn : s.pilotNext (n / 64) = some n) :
    ∃ u, exec (.pilotSend n) s = .next u ∧ u.pilot? n = some { s.pilotCount p with asked := some b } ∧ u.store = s.store ∧ u.waves = s.waves ∧
      (⟨n, 32 - (s.slotsUsed n).length, 14 - s.unitsUsed n, (s.core n).bound⟩ : StealReq) ∈ (u.berth b).steals := by
  set t : State := { s with pilotTurn := putWhere (·.1 == n / 64) (n / 64, n) s.pilotTurn } with ht
  set x : Berth := { s.berth b with steals := (s.berth b).steals ++ [s.stealReq n] } with hx
  have hu : exec (.pilotSend n) s = .next ((t.modPilot n fun y => { s.pilotCount y with asked := some b }).setBerth x) := by
    refine Result.next_congr ?_
    simp only [hp, hgoal, hturn, ne_eq, not_true_eq_false, if_false, ht, hx]
  have hpil : (t.modPilot n fun y => { s.pilotCount y with asked := some b }).pilot? n = some { s.pilotCount p with asked := some b } :=
    State.pilot?_modPilot (fun q => s.pilotCount_core q) hp
  refine ⟨_, hu, hpil, rfl, rfl, ?_⟩
  rw [State.berth_setBerth_same _ (show x.n = b from s.berth_n b)]
  exact List.mem_append_right _ List.mem_cons_self

/-- A core that is not its pilot's next, or has no berth to be sent to, is sent nowhere. -/
theorem State.pilotSend_waits {s : State} {n : Nat} {p : PilotCore} (hp : s.pilot? n = some p)
    (h : s.pilotGoal p = none ∨ s.pilotNext (n / 64) ≠ some n) : exec (.pilotSend n) s = .next s := by
  refine Result.next_congr ?_
  simp only [hp]
  cases hg : s.pilotGoal p with
  | none => rfl
  | some b => exact if_pos (h.resolve_left (by simp [hg]))

/-- Where a core that can take a task is sent: to its local candidate, else to its remote one. -/
theorem State.pilotGoal_of_open {s : State} {p : PilotCore} (ha : p.asked = none) (hn : p.next ≤ s.time) (ho : s.coreOpen p.core = true) :
    s.pilotGoal p = ((s.localBerth p).or (s.remoteBerth p)).map (·.1) := by
  have h : (p.asked.isSome || decide (s.time < p.next) || !s.coreOpen p.core) = false := by simp [ha, hn, ho]
  unfold State.pilotGoal
  rw [h, if_neg Bool.false_ne_true]
  cases s.localBerth p <;> rfl

/-- The remote-wait clocks run on only while the core has no local candidate (R309). -/
theorem State.pilotCount_of_open {s : State} {p : PilotCore} (ho : s.coreOpen p.core = true) :
    s.pilotCount p = if (s.localBerth p).isSome then { p with since := s.time, remote := false } else p := by
  simp [State.pilotCount, ho]

/-- The wait for remote berths of a core that can take a task and has no local candidate. -/
theorem State.exec_remoteWaitExpiry {s : State} {n : Nat} {p : PilotCore} (hp : s.pilot? n = some p) (hc : s.pilotCount p = p) :
    exec (.remoteWaitExpiry n) s = .next (if p.since + 2800 ≤ s.time then s.modPilot n fun x => { x with remote := true } else s) := by
  refine Result.next_congr ?_
  simp only [hp, hc, true_and, remoteWait]

end Sys2Proof.Machine

open Sys2Proof.Machine in
/-- Settles O37: crew starts, ageing, the status line and the pilot's requests, each by what its own step does. -/
theorem berthTimers : Obligations.BerthTimers := by
  unfold Obligations.BerthTimers
  refine fun s => ⟨fun k c w hc hf hw hk hm hr hi => ?_, fun b id r hrec hst hp hlt ht howe => ?_, fun g n w hw hm => ⟨?_, ?_, ?_, ?_⟩,
    fun b hne => ⟨fun ht => ?_, fun t ht hlt => exec_statusLineRewrite_early ht hlt⟩, fun n p hp ha hn ho => ?_⟩
  · refine ⟨_, exec_crewStart hc hf, ?_, rfl, fun x hx hne => ?_⟩
    · simpa [hk, hm, hr, hi] using State.mem_waves_modWaves
        (p := fun w => w.crew == k && !isHm w.gwn && w.run == .off && w.issued.isNone) (f := fun w => { w with run := .running, ready := s.time }) hw
    · simpa [hne] using State.mem_waves_modWaves
        (p := fun w => w.crew == k && !isHm w.gwn && w.run == .off && w.issued.isNone) (f := fun w => { w with run := .running, ready := s.time }) hx
  · have hage := State.recPrio_elapse hp hlt ht
    refine ⟨fun h => ⟨_, Result.next_congr ?_, rfl, by rw [hage, if_pos h], rfl, rfl⟩, fun h => ⟨Result.next_congr ?_, by rw [hage, if_neg h]⟩⟩
    · simp only [hrec]
      exact if_pos ⟨hst, hp, hlt, h, howe⟩
    · simp only [hrec]
      exact if_neg fun k => h k.2.2.2.1
  · intro he
    rw [State.wave?_elapse, hw, Option.map_some, he, Wave.grow_of_eligible (State.run_of_eligible hw he), State.wave?_gwn hw]
  · intro hr he
    rw [State.wave?_elapse, hw, Option.map_some, he, Wave.grow, hr]
    rfl
  · intro d hr
    rw [State.wave?_elapse, hw, Option.map_some, Wave.grow, hr, State.wave?_gwn hw]
  · intro hp hlt hage he hclk howe
    have hx : (s.elapse 1).wave? g = some { w with age := w.age + 1, watch := w.watch + 1 } := by
      rw [State.wave?_elapse, hw, Option.map_some, he, Wave.grow_of_eligible (State.run_of_eligible hw he), State.wave?_gwn hw, hclk]
    refine ⟨_, _, Result.next_congr ?_, rfl, hx, Wave.effPrio_age hp hlt hage rfl rfl⟩
    simp only [hw]
    exact if_pos ⟨hm, hp, hlt, hage, he, hclk, howe⟩
  · obtain ⟨u, hu, hst, hbytes, htime, hnow⟩ := statusLineRewrite_leaves hne ht
    exact ⟨u, hu, hst, fun n hn => by rw [hbytes, s.get_statusBytes b hn], htime, hnow⟩
  · intro near away sent
    have hcore := State.pilot?_core hp
    subst hcore
    have hgoal := State.pilotGoal_of_open ha hn ho
    have hcount := State.pilotCount_of_open ho
    have hnear : s.localBerth p = near := rfl
    have haway (h : p.remote = true) : s.remoteBerth p = away := if_pos h
    refine ⟨fun h => State.pilotSend_waits hp (Or.inr h), fun q hq hturn => ?_, fun q hq hr hq' hturn => ?_, fun hq hr => ?_⟩
    · rw [hnear, hq] at hgoal hcount
      obtain ⟨u, hu, hpil, hst, hwv, hreq⟩ := State.pilotSend_sends hp hgoal hturn
      exact ⟨u, _, hu, hpil, rfl, by rw [hcount]; rfl, by rw [hcount]; rfl, hst, hwv, hreq⟩
    · rw [hnear, hq] at hgoal hcount
      rw [haway hr, hq'] at hgoal
      obtain ⟨u, hu, hpil, hst, hwv, hreq⟩ := State.pilotSend_sends hp hgoal hturn
      exact ⟨u, _, hu, hpil, rfl, by rw [hcount]; rfl, by rw [hcount]; exact hr, hst, hwv, hreq⟩
    · rw [hnear, hq] at hgoal hcount
      have hnone : s.remoteBerth p = none := if_neg (by simp [hr])
      have hexp := State.exec_remoteWaitExpiry hp hcount
      refine ⟨State.pilotSend_waits hp (Or.inl (hgoal.trans (by rw [hnone]; rfl))), fun h => ?_, fun h => ?_⟩
      · rw [if_pos h] at hexp
        have hrem : (s.modPilot p.core fun x => { x with remote := true }).pilot? p.core = some { p with remote := true } :=
          State.pilot?_modPilot (fun _ => rfl) hp
        exact ⟨_, hexp, congrArg (Option.map _) hrem, rfl, rfl⟩
      · rwa [if_neg (by omega)] at hexp

end

section
/-! SUPPORT of O38. The words of a manifest entry and what writing them leaves (R64, R134). -/

open Sys2Proof
namespace Sys2Proof.Machine

/-! ## The words of an entry (R64) -/

theorem toNat_append_eq_add {m n : Nat} (x : BitVec m) (y : BitVec n) : (x ++ y).toNat = x.toNat * 2 ^ n + y.toNat := by
  rw [BitVec.toNat_append, ← Nat.shiftLeft_add_eq_or_of_lt y.isLt, Nat.shiftLeft_eq]

/-- The words of an entry, field by field. -/
theorem reportWords_eq (r : Report) : reportWords r = [
    (1#1 ++ BitVec.ofNat 3 r.sev ++ BitVec.ofNat 12 r.type ++ BitVec.ofNat 8 r.berth ++ BitVec.ofNat 40 r.seq : BitVec 64),
    (0#8 ++ BitVec.ofNat 8 r.cause ++ BitVec.ofNat 48 r.anchor : BitVec 64), r.pc.setWidth 48 |>.setWidth 64, r.detail] := by
  unfold reportWords
  congr 1
  · apply BitVec.eq_of_toNat_eq
    simp only [toNat_append_eq_add, BitVec.toNat_ofNat]
    omega
  · congr 1
    · apply BitVec.eq_of_toNat_eq
      simp only [toNat_append_eq_add, BitVec.toNat_ofNat]
      omega
    · congr 1
      apply BitVec.eq_of_toNat_eq
      simp only [BitVec.toNat_setWidth, BitVec.toNat_ofNat]

/-! ## Writes of one field (R97, R134) -/

theorem homed.homeWrites (s : State) (writer : Nat) (l : List LineWrite) : homed s (s.homeWrites writer l) :=
  homed.foldl (fun _ _ => homed.homeWrite ..) _ s

theorem homed.writeAt (s : State) (writer : Nat) (t : Target) (size x : Nat) : homed s (s.writeAt writer t size x).1 := by
  have hf : homed s (s.useFree t) := by
    unfold State.useFree
    split
    · exact homed.of_eq rfl rfl rfl rfl rfl
    · exact homed.refl s
  unfold State.writeAt
  dsimp only
  split
  · exact homed.of_eq rfl rfl rfl rfl rfl
  · exact hf.trans (homed.homeWrites ..)

theorem homed.writeEntry (s : State) (t : Target) (ws : List Word) : homed s (s.writeEntry t ws) :=
  ((homed.fenceHost s).trans (homed.foldl (fun _ _ => homed.writeAt ..) _ _)).trans (homed.fenceHost _)

/-- A write at a home changes no byte of another line. -/
theorem State.byteAt_homeWrite_ne {s : State} (h : s.store.wf = true) (writer line mask value : Nat) (scale : Option Nat) (code : Nat) {a : Nat}
    (ha : a / 64 ≠ line) : byteAt (s.homeWrite writer line mask value scale code) a = byteAt s a := by
  have key (x : Nat) : Memory.read (putLine s.store.data line x) a = Memory.read s.store.data a := by
    rw [Memory.read_putLine _ _ _ _ ((Store.wf_iff _).mp h).1, if_neg ha]
  simp only [byteAt, State.homeWrite, State.touchLine_store]
  split
  · simp only [Store.put1, Store.put2, key]
  · simp only [Store.put1, key]

/-- The write of a field of device memory is one write at the home of its line. -/
theorem State.writeAt_dev {t : Target} (ht : t.space = .dev) (s : State) (writer size x : Nat) :
    ∃ mask value, (s.writeAt writer t size x).1 = s.homeWrite writer (t.at_ / 64) mask value none t.code := by
  refine ⟨byteMask (t.at_ % 64) size, (x % 2 ^ (8 * size)) <<< (8 * (t.at_ % 64)), ?_⟩
  simp only [State.writeAt, State.useFree, State.fieldWrites, ht]
  rfl

/-- An entry in device memory lies in one line: writing it changes no byte of another. -/
theorem State.byteAt_writeEntry_ne {s : State} (h : s.store.wf = true) {t : Target} (ht : t.space = .dev) (h32 : t.at_ % 32 = 0) (ws : List Word) {a : Nat}
    (ha : a / 64 ≠ t.at_ / 64) : byteAt (s.writeEntry t ws) a = byteAt s a := by
  suffices key : ∀ (l : List Nat) (v : State), (∀ i ∈ l, i < 4) → v.store.wf = true →
      byteAt (l.foldl (fun s i => (s.writeAt noWave { t with at_ := t.at_ + 8 * i } 8 (ws.getD i 0).toNat).1) v) a = byteAt v a from
    key [1, 2, 3, 0] s.fenceHost (by decide) h
  intro l
  induction l with
  | nil => exact fun _ _ _ => rfl
  | cons i l ih =>
    intro v hi hv
    obtain ⟨mask, value, he⟩ := State.writeAt_dev (t := { t with at_ := t.at_ + 8 * i }) ht v noWave 8 (ws.getD i 0).toNat
    have hline : (t.at_ + 8 * i) / 64 = t.at_ / 64 := by
      have := hi i List.mem_cons_self
      omega
    rw [List.foldl_cons, he, ih _ (fun j hj => hi j (List.mem_cons_of_mem _ hj)) (State.wf_homeWrite _ _ _ _ _ _ _ hv)]
    exact State.byteAt_homeWrite_ne hv _ _ _ _ _ _ (by rw [hline]; exact ha)

/-! ## Event masks (R42, R47) -/

theorem testBit_foldl_maskOf (l : List Nat) (m i : Nat) : (l.foldl (fun m j => m ||| 2 ^ j) m).testBit i = (m.testBit i || decide (i ∈ l)) := by
  induction l generalizing m with
  | nil => simp
  | cons j l ih =>
    rw [List.foldl_cons, ih, Nat.testBit_or, Nat.testBit_two_pow]
    simp [Bool.or_assoc, eq_comm]

theorem testBit_maskOf (l : List Nat) (i : Nat) : (maskOf l).testBit i = decide (i ∈ l) := by
  rw [maskOf, testBit_foldl_maskOf, Nat.zero_testBit, Bool.false_or]

theorem bitAt_eq_testBit (x i : Nat) : bitAt x i = x.testBit i := by
  rw [bitAt, Nat.testBit_eq_decide_div_mod_eq, Nat.shiftRight_eq_div_pow]
  exact Bool.eq_iff_iff.mpr (by simp)

/-- The members of an event list whose bits are valid. -/
theorem mem_eventList (ws : List Word) (i valid n : Nat) :
    n ∈ eventList ws i valid ↔ ∃ k, k < 16 ∧ valid.testBit k = true ∧ wordBits ws (i + k / 8) (8 * (k % 8)) 8 = n := by
  simp only [eventList, setBits, List.mem_map, List.mem_filter, List.mem_range, bitAt_eq_testBit, and_assoc]

/-! ## Completion (R44, R45, R47) -/

theorem State.hmAlive_congr {s u : State} (hw : u.waves = s.waves) (hm : u.out.mode = s.out.mode) (p : Nat) : u.hmAlive p = s.hmAlive p := by
  simp only [State.hmAlive, State.partOf, State.partOfDie, State.partOfHm, State.dies, hw, hm]

/-- What a change of the event vector leaves: the new vector, the berths, and the harbourmaster cores that run. -/
theorem State.setEvents_leaves {s : State} {c : Nat} {x : Context} (hx : s.ctx? c = some x) (new : BitVec 256) :
    (s.setEvents c new).ctx? c = some { x with events := new } ∧ (s.setEvents c new).berths = s.berths ∧ (∀ p, (s.setEvents c new).hmAlive p = s.hmAlive p) ∧
      (s.setEvents c new).partOfCtx c = s.partOfCtx c := by
  by_cases he : x.events = new
  · have hu : s.setEvents c new = s := by simp only [State.setEvents, hx, he, if_true]
    rw [hu, ← he]
    exact ⟨hx, rfl, fun _ => rfl, rfl⟩
  · set v : State := s.modCtx c fun y => { y with events := new } with hv
    have hu : homed v (s.setEvents c new) := by
      simp only [State.setEvents, hx, if_neg he, ← hv]
      split
      · exact homed.mirror ..
      · exact (homed.mirror ..).trans (homed.signalPage ..)
    refine ⟨?_, hu.berths, hu.hmAlive, hu.partOfCtx c⟩
    rw [State.ctx?_congr hu.ctxs, hv, State.ctx?_modCtx_same, hx]
    · rfl
    · exact fun _ => rfl

/-- A launch is gone when it has completed, its set events are ORed into the vector, no launch stays held whose wait events are all set, and the berths keep their
records. -/
theorem State.completeLaunch_leaves {s : State} {c i : Nat} {x : Context} {l : Launch} (ha : s.hmAlive (s.partOfCtx c) = true) (hx : s.ctx? c = some x)
    (hl : s.launch? c i = some l) :
    (s.completeLaunch c i).launch? c i = none ∧ (∀ b, ((s.completeLaunch c i).berth b).recs = (s.berth b).recs) ∧
      ∃ y, (s.completeLaunch c i).ctx? c = some y ∧
        y.events = x.events ||| BitVec.ofNat 256 (maskOf (eventList l.words 6 (launchFields l.words).setv)) ∧
        ∀ h ∈ y.launches, h.admitted = false → waitsMet y.events h.words = false := by
  set new := x.events ||| BitVec.ofNat 256 (maskOf (eventList l.words 6 (launchFields l.words).setv)) with hnew
  obtain ⟨hc, hb, halive, hpart⟩ := State.setEvents_leaves hx new
  set v := (s.setEvents c new).modCtx c fun y => { y with launches := y.launches.filter (·.id != i) } with hv
  have hu : s.completeLaunch c i = v.examine c := by
    simp only [State.completeLaunch, ha, hx, hl, Bool.not_true, Bool.false_eq_true, if_false, Option.map_some, Option.getD_some]
    rfl
  have hvx : v.ctx? c = some { x with events := new, launches := x.launches.filter (·.id != i) } := by
    rw [hv, State.ctx?_modCtx_same, hc]
    · rfl
    · exact fun _ => rfl
  have hva : v.hmAlive (v.partOfCtx c) = true := (halive _).trans (hpart ▸ ha)
  obtain ⟨y, hy, hadm⟩ := State.ctx?_examine hvx hva
  obtain ⟨-, hev, g, hg, hgl⟩ := id hadm
  rw [hu]
  refine ⟨?_, fun b => ?_, y, hy, hev, hadm.held⟩
  · rw [State.launch?, hy, Option.bind_some, hg, List.find?_eq_none]
    intro m hm
    obtain ⟨l, hl, rfl⟩ := List.mem_map.mp hm
    rw [(hgl l).1]
    simpa using (List.mem_filter.mp hl).2
  · rw [(flooded.examine ..).2 b, hv, State.berth_congr (s := s) (t := State.modCtx _ _ _) hb]

/-- The set events of a launch as bits of the vector (R42, R44). -/
theorem getLsbD_setEvents (ev : BitVec 256) (ws : List Word) {n : Nat} (hn : n < 256) :
    (ev ||| BitVec.ofNat 256 (maskOf (eventList ws 6 (launchFields ws).setv))).getLsbD n = true ↔
      ev.getLsbD n = true ∨ ∃ k, k < 16 ∧ (wordBits ws 8 16 16).testBit k = true ∧ wordBits ws (6 + k / 8) (8 * (k % 8)) 8 = n := by
  rw [BitVec.getLsbD_or, Bool.or_eq_true, BitVec.getLsbD_ofNat, testBit_maskOf, Bool.and_eq_true, decide_eq_true_eq, decide_eq_true_eq, mem_eventList]
  simp only [hn, true_and]
  rfl

/-- The live count of a launch falls by one; with the last of it the launch completes (R47). -/
theorem State.lowerLive_of_more {s : State} {c i : Nat} {l : Launch} (hl : s.launch? c i = some l) (h : 2 ≤ l.live) :
    s.lowerLive c i = s.modLaunch c i fun x => { x with live := x.live - 1 } := by
  simp only [State.lowerLive, hl]
  exact if_neg (by omega)

theorem State.lowerLive_of_last {s : State} {c i : Nat} {l : Launch} (hl : s.launch? c i = some l) (h : l.live ≤ 1) :
    s.lowerLive c i = (s.modLaunch c i fun x => { x with live := x.live - 1 }).completeLaunch c i := by
  simp only [State.lowerLive, hl]
  exact if_pos h

/-! ## The next report (R64, R294, R362) -/

/-- Where no crew has faulted there is none to free. -/
theorem State.freeSettled_of_no_fault {s : State} (h : ∀ k ∈ s.crews, k.fault = none) (c i : Nat) : s.freeSettled c i = s := by
  suffices key : ∀ l : List Crew, (∀ k ∈ l, k.fault = none) → l.foldl (fun s k => s.freeFaulted k) s = s from
    key _ fun k hk => h k (List.mem_filter.mp hk).1
  intro l
  induction l with
  | nil => exact fun _ => rfl
  | cons k l ih =>
    intro hl
    have hk : s.freeFaulted k = s := by simp [State.freeFaulted, hl k List.mem_cons_self]
    rw [List.foldl_cons, hk, ih fun j hj => hl j (List.mem_cons_of_mem _ hj)]

/-- Both steps that write a report are the write of the launch's next one. -/
theorem exec_manifest {s : State} (h : ∀ k ∈ s.crews, k.fault = none) {c : Nat} (ha : s.hmAlive (s.partOfCtx c) = true) (i : Nat) :
    exec (.manifestWrite c i) s = .next (s.writeReport c i) ∧ exec (.manifestRetry c i) s = .next (s.writeReport c i) := by
  have hm : s.manifest c i = s.writeReport c i := by
    simp only [State.manifest, State.freeSettled_of_no_fault h, ha, if_true]
  exact ⟨Result.next_congr hm, Result.next_congr hm⟩

/-- The place of the entry that the next report of a launch takes (R64). -/
def Launch.nextEntry (l : Launch) : Nat := wordBits l.words 3 0 48 + 32 * (l.entries % wordBits l.words 3 48 16)

/-- A launch one of whose reports has been written. -/
def Launch.entered (r : Report) (l : Launch) : Launch := { l with entries := l.entries + 1, reports := l.reports.erase r, noted := false }

/-- The state when an entry has been written and its report has left the launch and the berth. -/
def State.afterEntry (f : State) (c i : Nat) (r : Report) (t : Target) : State :=
  let v := (f.writeEntry t (reportWords r)).modLaunch c i (Launch.entered r)
  match r.record with
  | none => v
  | some id => v.freeRec r.berth id

/-- The place by which the harbourmaster reaches a walked address: the translation's, where that lies in device or host memory (R294). -/
theorem State.hmPlace_of_translate {s f : State} {c va : Nat} {n : Need} {z : TrRes} (hva : va < 0xFFFFFFFF0000) (htr : s.translate hostTlb c va n = (f, z)) :
    (s.hmPlace c va n).1 = f ∧ (∀ t, z = .ok t → t.space = .dev ∨ t.space = .host → (s.hmPlace c va n).2 = .ok t) ∧
      ((∀ t, z = .ok t → t.space = .wide) → ∃ e, (s.hmPlace c va n).2 = .error e) := by
  unfold State.hmPlace
  rw [if_neg (by unfold unwalkedBase; omega), htr]
  refine ⟨rfl, ?_, fun h => ?_⟩
  · rintro t rfl ht
    exact if_pos ht
  · cases z with
    | ok t => exact ⟨_, if_neg (by simp [h t rfl])⟩
    | missing => exact ⟨_, rfl⟩
    | badLayout => exact ⟨_, rfl⟩
    | ue => exact ⟨_, rfl⟩
    | access => exact ⟨_, rfl⟩
    | writeProtect => exact ⟨_, rfl⟩

section
variable {s f : State} {c i : Nat} {l : Launch} {r : Report} {z : TrRes} (hl : s.launch? c i = some l) (hr : l.reports.find? s.reportReady = some r)
  (hva : l.nextEntry < 0xFFFFFFFF0000) (htr : s.translate hostTlb c l.nextEntry .w = (f, z))
include hl hr hva htr

/-- The next report is written where its entry is reached and free, else noted. -/
theorem State.writeReport_of_reached {t : Target} (hz : z = .ok t) (ht : t.space = .dev ∨ t.space = .host) :
    s.writeReport c i = if f.entryFree c t then (f.afterEntry c i r t).lowerLive c i else f.noteReport c l l.nextEntry f.out := by
  obtain ⟨hp, hok, -⟩ := State.hmPlace_of_translate hva htr
  have hpl : s.hmPlace c ((launchFields l.words).manifest + 32 * (l.entries % (launchFields l.words).cap)) .w = (f, .ok t) := Prod.ext hp (hok t hz ht)
  simp only [State.writeReport, hl, hr, hpl]
  rfl

/-- It is noted where its entry is not reached. -/
theorem State.writeReport_of_unreached (hz : ∀ t, z = .ok t → t.space = .wide) : s.writeReport c i = f.noteReport c l l.nextEntry s.out := by
  obtain ⟨hp, -, herr⟩ := State.hmPlace_of_translate hva htr
  obtain ⟨e, he⟩ := herr hz
  have hpl : s.hmPlace c ((launchFields l.words).manifest + 32 * (l.entries % (launchFields l.words).cap)) .w = (f, .error e) := Prod.ext hp he
  simp only [State.writeReport, hl, hr, hpl]
  rfl

/-- A report whose entry is not free, or is not reached, is noted and nothing else. -/
theorem State.writeReport_of_kept
    (hz : ∀ t, z = .ok t → t.space = .wide ∨ ((t.space = .dev ∨ t.space = .host) ∧ f.entryFree c t = false)) :
    ∃ out, (out = f.out ∨ out = s.out) ∧ s.writeReport c i = f.noteReport c l l.nextEntry out := by
  by_cases h : ∃ t, z = .ok t ∧ (t.space = .dev ∨ t.space = .host)
  · obtain ⟨t, ht, hs⟩ := h
    have hfree : f.entryFree c t = false := by
      obtain h | ⟨-, h⟩ := hz t ht
      · simp [h] at hs
      · exact h
    exact ⟨f.out, Or.inl rfl, by rw [State.writeReport_of_reached hl hr hva htr ht hs, hfree, if_neg Bool.false_ne_true]⟩
  · refine ⟨s.out, Or.inr rfl, State.writeReport_of_unreached hl hr hva htr fun t ht => ?_⟩
    obtain h' | ⟨h', -⟩ := hz t ht
    · exact h'
    · exact absurd ⟨t, ht, h'⟩ h

end

/-- What noting a report leaves: nothing that has been noted before, else the launch's mark and one error of severity 0. -/
theorem State.noteReport_leaves {f : State} {c i : Nat} {l : Launch} (hl : f.launch? c i = some l) (va : Nat) (out : Outside) :
    (l.noted = true → f.noteReport c l va out = { f with out := out }) ∧
    (l.noted = false → (f.noteReport c l va out).launch? c i = some { l with noted := true } ∧
      (f.noteReport c l va out).out.errors = f.out.errors ++ [⟨va, 0⟩] ∧ (f.noteReport c l va out).store = f.store ∧
      (f.noteReport c l va out).waves = f.waves ∧ (f.noteReport c l va out).berths = f.berths) := by
  refine ⟨fun h => if_pos h, fun h => ?_⟩
  have hn : f.noteReport c l va out = (f.record va 0).modLaunch c l.id fun x => { x with noted := true } := if_neg (by simp [h])
  rw [State.launch?_id hl] at hn
  rw [hn]
  refine ⟨?_, rfl, rfl, rfl, rfl⟩
  rw [State.launch?_modLaunch_same, State.launch?_congr (s := f) (t := f.record va 0) rfl, hl]
  · rfl
  · exact fun _ => rfl

/-! ## After an entry has been written -/

section
variable {f : State} {c i : Nat} {l : Launch} {r : Report} {t : Target}

/-- Up to the berth that its record leaves, what the entry and the launch make of the state. -/
theorem State.afterEntry_eq : f.afterEntry c i r t =
    { (f.writeEntry t (reportWords r)).modLaunch c i (Launch.entered r) with berths := (f.afterEntry c i r t).berths } := by
  unfold State.afterEntry
  dsimp only
  split <;> rfl

theorem State.ctxs_afterEntry : (f.afterEntry c i r t).ctxs = (f.modLaunch c i (Launch.entered r)).ctxs := by
  rw [State.afterEntry_eq]
  exact congrArg (mapWhere _ _) (homed.writeEntry ..).ctxs

theorem State.store_afterEntry : (f.afterEntry c i r t).store = (f.writeEntry t (reportWords r)).store := by
  rw [State.afterEntry_eq]
  rfl

theorem State.hmAlive_afterEntry (p : Nat) : (f.afterEntry c i r t).hmAlive p = f.hmAlive p := by
  rw [State.afterEntry_eq]
  exact (homed.writeEntry f t (reportWords r)).hmAlive p

theorem State.partOfCtx_afterEntry (n : Nat) : (f.afterEntry c i r t).partOfCtx n = f.partOfCtx n := by
  rw [State.afterEntry_eq]
  exact (homed.writeEntry f t (reportWords r)).partOfCtx n

/-- The record of the report is freed. -/
theorem State.rec?_afterEntry {id : Nat} (hid : r.record = some id) : (f.afterEntry c i r t).rec? r.berth id = none := by
  simp only [State.afterEntry, hid]
  exact State.rec?_freeRec_same ..

theorem State.launch?_afterEntry (hl : f.launch? c i = some l) : (f.afterEntry c i r t).launch? c i = some (l.entered r) := by
  rw [State.launch?_congr State.ctxs_afterEntry, State.launch?_modLaunch_same (f := Launch.entered r) _ fun _ => rfl, hl]
  rfl

theorem State.ctx?_modLaunch_events {s : State} {g : Launch → Launch} {x : Context} (hx : s.ctx? c = some x) :
    ∃ y, (s.modLaunch c i g).ctx? c = some y ∧ y.events = x.events := by
  refine ⟨{ x with launches := mapWhere (·.id == i) g x.launches }, ?_, rfl⟩
  rw [State.modLaunch, State.ctx?_modCtx_same, hx]
  · rfl
  · exact fun _ => rfl

end
end Sys2Proof.Machine

open Sys2Proof.Machine in
/-- Settles O38: the entry's write, and with the last report the completion of the launch. -/
theorem manifests : Obligations.Manifests := by
  unfold Obligations.Manifests
  intro s f c i l r z x hmem hfault hx hl hr ha va hva htr
  have hwalk : onlyWalked s f := by
    have := onlyWalked.translate s hostTlb c va .w
    rwa [htr] at this
  have hlf : f.launch? c i = some l := (State.launch?_congr hwalk.ctxs c i).trans hl
  obtain ⟨hw1, hw2⟩ := exec_manifest hfault ha i
  refine ⟨hwalk, fun hz => ?_, fun t hz hdev h32 hfree => ?_⟩
  · obtain ⟨out, hout, he⟩ := State.writeReport_of_kept hl hr hva htr hz
    obtain ⟨hnoted, hfirst⟩ := State.noteReport_leaves hlf va out
    rw [he] at hw1 hw2
    refine ⟨_, hw1, hw2, fun h => ?_, fun h => ?_⟩
    · rw [show f.noteReport c l l.nextEntry out = { f with out := out } from hnoted h]
      exact ⟨rfl, hout⟩
    · obtain ⟨h1, h2, h3, h4, h5⟩ := hfirst h
      exact ⟨h1, h2, h3.trans hwalk.store, h4.trans hwalk.waves, h5.trans hwalk.berths⟩
  · have he := State.writeReport_of_reached hl hr hva htr hz (Or.inl hdev)
    rw [hfree, if_pos rfl] at he
    rw [he] at hw1 hw2
    have hlv : (f.afterEntry c i r t).launch? c i = some (l.entered r) := State.launch?_afterEntry hlf
    have hbyte (a : Nat) (h : a / 64 ≠ t.at_ / 64) : byteAt (f.writeEntry t (reportWords r)) a = byteAt s a := by
      rw [State.byteAt_writeEntry_ne (by rw [hwalk.store]; exact hmem.1) hdev h32 _ h, byteAt, hwalk.store]
      rfl
    by_cases hlive : l.live ≤ 1
    · set v := (f.afterEntry c i r t).modLaunch c i fun x => { x with live := x.live - 1 } with hv
      have hu : (f.afterEntry c i r t).lowerLive c i = v.completeLaunch c i := State.lowerLive_of_last hlv hlive
      rw [hu] at hw1 hw2
      have hva : v.hmAlive (v.partOfCtx c) = true := by
        have hp : v.partOfCtx c = s.partOfCtx c := (State.partOfCtx_afterEntry c).trans (by rw [State.partOfCtx, State.partOfCtx, hwalk.dies])
        rw [hp]
        exact ((State.hmAlive_afterEntry _).trans (State.hmAlive_congr hwalk.waves hwalk.mode _)).trans ha
      obtain ⟨y, hy, hye⟩ : ∃ y, v.ctx? c = some y ∧ y.events = x.events := by
        obtain ⟨y, hy, hye⟩ := State.ctx?_modLaunch_events (i := i) (g := Launch.entered r) ((State.ctx?_congr hwalk.ctxs c).trans hx)
        rw [← State.ctx?_congr (State.ctxs_afterEntry (t := t))] at hy
        obtain ⟨y', hy', hye'⟩ := State.ctx?_modLaunch_events (i := i) (g := fun x => { x with live := x.live - 1 }) hy
        exact ⟨y', hy', hye'.trans hye⟩
      have hvl : v.launch? c i = some { l.entered r with live := l.live - 1 } := by
        rw [hv, State.launch?_modLaunch_same, hlv]
        · rfl
        · exact fun _ => rfl
      obtain ⟨hgone, hrecs, w, hw, hev, hheld⟩ := State.completeLaunch_leaves hva hy hvl
      refine ⟨_, hw1, hw2, fun id hid => ?_, fun h => absurd h (by omega), fun _ => ⟨hgone, w, hw, fun n hn => ?_, hheld⟩⟩
      · rw [State.rec?, hrecs]
        exact State.rec?_afterEntry hid
      · rw [hev, hye]
        exact getLsbD_setEvents x.events l.words hn
    · have hu : (f.afterEntry c i r t).lowerLive c i = (f.afterEntry c i r t).modLaunch c i fun x => { x with live := x.live - 1 } :=
        State.lowerLive_of_more hlv (by change 2 ≤ l.live; omega)
      rw [hu] at hw1 hw2
      refine ⟨_, hw1, hw2, fun id hid => State.rec?_afterEntry (f := f) (c := c) (i := i) (t := t) hid, fun _ => ⟨?_, fun a h => ?_, ?_⟩, fun h => absurd h hlive⟩
      · rw [State.launch?_modLaunch_same, hlv]
        · rfl
        · exact fun _ => rfl
      · rw [← hbyte a h, byteAt, byteAt]
        exact congrArg (fun st : Store => Memory.read st.data a) State.store_afterEntry
      · rw [← reportWords_eq]
        exact State.store_afterEntry
end

section
/-! SUPPORT of O36. Where the tasks of a launch go, and which records of a berth are clear and stealable (R38, R46, R48, R53, R55, R308, R319). -/

open Sys2Proof
namespace Sys2Proof.Machine

/-! ## Anchors (R38) -/

theorem State.anchor_outside (s : State) (tlb c : Nat) {base : Int} {len : Nat}
    (h : base < 0 ∨ 0xFFFFFFFF0000 ≤ base ∨ 2 ^ 48 < base + len) : s.anchor tlb c base len = (s, .error (0x05, 0)) :=
  if_pos h

/-- An anchor within bounds is placed, or faults, as the walk for its base ends. -/
theorem State.anchor_of_walk {s f : State} {tlb c : Nat} {base : Int} {len : Nat} {r : Walk} (h0 : 0 ≤ base) (h1 : base < 0xFFFFFFFF0000)
    (h2 : base + len ≤ 2 ^ 48) (hw : s.walk tlb c base.toNat = (f, r)) : (s.anchor tlb c base len).1 = f ∧
    (r = .missing → (s.anchor tlb c base len).2 = .error (0x05, 0)) ∧ (r = .badLayout → (s.anchor tlb c base len).2 = .error (0x0B, 0)) ∧
    (r = .ue → (s.anchor tlb c base len).2 = .error (0x15, 5)) ∧
    ∀ level e, r = .leaf level e → (s.anchor tlb c base len).2 =
      if (f.leafTarget c level e base.toNat).space = .dev then .ok (f.leafTarget c level e base.toNat).at_ else .error (0x04, 0) := by
  have hin : ¬ (base < 0 ∨ (unwalkedBase : Int) ≤ base ∨ (2 ^ 48 : Nat) < base + len) := by
    unfold unwalkedBase
    omega
  unfold State.anchor
  rw [if_neg hin, hw]
  refine ⟨rfl, ?_, ?_, ?_, ?_⟩
  · rintro rfl
    rfl
  · rintro rfl
    rfl
  · rintro rfl
    rfl
  · rintro level e rfl
    rfl

/-! ## Places (R46) -/

theorem toSigned_32 (x : Nat) : toSigned 32 x = (BitVec.ofNat 32 x).toInt := by
  simp only [toSigned, BitVec.toInt_eq_toNat_cond, BitVec.toNat_ofNat]
  split <;> split <;> omega

/-- A task of a stride launch: its base, and its home, or the lowest berth of the partition where the anchor faults. -/
theorem State.placeOf_stride {s : State} {n i : Nat} {l : Launch} (h : (launchFields l.words).chart = false) :
    (s.placeOf n l i).base = wordBits l.words 0 0 48 + (BitVec.ofNat 32 (wordBits l.words 2 0 32)).toInt * i ∧
    (∀ g, (s.anchor hostTlb n (s.placeOf n l i).base (launchFields l.words).len).2 = .ok g →
      (s.placeOf n l i).owner = s.berthOf g ∧ (s.placeOf n l i).home = .ok (s.berthOf g)) ∧
    ∀ e, (s.anchor hostTlb n (s.placeOf n l i).base (launchFields l.words).len).2 = .error e →
      (s.placeOf n l i).owner = 64 * s.dies * s.partOfCtx n ∧ (s.placeOf n l i).home = .error e := by
  have hbase : ((launchFields l.words).base : Int) + (launchFields l.words).stride * i =
      wordBits l.words 0 0 48 + (BitVec.ofNat 32 (wordBits l.words 2 0 32)).toInt * i := by
    rw [← toSigned_32]
    rfl
  rw [← hbase]
  unfold State.placeOf
  simp only [h, Bool.false_eq_true, if_false]
  cases ha : (s.anchor hostTlb n ((launchFields l.words).base + (launchFields l.words).stride * i) (launchFields l.words).len).2 with
  | error e =>
    refine ⟨rfl, fun g hg => ?_, fun e' he => ?_⟩
    · rw [ha] at hg
      cases hg
    · rw [ha] at he
      cases he
      exact ⟨rfl, rfl⟩
  | ok g =>
    refine ⟨rfl, fun g' hg => ?_, fun e he => ?_⟩
    · rw [ha] at hg
      cases hg
      exact ⟨rfl, rfl⟩
    · rw [ha] at he
      cases he

/-- The home of a block of a chart is its anchor's. -/
theorem State.placeOf_chart_home {s : State} {n i : Nat} {l : Launch} (h : (launchFields l.words).chart = true) :
    (s.placeOf n l i).home = (s.anchor hostTlb n (s.placeOf n l i).base (launchFields l.words).len).2.map s.berthOf := by
  unfold State.placeOf
  simp only [h, if_true]

/-- A block of a chart of one dimension: owner and base. -/
theorem State.placeOf_chart_one {s : State} {n i : Nat} {l : Launch} {d : ChartDim} (h : (launchFields l.words).chart = true) (hd : chartDims l.chart = [d]) :
    (s.placeOf n l i).owner = wordBits l.chart 0 48 8 + i % d.grid ∧
    (s.placeOf n l i).base = wordBits l.chart 0 0 48 + (chartAddr l.chart [i * d.blk]).2 := by
  unfold State.placeOf
  simp only [h, if_true, hd]
  exact ⟨rfl, rfl⟩

/-- A block of a chart of two dimensions: owner and base. -/
theorem State.placeOf_chart_two {s : State} {n i : Nat} {l : Launch} {d e : ChartDim} (h : (launchFields l.words).chart = true)
    (hd : chartDims l.chart = [d, e]) :
    let across := (d.ext + d.blk - 1) / d.blk
    (s.placeOf n l i).owner = wordBits l.chart 0 48 8 + (i % across % d.grid + d.grid * (i / across % e.grid)) ∧
    (s.placeOf n l i).base = wordBits l.chart 0 0 48 + (chartAddr l.chart [i % across * d.blk, i / across * e.blk]).2 := by
  unfold State.placeOf
  simp only [h, if_true, hd]
  exact ⟨rfl, rfl⟩

theorem enumerationPlaces : Claim.EnumerationPlaces := by
  unfold Claim.EnumerationPlaces
  intro s n i l f p
  refine ⟨fun base => ⟨fun h => ?_, fun h0 h1 h2 t r hw => (State.anchor_of_walk h0 h1 h2 hw).2⟩, State.placeOf_stride, fun h => ⟨fun g hg => ?_, fun e he => ?_,
    fun d hd => State.placeOf_chart_one h hd, fun d e hd => State.placeOf_chart_two h hd⟩⟩
  · rw [State.anchor_outside s hostTlb n h]
  · exact (State.placeOf_chart_home h).trans (by rw [hg]; rfl)
  · exact (State.placeOf_chart_home h).trans (by rw [he]; rfl)

/-! ## Clear records (R48, R319) -/

/-- Each record of a list with those before it. -/
def withEarlier (rs : List TaskRec) : List (TaskRec × List TaskRec) := (List.range rs.length).filterMap fun i => (rs[i]?).map fun r => (r, rs.take i)

/-- Is a record of a berth clear, with those before it? -/
def State.isClear (s : State) (b : Nat) (p : TaskRec × List TaskRec) : Bool :=
  p.1.st == .unclaimed && !((s.ctx? p.1.ctx).map (·.preempted)).getD true
    && match p.1.primary with
      | some q => (s.berth b).recs.any fun r => r.id == q && r.st != .unclaimed
      | none => ((s.typeOf p.1).map (·.disjoint)).getD false || !p.2.any (s.holdsBack · p.1)

theorem State.clearRecs_eq (s : State) (b : Nat) : s.clearRecs b = ((withEarlier (s.berth b).recs).filter (s.isClear b)).map (·.1) := rfl

theorem filterMap_getElem?_range {α : Type} (l : List α) : (List.range l.length).filterMap (fun i => l[i]?) = l := by
  induction l with
  | nil => rfl
  | cons a r ih =>
    rw [List.length_cons, List.range_succ_eq_map, List.filterMap_cons_some (f := fun i => (a :: r)[i]?) (b := a) rfl, List.filterMap_map]
    exact congrArg (a :: ·) ih

theorem withEarlier_map_fst (rs : List TaskRec) : (withEarlier rs).map (·.1) = rs := by
  rw [withEarlier, List.map_filterMap]
  refine Eq.trans (List.filterMap_congr fun i _ => ?_) (filterMap_getElem?_range rs)
  cases rs[i]? <;> rfl

theorem mem_withEarlier {rs xs : List TaskRec} {r : TaskRec} : (r, xs) ∈ withEarlier rs ↔ ∃ i : Nat, rs[i]? = some r ∧ xs = rs.take i := by
  simp only [withEarlier, List.mem_filterMap, List.mem_range, Option.map_eq_some_iff, Prod.mk.injEq]
  constructor
  · rintro ⟨i, -, r', hr, rfl, rfl⟩
    exact ⟨i, hr, rfl⟩
  · rintro ⟨i, hr, rfl⟩
    exact ⟨i, (List.getElem?_eq_some_iff.mp hr).1, r, hr, rfl, rfl⟩

/-- In a list of records with different numbers, a record stands at one place. -/
theorem getElem?_unique_of_ids {rs pre post : List TaskRec} {r : TaskRec} (h : rs = pre ++ r :: post) (hid : (rs.map (·.id)).Nodup) {i : Nat}
    (hi : rs[i]? = some r) : i = pre.length := by
  have hp : rs[pre.length]? = some r := by simp [h]
  have hlt : i < rs.length := (List.getElem?_eq_some_iff.mp hi).1
  exact (List.getElem?_inj hlt hid.of_map).mp (hi.trans hp.symm)

theorem State.mem_clearRecs {s : State} {b : Nat} {pre post : List TaskRec} {r : TaskRec} (h : (s.berth b).recs = pre ++ r :: post)
    (hid : ((s.berth b).recs.map (·.id)).Nodup) : r ∈ s.clearRecs b ↔ s.isClear b (r, pre) = true := by
  rw [State.clearRecs_eq]
  simp only [List.mem_map, List.mem_filter, Prod.exists]
  constructor
  · rintro ⟨_, xs, ⟨hm, hc⟩, rfl⟩
    obtain ⟨i, hi, rfl⟩ := mem_withEarlier.mp hm
    have hpre : (s.berth b).recs.take i = pre := by
      rw [getElem?_unique_of_ids h hid hi, h, List.take_left]
    rwa [hpre] at hc
  · exact fun hc => ⟨r, pre, ⟨mem_withEarlier.mpr ⟨pre.length, by simp [h], by rw [h, List.take_left]⟩, hc⟩, rfl⟩

theorem overlap_iff (x y : TaskFields) :
    overlap x y = true ↔ ∃ a, x.base ≤ a ∧ a < x.base + x.len ∧ y.base ≤ a ∧ a < y.base + y.len := by
  simp only [overlap, Bool.and_eq_true, bne_iff_ne, ne_eq, decide_eq_true_eq]
  constructor
  · rintro ⟨⟨⟨h1, h2⟩, h3⟩, h4⟩
    exact ⟨max x.base y.base, by omega⟩
  · rintro ⟨a, h⟩
    omega

/-- Is the type of a record DISJOINT, by its entry now? -/
def State.disjointType (s : State) (r : TaskRec) : Prop := ∃ t, s.typeOf r = some t ∧ t.disjoint = true

theorem State.disjointType_iff (s : State) (r : TaskRec) : ((s.typeOf r).map (·.disjoint)).getD false = true ↔ s.disjointType r := by
  unfold State.disjointType
  cases s.typeOf r with
  | none => simp
  | some t => simp

theorem State.holdsBack_iff (s : State) (x r : TaskRec) : s.holdsBack x r = true ↔ x.ctx = r.ctx ∧ x.st ≠ .retired ∧ x.primary = none ∧
    ¬ s.disjointType x ∧ ∃ a, wordBits x.words 0 0 48 ≤ a ∧ a < wordBits x.words 0 0 48 + wordBits x.words 1 0 32 ∧
      wordBits r.words 0 0 48 ≤ a ∧ a < wordBits r.words 0 0 48 + wordBits r.words 1 0 32 := by
  simp only [State.holdsBack, Bool.and_eq_true, beq_iff_eq, bne_iff_ne, Option.isNone_iff_eq_none, Bool.not_eq_true', ← s.disjointType_iff,
    Bool.not_eq_true, overlap_iff, and_assoc]
  refine and_congr_right fun _ => and_congr_right fun _ => and_congr_right fun _ => ?_
  exact and_comm

theorem State.isClear_iff (s : State) (b : Nat) (r : TaskRec) (pre : List TaskRec) : s.isClear b (r, pre) = true ↔
    r.st = .unclaimed ∧ (∃ c, s.ctx? r.ctx = some c ∧ c.preempted = false) ∧
      (∀ q, r.primary = some q → ∃ x ∈ (s.berth b).recs, x.id = q ∧ x.st ≠ .unclaimed) ∧
      (r.primary = none → s.disjointType r ∨ ∀ x ∈ pre, s.holdsBack x r = false) := by
  have hctx : ((!((s.ctx? r.ctx).map (·.preempted)).getD true) = true) ↔ ∃ c, s.ctx? r.ctx = some c ∧ c.preempted = false := by
    cases s.ctx? r.ctx <;> simp
  unfold State.isClear
  rw [Bool.and_eq_true, Bool.and_eq_true, beq_iff_eq, hctx, and_assoc]
  refine and_congr_right fun _ => and_congr_right fun _ => ?_
  cases hp : r.primary with
  | some q =>
    simp only [List.any_eq_true, Bool.and_eq_true, beq_iff_eq, bne_iff_ne, Option.some.injEq, reduceCtorEq, false_implies, and_true]
    exact ⟨fun h _ hq => hq ▸ h, fun h => h q rfl⟩
  | none =>
    simp only [Bool.or_eq_true, s.disjointType_iff, Bool.not_eq_true', List.any_eq_false, Bool.not_eq_true, reduceCtorEq, false_implies, implies_true,
      true_and, forall_const]

theorem State.clearRecs_sublist (s : State) (b : Nat) : (s.clearRecs b).Sublist (s.berth b).recs := by
  rw [State.clearRecs_eq]
  have h := (List.filter_sublist (p := s.isClear b) (l := withEarlier (s.berth b).recs)).map (·.1)
  rwa [withEarlier_map_fst] at h

theorem clearTasks : Claim.ClearTasks := by
  unfold Claim.ClearTasks
  intro s b pre post r h hid disjoint base len
  refine ⟨?_, s.clearRecs_sublist b, ?_, fun n => ?_⟩
  · rw [State.mem_clearRecs h hid, s.isClear_iff]
    refine and_congr_right fun _ => and_congr_right fun _ => and_congr_right fun _ => imp_congr_right fun _ => or_congr_right (forall₂_congr fun x _ => ?_)
    rw [← Bool.not_eq_true, s.holdsBack_iff]
    simp only [not_and]
    rfl
  · unfold State.stealable
    cases ht : s.typeOf r with
    | none => simp
    | some t =>
      simp only [Bool.and_eq_true, bne_iff_ne, Bool.or_eq_true, decide_eq_true_eq, Option.some.injEq, exists_eq_left', or_assoc]
      refine and_congr_right fun _ => or_congr_right (or_congr_right ?_)
      simp only [TypeEntry.threshold, Berth.unclaimed, Bool.decide_and, beq_eq_decide]
  · unfold State.canTake
    simp only [Bool.and_eq_true, Bool.or_eq_true, Option.isNone_iff_eq_none, beq_iff_eq]
    refine and_congr_right fun _ => ?_
    cases s.typeOf r <;> simp

end Sys2Proof.Machine
end

section
/-! SUPPORT of O36. Spawns: their answers, and the offers they make (R38, R51, R248, R249). -/

open Sys2Proof
namespace Sys2Proof.Machine

/-- An operation of class `rel` that nothing holds back is performed as its kind says. -/
theorem exec_slotCompletion_rel {s : State} {g id : Nat} {w : Wave} {x : Flight} (hw : s.wave? g = some w) (hx : w.flight? id = some x)
    (hb : s.blocked w x = false) (hc : x.cls = .rel) : exec (.slotCompletion g id) s = .next (s.doFlight w x) := by
  refine Result.next_congr ?_
  simp only [State.withFlight, hw, hx, hb, hc, OrdClass.coreOnly, Bool.false_eq_true, if_false]

/-! ## Answers (R249) -/

/-- The wave of an operation that is answered: its operation is gone, and the status stands in its register. -/
theorem State.wave?_answer {s : State} {g : Nat} {w : Wave} (hw : s.wave? g = some w) (hwf : w.wf = true) (f : Flight) (d status : Nat) :
    ∃ z, (s.answer g f d status).wave? g = some z ∧ z.sreg d = BitVec.ofNat 64 status ∧ z.flights = w.flights.filter (·.id != f.id) := by
  refine ⟨({ w.setS d (BitVec.ofNat 64 status) with flights := w.flights.filter (·.id != f.id) } : Wave).slotDown f.slot, ?_, ?_, ?_⟩
  · rw [State.answer, State.endFlight, State.wave?_modWave_same, hw]
    · rfl
    · exact fun w => Wave.slotDown_gwn ..
  · rw [Wave.sreg, Wave.slotDown_s]
    exact (Wave.sreg_setS w d d _ ((Wave.wf_iff w).mp hwf).1).trans (if_pos rfl)
  · rw [Wave.slotDown_flights]

theorem State.answer_berths (s : State) (g : Nat) (f : Flight) (d status : Nat) : (s.answer g f d status).berths = s.berths := State.modWave_berths ..

theorem State.answer_store (s : State) (g : Nat) (f : Flight) (d status : Nat) : (s.answer g f d status).store = s.store := State.modWave_store ..

/-! ## Offers (R51, R248) -/

/-- A berth whose offers are set holds those, and its records. -/
theorem State.berth_setOffers (s : State) {x : Berth} {c : Nat} (h : x.n = c) (os : List Offer) :
    ((s.setBerth { x with offers := os }).berth c).offers = os ∧ ((s.setBerth { x with offers := os }).berth c).recs = x.recs := by
  have hset : (s.setBerth { x with offers := os }).berth c = { x with offers := os } := State.berth_setBerth_same s (b := { x with offers := os }) h
  rw [hset]
  exact ⟨rfl, rfl⟩

/-- A spawn that has no body to claim it: its anchor spans and its type has no far body. -/
def spawnStuck (base len : Nat) (ty : Option TypeEntry) : Prop := spans base len = true ∧ ∀ y, ty = some y → y.farPc = 0

theorem spawnStuck_iff (base len : Nat) (ty : Option TypeEntry) :
    (spans base len && !((ty.map fun x => x.farPc != 0).getD false)) = true ↔ spawnStuck base len ty := by
  unfold spawnStuck
  cases ty <;> simp

section
variable {s : State} {w : Wave} {x : Flight} {d : Nat} {ws : List Word} (hshadow : s.isShadow w.crew = false)
  (hnew : ∀ b ∈ s.berths, ∀ o ∈ b.offers, ¬ (o.gwn = w.gwn ∧ o.flight = x.id))

/-- The anchor of the record of a spawn, by the translation of the spawner's unit. -/
def State.spawnAnchor (s : State) (w : Wave) (ws : List Word) : State × Except (Nat × Nat) Nat :=
  s.anchor (unitOf w.gwn) w.ctx (wordBits ws 0 0 48 : Nat) (wordBits ws 1 0 32)

include hnew

theorem State.not_offered : (s.berths.any fun b => b.offers.any fun o => o.gwn == w.gwn && o.flight == x.id) = false := by
  simp only [List.any_eq_false, Bool.not_eq_true, Bool.and_eq_true, beq_iff_eq]
  exact fun b hb => by simpa using hnew b hb

include hshadow

/-- A spawn whose anchor faults is answered at once. -/
theorem State.doSpawn_of_fault {cause sev : Nat} (ha : (s.spawnAnchor w ws).2 = .error (cause, sev)) :
    s.doSpawn w x d ws = (s.spawnAnchor w ws).1.answer w.gwn x d (3 + 256 * cause) := by
  unfold State.spawnAnchor at *
  simp only [State.doSpawn, hshadow, State.not_offered hnew, Bool.false_eq_true, if_false, taskFields, ha]

/-- So is one that no unit could claim. -/
theorem State.doSpawn_of_stuck {place : Nat} (ha : (s.spawnAnchor w ws).2 = .ok place)
    (hs : spawnStuck (wordBits ws 0 0 48) (wordBits ws 1 0 32) ((s.spawnAnchor w ws).1.typeEntry w.ctx (wordBits ws 0 48 12)).2) :
    s.doSpawn w x d ws = ((s.spawnAnchor w ws).1.typeEntry w.ctx (wordBits ws 0 48 12)).1.answer w.gwn x d (3 + 256 * 0x0A) := by
  rw [← spawnStuck_iff] at hs
  unfold State.spawnAnchor at *
  simp only [State.doSpawn, hshadow, State.not_offered hnew, Bool.false_eq_true, if_false, taskFields, ha, hs, if_true]

/-- Any other is offered to the berth that homes its base. -/
theorem State.doSpawn_of_place {place : Nat} (ha : (s.spawnAnchor w ws).2 = .ok place)
    (hs : ¬ spawnStuck (wordBits ws 0 0 48) (wordBits ws 1 0 32) ((s.spawnAnchor w ws).1.typeEntry w.ctx (wordBits ws 0 48 12)).2) :
    let e := ((s.spawnAnchor w ws).1.typeEntry w.ctx (wordBits ws 0 48 12)).1
    let b := e.berth (e.berthOf place)
    s.doSpawn w x d ws = e.setBerth { b with offers := b.offers ++ [⟨e.time, w.gwn, x.id⟩] } := by
  rw [← spawnStuck_iff] at hs
  unfold State.spawnAnchor at *
  simp only [State.doSpawn, hshadow, State.not_offered hnew, Bool.false_eq_true, if_false, taskFields, ha]
  exact if_neg hs

end

/-- The answer of an operation after a walk: the status of its cause, and memory and berths as they were. -/
theorem answered_of_walked {s u : State} {g : Nat} {w : Wave} (hu : onlyWalked s u) (hw : s.wave? g = some w) (hwf : w.wf = true) (x : Flight) (d cause : Nat) :
    ∃ z, (u.answer w.gwn x d (3 + 256 * cause)).wave? g = some z ∧ z.sreg d = BitVec.ofNat 64 (256 * cause + 3) ∧
      z.flights = w.flights.filter (·.id != x.id) ∧ (u.answer w.gwn x d (3 + 256 * cause)).berths = s.berths ∧
      (u.answer w.gwn x d (3 + 256 * cause)).store = s.store := by
  obtain ⟨z, hz, hs, hf⟩ := State.wave?_answer ((hu.wave? g).trans hw) hwf x d (3 + 256 * cause)
  rw [State.wave?_gwn hw]
  exact ⟨z, hz, by rw [hs, Nat.add_comm], hf, (State.answer_berths ..).trans hu.berths, (State.answer_store ..).trans hu.store⟩

theorem spawnOffers : Claim.SpawnOffers := by
  unfold Claim.SpawnOffers
  intro s g id d ws w x hw hwf hx hb hc hbody hshadow hnew base len answered
  have hexec : exec (.slotCompletion g id) s = .next (s.doSpawn w x d ws) := by
    rw [exec_slotCompletion_rel hw hx hb hc, State.doFlight, hbody]
  have hfault {cause sev : Nat} (ha : (s.spawnAnchor w ws).2 = .error (cause, sev)) : answered cause := by
    obtain ⟨z, hz⟩ := answered_of_walked (u := (s.spawnAnchor w ws).1) (onlyWalked.anchor ..) hw hwf x d cause
    exact ⟨_, z, hexec.trans (by rw [State.doSpawn_of_fault hshadow hnew ha]), hz⟩
  refine ⟨fun h => hfault (sev := 0) ?_, fun f r h1 h2 hwalk => ?_⟩
  · rw [State.spawnAnchor, State.anchor_outside]
    omega
  · have hwalk' : s.walk (unitOf w.gwn) w.ctx ((base : Int).toNat) = (f, r) := hwalk
    obtain ⟨hf, hmiss, hlay, hue, hleaf⟩ := State.anchor_of_walk (s := s) (tlb := unitOf w.gwn) (c := w.ctx) (base := base) (len := len) (by omega) (by omega)
      (by omega) hwalk'
    refine ⟨fun h => hfault (hmiss h), fun h => hfault (hlay h), fun h => hfault (hue h), ?_⟩
    intro level e h t ty stuck
    have hplace := hleaf level e h
    change (s.spawnAnchor w ws).1 = f at hf
    change (s.spawnAnchor w ws).2 = if t.space = .dev then .ok t.at_ else .error (0x04, 0) at hplace
    have hsf : onlyWalked s f := hf ▸ onlyWalked.anchor ..
    have hse := hsf.trans (onlyWalked.typeEntry f w.ctx (wordBits ws 0 48 12))
    refine ⟨fun ht => hfault (hplace.trans (if_neg ht)), fun ht hs => ?_, fun ht hs => ?_⟩
    · have hsp := State.doSpawn_of_stuck (d := d) hshadow hnew (hplace.trans (if_pos ht)) (hf ▸ hs)
      rw [hf] at hsp
      obtain ⟨z, hz⟩ := answered_of_walked hse hw hwf x d 0x0A
      exact ⟨_, z, hexec.trans (by rw [hsp]), hz⟩
    · have hsp := State.doSpawn_of_place (d := d) hshadow hnew (hplace.trans (if_pos ht)) (hf ▸ hs)
      dsimp only at hsp
      rw [hf, hse.berthOf, hse.time, State.berth_congr hse.berths] at hsp
      rw [hsp] at hexec
      obtain ⟨ho, hr⟩ := State.berth_setOffers (f.typeEntry w.ctx (wordBits ws 0 48 12)).1 (s.berth_n (s.berthOf t.at_))
        ((s.berth (s.berthOf t.at_)).offers ++ [⟨s.time, w.gwn, x.id⟩])
      refine ⟨_, hexec, hse.waves, hse.store, ho, hr, fun b hne => ?_⟩
      rw [State.berth_setBerth_ne _ (by simpa using Ne.symm hne), State.berth_congr hse.berths]

end Sys2Proof.Machine
end

section
/-! SUPPORT of O36. The slots that a claimed crew takes, and the registers with which its waves start (R61, R62, R139, R312). -/

open Sys2Proof
namespace Sys2Proof.Machine

/-! ## Numbers of waves (R139) -/

theorem slotsOf_far {u : Nat} (h : u < 256) : slotsOf u = 32 := if_pos h

theorem slotsOf_quay {u : Nat} (h : 256 ≤ u) : slotsOf u = 4 := if_neg (by omega)

/-- The units that claim tasks, far cores and quay units, number their waves by their slots. -/
theorem place_gwnOf {u x : Nat} (hu : u < 512) (hx : x < slotsOf u) : unitOf (gwnOf u x) = u ∧ slotOf (gwnOf u x) = x := by
  unfold unitOf slotOf gwnOf
  by_cases h : u < 256
  · rw [slotsOf_far h] at hx
    rw [if_pos h, if_pos (by omega), if_pos (by omega)]
    omega
  · rw [slotsOf_quay (by omega)] at hx
    rw [if_neg h, if_pos hu, if_neg (by omega), if_pos (by omega), if_neg (by omega), if_pos (by omega)]
    omega

/-! ## Free slots (R312) -/

/-- The occupied slots of one scheduler of a far core. -/
def busySlots (used : List Nat) (k : Nat) : Nat := (used.filter fun x => x / 8 == k).length

/-- Of n numbers in a row one is not in a shorter list. -/
theorem exists_not_mem_of_length_lt (a n : Nat) {l : List Nat} (h : l.length < n) : ∃ i, i < n ∧ a + i ∉ l := by
  by_contra hall
  have hsub : (List.range n).map (a + ·) ⊆ l := by
    intro x hx
    obtain ⟨i, hi, rfl⟩ := List.mem_map.mp hx
    by_contra hx
    exact hall ⟨i, List.mem_range.mp hi, hx⟩
  have hnd : ((List.range n).map (a + ·)).Nodup := List.nodup_range.map fun _ _ h => by simpa using h
  have := (List.subperm_of_subset hnd hsub).length_le
  simp only [List.length_map, List.length_range] at this
  omega

theorem busySlots_add_le (used : List Nat) : busySlots used 0 + busySlots used 1 + busySlots used 2 + busySlots used 3 ≤ used.length := by
  unfold busySlots
  induction used with
  | nil => simp
  | cons x l ih =>
    have hx : (if x / 8 = 0 then 1 else 0) + (if x / 8 = 1 then 1 else 0) + (if x / 8 = 2 then 1 else 0) + (if x / 8 = 3 then 1 else 0) ≤ 1 := by
      split <;> split <;> split <;> split <;> omega
    have hcons (k : Nat) : ((x :: l).filter fun y => y / 8 == k).length = (l.filter fun y => y / 8 == k).length + if x / 8 = k then 1 else 0 := by
      by_cases h : x / 8 = k <;> simp [h]
    rw [hcons, hcons, hcons, hcons, List.length_cons]
    omega

/-- The least of some numbers by a measure: one of them, and none measures less. -/
theorem foldl_least {f : Nat → Nat} (l : List Nat) (b : Nat) :
    let k := l.foldl (fun best k => if f k < f best then k else best) b
    (k = b ∨ k ∈ l) ∧ f k ≤ f b ∧ ∀ j ∈ l, f k ≤ f j := by
  induction l generalizing b with
  | nil => simp
  | cons a l ih =>
    obtain ⟨hmem, hb, hl⟩ := ih (if f a < f b then a else b)
    have hab : f (if f a < f b then a else b) ≤ f a ∧ f (if f a < f b then a else b) ≤ f b := by
      split <;> omega
    refine ⟨?_, hb.trans hab.2, fun j hj => ?_⟩
    · rw [List.foldl_cons, List.mem_cons]
      rcases hmem with h | h
      · rw [h]
        split
        · exact .inr (.inl rfl)
        · exact .inl rfl
      · exact .inr (.inr h)
    · rcases List.mem_cons.mp hj with rfl | h
      · exact hb.trans hab.1
      · exact hl j h

/-- A search among candidates of which one is free finds a free one. -/
theorem find?_free {used cs : List Nat} (h : ∃ x ∈ cs, x ∉ used) :
    ((cs.find? fun i => !used.contains i).getD 0) ∈ cs ∧ ((cs.find? fun i => !used.contains i).getD 0) ∉ used := by
  cases hf : cs.find? fun i => !used.contains i with
  | none =>
    obtain ⟨x, hx, hu⟩ := h
    exact absurd (List.find?_eq_none.mp hf x hx) (by simpa using hu)
  | some x => exact ⟨List.mem_of_find?_eq_some hf, by simpa using List.find?_some hf⟩

/-- The scheduler of a far core with the fewest occupied slots. -/
def leastBusy (used : List Nat) : Nat := (List.range 4).foldl (fun best k => if busySlots used k < busySlots used best then k else best) 0

/-- On a core with a free slot the least busy scheduler has one. -/
theorem busySlots_leastBusy_lt {used : List Nat} (h : used.length < 32) : leastBusy used < 4 ∧ busySlots used (leastBusy used) < 8 := by
  obtain ⟨hmem, -, hleast⟩ := foldl_least (f := busySlots used) (List.range 4) 0
  change leastBusy used = 0 ∨ leastBusy used ∈ List.range 4 at hmem
  change ∀ j ∈ List.range 4, busySlots used (leastBusy used) ≤ busySlots used j at hleast
  have h0 := hleast 0 (by decide)
  have h1 := hleast 1 (by decide)
  have h2 := hleast 2 (by decide)
  have h3 := hleast 3 (by decide)
  have := busySlots_add_le used
  refine ⟨?_, by omega⟩
  rcases hmem with h | h
  · omega
  · exact List.mem_range.mp h

theorem nextSlot_quay {u : Nat} (h : 256 ≤ u) (used : List Nat) : nextSlot u used = ((List.range 4).find? fun i => !used.contains i).getD 0 := if_pos h

theorem nextSlot_far {u : Nat} (h : u < 256) (used : List Nat) :
    nextSlot u used = (((List.range 8).map fun i => 8 * leastBusy used + i).find? fun i => !used.contains i).getD 0 := if_neg (by omega)

/-- A unit with a slot left gives the next wave a free slot of its own. -/
theorem nextSlot_free {u : Nat} {used : List Nat} (h : used.length < slotsOf u) : nextSlot u used < slotsOf u ∧ nextSlot u used ∉ used := by
  by_cases hu : u < 256
  · rw [slotsOf_far hu] at h ⊢
    rw [nextSlot_far hu]
    obtain ⟨hk, hbusy⟩ := busySlots_leastBusy_lt h
    obtain ⟨i, hi, hfree⟩ := exists_not_mem_of_length_lt (8 * leastBusy used) 8 hbusy
    have hex : ∃ x ∈ (List.range 8).map (fun i => 8 * leastBusy used + i), x ∉ used := by
      refine ⟨8 * leastBusy used + i, List.mem_map.mpr ⟨i, List.mem_range.mpr hi, rfl⟩, fun hx => hfree (List.mem_filter.mpr ⟨hx, ?_⟩)⟩
      rw [beq_iff_eq]
      omega
    obtain ⟨hmem, hfree⟩ := find?_free hex
    refine ⟨?_, hfree⟩
    obtain ⟨j, hj, he⟩ := List.mem_map.mp hmem
    have := List.mem_range.mp hj
    omega
  · have hq : 256 ≤ u := by omega
    rw [slotsOf_quay hq] at h ⊢
    rw [nextSlot_quay hq]
    obtain ⟨i, hi, hfree⟩ := exists_not_mem_of_length_lt 0 4 h
    obtain ⟨hmem, hfree⟩ := find?_free (cs := List.range 4) ⟨0 + i, by simpa using hi, hfree⟩
    exact ⟨List.mem_range.mp hmem, hfree⟩

/-- The slots of a crew for which there is room: as many as its waves, free and different. -/
theorem crewSlots_free {u n : Nat} {used : List Nat} (h : used.length + n ≤ slotsOf u) :
    (crewSlots u n used).length = n ∧ (crewSlots u n used).Nodup ∧ ∀ x ∈ crewSlots u n used, x < slotsOf u ∧ x ∉ used := by
  induction n generalizing used with
  | zero => simp [crewSlots]
  | succ n ih =>
    obtain ⟨hlt, hfree⟩ := nextSlot_free (u := u) (used := used) (by omega)
    obtain ⟨hlen, hnd, hall⟩ := ih (used := nextSlot u used :: used) (by simp only [List.length_cons]; omega)
    refine ⟨by simp [crewSlots, hlen], List.nodup_cons.mpr ⟨fun hx => (hall _ hx).2 List.mem_cons_self, hnd⟩, fun x hx => ?_⟩
    rcases List.mem_cons.mp hx with rfl | hx
    · exact ⟨hlt, hfree⟩
    · exact ⟨(hall x hx).1, fun hu => (hall x hx).2 (List.mem_cons_of_mem _ hu)⟩

/-! ## Crew identities -/

theorem le_foldl_max {α : Type} (f : α → Nat) (l : List α) (m : Nat) :
    m ≤ l.foldl (fun m a => max m (f a)) m ∧ ∀ a ∈ l, f a ≤ l.foldl (fun m a => max m (f a)) m := by
  induction l generalizing m with
  | nil => simp
  | cons a l ih =>
    obtain ⟨hm, hl⟩ := ih (max m (f a))
    refine ⟨(le_max_left ..).trans hm, fun x hx => ?_⟩
    rcases List.mem_cons.mp hx with rfl | hx
    · exact (le_max_right ..).trans hm
    · exact hl x hx

/-- A new crew's identity is no crew's. -/
theorem State.nextCrew_ne {s : State} {c : Crew} (h : c ∈ s.crews) : c.id ≠ s.nextCrew := by
  have := (le_foldl_max (fun c : Crew => c.id) (s.crews ++ s.ctxs.flatMap fun c => c.images.flatMap (·.crews)) 0).2 c (List.mem_append_left _ h)
  unfold State.nextCrew
  omega

/-! ## Starting registers (R62) -/

theorem Cells.get_setMany_of_not_mem {w : Nat} {l : List (Nat × BitVec w)} {c : Cells w} {j : Nat} (hc : Cells.wf c = true) (h : ∀ p ∈ l, p.1 ≠ j) :
    Cells.get (Cells.setMany c l) j = Cells.get c j := by
  induction l generalizing c with
  | nil => rfl
  | cons p l ih =>
    rw [Cells.setMany, ih (Cells.wf_set _ _ _ hc) (fun q hq => h q (List.mem_cons_of_mem _ hq)), Cells.get_set _ _ _ _ hc,
      if_neg (by simpa using h p List.mem_cons_self)]

/-- What is written once at a key is read there. -/
theorem Cells.get_setMany_of_mem {w : Nat} {l : List (Nat × BitVec w)} {c : Cells w} {j : Nat} {v : BitVec w} (hc : Cells.wf c = true)
    (hnd : (l.map (·.1)).Nodup) (h : (j, v) ∈ l) : Cells.get (Cells.setMany c l) j = v := by
  induction l generalizing c with
  | nil => cases h
  | cons p l ih =>
    obtain ⟨hp, hnd⟩ := List.nodup_cons.mp hnd
    rw [Cells.setMany]
    rcases List.mem_cons.mp h with rfl | h
    · rw [Cells.get_setMany_of_not_mem (Cells.wf_set _ _ _ hc) fun q hq he => hp (List.mem_map.mpr ⟨q, hq, he⟩), Cells.get_set _ _ _ _ hc, if_pos rfl]
    · exact ih (Cells.wf_set _ _ _ hc) hnd h

/-- The registers of R62 with their values. -/
def abiList (r : TaskRec) (berth ix n : Nat) : List (Nat × Word) :=
  let f := taskFields r.words
  [(0, BitVec.ofNat 64 f.base), (1, BitVec.ofNat 64 f.len), (2, BitVec.ofNat 64 r.seq), (3, BitVec.ofNat 64 (f.ty + f.prio * 2 ^ 16))] ++
    (List.range 6).map (fun i => (4 + i, r.words.getD (2 + i) 0)) ++
    [(10, BitVec.ofNat 64 (ix + (n - 1) * 16)), (11, BitVec.ofNat 64 berth), (12, BitVec.ofNat 64 r.launch)]

theorem abiList_keys (r : TaskRec) (berth ix n : Nat) : (abiList r berth ix n).map (·.1) = List.range 13 := rfl

theorem get_abiRegs_of_mem {r : TaskRec} {berth ix n j : Nat} {v : Word} (h : (j, v) ∈ abiList r berth ix n) : Cells.get (abiRegs r berth ix n) j = v :=
  Cells.get_setMany_of_mem Cells.wf_nil (abiList_keys r berth ix n ▸ List.nodup_range) h

theorem get_abiRegs_of_le {r : TaskRec} {berth ix n j : Nat} (h : 13 ≤ j) : Cells.get (abiRegs r berth ix n) j = 0 := by
  refine Cells.get_setMany_of_not_mem Cells.wf_nil fun p hp => ?_
  have : p.1 ∈ (abiList r berth ix n).map (·.1) := List.mem_map_of_mem hp
  rw [abiList_keys, List.mem_range] at this
  omega

theorem getLsbD_abiP6 (len : Nat) {x : Nat} (hx : x < 32) : (abiP6 len).getLsbD x = decide (4 * x < min len 128) := by
  rw [abiP6, BitVec.getLsbD_ofNat, testBit_maskOf]
  simp [hx]

end Sys2Proof.Machine
end

section
/-! SUPPORT of O36. What a unit's claim leaves (R54 to R58, R61, R62, R307, R312, R378, R379). -/

open Sys2Proof
namespace Sys2Proof.Machine

/-- The waves of a claimed crew: a quay unit's crew has one (R61). -/
def crewSize (u : Nat) (t : TypeEntry) : Nat := if decide (256 ≤ u) then 1 else t.crew

/-- The slot of wave i of a crew that a unit claims. -/
def State.claimSlot (s : State) (u : Nat) (t : TypeEntry) (i : Nat) : Nat := (crewSlots u (crewSize u t) (s.slotsUsed u)).getD i 0

/-- Wave i of a crew that a unit claims. -/
def State.claimWave (s : State) (u b : Nat) (r : TaskRec) (t : TypeEntry) (i : Nat) : Wave :=
  s.newWave u (s.claimSlot u t i) s.nextCrew r t b i (crewSize u t) (if decide (256 ≤ u) then t.nearPc else t.farPc)

/-- The waves of a crew that a unit claims. -/
def State.claimWaves (s : State) (u b : Nat) (r : TaskRec) (t : TypeEntry) : List Wave := (List.range (crewSize u t)).map (s.claimWave u b r t)

/-- The crew that a claim makes. -/
def State.claimCrew (s : State) (u b : Nat) (r : TaskRec) (t : TypeEntry) : Crew where
  id := s.nextCrew
  unit := u
  ctx := r.ctx
  berth := b
  record := r.id
  seq := r.seq
  launch := r.launch
  type := (taskFields r.words).ty
  waves := (s.claimWaves u b r t).map (·.gwn)
  alive := crewSize u t
  units := t.scratch
  scratch := []
  full := []
  bad := []
  fault := none
  shadow := r.primary.isSome
  sig := 0

/-- The walk that a claim makes, and the lines that it holds: a far core's holds none. -/
def State.claimLines (s : State) (u b : Nat) (r : TaskRec) : State × List Nat :=
  if decide (256 ≤ u) then s.nearLines b r.ctx (taskFields r.words).base (taskFields r.words).len else (s, [])

/-- A claimed record. -/
def TaskRec.claimed (crew die : Nat) (holds : List Nat) (r : TaskRec) : TaskRec := { r with st := .running crew, holds := holds, die := die }

/-- The state in which a claim's lines are held. -/
def State.claimHeld (s : State) (u b : Nat) (r : TaskRec) : State := (s.claimLines u b r).1.holdLines (s.claimLines u b r).2

/-- The state in which a claim's record, crew and waves stand. -/
def State.claimTaken (s : State) (u b : Nat) (r : TaskRec) (t : TypeEntry) : State :=
  let h := s.claimHeld u b r
  let x := h.modRec b r.id (TaskRec.claimed s.nextCrew (h.dieOf u) (s.claimLines u b r).2)
  { x with crews := x.crews ++ [s.claimCrew u b r t], others := x.others ++ s.claimWaves u b r t }

/-- A far core binds to the context that it serves. -/
def State.claimBound (s : State) (u b : Nat) (r : TaskRec) (t : TypeEntry) : State :=
  if decide (256 ≤ u) then s.claimTaken u b r t else (s.claimTaken u b r t).bind u r.ctx

section
variable {s : State} {u b : Nat} {r : TaskRec} {t : TypeEntry}

theorem State.claim_eq (ht : s.typeOf r = some t) (hbad : r.bad = false) : s.claim u b r = ((s.claimBound u b r t).flushL1 u).flushIc u := by
  unfold State.claim
  simp only [ht, hbad, Bool.false_eq_true, if_false]
  rfl

theorem State.claim_of_bad (ht : s.typeOf r = some t) (hbad : r.bad = true) : s.claim u b r = s.claimBad b r := by
  unfold State.claim
  simp only [ht, hbad, if_true]

theorem State.claim_of_untyped (ht : s.typeOf r = none) : s.claim u b r = s := by
  unfold State.claim
  simp only [ht]

/-! ## What the parts of a claim leave -/

theorem tlbWalked.claimLines (s : State) (u b : Nat) (r : TaskRec) : tlbWalked s (s.claimLines u b r).1 := by
  unfold State.claimLines
  split
  · exact tlbWalked.nearLines ..
  · exact tlbWalked.refl s

/-- A binding changes the engine state of its core alone. -/
theorem State.bind_eq (s : State) (n c : Nat) : s.bind n c = { s with cores := (s.bind n c).cores } := by
  unfold State.bind
  dsimp only
  split
  · rfl
  · rfl

theorem State.claimBound_eq : s.claimBound u b r t = { s.claimTaken u b r t with cores := (s.claimBound u b r t).cores } := by
  unfold State.claimBound
  split
  · rfl
  · exact State.bind_eq ..

theorem State.claimHeld_eq : s.claimHeld u b r = { s with caches := (s.claimHeld u b r).caches, out := { s.out with errors := (s.claimHeld u b r).out.errors } } := by
  have h := tlbWalked.claimLines s u b r
  have hl : s.claimHeld u b r = { (s.claimLines u b r).1 with caches := (s.claimHeld u b r).caches } := rfl
  rw [hl]
  unfold tlbWalked at h
  generalize (s.claimLines u b r).1 = f at h ⊢
  rw [h]

/-- How a claim changes its record. -/
def State.claimRec (s : State) (u b : Nat) (r : TaskRec) : TaskRec → TaskRec :=
  TaskRec.claimed s.nextCrew ((s.claimHeld u b r).dieOf u) (s.claimLines u b r).2

theorem State.claimTaken_eq : s.claimTaken u b r t = { s with
    caches := (s.claimHeld u b r).caches
    out := { s.out with errors := (s.claimHeld u b r).out.errors }
    berths := (s.modRec b r.id (s.claimRec u b r)).berths
    crews := s.crews ++ [s.claimCrew u b r t]
    others := s.others ++ s.claimWaves u b r t } := by
  have hheld := s.claimHeld_eq (u := u) (b := b) (r := r)
  unfold State.claimTaken State.claimRec
  dsimp only
  generalize (s.claimHeld u b r).dieOf u = die
  generalize s.claimHeld u b r = f at hheld ⊢
  rw [hheld]
  rfl

variable (ht : s.typeOf r = some t) (hbad : r.bad = false)
include ht hbad

/-- A claim of a sound record whose type is read changes caches, errors recorded, cores, crews, waves and its record. -/
theorem State.claim_rest : s.claim u b r = { s with
    caches := (s.claim u b r).caches
    out := { s.out with errors := (s.claim u b r).out.errors }
    cores := (s.claim u b r).cores
    berths := (s.modRec b r.id (s.claimRec u b r)).berths
    crews := s.crews ++ [s.claimCrew u b r t]
    others := s.others ++ s.claimWaves u b r t } := by
  rw [State.claim_eq ht hbad, State.claimBound_eq, State.claimTaken_eq]
  rfl

theorem State.berths_claim : (s.claim u b r).berths = (s.modRec b r.id (s.claimRec u b r)).berths := by rw [State.claim_rest ht hbad]

theorem State.crews_claim : (s.claim u b r).crews = s.crews ++ [s.claimCrew u b r t] := by rw [State.claim_rest ht hbad]

theorem State.waves_claim : (s.claim u b r).waves = s.waves ++ s.claimWaves u b r t := by
  rw [State.claim_rest ht hbad]
  rfl

theorem State.store_claim : (s.claim u b r).store = s.store := by rw [State.claim_rest ht hbad]

theorem State.pilots_claim : (s.claim u b r).pilots = s.pilots := by rw [State.claim_rest ht hbad]

theorem State.rec?_claim : (s.claim u b r).rec? b r.id = (s.rec? b r.id).map (s.claimRec u b r) := by
  rw [State.rec?, State.berth_congr (State.berths_claim ht hbad)]
  exact State.rec?_modRec_same s b r.id fun _ => rfl

theorem State.cores_claim : (s.claim u b r).cores = if 256 ≤ u then s.cores else (s.bind u r.ctx).cores := by
  have hcores : (s.claimTaken u b r t).cores = s.cores := by rw [State.claimTaken_eq]
  rw [State.claim_eq ht hbad]
  change (s.claimBound u b r t).cores = _
  unfold State.claimBound
  by_cases h : 256 ≤ u
  · rw [if_pos (decide_eq_true h), if_pos h, hcores]
  · rw [if_neg (by simpa using h), if_neg h]
    unfold State.bind State.core
    rw [hcores]
    dsimp only
    split
    · rw [State.setCore_cores, State.setCore_cores, hcores]
    · rw [State.setCore_cores, State.setCore_cores, hcores]

theorem State.near_claim : (s.claim u b r).caches.near = (s.holdLines (s.claimLines u b r).2).caches.near := by
  have hnear := (tlbWalked.claimLines s u b r).near
  rw [State.claim_eq ht hbad]
  change (s.claimBound u b r t).caches.near = _
  rw [State.claimBound_eq, State.claimTaken_eq, State.claimHeld]
  unfold State.holdLines
  rw [hnear]

theorem State.l1_claim : (s.claim u b r).caches.l1 = (s.caches.l1.filter fun c => !(s.claimLines u b r).2.contains c.line).filter fun c => c.core != u := by
  have hl1 := (tlbWalked.claimLines s u b r).l1
  rw [State.claim_eq ht hbad]
  change ((s.claimBound u b r t).caches.l1).filter _ = _
  rw [State.claimBound_eq, State.claimTaken_eq, State.claimHeld]
  unfold State.holdLines
  rw [hl1]

theorem State.ic_claim : ∀ c ∈ (s.claim u b r).caches.ic, c.unit ≠ u := by
  rw [State.claim_eq ht hbad]
  intro c hc
  simpa using (List.mem_filter.mp hc).2

end

end Sys2Proof.Machine
end

section
/-! SUPPORT of O36. The crew, the waves and the registers of a claimed task (R56, R61, R62, R307, R312, R378). -/

open Sys2Proof
namespace Sys2Proof.Machine

theorem typeFields_crew (ws : List Word) : 1 ≤ (typeFields ws).crew := Nat.le_add_left ..

/-- A type that is read gives a crew of at least one wave (R39). -/
theorem State.crew_of_typeOf {s : State} {r : TaskRec} {t : TypeEntry} (h : s.typeOf r = some t) : 1 ≤ t.crew := by
  unfold State.typeOf State.typeEntry at h
  split at h
  · cases h
  · split at h
    · cases h
    · dsimp only at h
      split at h
      · split at h
        · cases h
          exact typeFields_crew _
        · cases h
      · cases h

section
variable {s : State} {u b : Nat} {r : TaskRec} {t : TypeEntry} (hu : u < 512) (hroom : (s.slotsUsed u).length + t.crew ≤ slotsOf u) (hcrew : 1 ≤ t.crew)

include hroom hcrew

theorem State.crewSize_room : (s.slotsUsed u).length + crewSize u t ≤ slotsOf u := by
  unfold crewSize
  split
  · omega
  · exact hroom

/-- The slots of a claimed crew are free, and no two of its waves share one. -/
theorem State.claimSlot_free {i : Nat} (hi : i < crewSize u t) :
    s.claimSlot u t i < slotsOf u ∧ s.claimSlot u t i ∉ s.slotsUsed u ∧ ∀ j, j < crewSize u t → s.claimSlot u t i = s.claimSlot u t j → i = j := by
  obtain ⟨hlen, hnd, hall⟩ := crewSlots_free (State.crewSize_room hroom hcrew)
  have hget {j : Nat} (hj : j < crewSize u t) : s.claimSlot u t j = (crewSlots u (crewSize u t) (s.slotsUsed u))[j]'(by omega) :=
    List.getD_eq_getElem _ _ _
  obtain ⟨hlt, hfree⟩ := hall _ (List.getElem_mem (by omega : i < _))
  refine ⟨hget hi ▸ hlt, hget hi ▸ hfree, fun j hj he => ?_⟩
  rw [hget hi, hget hj] at he
  exact (hnd.getElem_inj_iff).mp he

include hu

theorem State.claimWave_place {i : Nat} (hi : i < crewSize u t) :
    unitOf (s.claimWave u b r t i).gwn = u ∧ slotOf (s.claimWave u b r t i).gwn = s.claimSlot u t i :=
  place_gwnOf hu (State.claimSlot_free hroom hcrew hi).1

theorem State.claimCrew_waves_nodup : (s.claimCrew u b r t).waves.Nodup := by
  change (((List.range (crewSize u t)).map (s.claimWave u b r t)).map (·.gwn)).Nodup
  rw [List.map_map]
  refine List.Nodup.map_on (fun i hi j hj he => ?_) List.nodup_range
  rw [List.mem_range] at hi hj
  refine (State.claimSlot_free hroom hcrew hi).2.2 j hj ?_
  rw [← (State.claimWave_place (b := b) (r := r) hu hroom hcrew hi).2, ← (State.claimWave_place (b := b) (r := r) hu hroom hcrew hj).2]
  exact congrArg slotOf he

end

section
variable {s : State} {u b : Nat} {r : TaskRec} {t : TypeEntry}

theorem State.claimCrew_waves_length : (s.claimCrew u b r t).waves.length = crewSize u t := by
  simp [State.claimCrew, State.claimWaves]

theorem State.claimCrew_waves_getElem? {i : Nat} (hi : i < crewSize u t) : (s.claimCrew u b r t).waves[i]? = some (s.claimWave u b r t i).gwn := by
  simp [State.claimCrew, State.claimWaves, hi]

/-- The registers with which a claimed wave starts. -/
theorem State.claimWave_sreg (i : Nat) : let w := s.claimWave u b r t i
    w.sreg 0 = BitVec.ofNat 64 (wordBits r.words 0 0 48) ∧ w.sreg 1 = BitVec.ofNat 64 (wordBits r.words 1 0 32) ∧ w.sreg 2 = BitVec.ofNat 64 r.seq ∧
    w.sreg 3 = BitVec.ofNat 64 (wordBits r.words 0 48 12 + 2 ^ 16 * wordBits r.words 1 32 5) ∧ (∀ j, j < 6 → w.sreg (4 + j) = r.words.getD (2 + j) 0) ∧
    w.sreg 10 = BitVec.ofNat 64 (i + 16 * (crewSize u t - 1)) ∧ w.sreg 11 = BitVec.ofNat 64 b ∧ w.sreg 12 = BitVec.ofNat 64 r.launch ∧
    ∀ j, 13 ≤ j → w.sreg j = 0 := by
  intro w
  have hget (j : Nat) : w.sreg j = Cells.get (abiRegs r b i (crewSize u t)) j := rfl
  simp only [hget, Nat.mul_comm 16, Nat.mul_comm (2 ^ 16)]
  refine ⟨?_, ?_, ?_, ?_, fun j hj => ?_, ?_, ?_, ?_, fun j hj => get_abiRegs_of_le hj⟩ <;> apply get_abiRegs_of_mem
  case refine_5 => exact List.mem_append_left _ (List.mem_append_right _ (List.mem_map.mpr ⟨j, List.mem_range.mpr hj, rfl⟩))
  all_goals simp [abiList, taskFields]

theorem State.claimWave_preg (i : Nat) : let w := s.claimWave u b r t i
    (∀ j, j < 6 → w.preg j = 0) ∧ w.preg 7 = BitVec.allOnes 32 ∧
    ∀ x, x < 32 → (w.preg 6).getLsbD x = decide (4 * x < min (wordBits r.words 1 0 32) 128) := by
  have hget (j : Nat) (hj : j ≠ 7) : (s.claimWave u b r t i).preg j = if 6 = j then abiP6 (wordBits r.words 1 0 32) else 0 := by
    rw [Wave.preg, if_neg hj]
    exact Cells.get_set [] 6 (abiP6 (wordBits r.words 1 0 32)) j Cells.wf_nil
  refine ⟨fun j hj => ?_, rfl, fun x hx => ?_⟩
  · rw [hget j (by omega), if_neg (by omega)]
  · rw [hget 6 (by decide), if_pos rfl, getLsbD_abiP6 _ hx]

theorem State.bind_bound (s : State) (n c : Nat) : ((s.bind n c).core n).bound = some c ∧
    ((s.core n).served ≠ some c → ((s.bind n c).core n).banks = [] ∧ ((s.bind n c).core n).tables = [] ∧ ((s.bind n c).core n).active = 0) := by
  by_cases h : (s.core n).served = some c
  · have hb : s.bind n c = s.setCore { s.core n with bound := some c } := if_pos h
    rw [hb]
    exact ⟨congrArg FarCore.bound (State.core_setCore_same s (k := { s.core n with bound := some c }) (s.core_core n)), fun hn => absurd h hn⟩
  · have hb : s.bind n c = s.setCore { FarCore.empty n with bound := some c, served := some c } := if_neg h
    have hset := State.core_setCore_same s (k := { FarCore.empty n with bound := some c, served := some c }) (n := n) rfl
    rw [hb]
    exact ⟨congrArg FarCore.bound hset, fun _ => ⟨congrArg FarCore.banks hset, congrArg FarCore.tables hset, congrArg FarCore.active hset⟩⟩

theorem State.core_congr {s v : State} (h : v.cores = s.cores) (n : Nat) : v.core n = s.core n := by
  rw [State.core, State.core, h]

/-- A claim of a sound record for which the unit has room. -/
theorem claimed_claim (hu : u < 512) (ht : s.typeOf r = some t) (hbad : r.bad = false) (hrec : s.rec? b r.id = some r)
    (hroom : (s.slotsUsed u).length + t.crew ≤ slotsOf u) : Claim.claimed s (s.claim u b r) u b r t := by
  have hcrew := State.crew_of_typeOf ht
  have hsize : (if 256 ≤ u then 1 else t.crew) = crewSize u t := by simp [crewSize]
  have hids : ∀ c ∈ s.crews, c.id ≠ s.nextCrew := fun c hc => State.nextCrew_ne hc
  unfold Claim.claimed
  rw [hsize]
  refine ⟨s.claimCrew u b r t, ?_, hids, rfl, rfl, rfl, rfl, rfl, rfl, rfl, State.claimCrew_waves_length, State.claimCrew_waves_nodup hu hroom hcrew, rfl, rfl, rfl,
    rfl, rfl, rfl, rfl, ?_, State.crews_claim ht hbad, State.store_claim ht hbad, ?_, ?_, State.ic_claim ht hbad, fun hfar => ?_, fun i hi => ?_⟩
  · rw [State.crew?, State.crews_claim ht hbad, List.find?_append, List.find?_eq_none.mpr fun c hc => by simpa [State.claimCrew] using hids c hc]
    simp
  · rw [State.rec?_claim ht hbad, hrec]
    rfl
  · rw [State.waves_claim ht hbad]
    exact fun w hw => List.mem_append_left _ hw
  · rw [State.l1_claim ht hbad]
    intro c hc
    simpa using (List.mem_filter.mp hc).2
  · rw [State.core_congr ((State.cores_claim ht hbad).trans (if_neg (by omega)))]
    exact State.bind_bound s u r.ctx
  · obtain ⟨hunit, hslot⟩ := State.claimWave_place (b := b) (r := r) hu hroom hcrew hi
    obtain ⟨h0, h1, h2, h3, h4, h10, h11, h12, hz⟩ := State.claimWave_sreg (s := s) (u := u) (b := b) (r := r) (t := t) i
    refine ⟨s.claimWave u b r t i, ?_, State.claimCrew_waves_getElem? hi, hunit, ?_, rfl, rfl, rfl, rfl, ?_, rfl, rfl, rfl, rfl, rfl, rfl, rfl, rfl,
      h0, h1, h2, h3, h4, h10, h11, h12, fun j hj _ => hz j hj, fun _ _ => rfl, (State.claimWave_preg i).1, (State.claimWave_preg i).2.1,
      (State.claimWave_preg i).2.2, fun _ => rfl⟩
    · rw [State.waves_claim ht hbad]
      exact List.mem_append_right _ (List.mem_map_of_mem (List.mem_range.mpr hi))
    · rw [hslot]
      exact (State.claimSlot_free hroom hcrew hi).2.1
    · change BitVec.ofNat 64 _ = _
      simp

end

end Sys2Proof.Machine
end

section
/-! SUPPORT of O36. The parts of a berth's cycle, and a claim of its quay unit (R54, R56 to R58, R311, R354, R379). -/

open Sys2Proof
namespace Sys2Proof.Machine

/-! ## A berth that has nothing to do for a part of its cycle -/

/-- The berth of a cycle is written, with what it held where nothing happens. -/
def State.writtenBerth (s : State) (b : Nat) : State := s.setBerth (s.berth b)

section
variable {s : State} {b : Nat}

theorem State.takeOffers_of_none (h : (s.berth b).offers = []) : s.takeOffers b = s.writtenBerth b := by
  have hb : ({ s.berth b with offers := [] } : Berth) = s.berth b := by rw [← h]
  simp only [State.takeOffers, hb, h]
  rfl

theorem State.enumStep_of_none (h : (s.berth b).enums = []) : s.enumStep b = s := by
  have ho : s.enumOrder b = [] := by simp [State.enumOrder, h]
  rw [State.enumStep, ho]
  rfl

theorem State.takeSteals_of_none (h : (s.berth b).steals = []) : s.takeSteals b = s.writtenBerth b := by
  have hb : ({ s.berth b with steals := [] } : Berth) = s.berth b := by rw [← h]
  simp only [State.takeSteals, hb, h]
  simp [State.writtenBerth]

theorem State.berth_writtenBerth (c : Nat) : (s.writtenBerth b).berth c = s.berth c := by
  by_cases hc : b = c
  · subst hc
    exact State.berth_setBerth_same s (s.berth_n b)
  · exact State.berth_setBerth_ne s (by simpa using hc)

/-- A berth that holds a record stands as it was. -/
theorem State.writtenBerth_of_recs (h : (s.berth b).recs ≠ []) : s.writtenBerth b = s :=
  State.setBerth_berth s fun he => h (by rw [he]; rfl)

/-! ## The choice of a record (R53, R54) -/

theorem State.best_eq_none_iff {l : List TaskRec} : s.best l = none ↔ l = [] := by
  cases l with
  | nil => simp [State.best]
  | cons a l =>
    simp only [State.best, reduceCtorEq, iff_false]
    split
    · simp
    · split <;> simp

theorem State.mem_of_best {l : List TaskRec} {r : TaskRec} (h : s.best l = some r) : r ∈ l := by
  induction l with
  | nil => cases h
  | cons a l ih =>
    rw [State.best] at h
    split at h
    · cases h
      exact List.mem_cons_self
    · next q hq =>
      split at h
      · cases h
        exact List.mem_cons_self
      · cases h
        exact List.mem_cons_of_mem _ (ih hq)

/-- The best of a list is the first that no other exceeds. -/
theorem State.best_append {pre post : List TaskRec} {r : TaskRec} (hpre : ∀ q ∈ pre, s.recPrio q < s.recPrio r) (hpost : ∀ q ∈ post, s.recPrio q ≤ s.recPrio r) :
    s.best (pre ++ r :: post) = some r := by
  induction pre with
  | nil =>
    rw [List.nil_append, State.best]
    split
    · rfl
    · next q hq => rw [if_pos (hpost q (State.mem_of_best hq))]
  | cons a pre ih =>
    have ha := hpre a List.mem_cons_self
    rw [List.cons_append, State.best, ih fun q hq => hpre q (List.mem_cons_of_mem _ hq)]
    exact if_neg (by omega)

/-! ## The lines of a quay claim (R58, R379) -/

/-- The holds of a line in a list of held lines. -/
def holdsOf (m : List (Nat × Nat)) (a : Nat) : Option Nat := (m.find? (·.1 == a)).map (·.2)

/-- One more hold of a line. -/
def holdOne (m : List (Nat × Nat)) (l : Nat) : List (Nat × Nat) :=
  if m.any (·.1 == l) then mapWhere (·.1 == l) (fun p => (p.1, p.2 + 1)) m else m ++ [(l, 1)]

theorem holdsOf_holdOne (m : List (Nat × Nat)) (l a : Nat) : holdsOf (holdOne m l) a = if a = l then some ((holdsOf m l).getD 0 + 1) else holdsOf m a := by
  unfold holdsOf holdOne
  by_cases hany : m.any (·.1 == l) = true
  · rw [if_pos hany, find?_mapWhere (f := fun p : Nat × Nat => (p.1, p.2 + 1)) fun p _ => rfl]
    obtain ⟨p, hp, hpl⟩ := List.any_eq_true.mp hany
    split
    · next ha =>
      subst ha
      cases hf : m.find? (·.1 == a) with
      | none => exact absurd (List.find?_eq_none.mp hf p hp) (by simpa using hpl)
      | some q => simp [show q.1 = a by simpa using List.find?_some hf]
    · next ha =>
      cases hf : m.find? (·.1 == a) with
      | none => rfl
      | some q => simp [show q.1 = a by simpa using List.find?_some hf, ha]
  · have hnone : m.find? (·.1 == l) = none := List.find?_eq_none.mpr fun p hp hl => hany (List.any_eq_true.mpr ⟨p, hp, hl⟩)
    rw [if_neg hany, List.find?_append]
    split
    · next ha =>
      subst ha
      simp [hnone]
    · next ha => simp [Ne.symm ha]

/-- Each of some different lines is held once more, and no other. -/
theorem holdsOf_foldl {ls : List Nat} (hnd : ls.Nodup) (m : List (Nat × Nat)) (a : Nat) :
    holdsOf (ls.foldl holdOne m) a = if a ∈ ls then some ((holdsOf m a).getD 0 + 1) else holdsOf m a := by
  induction ls generalizing m with
  | nil => simp
  | cons l ls ih =>
    obtain ⟨hl, hnd⟩ := List.nodup_cons.mp hnd
    rw [List.foldl_cons, ih hnd, holdsOf_holdOne]
    by_cases ha : a = l
    · subst ha
      simp [hl]
    · simp [ha]

theorem State.holdLines_near (s : State) (ls : List Nat) : (s.holdLines ls).caches.near = ls.foldl holdOne s.caches.near := rfl

theorem State.nearLines_nodup (s : State) (b ctx base len : Nat) : (s.nearLines b ctx base len).2.Nodup := by
  unfold State.nearLines
  split
  · exact List.nodup_nil
  · extract_lets x
    split
    · dsimp only
      split
      · exact (List.nodup_range.map fun _ _ h => by simpa using h).filter _
      · exact List.nodup_nil
    · exact List.nodup_nil

theorem State.nearLines_of_leaf {f : State} {ctx base len level : Nat} {e : Word} (hlen : 0 < len) (hbase : base < 0xFFFFFFFF0000)
    (hw : s.walkFor (256 + b) ctx base .r = (f, .leaf level e)) (a : Nat) :
    a ∈ (s.nearLines b ctx base len).2 ↔ (f.leafTarget ctx level e base).space = .dev ∧ (f.leafTarget ctx level e base).at_ / 64 ≤ a ∧
      a ≤ ((f.leafTarget ctx level e base).at_ + len - 1) / 64 ∧ s.berthOf (64 * a) = b := by
  have hin : ¬ (len = 0 ∨ unwalkedBase ≤ base) := by
    unfold unwalkedBase
    omega
  have hf : onlyWalked s f := by
    have := onlyWalked.walkFor s (256 + b) ctx base .r
    rwa [hw] at this
  unfold State.nearLines
  rw [if_neg hin, hw]
  dsimp only
  generalize f.leafTarget ctx level e base = t
  split
  · next hdev =>
    simp only [List.mem_filter, List.mem_map, List.mem_range, beq_iff_eq, hf.berthOf]
    constructor
    · rintro ⟨⟨i, hi, rfl⟩, hb⟩
      exact ⟨hdev, by omega, by omega, hb⟩
    · rintro ⟨-, h1, h2, hb⟩
      exact ⟨⟨a - t.at_ / 64, by omega, by omega⟩, hb⟩
  · next hdev => simp [hdev]

end

end Sys2Proof.Machine
end

section
/-! SUPPORT of O36. One claim of a berth's quay unit (R54, R56, R57, R58, R62, R311, R354, R379). -/

open Sys2Proof
namespace Sys2Proof.Machine

section
variable {s : State} {b : Nat}

/-- The records of which a quay unit chooses: the eight oldest with a near body. -/
def State.quayWindow (s : State) (b : Nat) : List TaskRec :=
  ((s.clearRecs b).filter fun r => decide (r.primary = none ∧ r.spans = false) && (s.typeOf r).any fun t => t.nearPc != 0).take 8

theorem State.quayWindow_eq (s : State) (b : Nat) : s.quayWindow b =
    ((s.clearRecs b).filter fun r => r.primary.isNone && !r.spans && ((s.typeOf r).map fun t => t.nearPc != 0).getD false).take 8 := by
  refine congrArg (List.take 8) (List.filter_congr fun r _ => ?_)
  cases r.primary <;> cases r.spans <;> cases s.typeOf r <;> simp

theorem State.quayClaim_of_empty (h : s.quayWindow b = []) : s.quayClaim b = s := by
  rw [State.quayWindow_eq] at h
  rw [State.quayClaim, h]
  rfl

/-- The best record of the window is claimed, where the quay unit has room for it. -/
theorem State.quayClaim_of_best {r : TaskRec} {t : TypeEntry} (h : s.best (s.quayWindow b) = some r) (ht : s.typeOf r = some t) :
    s.quayClaim b = if s.fits (256 + b) t then s.claim (256 + b) b r else s := by
  rw [State.quayWindow_eq] at h
  simp only [State.quayClaim, h, ht]

theorem State.clearRecs_of_no_recs (h : (s.berth b).recs = []) : s.clearRecs b = [] := by
  simp [State.clearRecs, h]

theorem State.recs_ne_nil_of_window {r : TaskRec} (h : r ∈ s.quayWindow b) : (s.berth b).recs ≠ [] := by
  intro hn
  rw [State.quayWindow, State.clearRecs_of_no_recs hn] at h
  simp at h

theorem State.fits_quay_iff (s : State) (b : Nat) (t : TypeEntry) :
    s.fits (256 + b) t = true ↔ (s.slotsUsed (256 + b)).length + t.crew ≤ 4 ∧ s.unitsUsed (256 + b) + t.scratch ≤ 4 := by
  rw [State.fits, slotsOf_quay (by omega), if_neg (by omega : ¬ 256 + b < 256), Bool.and_eq_true, decide_eq_true_eq, decide_eq_true_eq]

/-- The cycle of a berth with nothing but a quay claim to make. -/
theorem exec_berthCycle_quay (ho : (s.berth b).offers = []) (he : (s.berth b).enums = []) :
    exec (.berthCycle ⟨b, true⟩) s = .next (((s.writtenBerth b).quayClaim b).takeSteals b) := by
  refine Result.next_congr ?_
  rw [State.takeOffers_of_none ho, State.enumStep_of_none (by rwa [State.berth_writtenBerth])]
  rfl

/-- A quay claim that finds nothing leaves the berth as it was. -/
theorem quayClaim_idle (ho : (s.berth b).offers = []) (he : (s.berth b).enums = []) (hs : (s.berth b).steals = [])
    (h : (s.writtenBerth b).quayClaim b = s.writtenBerth b) :
    ∃ u, exec (.berthCycle ⟨b, true⟩) s = .next u ∧ u.crews = s.crews ∧ u.waves = s.waves ∧ u.ctxs = s.ctxs ∧ (u.berth b).recs = (s.berth b).recs := by
  refine ⟨_, exec_berthCycle_quay ho he, ?_⟩
  rw [h, State.takeSteals_of_none (by rwa [State.berth_writtenBerth]), State.berth_writtenBerth, State.berth_writtenBerth]
  exact ⟨rfl, rfl, rfl, rfl⟩

theorem State.launch?_report {c i : Nat} {l : Launch} (hl : s.launch? c i = some l) (r : Report) :
    (s.report c i r).launch? c i = some { l with reports := l.reports ++ [r] } := by
  rw [State.report, State.launch?_modLaunch_same]
  · rw [hl]
    rfl
  · exact fun _ => rfl

/-- A record that is found uncorrectable when it is claimed fails, and is reported. -/
theorem claimBad_leaves {r : TaskRec} {l : Launch} (hp : r.primary = none) (hrec : s.rec? b r.id = some r) (hl : s.launch? r.ctx r.launch = some l) :
    (s.claimBad b r).crews = s.crews ∧ (s.claimBad b r).waves = s.waves ∧ (s.claimBad b r).rec? b r.id = some { r with st := .failed } ∧
    (s.claimBad b r).launch? r.ctx r.launch = some { l with reports := l.reports ++ [recReport b r 0x15 5 0] } ∧
    ((s.claimBad b r).berth b).steals = (s.berth b).steals := by
  have heq : s.claimBad b r = (s.modRec b r.id fun x => { x with st := .failed }).report r.ctx r.launch (recReport b r 0x15 5 0) := by
    simp [State.claimBad, hp]
  have hberth : ((s.modRec b r.id fun x => { x with st := .failed }).report r.ctx r.launch (recReport b r 0x15 5 0)).berth b =
    { s.berth b with recs := mapWhere (·.id == r.id) (fun x => { x with st := .failed }) (s.berth b).recs } := State.berth_modRec_same ..
  rw [heq]
  refine ⟨rfl, rfl, ?_, ?_, by rw [hberth]⟩
  · exact (State.rec?_modRec_same s b r.id (f := fun x => { x with st := .failed }) fun _ => rfl).trans (by rw [hrec]; rfl)
  · exact State.launch?_report (s := s.modRec b r.id fun x => { x with st := .failed }) hl _

end

theorem quayClaims : Claim.QuayClaims := by
  unfold Claim.QuayClaims
  intro s b hb ho he hs window idle
  refine ⟨fun h => quayClaim_idle ho he hs ?_, ?_⟩
  · by_cases hr : (s.berth b).recs = []
    · refine State.quayClaim_of_empty ?_
      rw [State.quayWindow, State.clearRecs_of_no_recs (by rwa [State.berth_writtenBerth])]
      rfl
    · rw [State.writtenBerth_of_recs hr]
      exact State.quayClaim_of_empty h
  · intro pre r post t hwin hpre hpost ht hrec fits
    have hbest : s.best (s.quayWindow b) = some r := (congrArg s.best hwin).trans (State.best_append hpre hpost)
    have hmem : r ∈ s.quayWindow b := State.mem_of_best hbest
    have hrecs := State.recs_ne_nil_of_window hmem
    have hclaim := State.quayClaim_of_best hbest ht
    have hfits : s.fits (256 + b) t = true ↔ fits := State.fits_quay_iff s b t
    refine ⟨fun hn => quayClaim_idle ho he hs ?_, fun hf hbad l hl => ?_, fun hf hbad => ?_⟩
    · rw [State.writtenBerth_of_recs hrecs, hclaim, if_neg (mt hfits.mp hn)]
    · have hp : r.primary = none := by
        have := (List.mem_filter.mp (List.mem_of_mem_take hmem)).2
        simp only [Bool.and_eq_true, decide_eq_true_eq] at this
        exact this.1.1
      obtain ⟨hc, hw, hr, hla, hst⟩ := claimBad_leaves hp hrec hl
      refine ⟨_, { l with reports := l.reports ++ [recReport b r 0x15 5 0] }, recReport b r 0x15 5 0, exec_berthCycle_quay ho he, ?_⟩
      rw [State.writtenBerth_of_recs hrecs, hclaim, if_pos (hfits.mpr hf), State.claim_of_bad ht hbad, State.takeSteals_of_none (hst.trans hs)]
      refine ⟨hc, hw, ?_, ?_, rfl, rfl, rfl, rfl, rfl, rfl⟩
      · rw [State.rec?, State.berth_writtenBerth]
        exact hr
      · exact hla
    · have hberth := State.berth_congr (State.berths_claim (u := 256 + b) (b := b) ht hbad) b
      rw [State.berth_modRec_same] at hberth
      have hne : ((s.claim (256 + b) b r).berth b).recs ≠ [] := by
        rw [hberth]
        simpa [mapWhere] using hrecs
      have hlines : (s.claimLines (256 + b) b r).2 = (s.nearLines b r.ctx (wordBits r.words 0 0 48) (wordBits r.words 1 0 32)).2 :=
        congrArg Prod.snd (if_pos (by simp))
      refine ⟨s.claim (256 + b) b r, s.claimRec (256 + b) b r r, ?_, ?_, ?_, fun a => ?_, ?_, ?_⟩
      · refine (exec_berthCycle_quay ho he).trans (Result.next_congr ?_)
        rw [State.writtenBerth_of_recs hrecs, hclaim, if_pos (hfits.mpr hf), State.takeSteals_of_none (by rw [hberth]; exact hs), State.writtenBerth_of_recs hne]
      · exact claimed_claim (by omega) ht hbad hrec (by rw [slotsOf_quay (by omega)]; exact hf.1)
      · rw [State.rec?_claim ht hbad, hrec]
        rfl
      · rw [State.near_claim ht hbad, State.holdLines_near]
        refine holdsOf_foldl ?_ s.caches.near a
        rw [hlines]
        exact State.nearLines_nodup ..
      · rw [State.l1_claim ht hbad]
        intro c hc
        change c.line ∉ (s.claimLines (256 + b) b r).2
        simpa using (List.mem_filter.mp (List.mem_filter.mp hc).1).2
      · intro base len
        refine ⟨fun h => ?_, ?_⟩
        · exact hlines.trans (congrArg Prod.snd (if_pos h))
        · intro f level e hlen hbase hw p a
          exact (iff_of_eq (congrArg (a ∈ ·) hlines)).trans (State.nearLines_of_leaf hlen hbase hw a)

end Sys2Proof.Machine
end

section
/-! SUPPORT of O36. What a state reads of its memory and of its type tables rests on the relayouts of its berths alone: their requests, and pilots, may differ (R329, R344). -/

open Sys2Proof
namespace Sys2Proof.Machine

/-- A state with other berths and pilots. -/
def State.sided (s : State) (bs : List Berth) (ps : List PilotCore) : State := { s with berths := bs, pilots := ps }

/-- What the homes of memory read of a berth. -/
def Berth.layoutKey (b : Berth) : Nat × List Relayout := (b.n, b.relayouts)

/-- Two lists of berths that relayout the same. -/
def sameLayouts (bs cs : List Berth) : Prop := bs.map Berth.layoutKey = cs.map Berth.layoutKey

/-- The relayout of a berth that covers a line. -/
def relayoutOf (line : Nat) (k : Nat × List Relayout) : Option Relayout := k.2.find? fun r => decide (r.line ≤ line) && decide (line < r.line + r.lines)

theorem firstSome_map {α β γ : Type} (g : α → β) (f : β → Option γ) (l : List α) : firstSome f (l.map g) = firstSome (fun a => f (g a)) l := by
  induction l with
  | nil => rfl
  | cons a l ih =>
    rw [List.map_cons, firstSome, firstSome, ih]

section
variable {s : State} {bs : List Berth} {ps : List PilotCore}

theorem State.relayouts_berth (s : State) (n : Nat) :
    (s.berth n).relayouts = (((s.berths.map Berth.layoutKey).find? fun k => k.1 == n).map (·.2)).getD [] := by
  rw [List.find?_map, State.berth]
  change _ = ((Option.map Berth.layoutKey (s.berths.find? (·.n == n))).map (·.2)).getD []
  cases s.berths.find? (·.n == n) <;> rfl

theorem State.codeAt_sided (h : sameLayouts bs s.berths) (line code : Nat) : (s.sided bs ps).codeAt line code = s.codeAt line code := by
  have hkeys (cs : List Berth) : firstSome (fun b : Berth => b.relayouts.find? fun r => decide (r.line ≤ line) && decide (line < r.line + r.lines)) cs =
      firstSome (relayoutOf line) (cs.map Berth.layoutKey) := (firstSome_map Berth.layoutKey (relayoutOf line) cs).symm
  have hberth (n : Nat) : ((s.sided bs ps).berth n).relayouts = (s.berth n).relayouts := by
    rw [State.relayouts_berth, State.relayouts_berth]
    exact congrArg (fun ks : List (Nat × List Relayout) => ((ks.find? fun k => k.1 == n).map (·.2)).getD []) h
  unfold State.codeAt
  rw [hkeys, hkeys, hberth, show (s.sided bs ps).berths = bs from rfl, h]
  rfl

theorem State.decodeLine_sided (h : sameLayouts bs s.berths) (line code : Nat) : (s.sided bs ps).decodeLine line code = s.decodeLine line code := by
  unfold State.decodeLine
  rw [State.codeAt_sided h]
  rfl

theorem State.cleanAt_sided (h : sameLayouts bs s.berths) (line code : Nat) : (s.sided bs ps).cleanAt line code = s.cleanAt line code := by
  simp only [State.cleanAt, State.codeAt_sided h, State.decodeLine_sided h]

theorem State.blockSev_sided (h : sameLayouts bs s.berths) (many : Bool) (a code j : Nat) : (s.sided bs ps).blockSev many a code j = s.blockSev many a code j := by
  simp only [State.blockSev, State.codeAt_sided h, State.decodeLine_sided h]

theorem State.sevAt_sided (h : sameLayouts bs s.berths) (many : Bool) (line code : Nat) (e : Nat × Nat) :
    (s.sided bs ps).sevAt many line code e = s.sevAt many line code e := by
  simp only [State.sevAt, State.codeAt_sided h, State.decodeLine_sided h, State.blockSev_sided h]

theorem State.ownCode_sided (h : sameLayouts bs s.berths) (line : Nat) : (s.sided bs ps).ownCode line = s.ownCode line :=
  State.codeAt_sided h line _

theorem State.readPhys_sided (h : sameLayouts bs s.berths) (a size : Nat) : (s.sided bs ps).readPhys a size = s.readPhys a size := by
  simp only [State.readPhys, State.fieldBad, State.ownCode_sided h, State.cleanAt_sided h, State.codeAt_sided h, State.sevAt_sided h, State.decodeLine_sided h]

theorem State.fieldSpans_sided (h : sameLayouts bs s.berths) (a size code : Nat) : (s.sided bs ps).fieldSpans a size code = s.fieldSpans a size code := by
  simp only [State.fieldSpans, State.cleanAt_sided h, State.codeAt_sided h]

/-! ## Walks -/

theorem State.recordAll_sided (s : State) (bs : List Berth) (ps : List PilotCore) (a : Nat) (r : List ErrNote) :
    (s.sided bs ps).recordAll a r = (s.recordAll a r).sided bs ps := by
  unfold State.recordAll
  induction r generalizing s with
  | nil => rfl
  | cons n r ih =>
    cases n with
    | counted => exact ih (s.modOut fun o => { o with errCount := o.errCount + 1 })
    | recorded v => exact ih (s.record a v)

theorem State.recordIdle_sided (h : sameLayouts bs s.berths) (sp : List Span) : (s.sided bs ps).recordIdle sp = (s.recordIdle sp).sided bs ps := by
  simp only [State.recordIdle, State.codeAt_sided h, State.decodeLine_sided h]
  generalize (sp.map (·.line)).eraseDups = ls
  suffices hall : ∀ t : State, ls.foldl _ (t.sided bs ps) = (ls.foldl _ t).sided bs ps from hall s
  induction ls with
  | nil => exact fun _ => rfl
  | cons l ls ih =>
    intro t
    rw [List.foldl_cons, List.foldl_cons, ← ih]
    refine congrArg (ls.foldl _) ?_
    split
    · rfl
    · exact State.recordAll_sided ..

/-- A step from a state with other berths and pilots: the state that the step leaves, with those, and the same outcome. -/
def sidedTo {α : Type} (bs : List Berth) (ps : List PilotCore) (r : State × α) : State × α := (r.1.sided bs ps, r.2)

theorem State.walkRead_sided (h : sameLayouts bs s.berths) (die a : Nat) : (s.sided bs ps).walkRead die a = sidedTo bs ps (s.walkRead die a) := by
  have hlink : (s.sided bs ps).linkBroken die a = s.linkBroken die a := rfl
  simp only [State.walkRead, hlink, State.readPhys_sided h, State.ownCode_sided h, State.fieldSpans_sided h, State.recordIdle_sided h]
  split
  · rfl
  · split <;> rfl

theorem State.walkFrom_sided (tlb ctx va n : Nat) (h : sameLayouts bs s.berths) (table : Nat) :
    State.walkFrom tlb ctx va n (s.sided bs ps) table = sidedTo bs ps (State.walkFrom tlb ctx va n s table) := by
  induction n generalizing s table with
  | zero => rfl
  | succ n ih =>
    have hfind (level : Nat) : (s.sided bs ps).tlbFind tlb ctx level va = s.tlbFind tlb ctx level va := rfl
    have hsize : (s.sided bs ps).partSize = s.partSize := rfl
    have hdie : (s.sided bs ps).tlbDie tlb ctx = s.tlbDie tlb ctx := rfl
    have hbase : (s.sided bs ps).partBase ((s.sided bs ps).partOfCtx ctx) = s.partBase (s.partOfCtx ctx) := rfl
    unfold State.walkFrom
    dsimp only
    generalize (va / 2 ^ levelShift (3 - n) % if 3 - n = 1 then 2 ^ 18 else if 3 - n = 2 then 2 ^ 9 else 2 ^ 5) = idx
    rw [hfind, hsize, hdie, hbase, State.walkRead_sided h]
    generalize hr : s.walkRead _ _ = r
    have hw : onlyWalked s r.1 := hr ▸ (tlbWalked.walkRead ..).onlyWalked
    have hl : sameLayouts bs r.1.berths := hw.berths ▸ h
    have hadd (t : State) (level : Nat) (e : Word) : (t.sided bs ps).tlbAdd tlb ctx level va e = (t.tlbAdd tlb ctx level va e).sided bs ps := rfl
    have hrsize : (r.1.sided bs ps).partSize = r.1.partSize := rfl
    simp only [sidedTo, hadd, hrsize]
    split
    · split
      · rfl
      · exact ih h _
    · split
      · rfl
      · split
        · rfl
        · split
          · rfl
          · split
            · rfl
            · split
              · rfl
              · exact ih (s := r.1.tlbAdd tlb ctx (3 - n) va r.2.1) hl _

theorem State.walk_sided (h : sameLayouts bs s.berths) (tlb ctx va : Nat) : (s.sided bs ps).walk tlb ctx va = sidedTo bs ps (s.walk tlb ctx va) := by
  have hctx : (s.sided bs ps).ctx? ctx = s.ctx? ctx := rfl
  unfold State.walk
  rw [hctx]
  split
  · rfl
  · exact State.walkFrom_sided _ _ _ _ h _

theorem State.walkFor_sided (h : sameLayouts bs s.berths) (tlb ctx va : Nat) (n : Need) :
    (s.sided bs ps).walkFor tlb ctx va n = sidedTo bs ps (s.walkFor tlb ctx va n) := by
  have hl : sameLayouts bs (s.walk tlb ctx va).1.berths := (onlyWalked.walk s tlb ctx va).berths ▸ h
  unfold State.walkFor
  rw [State.walk_sided h]
  dsimp only [sidedTo]
  split
  · split
    · rfl
    · exact State.walk_sided (s := (s.walk tlb ctx va).1.tlbDrop _) hl ..
  · rfl

theorem State.translate_sided (h : sameLayouts bs s.berths) (tlb ctx va : Nat) (n : Need) :
    (s.sided bs ps).translate tlb ctx va n = sidedTo bs ps (s.translate tlb ctx va n) := by
  unfold State.translate
  rw [State.walkFor_sided h]
  rfl

theorem State.hmPlace_sided (h : sameLayouts bs s.berths) (ctx va : Nat) (n : Need) : (s.sided bs ps).hmPlace ctx va n = sidedTo bs ps (s.hmPlace ctx va n) := by
  unfold State.hmPlace
  rw [State.translate_sided h]
  split
  · rfl
  · rfl

theorem State.readVirt_sided (h : sameLayouts bs s.berths) (ctx va : Nat) : (s.sided bs ps).readVirt ctx va = sidedTo bs ps (s.readVirt ctx va) := by
  have hl : sameLayouts bs (s.hmPlace ctx va .r).1.berths := (onlyWalked.hmPlace s ctx va .r).berths ▸ h
  unfold State.readVirt
  rw [State.hmPlace_sided h]
  simp only [sidedTo, State.readPhys_sided hl]
  rfl

theorem State.readVirtWords_sided (h : sameLayouts bs s.berths) (ctx va n : Nat) :
    (s.sided bs ps).readVirtWords ctx va n = sidedTo bs ps (s.readVirtWords ctx va n) := by
  induction n generalizing s va with
  | zero => rfl
  | succ n ih =>
    have hl : sameLayouts bs (s.readVirt ctx va).1.berths := (onlyWalked.hmPlace s ctx va .r).berths ▸ h
    unfold State.readVirtWords
    rw [State.readVirt_sided h]
    dsimp only [sidedTo]
    split
    · rfl
    · rw [ih hl]
      rfl

/-- The type of a record does not depend on the requests at the berths. -/
theorem State.typeOf_sided (h : sameLayouts bs s.berths) (r : TaskRec) : (s.sided bs ps).typeOf r = s.typeOf r := by
  have hctx : (s.sided bs ps).ctx? r.ctx = s.ctx? r.ctx := rfl
  unfold State.typeOf State.typeEntry
  rw [hctx]
  split
  · rfl
  · split
    · rfl
    · rw [State.readVirtWords_sided h]
      rfl

end

end Sys2Proof.Machine
end

section
/-! SUPPORT of O36. One steal at a berth (R55, R56, R310). -/

open Sys2Proof
namespace Sys2Proof.Machine

/-! ## The choice from a seaward window (R55) -/

section
variable {s : State}

theorem State.recPrio_le_best {l : List TaskRec} {q : TaskRec} (h : s.best l = some q) : ∀ x ∈ l, s.recPrio x ≤ s.recPrio q := by
  induction l generalizing q with
  | nil => exact fun _ hx => nomatch hx
  | cons a l ih =>
    intro x hx
    rw [State.best] at h
    cases hb : s.best l with
    | none =>
      rw [State.best_eq_none_iff] at hb
      subst hb
      cases h
      rw [List.mem_singleton] at hx
      rw [hx]
    | some p =>
      rw [hb] at h
      dsimp only at h
      rcases List.mem_cons.mp hx with rfl | hx
      · split at h
        · cases h
          exact le_rfl
        · cases h
          omega
      · have := ih hb x hx
        split at h
        · cases h
          omega
        · cases h
          exact this

/-- The youngest of the highest priority is chosen, unless it has 27 and so has the oldest of the window. -/
theorem State.seaward_youngest {pre post : List TaskRec} {r : TaskRec} (hpre : ∀ x ∈ pre, s.recPrio x ≤ s.recPrio r)
    (hpost : ∀ x ∈ post, s.recPrio x < s.recPrio r) (h : ¬ (s.recPrio r = 27 ∧ ∃ x, pre.head? = some x ∧ s.recPrio x = 27)) :
    s.seaward (pre ++ r :: post) = some r := by
  have hbest : s.best (pre ++ r :: post).reverse = some r := by
    rw [List.reverse_append, List.reverse_cons, List.append_assoc]
    exact State.best_append (fun q hq => hpost q (List.mem_reverse.mp hq)) fun q hq => hpre q (List.mem_reverse.mp hq)
  cases pre with
  | nil =>
    rw [List.nil_append] at hbest ⊢
    simp only [State.seaward, hbest]
    split <;> rfl
  | cons o pre =>
    rw [List.cons_append] at hbest ⊢
    simp only [State.seaward, hbest]
    exact if_neg fun hh => h ⟨hh.1, o, rfl, hh.2⟩

/-- At 27 the oldest of the window is chosen where it ties. -/
theorem State.seaward_oldest {post : List TaskRec} {r : TaskRec} (hr : s.recPrio r = 27) (hpost : ∀ x ∈ post, s.recPrio x ≤ 27) :
    s.seaward (r :: post) = some r := by
  cases hb : s.best (r :: post).reverse with
  | none => exact absurd (State.best_eq_none_iff.mp hb) (by simp)
  | some q =>
    have hq : s.recPrio q = 27 := by
      refine le_antisymm ?_ (hr ▸ State.recPrio_le_best hb r (by simp))
      rcases List.mem_cons.mp (List.mem_reverse.mp (State.mem_of_best hb)) with rfl | hm
      · exact hr.le
      · exact hpost q hm
    simp only [State.seaward, hb]
    exact if_pos ⟨hq, hr⟩

end

/-! ## What a request at a berth does not change -/

/-- The first berth of a number is replaced by one that relayouts the same. -/
theorem sameLayouts_putWhere {bs : List Berth} {p : Berth → Bool} {x y : Berth} (hx : bs.find? p = some x) (hy : y.layoutKey = x.layoutKey) :
    sameLayouts (putWhere p y bs) bs := by
  unfold sameLayouts
  induction bs with
  | nil => cases hx
  | cons a l ih =>
    by_cases ha : p a = true
    · rw [List.find?_cons_of_pos ha] at hx
      obtain rfl : a = x := Option.some.inj hx
      rw [putWhere, if_pos ha, List.map_cons, List.map_cons, hy]
    · rw [List.find?_cons_of_neg ha] at hx
      rw [putWhere, if_neg ha, List.map_cons, List.map_cons, ih hx]

section
variable {s : State} {bs : List Berth} {ps : List PilotCore}

theorem State.best_sided (l : List TaskRec) : (s.sided bs ps).best l = s.best l := by
  induction l with
  | nil => rfl
  | cons a l ih =>
    rw [State.best, State.best, ih]
    rfl

theorem State.seaward_sided (l : List TaskRec) : (s.sided bs ps).seaward l = s.seaward l := by
  unfold State.seaward
  rw [State.best_sided]
  rfl

variable {b : Nat} (h : sameLayouts bs s.berths) (hrecs : ((s.sided bs ps).berth b).recs = (s.berth b).recs)
include h

theorem State.canTake_sided (n : Nat) (r : TaskRec) : (s.sided bs ps).canTake n r = s.canTake n r := by
  unfold State.canTake
  rw [State.typeOf_sided h]
  rfl

theorem State.reqTakes_sided (q : StealReq) (r : TaskRec) : (s.sided bs ps).reqTakes q r = s.reqTakes q r := by
  unfold State.reqTakes
  rw [State.typeOf_sided h]

include hrecs

omit h in
theorem State.rec?_sided (id : Nat) : (s.sided bs ps).rec? b id = s.rec? b id := by
  unfold State.rec?
  rw [hrecs]

omit h in
theorem State.dieAllows_sided (n : Nat) (r : TaskRec) : (s.sided bs ps).dieAllows n b r = s.dieAllows n b r := by
  unfold State.dieAllows
  simp only [State.rec?_sided hrecs]

theorem State.clearRecs_sided : (s.sided bs ps).clearRecs b = s.clearRecs b := by
  have hctx (c : Nat) : (s.sided bs ps).ctx? c = s.ctx? c := rfl
  simp only [State.clearRecs, hrecs, hctx, State.typeOf_sided h, State.holdsBack]

theorem State.stealable_sided (r : TaskRec) : (s.sided bs ps).stealable ((s.sided bs ps).berth b) r = s.stealable (s.berth b) r := by
  unfold State.stealable Berth.unclaimed
  rw [State.typeOf_sided h, hrecs]

theorem State.seaList_sided : (s.sided bs ps).seaList b = s.seaList b := by
  unfold State.seaList
  rw [State.clearRecs_sided h hrecs, funext (State.stealable_sided (ps := ps) h hrecs)]

end

/-! ## The steal -/

/-- The one request at a berth is taken. -/
theorem filterMap_find?_singleton {q : StealReq} {n : Nat} (h : q.core < n) : ((List.range n).filterMap fun c => [q].find? (·.core == c)) = [q] := by
  have hall (m : Nat) : ((List.range m).filterMap fun c => [q].find? (·.core == c)) = if q.core < m then [q] else [] := by
    induction m with
    | zero => rfl
    | succ m ih =>
      rw [List.range_succ, List.filterMap_append, ih]
      rcases Nat.lt_trichotomy q.core m with hlt | heq | hgt
      · simp [hlt, Nat.lt_succ_of_lt hlt, Nat.ne_of_lt hlt]
      · simp [heq]
      · simp [Nat.not_lt_of_gt hgt, Nat.ne_of_gt hgt, show ¬ q.core < m + 1 by omega]
  rw [hall, if_pos h]

section
variable {s : State} {b : Nat} {q : StealReq}

/-- The state in which a steal chooses: the request is gone from the berth, and its pilot has none sent. -/
def State.stealState (s : State) (b : Nat) (q : StealReq) : State :=
  s.sided (s.setBerth { s.berth b with steals := [] }).berths (mapWhere (·.core == q.core) (fun p => { p with asked := none }) s.pilots)

/-- The records that a request may take. -/
def State.stealList (s : State) (b : Nat) (q : StealReq) : List TaskRec :=
  (s.seaList b).filter fun r => s.reqTakes q r && s.canTake q.core r && s.dieAllows q.core b r

theorem exec_berthCycle_steal (hq : q.core < 256) (ho : (s.berth b).offers = []) (he : (s.berth b).enums = []) (hs : (s.berth b).steals = [q]) :
    exec (.berthCycle ⟨b, false⟩) s = .next ((s.setBerth { s.berth b with steals := [] }).steal b q) := by
  have hne : s.berth b ≠ Berth.empty b := by
    intro h
    rw [h] at hs
    cases hs
  refine Result.next_congr ?_
  rw [State.takeOffers_of_none ho, State.writtenBerth, State.setBerth_berth s hne, State.enumStep_of_none he]
  change s.takeSteals b = _
  rw [State.takeSteals, hs, filterMap_find?_singleton hq]
  rfl

theorem State.berth_stealState : (s.stealState b q).berth b = { s.berth b with steals := [] } :=
  State.berth_setBerth_same s (b := { s.berth b with steals := [] }) (s.berth_n b)

theorem sameLayouts_stealState (hs : (s.berth b).steals = [q]) : sameLayouts (s.setBerth { s.berth b with steals := [] }).berths s.berths := by
  cases hf : s.berths.find? (·.n == b) with
  | none =>
    rw [State.berth, hf] at hs
    cases hs
  | some x =>
    have hbx : s.berth b = x := by rw [State.berth, hf]; rfl
    refine sameLayouts_putWhere (x := x) ?_ (by rw [hbx]; rfl)
    rw [← hf]
    exact congrArg (s.berths.find? ·) (funext fun y => by rw [State.berth_n])

/-- The request's choice is made as the berth stands. -/
theorem State.steal_eq (hs : (s.berth b).steals = [q]) : (s.setBerth { s.berth b with steals := [] }).steal b q =
    match s.seaward (seaWindow (s.stealList b q)) with
    | none => { s.stealState b q with pilots := mapWhere (·.core == q.core) (fun p => { p with next := s.time + 1 }) (s.stealState b q).pilots }
    | some r => (s.stealState b q).claim q.core b r := by
  have hl := sameLayouts_stealState hs
  have hrecs : ((s.stealState b q).berth b).recs = (s.berth b).recs := by rw [State.berth_stealState]
  have hlist : ((s.stealState b q).seaList b).filter (fun r => (s.stealState b q).reqTakes q r && (s.stealState b q).canTake q.core r &&
      (s.stealState b q).dieAllows q.core b r) = s.stealList b q := by
    unfold State.stealList State.stealState
    simp only [State.seaList_sided hl hrecs, State.reqTakes_sided hl, State.canTake_sided hl, State.dieAllows_sided hrecs]
  have hsea (l : List TaskRec) : (s.stealState b q).seaward l = s.seaward l := State.seaward_sided l
  rw [State.steal]
  change (match (s.stealState b q).seaward (seaWindow (((s.stealState b q).seaList b).filter fun r => (s.stealState b q).reqTakes q r &&
    (s.stealState b q).canTake q.core r && (s.stealState b q).dieAllows q.core b r)) with
    | none => { s.stealState b q with pilots := mapWhere (·.core == q.core) (fun p => { p with next := s.time + 1 }) (s.stealState b q).pilots }
    | some r => (s.stealState b q).claim q.core b r) = _
  rw [hlist, hsea]

theorem State.stealList_eq (s : State) (b : Nat) (q : StealReq) : s.stealList b q =
    ((s.clearRecs b).filter (s.stealable (s.berth b))).filter fun r => s.canTake q.core r && s.dieAllows q.core b r &&
      decide (q.bound = none ∨ q.bound = some r.ctx) && (s.typeOf r).any fun t => decide (t.crew ≤ q.slots ∧ t.scratch ≤ q.units) := by
  refine List.filter_congr fun r _ => ?_
  have hreq : s.reqTakes q r = (decide (q.bound = none ∨ q.bound = some r.ctx) && (s.typeOf r).any fun t => decide (t.crew ≤ q.slots ∧ t.scratch ≤ q.units)) := by
    unfold State.reqTakes
    refine congrArg₂ _ ?_ ?_
    · cases q.bound with
      | none => simp
      | some c => exact Bool.eq_iff_iff.mpr (by simp)
    · simp
  rw [hreq]
  cases s.canTake q.core r <;> cases s.dieAllows q.core b r <;> simp

end

theorem State.canTake_fits {s : State} {n : Nat} {r : TaskRec} {t : TypeEntry} (h : s.canTake n r = true) (ht : s.typeOf r = some t) :
    (s.slotsUsed n).length + t.crew ≤ slotsOf n := by
  simp only [State.canTake, ht, State.fits, Option.map_some, Option.getD_some, Bool.and_eq_true, decide_eq_true_eq] at h
  exact h.2.1

theorem mem_of_mem_seaWindow {l : List TaskRec} {r : TaskRec} (h : r ∈ seaWindow l) : r ∈ l := by
  unfold seaWindow at h
  split at h
  · exact h
  · rcases List.mem_append.mp h with h | h
    · exact List.mem_of_mem_take h
    · exact List.mem_of_mem_drop h

theorem steals : Claim.Steals := by
  unfold Claim.Steals
  intro s b q p hq ho he hs hp list window
  have hlist : list = s.stealList b q := (State.stealList_eq s b q).symm
  have hwindow : window = seaWindow (s.stealList b q) := hlist ▸ rfl
  have hasked : (s.stealState b q).pilot? q.core = some { p with asked := none } :=
    find?_pilots_mapWhere (f := fun p => { p with asked := none }) (fun _ => rfl) hp
  have hrecs : ((s.stealState b q).berth b).recs = (s.berth b).recs := by rw [State.berth_stealState]
  have hsteals : ((s.stealState b q).berth b).steals = [] := by rw [State.berth_stealState]
  have hsteal := State.steal_eq hs
  refine ⟨fun h => ?_, ?_⟩
  · rw [← hlist, h] at hsteal
    refine ⟨_, (exec_berthCycle_steal hq ho he hs).trans (Result.next_congr hsteal), rfl, rfl, hrecs, hsteals, ?_⟩
    exact find?_pilots_mapWhere (f := fun p => { p with next := s.time + 1 }) (fun _ => rfl) hasked
  · intro pre r post t hwin ht hrec hbad hchoice
    have hsea : s.seaward window = some r := by
      rw [hwin]
      rcases hchoice with ⟨rfl, hr, hpost⟩ | ⟨hpre, hpost, hnot⟩
      · exact State.seaward_oldest hr hpost
      · exact State.seaward_youngest hpre hpost hnot
    have hmem : r ∈ s.stealList b q := mem_of_mem_seaWindow (hwindow ▸ hwin ▸ List.mem_append_right _ List.mem_cons_self)
    have htake : s.canTake q.core r = true := by
      have := (List.mem_filter.mp hmem).2
      simp only [Bool.and_eq_true] at this
      exact this.1.2
    have ht' : (s.stealState b q).typeOf r = some t := (State.typeOf_sided (sameLayouts_stealState hs) r).trans ht
    have hrec' : (s.stealState b q).rec? b r.id = some r := (State.rec?_sided hrecs r.id).trans hrec
    rw [← hwindow, hsea] at hsteal
    refine ⟨_, (exec_berthCycle_steal hq ho he hs).trans (Result.next_congr hsteal), ?_, ?_, ?_⟩
    · have hroom := State.canTake_fits htake ht
      exact claimed_claim (by omega) ht' hbad hrec' hroom
    · rw [State.berth_congr (State.berths_claim ht' hbad), State.berth_modRec_same]
      exact hsteals
    · rw [State.pilot?, State.pilots_claim ht' hbad]
      exact hasked

end Sys2Proof.Machine
end

section
/-! SUPPORT of O36. What claims leave of the rest: a berth's queue but for what a claim writes of a record, the waves there are, and live counts (R47, R49, R56). -/

open Sys2Proof
namespace Sys2Proof.Machine

/-- A claim changes of records their state, holds and die. -/
def claimsOnly (g : TaskRec → TaskRec) : Prop := ∀ r, g r = { r with st := (g r).st, holds := (g r).holds, die := (g r).die }

theorem claimsOnly_id : claimsOnly id := fun _ => rfl

theorem claimsOnly.comp {g h : TaskRec → TaskRec} (hh : claimsOnly h) (hg : claimsOnly g) : claimsOnly (h ∘ g) := by
  intro r
  have h1 := hh (g r)
  have h2 := hg r
  rw [Function.comp_apply, h1, h2]

/-- What claims leave: no wave is lost, no record of a berth changes but for what a claim writes, and no live count. -/
structure onlyClaims (s u : State) : Prop where
  me : u.me = s.me
  others : ∃ ws, u.others = s.others ++ ws
  queue : ∀ c, (u.berth c).offers = (s.berth c).offers ∧ (u.berth c).nextSeq = (s.berth c).nextSeq
  recs : ∀ c, ∃ g, claimsOnly g ∧ (u.berth c).recs = (s.berth c).recs.map g
  live : ∀ c i, (u.launch? c i).map (·.live) = (s.launch? c i).map (·.live)

namespace onlyClaims
variable {s t u : State}

theorem of_eq (hm : u.me = s.me) (ho : u.others = s.others) (hq : ∀ c, (u.berth c).offers = (s.berth c).offers ∧ (u.berth c).nextSeq = (s.berth c).nextSeq)
    (hr : ∀ c, (u.berth c).recs = (s.berth c).recs) (hc : u.ctxs = s.ctxs) : onlyClaims s u :=
  ⟨hm, ⟨[], by rw [ho, List.append_nil]⟩, hq, fun c => ⟨id, claimsOnly_id, by rw [hr, List.map_id]⟩, fun c i => by rw [State.launch?_congr hc]⟩

theorem refl (s : State) : onlyClaims s s := of_eq rfl rfl (fun _ => ⟨rfl, rfl⟩) (fun _ => rfl) rfl

theorem trans (h : onlyClaims s t) (k : onlyClaims t u) : onlyClaims s u := by
  obtain ⟨ws, hw⟩ := h.others
  obtain ⟨vs, kw⟩ := k.others
  refine ⟨k.me.trans h.me, ⟨ws ++ vs, by rw [kw, hw, List.append_assoc]⟩, fun c => ⟨(k.queue c).1.trans (h.queue c).1, (k.queue c).2.trans (h.queue c).2⟩,
    fun c => ?_, fun c i => (k.live c i).trans (h.live c i)⟩
  obtain ⟨g, hg, hr⟩ := h.recs c
  obtain ⟨f, hf, kr⟩ := k.recs c
  exact ⟨f ∘ g, hf.comp hg, by rw [kr, hr, List.map_map]⟩

theorem foldl {α : Type} {f : State → α → State} (hf : ∀ s a, onlyClaims s (f s a)) (l : List α) (s : State) : onlyClaims s (l.foldl f s) := by
  induction l generalizing s with
  | nil => exact refl s
  | cons a r ih => exact (hf s a).trans (ih _)

theorem wave? (h : onlyClaims s u) {g : Nat} {w : Wave} (hw : s.wave? g = some w) : u.wave? g = some w := by
  obtain ⟨ws, ho⟩ := h.others
  unfold State.wave? at *
  rw [h.me, ho]
  split at hw
  · next hg => rw [if_pos hg, hw]
  · next hg => rw [if_neg hg, List.find?_append, hw, Option.some_or]

/-- A change of a berth's steals alone. -/
theorem setSteals (s : State) (b : Nat) (qs : List StealReq) : onlyClaims s (s.setBerth { s.berth b with steals := qs }) := by
  have hb (c : Nat) : (s.setBerth { s.berth b with steals := qs }).berth c = if b = c then { s.berth b with steals := qs } else s.berth c := by
    split
    · next h => exact State.berth_setBerth_same s (b := { s.berth b with steals := qs }) ((s.berth_n b).trans h)
    · next h => exact State.berth_setBerth_ne s (b := { s.berth b with steals := qs }) (by simpa using h)
  refine of_eq rfl rfl (fun c => ?_) (fun c => ?_) rfl
  · rw [hb]
    split
    · next h => subst h; exact ⟨rfl, rfl⟩
    · exact ⟨rfl, rfl⟩
  · rw [hb]
    split
    · next h => subst h; rfl
    · rfl

/-- A change of pilots alone. -/
theorem setPilots (s : State) (ps : List PilotCore) : onlyClaims s { s with pilots := ps } :=
  of_eq rfl rfl (fun _ => ⟨rfl, rfl⟩) (fun _ => rfl) rfl

/-- A change of one record to what a claim writes. -/
theorem modRec (s : State) (b i : Nat) {f : TaskRec → TaskRec} (hf : claimsOnly f) : onlyClaims s (s.modRec b i f) := by
  have hg : claimsOnly fun r => if r.id == i then f r else r := by
    intro r
    dsimp only
    split
    · exact hf r
    · rfl
  refine ⟨rfl, ⟨[], (List.append_nil _).symm⟩, fun c => ?_, fun c => ?_, fun c i => rfl⟩
  · by_cases hc : c = b
    · subst hc
      rw [State.berth_modRec_same]
      exact ⟨rfl, rfl⟩
    · rw [State.berth_modRec_ne _ _ _ hc]
      exact ⟨rfl, rfl⟩
  · by_cases hc : c = b
    · subst hc
      exact ⟨_, hg, by rw [State.berth_modRec_same]; rfl⟩
    · exact ⟨id, claimsOnly_id, by rw [State.berth_modRec_ne _ _ _ hc]; simp⟩

theorem report (s : State) (c i : Nat) (r : Report) : onlyClaims s (s.report c i r) := by
  refine ⟨rfl, ⟨[], (List.append_nil _).symm⟩, fun _ => ⟨rfl, rfl⟩, fun c => ⟨id, claimsOnly_id, (List.map_id _).symm⟩, fun d j => ?_⟩
  rw [State.report, State.launch?_modLaunch]
  · split
    · cases s.launch? d j <;> rfl
    · rfl
  · exact fun _ => rfl

theorem claimBad (s : State) (b : Nat) (r : TaskRec) : onlyClaims s (s.claimBad b r) := by
  have hm : onlyClaims s (s.modRec b r.id fun x => { x with st := .failed }) := modRec s b r.id fun _ => rfl
  unfold State.claimBad
  dsimp only
  split
  · exact hm
  · exact hm.trans (report ..)

theorem claim (s : State) (u b : Nat) (r : TaskRec) : onlyClaims s (s.claim u b r) := by
  cases ht : s.typeOf r with
  | none => rw [State.claim_of_untyped ht]; exact refl s
  | some t =>
    cases hbad : r.bad with
    | true => rw [State.claim_of_bad ht hbad]; exact claimBad s b r
    | false =>
      obtain ⟨-, -, hq, hr, -⟩ := modRec s b r.id (f := s.claimRec u b r) fun _ => rfl
      have hb (c : Nat) := State.berth_congr (State.berths_claim (u := u) (b := b) ht hbad) c
      refine ⟨?_, ⟨s.claimWaves u b r t, ?_⟩, fun c => hb c ▸ hq c, fun c => hb c ▸ hr c, fun c i => ?_⟩
      · rw [State.claim_rest ht hbad]
      · rw [State.claim_rest ht hbad]
      · rw [State.launch?_congr]
        rw [State.claim_rest ht hbad]

theorem quayClaim (s : State) (b : Nat) : onlyClaims s (s.quayClaim b) := by
  unfold State.quayClaim
  dsimp only
  split
  · exact refl s
  · split
    · exact refl s
    · split
      · exact claim ..
      · exact refl s

theorem steal (s : State) (b : Nat) (q : StealReq) : onlyClaims s (s.steal b q) := by
  unfold State.steal
  extract_lets s1
  have h1 : onlyClaims s s1 := setPilots ..
  split
  · exact h1.trans (setPilots ..)
  · exact h1.trans (claim ..)

theorem takeSteals (s : State) (b : Nat) : onlyClaims s (s.takeSteals b) :=
  (setSteals s b []).trans (foldl (fun s q => steal s b q) _ _)

/-- The claims with which a berth's cycle ends. -/
theorem cycle (s : State) (b : Nat) (claim : Bool) : onlyClaims s ((if claim then s.quayClaim b else s).takeSteals b) := by
  split
  · exact (quayClaim s b).trans (takeSteals ..)
  · exact takeSteals s b

end onlyClaims
end Sys2Proof.Machine
end

section
/-! SUPPORT of O36. The answers to spawn offers (R37, R47, R49, R51, R248, R249, R311, R321). -/

open Sys2Proof
namespace Sys2Proof.Machine

/-! ## Records of spawns (R37, R248) -/

/-- What the record of a spawn keeps of its words, and what is written in it. -/
theorem spawnRecord_fields {ws : List Word} (hlen : ws.length = 8) (launch : Nat) : let rs := spawnRecord ws launch
    wordBits rs 0 0 60 = wordBits ws 0 0 60 ∧ wordBits rs 0 60 1 = 1 ∧ wordBits rs 1 40 24 = launch % 2 ^ 24 ∧ wordBits rs 1 0 40 = wordBits ws 1 0 40 ∧
    rs.drop 2 = ws.drop 2 := by
  match ws, hlen with
  | x :: y :: rest, _ =>
    have hx : (x ||| 0x1000000000000000#64).toNat = x.toNat ||| 2 ^ 60 := by
      rw [BitVec.toNat_or]
      rfl
    have hy : (BitVec.ofNat 64 (launch % 2 ^ 24 * 2 ^ 40 + y.toNat % 2 ^ 40)).toNat = launch % 2 ^ 24 * 2 ^ 40 + y.toNat % 2 ^ 40 := by
      rw [BitVec.toNat_ofNat]
      omega
    refine ⟨?_, ?_, ?_, ?_, rfl⟩
    · change bits (x ||| 0x1000000000000000#64).toNat 0 60 = bits x.toNat 0 60
      rw [hx]
      refine Nat.eq_of_testBit_eq fun i => ?_
      simp only [bits, Nat.shiftRight_zero, Nat.testBit_mod_two_pow, Nat.testBit_or, Nat.testBit_two_pow]
      by_cases hi : i < 60
      · simp [hi, show ¬ 60 = i by omega]
      · simp [hi]
    · change bits (x ||| 0x1000000000000000#64).toNat 60 1 = 1
      rw [hx]
      have h : bitAt (x.toNat ||| 2 ^ 60) 60 = true := by rw [bitAt_eq_testBit, Nat.testBit_or, Nat.testBit_two_pow_self, Bool.or_true]
      exact beq_iff_eq.mp h
    · change bits (BitVec.ofNat 64 (launch % 2 ^ 24 * 2 ^ 40 + y.toNat % 2 ^ 40)).toNat 40 24 = launch % 2 ^ 24
      rw [hy, bits, Nat.shiftRight_eq_div_pow]
      omega
    · change bits (BitVec.ofNat 64 (launch % 2 ^ 24 * 2 ^ 40 + y.toNat % 2 ^ 40)).toNat 0 40 = bits y.toNat 0 40
      rw [hy, bits, bits, Nat.shiftRight_zero, Nat.shiftRight_zero]
      omega

/-! ## What enqueuing, hashing and an answer leave -/

/-- The record that is enqueued at a berth. -/
def State.newRec (s : State) (b ctx launch : Nat) (ws : List Word) (primary : Option Nat) (hasShadow : Bool) : TaskRec where
  id := (s.berth b).nextRec
  ctx := ctx
  seq := (s.berth b).nextSeq
  launch := launch
  words := ws
  time := s.time
  spans := spans (taskFields ws).base (taskFields ws).len
  st := .unclaimed
  holds := []
  primary := primary
  hasShadow := hasShadow
  die := 0
  sig := 0
  bad := false

theorem State.berth_enqueue_same (s : State) (b ctx launch : Nat) (ws : List Word) (primary : Option Nat) (hasShadow : Bool) :
    (s.enqueue b ctx launch ws primary hasShadow).berth b = { s.berth b with
      recs := (s.berth b).recs ++ [s.newRec b ctx launch ws primary hasShadow]
      nextSeq := seqAfter (s.berth b).nextSeq
      nextRec := (s.berth b).nextRec + 1 } :=
  State.berth_setBerth_same s (b := { s.berth b with
      recs := (s.berth b).recs ++ [s.newRec b ctx launch ws primary hasShadow]
      nextSeq := seqAfter (s.berth b).nextSeq
      nextRec := (s.berth b).nextRec + 1 }) (s.berth_n b)

theorem State.berth_enqueue_ne (s : State) {b c : Nat} (h : c ≠ b) (ctx launch : Nat) (ws : List Word) (primary : Option Nat) (hasShadow : Bool) :
    (s.enqueue b ctx launch ws primary hasShadow).berth c = s.berth c :=
  State.berth_setBerth_ne s (by simpa using Ne.symm h)

/-- A hash changes the crews alone. -/
theorem State.hash_eq (s : State) (crew : Nat) (m : List Byte) : s.hash crew m = { s with crews := (s.hash crew m).crews } := by
  unfold State.hash
  split
  · rfl
  · split
    · rfl
    · rfl

theorem State.answer_ctxs (s : State) (g : Nat) (f : Flight) (d status : Nat) : (s.answer g f d status).ctxs = s.ctxs := State.modWave_ctxs ..

/-! ## The answer to one offer -/

section
variable {s : State} {b d : Nat} {ws : List Word} {o : Offer} {w : Wave} {f : Flight}

/-- The berth of an offer that is being answered: its other offers are taken. -/
def State.offerTaken (s : State) (b : Nat) : State := s.setBerth { s.berth b with offers := [] }

theorem State.berth_offerTaken : (s.offerTaken b).berth b = { s.berth b with offers := [] } :=
  State.berth_setBerth_same s (b := { s.berth b with offers := [] }) (s.berth_n b)

/-- The cycle of a berth with one offer: its answer, then what the berth claims. -/
theorem exec_berthCycle_offer (ho : (s.berth b).offers = [o]) (claim : Bool) (he : (((s.offerTaken b).answerOffer b o).berth b).enums = []) :
    ∃ u, exec (.berthCycle ⟨b, claim⟩) s = .next u ∧ onlyClaims ((s.offerTaken b).answerOffer b o) u := by
  have htake : s.takeOffers b = (s.offerTaken b).answerOffer b o := by
    rw [State.takeOffers, ho]
    rfl
  refine ⟨_, rfl, ?_⟩
  dsimp only
  rw [htake, State.enumStep_of_none he]
  exact onlyClaims.cycle ..

/-- The state in which an accepted spawn is enqueued: counted in its launch, and its record at the berth. -/
def State.spawned (s : State) (b : Nat) (w : Wave) (launch : Nat) (ws : List Word) : State :=
  (s.raiseLive w.ctx launch).enqueue b w.ctx launch (spawnRecord ws launch) none false

variable (hw : s.wave? o.gwn = some w) (hf : w.flight? o.flight = some f) (hbody : f.body = .spawn d ws)
include hw hf hbody

theorem State.answerOffer_of_full (h : 2048 ≤ (s.berth b).count) : s.answerOffer b o = s.answer o.gwn f d 1 := by
  simp only [State.answerOffer, hw, hf, hbody]
  exact if_pos h

theorem State.answerOffer_of_quota (h : (s.berth b).count < 2048) (hq : s.quotaOf w.ctx ≤ (s.berth b).countOf w.ctx) :
    s.answerOffer b o = s.answer o.gwn f d 2 := by
  simp only [State.answerOffer, hw, hf, hbody]
  rw [if_neg (by omega), if_pos hq]

theorem State.answerOffer_of_room {k : Crew} (hk : s.crew? w.crew = some k) (h : (s.berth b).count < 2048) (hq : (s.berth b).countOf w.ctx < s.quotaOf w.ctx) :
    s.answerOffer b o = ((s.spawned b w k.launch ws).hash w.crew (spawnMessage ws k.launch)).answer o.gwn f d 0 := by
  simp only [State.answerOffer, hw, hf, hbody, hk]
  rw [if_neg (by omega), if_neg (by omega)]
  rfl

end

/-- An accepted spawn is counted in its launch, and its record is the berth's youngest. -/
theorem State.spawned_leaves (s : State) (b : Nat) (w : Wave) (launch : Nat) (ws : List Word) (g : Nat) (f : Flight) (d : Nat) (crew : Nat) (m : List Byte) :
    let u := ((s.spawned b w launch ws).hash crew m).answer g f d 0
    (u.berth b = { s.berth b with
      recs := (s.berth b).recs ++ [s.newRec b w.ctx launch (spawnRecord ws launch) none false]
      nextSeq := seqAfter (s.berth b).nextSeq
      nextRec := (s.berth b).nextRec + 1 }) ∧ ∀ c i, u.launch? c i = (s.raiseLive w.ctx launch).launch? c i := by
  have hhash := State.hash_eq (s.spawned b w launch ws) crew m
  refine ⟨?_, fun c i => ?_⟩
  · rw [State.berth_congr (State.answer_berths ..), hhash]
    exact State.berth_enqueue_same (s.raiseLive w.ctx launch) b w.ctx launch (spawnRecord ws launch) none false
  · rw [State.launch?_congr (State.answer_ctxs ..), hhash]
    rfl

theorem State.wave?_spawned (s : State) (b : Nat) (w : Wave) (launch : Nat) (ws : List Word) (crew : Nat) (m : List Byte) (g : Nat) :
    ((s.spawned b w launch ws).hash crew m).wave? g = s.wave? g := by
  rw [State.hash_eq]
  rfl

/-- What an answered offer leaves at the end of the cycle: the spawner has the status, and the berth's queue is that of the answer. -/
theorem exec_berthCycle_answered {s t : State} {b d status : Nat} {o : Offer} {w : Wave} {f : Flight} (ho : (s.berth b).offers = [o]) (claim : Bool)
    (hw : t.wave? o.gwn = some w) (hwf : w.wf = true) (ha : (s.offerTaken b).answerOffer b o = t.answer o.gwn f d status)
    (hoff : (t.berth b).offers = []) (he : (t.berth b).enums = []) :
    ∃ u z, exec (.berthCycle ⟨b, claim⟩) s = .next u ∧ u.wave? o.gwn = some z ∧ z.flights = w.flights.filter (·.id != f.id) ∧ (u.berth b).offers = [] ∧
      z.sreg d = BitVec.ofNat 64 status ∧ (u.berth b).nextSeq = (t.berth b).nextSeq ∧ ∃ g, claimsOnly g ∧ (u.berth b).recs = (t.berth b).recs.map g := by
  have hb := State.berth_congr (State.answer_berths t o.gwn f d status) b
  obtain ⟨z, hz, hs, hfl⟩ := State.wave?_answer hw hwf f d status
  obtain ⟨u, hu, hc⟩ := exec_berthCycle_offer ho claim (by rw [ha, hb, he])
  rw [ha] at hc
  have hq := hc.queue b
  have hr := hc.recs b
  rw [hb] at hq hr
  exact ⟨u, z, hu, hc.wave? hz, hfl, hq.1.trans hoff, hs, hq.2, hr⟩

theorem offerAnswers : Claim.OfferAnswers := by
  unfold Claim.OfferAnswers
  intro s b d claim ws o w f k ho he hw hwf hf hbody hk hlen x
  have hb := s.berth_offerTaken (b := b)
  have hw' : (s.offerTaken b).wave? o.gwn = some w := hw
  have hoff : ((s.offerTaken b).berth b).offers = [] := by rw [hb]
  have hen : ((s.offerTaken b).berth b).enums = [] := by rw [hb]; exact he
  have hrecs : ((s.offerTaken b).berth b).recs = x.recs := by rw [hb]
  have hseq : ((s.offerTaken b).berth b).nextSeq = x.nextSeq := by rw [hb]
  have hcount : ((s.offerTaken b).berth b).count = x.count := by rw [hb]; rfl
  have hquota : ((s.offerTaken b).berth b).countOf w.ctx = x.countOf w.ctx := by rw [hb]; rfl
  by_cases hfull : 2048 ≤ x.count
  · have ha := State.answerOffer_of_full (b := b) hw' hf hbody (hcount ▸ hfull)
    obtain ⟨u, z, hu, hz, hfl, huo, hs, hq, g, -, hr⟩ := exec_berthCycle_answered ho claim hw' hwf ha hoff hen
    exact ⟨u, z, hu, hz, hfl, huo, fun _ => ⟨hs, hq.trans hseq, by rw [hr, List.length_map, hrecs]⟩, fun h => absurd h (by omega), fun h => absurd h (by omega)⟩
  · have hroom : x.count < 2048 := by omega
    by_cases hover : s.quotaOf w.ctx ≤ x.countOf w.ctx
    · have ha := State.answerOffer_of_quota (b := b) hw' hf hbody (hcount ▸ hroom) (hquota ▸ hover)
      obtain ⟨u, z, hu, hz, hfl, huo, hs, hq, g, -, hr⟩ := exec_berthCycle_answered ho claim hw' hwf ha hoff hen
      exact ⟨u, z, hu, hz, hfl, huo, fun h => absurd h hfull, fun _ _ => ⟨hs, hq.trans hseq, by rw [hr, List.length_map, hrecs]⟩, fun _ h => absurd h (by omega)⟩
    · have hunder : x.countOf w.ctx < s.quotaOf w.ctx := by omega
      have ha := State.answerOffer_of_room (b := b) hw' hf hbody (k := k) hk (hcount ▸ hroom) (hquota ▸ hunder)
      have hsp := ((s.offerTaken b).spawned_leaves b w k.launch ws o.gwn f d w.crew (spawnMessage ws k.launch)).1
      rw [State.berth_congr (State.answer_berths ..)] at hsp
      obtain ⟨u, z, hu, hz, hfl, huo, hs, hq, g, hg, hr⟩ := exec_berthCycle_answered ho claim ((State.wave?_spawned ..).trans hw') hwf ha
        (by rw [hsp]; exact hoff) (by rw [hsp]; exact hen)
      rw [hsp] at hq hr
      refine ⟨u, z, hu, hz, hfl, huo, fun h => absurd h hfull, fun _ h => absurd h (by omega), fun _ _ => ⟨hs, hq.trans (congrArg seqAfter hseq), ?_⟩⟩
      obtain ⟨h60, hone, h24, h40, hrest⟩ := spawnRecord_fields hlen k.launch
      refine ⟨g ((s.offerTaken b).newRec b w.ctx k.launch (spawnRecord ws k.launch) none false), ?_, ?_⟩
      · rw [hr]
        exact List.mem_map_of_mem (List.mem_append_right _ (List.mem_singleton.mpr rfl))
      · rw [hg]
        exact ⟨hseq, rfl, rfl, h60, hone, h24, h40, hrest⟩

theorem spawnsAreCounted : Claim.SpawnsAreCounted := by
  unfold Claim.SpawnsAreCounted
  intro s b d claim ws o w f k l ho he hw hf hbody hk hl hroom hunder
  have hb := s.berth_offerTaken (b := b)
  have hcount : ((s.offerTaken b).berth b).count = (s.berth b).count := by rw [hb]; rfl
  have hquota : ((s.offerTaken b).berth b).countOf w.ctx = (s.berth b).countOf w.ctx := by rw [hb]; rfl
  have ha := State.answerOffer_of_room (s := s.offerTaken b) (b := b) hw hf hbody hk (hcount ▸ hroom) (hquota ▸ hunder)
  obtain ⟨hberth, hlaunch⟩ := (s.offerTaken b).spawned_leaves b w k.launch ws o.gwn f d w.crew (spawnMessage ws k.launch)
  obtain ⟨u, hu, hc⟩ := exec_berthCycle_offer ho claim (by rw [ha, hberth, hb]; exact he)
  have hlive := hc.live w.ctx k.launch
  rw [ha, hlaunch, State.raiseLive, State.launch?_modLaunch_same] at hlive
  · rw [show (s.offerTaken b).launch? w.ctx k.launch = some l from hl] at hlive
    obtain ⟨m, hm, hml⟩ := Option.map_eq_some_iff.mp hlive
    exact ⟨u, m, hu, hm, hml⟩
  · exact fun _ => rfl

end Sys2Proof.Machine
end

section
/-! SUPPORT of O36. The enumeration of a launch, one task in a cycle (R37, R38, R46, R47, R49, R50, R52, R64, R69, R311, R319). -/

open Sys2Proof
namespace Sys2Proof.Machine

/-! ## The next task (R46, R69) -/

section
variable {s : State} {c b : Nat} {l : Launch}

/-- Does a berth take a task when it comes to its index? -/
def State.takesTask (s : State) (c : Nat) (l : Launch) (b i : Nat) : Prop :=
  i ∉ l.taken ∧ ((s.placeOf c l i).owner = b ∨
    ¬ ∃ x ∈ (s.berth (s.placeOf c l i).owner).enums, x.ctx = c ∧ x.launch = l.id ∧ x.next ≤ i)

theorem State.passed_iff (s : State) (c n k i : Nat) : s.passed c n k i = true ↔ ¬ ∃ x ∈ (s.berth k).enums, x.ctx = c ∧ x.launch = n ∧ x.next ≤ i := by
  rw [State.passed, Bool.not_eq_true', ← Bool.not_eq_true, List.any_eq_true]
  simp only [Bool.and_eq_true, beq_iff_eq, decide_eq_true_eq, and_assoc]

theorem State.takesTask_iff (i : Nat) : (!l.taken.contains i && ((s.placeOf c l i).owner == b || s.passed c l.id (s.placeOf c l i).owner i)) = true ↔
    s.takesTask c l b i := by
  rw [State.takesTask, Bool.and_eq_true, Bool.or_eq_true, State.passed_iff, beq_iff_eq]
  simp

theorem State.nextTask_of_none {n i : Nat} (h : ∀ j, i ≤ j → j < i + n → ¬ s.takesTask c l b j) : s.nextTask c l b n i = none := by
  induction n generalizing i with
  | zero => rfl
  | succ n ih =>
    have hi := h i le_rfl (by omega)
    rw [← State.takesTask_iff] at hi
    exact (if_neg hi).trans (ih fun j h1 h2 => h j (by omega) (by omega))

theorem State.nextTask_of_first {n i j : Nat} (hij : i ≤ j) (hjn : j < i + n) (ht : s.takesTask c l b j) (h : ∀ k, i ≤ k → k < j → ¬ s.takesTask c l b k) :
    s.nextTask c l b n i = some (j, s.placeOf c l j) := by
  induction n generalizing i with
  | zero => omega
  | succ n ih =>
    rcases Nat.eq_or_lt_of_le hij with rfl | hlt
    · exact if_pos (State.takesTask_iff i |>.mpr ht)
    · have hi := h i le_rfl hlt
      rw [← State.takesTask_iff] at hi
      exact (if_neg hi).trans (ih hlt (by omega) fun k h1 h2 => h k (by omega) h2)

end

/-! ## Task records (R37, R46) -/

theorem wordBits_lt (ws : List Word) (i lo n : Nat) : wordBits ws i lo n < 2 ^ n := Nat.mod_lt _ (Nat.two_pow_pos n)

/-- The fields of the record of an enumerated task. -/
theorem launchRecord_fields (l : Launch) (base : Nat) (shadow : Bool) : let rs := launchRecord l base shadow
    let f := launchFields l.words
    rs.length = 2 + ((l.words.drop 10).take 6).length ∧ wordBits rs 0 0 48 = base % 2 ^ 48 ∧ wordBits rs 0 48 12 = f.ty ∧
    wordBits rs 0 60 4 = (if shadow then 2 else 0) ∧ wordBits rs 1 0 32 = f.len ∧ wordBits rs 1 32 5 = f.prio ∧ wordBits rs 1 37 3 = 0 ∧
    wordBits rs 1 40 24 = l.id % 2 ^ 24 ∧ rs.drop 2 = (l.words.drop 10).take 6 := by
  intro rs f
  have hty : f.ty < 2 ^ 12 := wordBits_lt ..
  have hlen : f.len < 2 ^ 32 := wordBits_lt ..
  have hprio : f.prio < 2 ^ 5 := wordBits_lt ..
  have hsh : b2n shadow * 2 ^ 61 = if shadow then 2 ^ 61 else 0 := by cases shadow <;> rfl
  have h0 : (rs.getD 0 0).toNat = base % 2 ^ 48 + f.ty * 2 ^ 48 + if shadow then 2 ^ 61 else 0 := by
    change (BitVec.ofNat 64 (base % 2 ^ 48 + f.ty * 2 ^ 48 + b2n shadow * 2 ^ 61)).toNat = _
    rw [BitVec.toNat_ofNat, hsh]
    split <;> omega
  have h1 : (rs.getD 1 0).toNat = f.len + f.prio * 2 ^ 32 + l.id % 2 ^ 24 * 2 ^ 40 := by
    change (BitVec.ofNat 64 (f.len + f.prio * 2 ^ 32 + l.id % 2 ^ 24 * 2 ^ 40)).toNat = _
    rw [BitVec.toNat_ofNat]
    omega
  refine ⟨Nat.add_comm _ 2, ?_, ?_, ?_, ?_, ?_, ?_, ?_, rfl⟩ <;> rw [wordBits, bits, Nat.shiftRight_eq_div_pow]
  · rw [h0]; split <;> omega
  · rw [h0]; split <;> omega
  · rw [h0]; split <;> omega
  all_goals rw [h1]; omega

/-! ## The one enumeration of a berth -/

theorem flatMap_filter_singleton {α : Type} {f : α → Nat} {a : α} {l : List Nat} (hnd : l.Nodup) (hmem : f a ∈ l) :
    (l.flatMap fun p => [a].filter fun x => f x == p) = [a] := by
  have hout {l : List Nat} (h : f a ∉ l) : (l.flatMap fun p => [a].filter fun x => f x == p) = [] := by
    rw [List.flatMap_eq_nil_iff]
    intro p hp
    have : f a ≠ p := fun he => h (he ▸ hp)
    simp [this]
  induction l with
  | nil => cases hmem
  | cons p l ih =>
    obtain ⟨hp, hnd⟩ := List.nodup_cons.mp hnd
    rw [List.flatMap_cons]
    by_cases he : f a = p
    · rw [hout (he ▸ hp)]
      simp [he]
    · rw [ih hnd ((List.mem_cons.mp hmem).resolve_left he)]
      simp [he]

section
variable {s t : State} {b : Nat} {e : Enum} {l : Launch} (he : (s.berth b).enums = [e]) (hl : s.launch? e.ctx e.launch = some l)
include he hl

theorem State.enumStep_of_one : s.enumStep b = (s.enumOne b e).getD s := by
  have ho : s.enumOrder b = [e] := by
    rw [State.enumOrder, he]
    refine flatMap_filter_singleton (List.nodup_reverse.mpr List.nodup_range) ?_
    rw [hl, List.mem_reverse, List.mem_range]
    exact wordBits_lt ..
  rw [State.enumStep, ho, firstSome]
  cases s.enumOne b e <;> rfl

omit hl in
/-- The cycle of a berth with one enumeration, and nothing offered or to be stolen. -/
theorem exec_berthCycle_enum (ho : (s.berth b).offers = []) (hs : ((s.enumStep b).berth b).steals = []) :
    exec (.berthCycle ⟨b, false⟩) s = .next ((s.enumStep b).writtenBerth b) := by
  have hne : s.berth b ≠ Berth.empty b := by
    intro h
    rw [h] at he
    cases he
  refine Result.next_congr ?_
  rw [State.takeOffers_of_none ho, State.writtenBerth, State.setBerth_berth s hne]
  exact State.takeSteals_of_none hs

/-- The enumeration with no task left ends. -/
theorem State.enumOne_of_none (h : ∀ i, e.next ≤ i → i < (launchFields l.words).count → ¬ s.takesTask e.ctx l b i) :
    s.enumOne b e = some (s.setBerth { s.berth b with enums := [] }) := by
  have hn : s.nextTask e.ctx l b ((launchFields l.words).count - e.next) e.next = none :=
    State.nextTask_of_none fun j h1 h2 => h j h1 (by omega)
  have hf : [e].filter (· != e) = [] := by simp
  simp only [State.enumOne, hl, hn, he, hf]

end

/-- A task is taken by a berth's enumeration. -/
def State.enumTaken (s : State) (b : Nat) (e : Enum) (i : Nat) : State :=
  (s.setBerth { s.berth b with enums := mapWhere (· == e) (fun x => { x with next := i + 1 }) (s.berth b).enums }).modLaunch e.ctx e.launch
    fun x => { x with taken := i :: x.taken }

/-- The report of a task that is not enqueued. -/
def enumReport (b : Nat) (l : Launch) (p : Place) (cause sev : Nat) : Report :=
  ⟨b, 0, (launchFields l.words).ty, p.base.toNat % 2 ^ 48, cause, sev, 0, 0, none⟩

/-- A task is enqueued at its home. -/
def State.enumQueued (s : State) (b : Nat) (e : Enum) (l : Launch) (i : Nat) (p : Place) (h : Nat) : State :=
  let t := (s.enumTaken b e i).enqueue h e.ctx e.launch (launchRecord l p.base.toNat false) none (launchFields l.words).shadow
  if (launchFields l.words).shadow then
    (t.raiseLive e.ctx e.launch).enqueue h e.ctx e.launch (launchRecord l p.base.toNat true) (some (s.berth h).nextRec) false
  else t

section
variable {s : State} {b : Nat} {e : Enum} {l : Launch} {i : Nat} {p : Place} (hl : s.launch? e.ctx e.launch = some l)
  (hn : s.nextTask e.ctx l b ((launchFields l.words).count - e.next) e.next = some (i, p))
include hl hn

theorem State.enumOne_of_fault {cause sev : Nat} (hp : p.home = .error (cause, sev)) :
    s.enumOne b e = some ((s.enumTaken b e i).report e.ctx e.launch (enumReport b l p cause sev)) := by
  simp only [State.enumOne, hl, hn, hp]
  rfl

theorem State.enumOne_of_stuck {h : Nat} (hp : p.home = .ok h) (hs : (spans p.base.toNat (launchFields l.words).len && s.noFar e.ctx l) = true) :
    s.enumOne b e = some ((s.enumTaken b e i).report e.ctx e.launch (enumReport b l p 0x0A 0)) := by
  simp only [State.enumOne, hl, hn, hp, hs, if_true]
  rfl

theorem State.enumOne_of_full {h : Nat} (hp : p.home = .ok h) (hs : ¬ (spans p.base.toNat (launchFields l.words).len && s.noFar e.ctx l) = true)
    (hr : ¬ s.enumRoom h e.ctx (launchFields l.words).shadow = true) : s.enumOne b e = none := by
  simp only [State.enumOne, hl, hn, hp]
  rw [if_neg hs, if_neg hr]

theorem State.enumOne_of_room {h : Nat} (hp : p.home = .ok h) (hs : ¬ (spans p.base.toNat (launchFields l.words).len && s.noFar e.ctx l) = true)
    (hr : s.enumRoom h e.ctx (launchFields l.words).shadow = true) : s.enumOne b e = some (s.enumQueued b e l i p h) := by
  simp only [State.enumOne, hl, hn, hp]
  rw [if_neg hs, if_pos hr]
  rfl

end

theorem State.enumRoom_iff (s : State) (h c : Nat) (two : Bool) : s.enumRoom h c two = true ↔
    (s.berth h).count + (if two then 1 else 0) < 1792 ∧ (s.berth h).countOf c + (if two then 1 else 0) < s.quotaOf c - s.quotaOf c / 8 := by
  have hb : b2n two = if two then 1 else 0 := by cases two <;> rfl
  rw [State.enumRoom, Bool.and_eq_true, decide_eq_true_eq, decide_eq_true_eq, hb]

theorem State.noFar_iff (s : State) (c : Nat) (l : Launch) : s.noFar c l = true ↔ ∀ y, (s.typeEntry c (launchFields l.words).ty).2 = some y → y.farPc = 0 := by
  unfold State.noFar
  cases (s.typeEntry c (launchFields l.words).ty).2 <;> simp

end Sys2Proof.Machine
end

section
/-! SUPPORT of O36, and O36 itself. What one enumeration leaves (R37, R46, R47, R49, R50, R52, R64, R319). -/

open Sys2Proof
namespace Sys2Proof.Machine

/-- What an enumeration leaves of a state: the berth's enumerations as given, and everything that it does not write. -/
structure enumLeft (s t : State) (b : Nat) (es : List Enum) : Prop where
  enums : (t.berth b).enums = es
  steals : (t.berth b).steals = []
  waves : t.waves = s.waves
  store : t.store = s.store
  crews : t.crews = s.crews
  rest : ∀ c, c ≠ b → (t.berth c).enums = (s.berth c).enums

theorem State.enqueue_enums (s : State) (b ctx launch : Nat) (ws : List Word) (primary : Option Nat) (hasShadow : Bool) (c : Nat) :
    ((s.enqueue b ctx launch ws primary hasShadow).berth c).enums = (s.berth c).enums ∧
    ((s.enqueue b ctx launch ws primary hasShadow).berth c).steals = (s.berth c).steals := by
  by_cases h : c = b
  · subst h
    rw [State.berth_enqueue_same]
    exact ⟨rfl, rfl⟩
  · rw [State.berth_enqueue_ne s h]
    exact ⟨rfl, rfl⟩

namespace enumLeft
variable {s t : State} {b : Nat} {es : List Enum}

theorem enqueue (h : enumLeft s t b es) (n ctx launch : Nat) (ws : List Word) (primary : Option Nat) (hasShadow : Bool) :
    enumLeft s (t.enqueue n ctx launch ws primary hasShadow) b es := by
  have hq (c : Nat) := State.enqueue_enums t n ctx launch ws primary hasShadow c
  exact ⟨(hq b).1.trans h.enums, (hq b).2.trans h.steals, h.waves, h.store, h.crews, fun c hc => (hq c).1.trans (h.rest c hc)⟩

theorem modLaunch (h : enumLeft s t b es) (c i : Nat) (f : Launch → Launch) : enumLeft s (t.modLaunch c i f) b es :=
  ⟨h.enums, h.steals, h.waves, h.store, h.crews, h.rest⟩

end enumLeft

section
variable {s : State} {b : Nat} {e : Enum} {l : Launch}

/-- The berth of a cycle with its enumerations replaced. -/
theorem State.berth_setEnums (s : State) (b : Nat) (es : List Enum) (c : Nat) :
    (s.setBerth { s.berth b with enums := es }).berth c = if c = b then { s.berth b with enums := es } else s.berth c := by
  split
  · next h => exact State.berth_setBerth_same s (b := { s.berth b with enums := es }) ((s.berth_n b).trans h.symm)
  · next h => exact State.berth_setBerth_ne s (b := { s.berth b with enums := es }) (by simpa using Ne.symm h)

theorem State.recs_setEnums (s : State) (b : Nat) (es : List Enum) (c : Nat) : let x := (s.setBerth { s.berth b with enums := es }).berth c
    x.recs = (s.berth c).recs ∧ x.nextSeq = (s.berth c).nextSeq ∧ x.nextRec = (s.berth c).nextRec := by
  rw [State.berth_setEnums]
  split
  · next h => subst h; exact ⟨rfl, rfl, rfl⟩
  · exact ⟨rfl, rfl, rfl⟩

theorem enumLeft_setEnums (hs : (s.berth b).steals = []) (es : List Enum) : enumLeft s (s.setBerth { s.berth b with enums := es }) b es := by
  refine ⟨?_, ?_, rfl, rfl, rfl, fun c hc => ?_⟩
  · rw [State.berth_setEnums, if_pos rfl]
  · rw [State.berth_setEnums, if_pos rfl, ← hs]
  · rw [State.berth_setEnums, if_neg hc]

/-- A task that is taken: the enumeration goes on at the next index. -/
theorem State.enumTaken_eq (he : (s.berth b).enums = [e]) (i : Nat) : s.enumTaken b e i =
    (s.setBerth { s.berth b with enums := [{ e with next := i + 1 }] }).modLaunch e.ctx e.launch fun x => { x with taken := i :: x.taken } := by
  have hm : mapWhere (· == e) (fun x => { x with next := i + 1 }) [e] = [{ e with next := i + 1 }] := by simp [mapWhere]
  rw [State.enumTaken, he, hm]

theorem enumLeft_enumTaken (he : (s.berth b).enums = [e]) (hs : (s.berth b).steals = []) (i : Nat) :
    enumLeft s (s.enumTaken b e i) b [{ e with next := i + 1 }] := by
  rw [State.enumTaken_eq he]
  exact (enumLeft_setEnums hs _).modLaunch ..

theorem State.recs_enumTaken (s : State) (b : Nat) (e : Enum) (i c : Nat) : let x := (s.enumTaken b e i).berth c
    x.recs = (s.berth c).recs ∧ x.nextSeq = (s.berth c).nextSeq ∧ x.nextRec = (s.berth c).nextRec := State.recs_setEnums s b _ c

theorem State.launch?_enumTaken (hl : s.launch? e.ctx e.launch = some l) (i : Nat) :
    (s.enumTaken b e i).launch? e.ctx e.launch = some { l with taken := i :: l.taken } := by
  rw [State.enumTaken, State.launch?_modLaunch_same]
  · exact congrArg (Option.map fun x : Launch => { x with taken := i :: x.taken }) hl
  · exact fun _ => rfl

theorem State.launch?_raiseLive {c i : Nat} (hl : s.launch? c i = some l) : (s.raiseLive c i).launch? c i = some { l with live := l.live + 1 } := by
  rw [State.raiseLive, State.launch?_modLaunch_same]
  · rw [hl]
    rfl
  · exact fun _ => rfl

end

/-- The cycle with one enumeration, from what its step leaves. -/
theorem exec_berthCycle_enumLeft {s t : State} {b : Nat} {e : Enum} {l : Launch} {es : List Enum} (ho : (s.berth b).offers = []) (he : (s.berth b).enums = [e])
    (hl : s.launch? e.ctx e.launch = some l) (ht : (s.enumOne b e).getD s = t) (h : enumLeft s t b es) :
    exec (.berthCycle ⟨b, false⟩) s = .next (t.writtenBerth b) ∧ ((t.writtenBerth b).berth b).enums = es ∧ (t.writtenBerth b).waves = s.waves ∧
    (t.writtenBerth b).store = s.store ∧ (t.writtenBerth b).crews = s.crews ∧ ∀ c, c ≠ b → ((t.writtenBerth b).berth c).enums = (s.berth c).enums := by
  have hstep : s.enumStep b = t := (State.enumStep_of_one he hl).trans ht
  refine ⟨?_, ?_, h.waves, h.store, h.crews, fun c hc => ?_⟩
  · rw [exec_berthCycle_enum he ho (by rw [hstep, h.steals]), hstep]
  · rw [State.berth_writtenBerth, h.enums]
  · rw [State.berth_writtenBerth, h.rest c hc]

/-! ## What is enqueued (R37, R46, R49, R319) -/

section
variable {s : State} {b h i : Nat} {e : Enum} {l : Launch} {p : Place}

/-- The record of an enumerated task. -/
def enumRec (t : State) (h : Nat) (e : Enum) (l : Launch) (p : Place) (primary : Option Nat) (shadow hasShadow : Bool) : TaskRec :=
  t.newRec h e.ctx e.launch (launchRecord l p.base.toNat shadow) primary hasShadow

/-- A launch without SHADOW enqueues one record. -/
theorem State.enumQueued_single (hsh : (launchFields l.words).shadow = false) : let u := s.enumQueued b e l i p h
    let r := enumRec (s.enumTaken b e i) h e l p none false false
    (u.berth h).recs = (s.berth h).recs ++ [r] ∧ (u.berth h).nextSeq = seqAfter (s.berth h).nextSeq ∧
    (∀ c, c ≠ h → (u.berth c).recs = (s.berth c).recs ∧ (u.berth c).nextSeq = (s.berth c).nextSeq) ∧
    ∀ c j, u.launch? c j = (s.enumTaken b e i).launch? c j := by
  intro u r
  have hu : u = (s.enumTaken b e i).enqueue h e.ctx e.launch (launchRecord l p.base.toNat false) none false := by
    simp only [u, State.enumQueued, hsh, Bool.false_eq_true, if_false]
  have hrecs (c : Nat) := s.recs_enumTaken b e i c
  rw [hu]
  refine ⟨?_, ?_, fun c hc => ?_, fun _ _ => rfl⟩
  · rw [State.berth_enqueue_same, ← (hrecs h).1]
    rfl
  · rw [State.berth_enqueue_same, ← (hrecs h).2.1]
  · rw [State.berth_enqueue_ne _ hc]
    exact ⟨(hrecs c).1, (hrecs c).2.1⟩

/-- The state in which a task with SHADOW and its shadow copy's live count stand. -/
def State.enumPrimary (s : State) (b : Nat) (e : Enum) (l : Launch) (i : Nat) (p : Place) (h : Nat) : State :=
  ((s.enumTaken b e i).enqueue h e.ctx e.launch (launchRecord l p.base.toNat false) none true).raiseLive e.ctx e.launch

/-- A launch with SHADOW enqueues a record and its shadow copy after it. -/
theorem State.enumQueued_pair (hsh : (launchFields l.words).shadow = true) : let u := s.enumQueued b e l i p h
    let r := enumRec (s.enumTaken b e i) h e l p none false true
    let q := enumRec (s.enumPrimary b e l i p h) h e l p (some r.id) true false
    (u.berth h).recs = (s.berth h).recs ++ [r, q] ∧ q.seq = seqAfter (s.berth h).nextSeq ∧ (u.berth h).nextSeq = seqAfter (seqAfter (s.berth h).nextSeq) ∧
    (∀ c, c ≠ h → (u.berth c).recs = (s.berth c).recs ∧ (u.berth c).nextSeq = (s.berth c).nextSeq) ∧
    ∀ c j, u.launch? c j = ((s.enumTaken b e i).raiseLive e.ctx e.launch).launch? c j := by
  intro u r q
  have hrecs (c : Nat) := s.recs_enumTaken b e i c
  have hid : r.id = (s.berth h).nextRec := (hrecs h).2.2
  have hu : u = (s.enumPrimary b e l i p h).enqueue h e.ctx e.launch (launchRecord l p.base.toNat true) (some r.id) false := by
    rw [hid]
    simp only [u, State.enumQueued, hsh, if_true]
    rfl
  have hprim : (s.enumPrimary b e l i p h).berth h = _ := State.berth_enqueue_same (s.enumTaken b e i) h e.ctx e.launch (launchRecord l p.base.toNat false) none true
  have hq : q.seq = seqAfter (s.berth h).nextSeq := by
    change ((s.enumPrimary b e l i p h).berth h).nextSeq = _
    rw [hprim, (hrecs h).2.1]
  rw [hu]
  refine ⟨?_, hq, ?_, fun c hc => ?_, fun _ _ => rfl⟩
  · rw [State.berth_enqueue_same, hprim, ← (hrecs h).1]
    exact List.append_assoc ..
  · rw [State.berth_enqueue_same]
    exact congrArg seqAfter hq
  · rw [State.berth_enqueue_ne _ hc]
    have hne : (s.enumPrimary b e l i p h).berth c = (s.enumTaken b e i).berth c := State.berth_enqueue_ne (s.enumTaken b e i) hc ..
    rw [hne]
    exact ⟨(hrecs c).1, (hrecs c).2.1⟩

/-- The anchor of a task's record spans as that of the task (R37, R38). -/
theorem enumRec_spans (t : State) (primary : Option Nat) (shadow hasShadow : Bool) :
    (enumRec t h e l p primary shadow hasShadow).spans = spans (p.base.toNat % 2 ^ 48) (launchFields l.words).len := by
  obtain ⟨-, hbase, -, -, hlen, -⟩ := launchRecord_fields l p.base.toNat shadow
  exact congrArg₂ spans hbase hlen

theorem enumLeft_enumQueued (he : (s.berth b).enums = [e]) (hs : (s.berth b).steals = []) :
    enumLeft s (s.enumQueued b e l i p h) b [{ e with next := i + 1 }] := by
  have ht := (enumLeft_enumTaken he hs i).enqueue h e.ctx e.launch (launchRecord l p.base.toNat false) none (launchFields l.words).shadow
  unfold State.enumQueued
  dsimp only
  split
  · exact (ht.modLaunch ..).enqueue ..
  · exact ht

end

theorem enumerationSteps : Claim.EnumerationSteps := by
  unfold Claim.EnumerationSteps
  intro s b e l ho hs he hl f owner left taken passed takes same
  have hid := State.launch?_id hl
  have htakes (i : Nat) : s.takesTask e.ctx l b i ↔ takes i := by
    rw [State.takesTask, hid]
  refine ⟨fun h => ?_, ?_⟩
  · have hone := State.enumOne_of_none he hl fun i h1 h2 => (htakes i).not.mpr (h i h1 h2)
    refine ⟨_, exec_berthCycle_enumLeft ho he hl (by rw [hone]; rfl) (enumLeft_setEnums hs []), fun c => ?_, rfl⟩
    rw [State.berth_writtenBerth]
    exact ⟨(s.recs_setEnums b [] c).1, (s.recs_setEnums b [] c).2.1⟩
  · intro i h1 h2 hi hfirst p base on reported
    have hlt : i < (launchFields l.words).count := h2
    have hn : s.nextTask e.ctx l b ((launchFields l.words).count - e.next) e.next = some (i, p) :=
      State.nextTask_of_first h1 (by omega) ((htakes i).mpr hi) fun k k1 k2 => (htakes k).not.mpr (hfirst k k1 k2)
    have hrep {cause sev : Nat} (hone : s.enumOne b e = some ((s.enumTaken b e i).report e.ctx e.launch (enumReport b l p cause sev))) : reported cause sev := by
      refine ⟨_, _, exec_berthCycle_enumLeft ho he hl (by rw [hone]; rfl) ((enumLeft_enumTaken he hs i).modLaunch ..), fun c => ?_,
        State.launch?_report (State.launch?_enumTaken hl i) _, rfl⟩
      rw [State.berth_writtenBerth]
      exact ⟨(s.recs_enumTaken b e i c).1, (s.recs_enumTaken b e i c).2.1⟩
    refine ⟨fun cause sev hp => hrep (State.enumOne_of_fault hl hn hp), ?_⟩
    intro h hp stuck x more room isRec
    have hstuck : (spans p.base.toNat (launchFields l.words).len && s.noFar e.ctx l) = true ↔ stuck := by
      rw [Bool.and_eq_true, State.noFar_iff]
    have hroom : s.enumRoom h e.ctx (launchFields l.words).shadow = true ↔ room := State.enumRoom_iff ..
    refine ⟨fun hst => hrep (State.enumOne_of_stuck hl hn hp (hstuck.mpr hst)), fun hst hr => ?_, fun hst hr => ?_⟩
    · have hone := State.enumOne_of_full hl hn hp (hstuck.not.mpr hst) (hroom.not.mpr hr)
      refine ⟨_, exec_berthCycle_enumLeft ho he hl (by rw [hone]; rfl) ⟨he, hs, rfl, rfl, rfl, fun _ _ => rfl⟩, fun c => ?_, rfl⟩
      rw [State.berth_writtenBerth]
      exact ⟨rfl, rfl⟩
    · have hone := State.enumOne_of_room hl hn hp (hstuck.not.mpr hst) (hroom.mpr hr)
      have hleft := exec_berthCycle_enumLeft ho he hl (by rw [hone]; rfl) (enumLeft_enumQueued (l := l) (i := i) (p := p) (h := h) he hs)
      have hrecs := s.recs_enumTaken b e i h
      have hisRec (t : State) (seq : Nat) (primary : Option Nat) (shadow hasShadow : Bool) (hseq : (t.berth h).nextSeq = seq) (htime : t.time = s.time) :
          isRec (enumRec t h e l p primary shadow hasShadow) seq shadow :=
        ⟨hseq, rfl, rfl, htime, rfl, enumRec_spans t primary shadow hasShadow, rfl, rfl, launchRecord_fields l p.base.toNat shadow⟩
      refine ⟨_, enumRec (s.enumTaken b e i) h e l p none false f.shadow, hleft, hisRec _ _ none false f.shadow hrecs.2.1 rfl, rfl, rfl, ?_⟩
      simp only [State.berth_writtenBerth]
      cases hsh : f.shadow with
      | false =>
        obtain ⟨hr, hq, hc, hla⟩ := State.enumQueued_single (s := s) (b := b) (h := h) (i := i) (e := e) (p := p) hsh
        exact ⟨hc, fun _ => ⟨hr, hq, (hla _ _).trans (State.launch?_enumTaken hl i)⟩, fun hf => absurd hf (by decide)⟩
      | true =>
        obtain ⟨hr, hqs, hq, hc, hla⟩ := State.enumQueued_pair (s := s) (b := b) (h := h) (i := i) (e := e) (p := p) hsh
        refine ⟨hc, fun hf => absurd hf (by decide), fun _ => ⟨_, { l with taken := i :: l.taken, live := l.live + 1 }, hr, hisRec _ _ _ true false hqs rfl, rfl, rfl,
          hq, ?_, rfl⟩⟩
        exact (hla _ _).trans (State.launch?_raiseLive (State.launch?_enumTaken hl i))

/-- Settles O36: it holds. Each part is a claim about one cycle of a berth, from what its steps leave: an answer to a spawn, one enumeration, one claim of the quay
unit, or one steal. -/
theorem berthCycles : Obligations.BerthCycles :=
  ⟨offerAnswers, spawnsAreCounted, spawnOffers, enumerationPlaces, enumerationSteps, clearTasks, quayClaims, steals⟩

end Sys2Proof.Machine
end

section
/-! SUPPORT and O15. Rounding to a format: what an encoding's magnitude stands for, what a rounded quotient is, and from both the direction of a rounded value (R72, R79, R80). -/

namespace Sys2Proof.Machine

/-! ## The value of a magnitude (R72) -/

/-- How many binades above the lowest a magnitude lies; the subnormals lie in the lowest. -/
def Fmt.binade (f : Fmt) (m : Nat) : Nat := m / 2 ^ f.mb - 1

/-- The exponent of the least significant fraction bit in the lowest binade. -/
def Fmt.lsbExp (f : Fmt) : Int := 1 - f.bias - f.mb

/-- The integer significand of a magnitude, the leading bit of a normal one included. -/
def Fmt.signif (f : Fmt) (m : Nat) : Nat := m - f.binade m * 2 ^ f.mb

/-- The rational number that a magnitude stands for. -/
def Fmt.magVal (f : Fmt) (m : Nat) : ℚ := f.signif m * 2 ^ (f.lsbExp + f.binade m)

/-- The sign of a value. -/
def signOf (neg : Bool) : ℚ := if neg then -1 else 1

theorem abs_signOf_mul (neg : Bool) (x : ℚ) : |signOf neg * x| = |x| := by
  cases neg <;> simp [signOf]

theorem mem_floatFormats {f : Fmt} (h : f ∈ floatFormats) :
    f = fmtF32 ∨ f = fmtBF16 ∨ f = fmtF16 ∨ f = fmtE5M2 ∨ f = fmtE4M3 ∨ f = fmtE3M2 ∨ f = fmtE2M3 ∨ f = fmtE2M1 := by
  simpa [floatFormats] using h

/-- R71: the finite magnitudes of a format are those up to its largest. -/
theorem Fmt.finite_iff {f : Fmt} (h : f ∈ floatFormats) {m : Nat} (hm : m < f.signBit) :
    (f.isNan m = false ∧ f.inf ≠ some m) ↔ m ≤ f.maxEnc := by
  rcases mem_floatFormats h with rfl | rfl | rfl | rfl | rfl | rfl | rfl | rfl <;>
    simp [Fmt.isNan, Fmt.signBit, fmtF32, fmtBF16, fmtF16, fmtE5M2, fmtE4M3, fmtE3M2, fmtE2M3, fmtE2M1] at hm ⊢ <;> omega

theorem Fmt.maxEnc_lt_signBit {f : Fmt} (h : f ∈ floatFormats) : f.maxEnc < f.signBit := by
  rcases mem_floatFormats h with rfl | rfl | rfl | rfl | rfl | rfl | rfl | rfl <;> decide

/-- The exact value of an encoding with a finite magnitude. -/
theorem Fmt.dec_of_finite (f : Fmt) {x : Nat} (hn : f.isNan (x % f.signBit) = false) (hi : f.inf ≠ some (x % f.signBit)) :
    f.dec x = .num (bitAt x (f.eb + f.mb)) (f.signif (x % f.signBit)) (f.lsbExp + f.binade (x % f.signBit)) := by
  have hdiv := Nat.div_add_mod (x % f.signBit) (2 ^ f.mb)
  unfold Fmt.dec Fmt.signif Fmt.binade Fmt.lsbExp
  simp only [hn, Bool.false_eq_true, if_false, beq_iff_eq, hi]
  split
  · rename_i h0
    rw [h0, Nat.mul_zero, Nat.zero_add] at hdiv
    simp [h0, hdiv]
  · rename_i h0
    obtain ⟨k, hk⟩ := Nat.exists_eq_succ_of_ne_zero h0
    rw [hk, Nat.mul_succ, Nat.mul_comm] at hdiv
    simp only [hk, Nat.succ_eq_add_one, Nat.add_sub_cancel, FVal.num.injEq, true_and]
    constructor
    · omega
    · push_cast; ring

theorem Fmt.dec_not_finite (f : Fmt) {x : Nat} (h : ¬ (f.isNan (x % f.signBit) = false ∧ f.inf ≠ some (x % f.signBit))) :
    ratOf (f.dec x) = none := by
  unfold Fmt.dec
  by_cases hn : f.isNan (x % f.signBit) = true
  · simp [hn, ratOf]
  · have hi : f.inf = some (x % f.signBit) := by
      by_contra hi
      exact h ⟨by simpa using hn, hi⟩
    simp [hn, hi, ratOf]

/-- What `ratOf` gives of an encoding: its signed magnitude, where that is finite. -/
theorem Fmt.ratOf_dec (f : Fmt) {x : Nat} {q : ℚ} (h : ratOf (f.dec x) = some q) :
    q = signOf (bitAt x (f.eb + f.mb)) * f.magVal (x % f.signBit) := by
  by_cases hf : f.isNan (x % f.signBit) = false ∧ f.inf ≠ some (x % f.signBit)
  · rw [f.dec_of_finite hf.1 hf.2] at h
    simp only [ratOf, Option.some.injEq] at h
    rw [← h, Fmt.magVal, signOf]; ring
  · rw [f.dec_not_finite hf] at h; cases h

theorem bitAt_withSign (f : Fmt) (neg : Bool) {m : Nat} (hm : m < f.signBit) : bitAt (f.withSign neg m) (f.eb + f.mb) = neg := by
  unfold bitAt Fmt.withSign
  change m < 2 ^ (f.eb + f.mb) at hm
  cases neg
  · simp [Nat.shiftRight_eq_div_pow, Nat.div_eq_of_lt hm]
  · simp only [if_true, Fmt.signBit, Nat.shiftRight_eq_div_pow]
    rw [Nat.add_div_left _ (Nat.two_pow_pos _), Nat.div_eq_of_lt hm]; rfl

theorem withSign_mod (f : Fmt) (neg : Bool) {m : Nat} (hm : m < f.signBit) : f.withSign neg m % f.signBit = m := by
  unfold Fmt.withSign
  cases neg
  · exact Nat.mod_eq_of_lt hm
  · simp [Nat.mod_eq_of_lt hm]

/-- An encoding is its sign and its magnitude. -/
theorem Fmt.withSign_bitAt (f : Fmt) {x : Nat} (hx : x < 2 ^ f.width) : f.withSign (bitAt x (f.eb + f.mb)) (x % f.signBit) = x := by
  have hlt : x < 2 * f.signBit := by
    have : 2 ^ f.width = 2 * f.signBit := by unfold Fmt.width Fmt.signBit; rw [show 1 + f.eb + f.mb = f.eb + f.mb + 1 by omega, pow_succ]; ring
    omega
  have hq : x / f.signBit < 2 := Nat.div_lt_of_lt_mul (by rw [Nat.mul_comm]; exact hlt)
  have hdm := Nat.div_add_mod x f.signBit
  unfold bitAt Fmt.withSign
  rw [Nat.shiftRight_eq_div_pow]
  change (if (x / f.signBit % 2 == 1) = true then _ else _) = x
  rw [Nat.mod_eq_of_lt hq]
  obtain h0 | h1 : x / f.signBit = 0 ∨ x / f.signBit = 1 := Nat.le_one_iff_eq_zero_or_eq_one.mp (Nat.le_of_lt_succ hq)
  · rw [h0] at hdm ⊢; simpa using hdm
  · rw [h1] at hdm ⊢; simpa using hdm

/-- The value of a signed finite magnitude. -/
theorem Fmt.ratOf_dec_withSign {f : Fmt} (hf : f ∈ floatFormats) (neg : Bool) {m : Nat} (hm : m ≤ f.maxEnc) :
    ratOf (f.dec (f.withSign neg m)) = some (signOf neg * f.magVal m) := by
  have hlt : m < f.signBit := lt_of_le_of_lt hm (Fmt.maxEnc_lt_signBit hf)
  have hfin := (Fmt.finite_iff hf hlt).mpr hm
  rw [← withSign_mod f neg hlt] at hfin
  rw [f.dec_of_finite hfin.1 hfin.2, withSign_mod f neg hlt, bitAt_withSign f neg hlt]
  simp only [ratOf, Fmt.magVal, signOf, mul_assoc]

/-- A significand of at most one bit too many, put into a binade: the carry into the next binade gives the same value (R79). -/
theorem Fmt.magVal_of_binade (f : Fmt) {k r : Nat} (hr : r ≤ 2 ^ (f.mb + 1)) (hk : k = 0 ∨ 2 ^ f.mb ≤ r) :
    f.magVal (k * 2 ^ f.mb + r) = r * 2 ^ (f.lsbExp + k) := by
  have hpos := Nat.two_pow_pos f.mb
  rw [pow_succ] at hr
  have hdiv : (k * 2 ^ f.mb + r) / 2 ^ f.mb = k + r / 2 ^ f.mb := by
    rw [Nat.add_comm, Nat.add_mul_div_right _ _ hpos, Nat.add_comm]
  unfold Fmt.magVal Fmt.signif Fmt.binade
  rw [hdiv]
  obtain hlt | hmid | htop : r < 2 ^ f.mb ∨ (2 ^ f.mb ≤ r ∧ r < 2 * 2 ^ f.mb) ∨ r = 2 * 2 ^ f.mb := by omega
  · obtain rfl : k = 0 := by omega
    simp [Nat.div_eq_of_lt hlt]
  · have h1 : r / 2 ^ f.mb = 1 := Nat.div_eq_of_lt_le (by omega) (by omega)
    rw [h1, Nat.add_sub_cancel, Nat.add_sub_cancel_left]
  · have h2 : r / 2 ^ f.mb = 2 := by rw [htop, Nat.mul_div_cancel _ hpos]
    rw [h2, show k + 2 - 1 = k + 1 by omega, Nat.add_mul, htop, show k * 2 ^ f.mb + 2 * 2 ^ f.mb - (k * 2 ^ f.mb + 1 * 2 ^ f.mb) = 2 ^ f.mb by omega]
    push_cast
    rw [← add_assoc, zpow_add_one₀ (by norm_num)]
    ring

theorem Fmt.mul_binade_le (f : Fmt) (m : Nat) : f.binade m * 2 ^ f.mb ≤ m :=
  le_trans (Nat.mul_le_mul_right _ (Nat.sub_le _ _)) (Nat.div_mul_le_self m _)

theorem Fmt.signif_lt (f : Fmt) (m : Nat) : f.signif m < 2 ^ (f.mb + 1) := by
  have hdm := Nat.div_add_mod m (2 ^ f.mb)
  have hmod := Nat.mod_lt m (Nat.two_pow_pos f.mb)
  unfold Fmt.signif Fmt.binade
  rw [pow_succ]
  obtain h0 | ⟨k, hk⟩ : m / 2 ^ f.mb = 0 ∨ ∃ k, m / 2 ^ f.mb = k + 1 := by
    cases m / 2 ^ f.mb with
    | zero => exact .inl rfl
    | succ k => exact .inr ⟨k, rfl⟩
  · rw [h0, Nat.mul_zero] at hdm; rw [h0]; omega
  · rw [hk, Nat.mul_comm, Nat.add_mul] at hdm; rw [hk, Nat.add_sub_cancel]; omega

theorem Fmt.le_signif (f : Fmt) {m : Nat} (h : f.binade m ≠ 0) : 2 ^ f.mb ≤ f.signif m := by
  have hdm := Nat.div_add_mod m (2 ^ f.mb)
  unfold Fmt.binade at h
  unfold Fmt.signif Fmt.binade
  obtain ⟨k, hk⟩ : ∃ k, m / 2 ^ f.mb = k + 1 := ⟨m / 2 ^ f.mb - 1, by omega⟩
  rw [hk, Nat.mul_comm, Nat.add_mul] at hdm
  rw [hk, Nat.add_sub_cancel]
  omega

/-! ## Rounded quotients (R79) -/

section
variable {rm : Rm} {neg : Bool} {g n d : Nat}

theorem roundQuot_fst (rm : Rm) (neg : Bool) (g n d : Nat) : (roundQuot rm neg g n d).1 = n / d + b2n (decide (n % d ≠ 0) && roundsUp rm neg g n d) := by
  unfold roundQuot
  split
  · simp_all [b2n]
  · simp_all

theorem roundQuot_exact (h : (roundQuot rm neg g n d).2 = false) : (roundQuot rm neg g n d).1 * d = n := by
  unfold roundQuot at h ⊢
  split
  · rename_i h0; exact Nat.div_mul_cancel (Nat.dvd_of_mod_eq_zero h0)
  · rename_i h0; rw [if_neg h0] at h; cases h

theorem roundQuot_of_dvd (rm : Rm) (neg : Bool) (g : Nat) (h : n % d = 0) : roundQuot rm neg g n d = (n / d, false) := if_pos h

/-- A rounded quotient lies at or beside the exact one. -/
theorem roundQuot_bounds (rm : Rm) (neg : Bool) (g n d : Nat) :
    n / d ≤ (roundQuot rm neg g n d).1 ∧ (roundQuot rm neg g n d).1 ≤ n / d + 1 := by
  rw [roundQuot_fst, b2n]
  split <;> omega

theorem roundQuot_le (h : roundsUp rm neg g n d = false) : (roundQuot rm neg g n d).1 * d ≤ n := by
  rw [roundQuot_fst, h, Bool.and_false]
  exact Nat.div_mul_le_self n d

theorem le_roundQuot (h : roundsUp rm neg g n d = true) (hd : 0 < d) : n ≤ (roundQuot rm neg g n d).1 * d := by
  rw [roundQuot_fst, h, Bool.and_true, b2n]
  have hdm := Nat.div_add_mod' n d
  have hmod := Nat.mod_lt n hd
  split
  · rw [Nat.add_mul]; omega
  · rename_i h0
    simp only [ne_eq, decide_not, Bool.not_eq_true', decide_eq_false_iff_not, not_not] at h0
    rw [Nat.add_zero]
    omega

/-- `.rne` errs by half a quantum at most. -/
theorem roundQuot_rne_half (neg : Bool) (g n : Nat) (hd : 0 < d) :
    2 * |(n : ℤ) - (roundQuot .rne neg g n d).1 * d| ≤ d := by
  have hdm : ((n / d : Nat) : ℤ) * d + (n % d : Nat) = n := by exact_mod_cast Nat.div_add_mod' n d
  have hmod := Nat.mod_lt n hd
  rw [roundQuot_fst, roundsUp]
  by_cases hup : (decide (n % d ≠ 0) && (decide (d < 2 * (n % d)) || (decide (2 * (n % d) = d) && (n / d) % 2 == 1))) = true
  · have hge : d ≤ 2 * (n % d) := by
      simp only [Bool.and_eq_true, Bool.or_eq_true, decide_eq_true_eq] at hup
      omega
    rw [hup, show (n : ℤ) - ((n / d + b2n true : Nat) : ℤ) * d = ((n % d : Nat) : ℤ) - d by rw [← hdm]; simp only [b2n]; push_cast; ring]
    rw [abs_of_nonpos (by omega)]; omega
  · have hle : 2 * (n % d) ≤ d := by
      simp only [Bool.and_eq_true, Bool.or_eq_true, decide_eq_true_eq, not_and, not_or] at hup
      by_contra hc
      exact (hup (by omega)).1 (by omega)
    rw [Bool.eq_false_iff.mpr hup, show (n : ℤ) - ((n / d + b2n false : Nat) : ℤ) * d = ((n % d : Nat) : ℤ) by rw [← hdm]; simp only [b2n]; push_cast; ring]
    rw [abs_of_nonneg (by omega)]; omega

/-- `.rne` takes a multiple of the quantum that no other is nearer than. -/
theorem roundQuot_rne_nearest (neg : Bool) (g n : Nat) (hd : 0 < d) (z : ℤ) :
    |(n : ℤ) - (roundQuot .rne neg g n d).1 * d| ≤ |(n : ℤ) - z * d| := by
  have hhalf := roundQuot_rne_half neg g n hd
  set r : ℤ := ((roundQuot .rne neg g n d).1 : ℤ)
  by_cases hz : z = r
  · rw [hz]
  · have hstep : (d : ℤ) ≤ |(r - z) * d| := by
      rw [abs_mul, abs_of_nonneg (show (0 : ℤ) ≤ d by omega)]
      exact le_mul_of_one_le_left (by omega) (Int.one_le_abs (by omega))
    have htri : |(r - z) * d| ≤ |(n : ℤ) - r * d| + |(n : ℤ) - z * d| := by
      rw [show (r - z) * d = ((n : ℤ) - z * d) - (n - r * d) by ring]
      exact (abs_sub _ _).trans (le_of_eq (add_comm _ _))
    omega

end

/-! ## Rounding to the format (R79) -/

/-- The number of the binade that holds m × 2^e, the lowest where it is smaller than every normal value. -/
def Fmt.roundBinade (f : Fmt) (m : Nat) (e : Int) : Nat := ((m.log2 : Int) + e - (1 - f.bias)).toNat

/-- The exponent of m in quanta of its binade. -/
def Fmt.roundShift (f : Fmt) (m : Nat) (e : Int) : Int := e - (f.lsbExp + f.roundBinade m e)

/-- m × 2^e in quanta of its binade, as a fraction: the numerator. -/
def Fmt.roundNum (f : Fmt) (m : Nat) (e : Int) : Nat := m * 2 ^ (f.roundShift m e).toNat

/-- The denominator. -/
def Fmt.roundDen (f : Fmt) (m : Nat) (e : Int) : Nat := 2 ^ (-f.roundShift m e).toNat

theorem floorLog2_one {m : Nat} (hm : m ≠ 0) : floorLog2 m 1 = m.log2 := by
  simp [floorLog2, show Nat.log2 1 = 0 by decide, Nat.log2_self_le hm]

/-- Rounding a positive dyadic value: the rounded quotient in its binade, or an overflow (R79, R80). -/
theorem Fmt.roundMag_dyadic (f : Fmt) (rm : Rm) (sat neg : Bool) (g : Nat) {m : Nat} (e : Int) (hm : m ≠ 0) :
    f.roundMag rm sat neg g m 1 e =
      let r := roundQuot rm neg g (f.roundNum m e) (f.roundDen m e)
      let enc := f.roundBinade m e * 2 ^ f.mb + r.1
      if f.maxEnc < enc then f.overflow rm sat neg (r.1 != f.roundNum m e / f.roundDen m e)
      else (enc, if r.2 then (if (m.log2 : Int) + e < 1 - f.bias then fINX ||| fUNF else fINX) else 0) := by
  have hex : (if (m.log2 : Int) + e < 1 - f.bias then (1 - f.bias : Int) else m.log2 + e) = 1 - f.bias + f.roundBinade m e := by
    unfold Fmt.roundBinade
    split <;> omega
  have hsh : e - (1 - (f.bias : Int) + f.roundBinade m e - f.mb) = f.roundShift m e := by unfold Fmt.roundShift Fmt.lsbExp; omega
  have hk : ((1 - (f.bias : Int) + f.roundBinade m e - (1 - f.bias)) * (2 ^ f.mb : Nat)).toNat = f.roundBinade m e * 2 ^ f.mb := by
    rw [show 1 - (f.bias : Int) + f.roundBinade m e - (1 - f.bias) = f.roundBinade m e by ring, ← Nat.cast_mul, Int.toNat_natCast]
  unfold Fmt.roundMag
  simp only [floorLog2_one hm, hex, hsh, hk, one_mul]
  rfl

theorem Fmt.roundDen_pos (f : Fmt) (m : Nat) (e : Int) : 0 < f.roundDen m e := Nat.two_pow_pos _

/-- The fraction is the value in quanta. -/
theorem Fmt.roundNum_div_roundDen (f : Fmt) (m : Nat) (e : Int) :
    (f.roundNum m e : ℚ) / f.roundDen m e * 2 ^ (f.lsbExp + f.roundBinade m e) = m * 2 ^ e := by
  have hq : (2 : ℚ) ^ (f.roundShift m e).toNat / 2 ^ (-f.roundShift m e).toNat = 2 ^ f.roundShift m e := by
    rw [← zpow_natCast, ← zpow_natCast, ← zpow_sub₀ (by norm_num)]
    congr 1
    omega
  unfold Fmt.roundNum Fmt.roundDen
  push_cast
  rw [mul_div_assoc, hq, mul_assoc, ← zpow_add₀ (by norm_num), Fmt.roundShift, sub_add_cancel]

/-- The value lies below the next binade. -/
theorem Fmt.roundNum_lt (f : Fmt) (m : Nat) (e : Int) : f.roundNum m e < 2 ^ (f.mb + 1) * f.roundDen m e := by
  have hlog : m < 2 ^ (m.log2 + 1) := Nat.lt_log2_self
  have hsh : (m.log2 : Int) + 1 + f.roundShift m e ≤ f.mb + 1 := by unfold Fmt.roundShift Fmt.lsbExp Fmt.roundBinade; omega
  calc f.roundNum m e < 2 ^ (m.log2 + 1) * 2 ^ (f.roundShift m e).toNat := (Nat.mul_lt_mul_right (Nat.two_pow_pos _)).mpr hlog
    _ = 2 ^ (m.log2 + 1 + (f.roundShift m e).toNat) := (pow_add ..).symm
    _ ≤ 2 ^ (f.mb + 1 + (-f.roundShift m e).toNat) := Nat.pow_le_pow_right (by norm_num) (by omega)
    _ = 2 ^ (f.mb + 1) * f.roundDen m e := pow_add ..

/-- Above the lowest binade the value has its leading bit. -/
theorem Fmt.le_roundNum (f : Fmt) {m : Nat} {e : Int} (hm : m ≠ 0) (hk : f.roundBinade m e ≠ 0) : 2 ^ f.mb * f.roundDen m e ≤ f.roundNum m e := by
  have hlog : 2 ^ m.log2 ≤ m := Nat.log2_self_le hm
  have hsh : (m.log2 : Int) + f.roundShift m e = f.mb := by unfold Fmt.roundShift Fmt.lsbExp; unfold Fmt.roundBinade at hk ⊢; omega
  calc 2 ^ f.mb * f.roundDen m e = 2 ^ (f.mb + (-f.roundShift m e).toNat) := (pow_add ..).symm
    _ = 2 ^ (m.log2 + (f.roundShift m e).toNat) := by congr 1; omega
    _ = 2 ^ m.log2 * 2 ^ (f.roundShift m e).toNat := pow_add ..
    _ ≤ f.roundNum m e := Nat.mul_le_mul_right _ hlog

/-- The rounded significand has at most one bit too many, and above the lowest binade its leading bit. -/
theorem Fmt.roundQuot_in_binade (f : Fmt) (rm : Rm) (neg : Bool) (g : Nat) {m : Nat} (e : Int) (hm : m ≠ 0) :
    let r := (roundQuot rm neg g (f.roundNum m e) (f.roundDen m e)).1
    r ≤ 2 ^ (f.mb + 1) ∧ (f.roundBinade m e = 0 ∨ 2 ^ f.mb ≤ r) := by
  have hd := f.roundDen_pos m e
  have hlt : f.roundNum m e / f.roundDen m e < 2 ^ (f.mb + 1) := (Nat.div_lt_iff_lt_mul hd).mpr (f.roundNum_lt m e)
  obtain ⟨hlo, hhi⟩ := roundQuot_bounds rm neg g (f.roundNum m e) (f.roundDen m e)
  refine ⟨by omega, ?_⟩
  by_cases hk : f.roundBinade m e = 0
  · exact .inl hk
  · exact .inr (((Nat.le_div_iff_mul_le hd).mpr (f.le_roundNum hm hk)).trans hlo)

theorem Fmt.overflow_sets_OVF (f : Fmt) (rm : Rm) (sat neg up : Bool) : (f.overflow rm sat neg up).2 &&& fOVF ≠ 0 := by
  unfold Fmt.overflow
  split <;> simp [fOVF, fINX, fSAT]

section
variable {f : Fmt} {rm : Rm} {sat neg : Bool} {g m : Nat} {e : Int}

theorem Fmt.round_num (hm : m ≠ 0) : f.round rm sat g (.num neg m e) =
    (f.withSign neg (f.roundMag rm sat neg g m 1 e).1, (f.roundMag rm sat neg g m 1 e).2) := by
  simp only [Fmt.round, if_neg hm]

/-- A value that does not overflow becomes its rounded quotient in its binade. -/
theorem Fmt.round_of_no_overflow (hf : f ∈ floatFormats) (hm : m ≠ 0) (ho : (f.round rm sat g (.num neg m e)).2 &&& fOVF = 0) :
    let r := roundQuot rm neg g (f.roundNum m e) (f.roundDen m e)
    ratOf (f.dec (f.round rm sat g (.num neg m e)).1) = some (signOf neg * (r.1 * 2 ^ (f.lsbExp + f.roundBinade m e))) ∧
    ((f.round rm sat g (.num neg m e)).2 &&& fINX = 0 → r.2 = false) := by
  intro r
  rw [Fmt.round_num hm, f.roundMag_dyadic rm sat neg g e hm] at ho ⊢
  change (if _ then _ else _ : Nat × Flags).2 &&& fOVF = 0 at ho
  by_cases hov : f.maxEnc < f.roundBinade m e * 2 ^ f.mb + r.1
  · rw [if_pos hov] at ho
    exact absurd ho (f.overflow_sets_OVF _ _ _ _)
  · simp only
    rw [if_neg hov]
    obtain ⟨hr, hk⟩ := f.roundQuot_in_binade rm neg g e hm
    refine ⟨?_, fun hx => ?_⟩
    · rw [Fmt.ratOf_dec_withSign hf neg (not_lt.mp hov), f.magVal_of_binade hr hk]
    · cases h2 : r.2 with
      | false => rfl
      | true =>
        rw [if_pos h2] at hx
        split at hx <;> simp [fINX, fUNF] at hx

/-- No value of the format is nearer than the one that `.rne` takes: those of the value's binade and above are whole quanta, and those below lie beyond the
binade's least value, which is a whole quantum too. -/
theorem Fmt.rne_nearest (hm : m ≠ 0) {y : Nat} {q : ℚ} (hq : ratOf (f.dec y) = some q) :
    let Q : ℚ := 2 ^ (f.lsbExp + f.roundBinade m e)
    let X : ℚ := (f.roundNum m e : ℚ) / f.roundDen m e
    |X - (roundQuot .rne neg g (f.roundNum m e) (f.roundDen m e)).1| * Q ≤ |signOf neg * (X * Q) - q| := by
  intro Q X
  have hQ : 0 < Q := zpow_pos (by norm_num) _
  have hd : (0 : ℚ) < f.roundDen m e := by exact_mod_cast f.roundDen_pos m e
  have hint (z : ℤ) : |X - (roundQuot .rne neg g (f.roundNum m e) (f.roundDen m e)).1| ≤ |X - z| := by
    have h := roundQuot_rne_nearest neg g (f.roundNum m e) (f.roundDen_pos m e) z
    have hX : X * f.roundDen m e = f.roundNum m e := div_mul_cancel₀ _ hd.ne'
    refine le_of_mul_le_mul_right ?_ hd
    rw [← abs_of_pos hd, ← abs_mul, ← abs_mul, sub_mul, sub_mul, hX]
    exact_mod_cast h
  have hs : signOf neg * signOf neg = 1 := by cases neg <;> simp [signOf]
  have hsX (z : ℤ) : |X - z| * Q = |signOf neg * (X * Q) - signOf neg * (z * Q)| := by
    rw [← mul_sub, abs_signOf_mul, ← sub_mul, abs_mul, abs_of_pos hQ]
  rw [f.ratOf_dec hq]
  set t := y % f.signBit
  set neg' := bitAt y (f.eb + f.mb)
  obtain ⟨σ, hσ⟩ : ∃ σ : ℤ, signOf neg * signOf neg' = σ := by
    cases neg <;> cases neg' <;> [exact ⟨1, by simp [signOf]⟩; exact ⟨-1, by simp [signOf]⟩; exact ⟨-1, by simp [signOf]⟩; exact ⟨1, by simp [signOf]⟩]
  by_cases hb : f.roundBinade m e ≤ f.binade t
  · have hmag : signOf neg' * f.magVal t = signOf neg * (((σ * (f.signif t * 2 ^ (f.binade t - f.roundBinade m e) : Nat) : ℤ) : ℚ) * Q) := by
      push_cast
      rw [← hσ, Fmt.magVal, show f.lsbExp + f.binade t = ((f.binade t - f.roundBinade m e : Nat) : ℤ) + (f.lsbExp + f.roundBinade m e) by omega,
        zpow_add₀ (by norm_num), zpow_natCast]
      linear_combination (- signOf neg' * (f.signif t * (2 ^ (f.binade t - f.roundBinade m e) * Q))) * hs
    rw [hmag, ← hsX]
    exact mul_le_mul_of_nonneg_right (hint _) hQ.le
  · have hle : f.magVal t ≤ 2 ^ f.mb * Q := by
      have hsig : (f.signif t : ℚ) ≤ 2 ^ (f.mb + 1) := by exact_mod_cast (f.signif_lt t).le
      calc f.magVal t ≤ 2 ^ (f.mb + 1) * 2 ^ (f.lsbExp + f.binade t) := mul_le_mul_of_nonneg_right hsig (zpow_nonneg (by norm_num) _)
        _ = 2 ^ f.mb * 2 ^ (f.lsbExp + f.binade t + 1) := by rw [zpow_add_one₀ (by norm_num)]; ring
        _ ≤ 2 ^ f.mb * Q := mul_le_mul_of_nonneg_left (zpow_le_zpow_right₀ (by norm_num) (by omega)) (by positivity)
    have hX : (2 : ℚ) ^ f.mb ≤ X := by
      rw [le_div_iff₀ hd]
      exact_mod_cast f.le_roundNum hm (by omega)
    have hmag : 0 ≤ f.magVal t := mul_nonneg (Nat.cast_nonneg _) (zpow_nonneg (by norm_num) _)
    calc |X - (roundQuot .rne neg g (f.roundNum m e) (f.roundDen m e)).1| * Q ≤ |X - ((2 ^ f.mb : ℤ) : ℚ)| * Q := mul_le_mul_of_nonneg_right (hint _) hQ.le
      _ = X * Q - 2 ^ f.mb * Q := by push_cast; rw [abs_of_nonneg (by linarith)]; ring
      _ ≤ |signOf neg * (X * Q)| - |signOf neg' * f.magVal t| := by
        rw [abs_signOf_mul, abs_signOf_mul, abs_of_nonneg hmag, abs_of_nonneg (mul_nonneg (le_trans (by positivity) hX) hQ.le)]
        linarith
      _ ≤ _ := abs_sub_abs_le_abs_sub _ _

end

/-- R79, R80: the direction of a rounded value. -/
theorem roundingIsCorrect : Claim.RoundingIsCorrect := by
  intro f rm sat neg g m e hf hm _ r x ho
  obtain ⟨hv, hx⟩ := Fmt.round_of_no_overflow hf hm ho
  set q := roundQuot rm neg g (f.roundNum m e) (f.roundDen m e) with hq
  set Q : ℚ := 2 ^ (f.lsbExp + f.roundBinade m e)
  have hQ : 0 < Q := zpow_pos (by norm_num) _
  have hd : (0 : ℚ) < f.roundDen m e := by exact_mod_cast f.roundDen_pos m e
  set X : ℚ := (f.roundNum m e : ℚ) / f.roundDen m e with hX
  have hX0 : 0 ≤ X := by positivity
  have hxX : x = signOf neg * (X * Q) := by
    rw [f.roundNum_div_roundDen m e]
    exact mul_assoc ..
  have hle (h : roundsUp rm neg g (f.roundNum m e) (f.roundDen m e) = false) : (q.1 : ℚ) * Q ≤ X * Q := by
    refine mul_le_mul_of_nonneg_right ?_ hQ.le
    rw [hX, le_div_iff₀ hd]
    exact_mod_cast roundQuot_le h
  have hge (h : roundsUp rm neg g (f.roundNum m e) (f.roundDen m e) = true) : X * Q ≤ q.1 * Q := by
    refine mul_le_mul_of_nonneg_right ?_ hQ.le
    rw [hX, div_le_iff₀ hd]
    exact_mod_cast le_roundQuot h (f.roundDen_pos m e)
  refine ⟨_, hv, fun hi => ?_, ?_, ?_, ?_, ?_⟩
  · have hexact : (q.1 : ℚ) * f.roundDen m e = f.roundNum m e := by exact_mod_cast roundQuot_exact (hx hi)
    rw [hxX, hX, ← hexact, mul_div_cancel_right₀ _ hd.ne']
  · rintro rfl
    rw [hxX, abs_signOf_mul, abs_signOf_mul, abs_of_nonneg (by positivity), abs_of_nonneg (by positivity)]
    exact hle rfl
  · rintro rfl
    rw [hxX]
    cases neg with
    | false => simpa [signOf] using hle rfl
    | true => simpa [signOf] using hge rfl
  · rintro rfl
    rw [hxX]
    cases neg with
    | false => simpa [signOf] using hge rfl
    | true => simpa [signOf] using hle rfl
  · rintro rfl y z hz
    have h := Fmt.rne_nearest (neg := neg) (g := g) (e := e) hm hz
    rw [hxX, ← mul_sub, abs_signOf_mul, ← sub_mul, abs_mul, abs_of_pos hQ]
    exact h

/-! ## Values of the format (R72) -/

/-- A magnitude's significand lies in its binade. -/
theorem Fmt.roundBinade_signif (f : Fmt) {t : Nat} (h : f.signif t ≠ 0) : f.roundBinade (f.signif t) (f.lsbExp + f.binade t) = f.binade t := by
  have hlt : (f.signif t).log2 < f.mb + 1 := (Nat.log2_lt h).mpr (f.signif_lt t)
  unfold Fmt.roundBinade Fmt.lsbExp
  by_cases hb : f.binade t = 0
  · rw [hb]; omega
  · have hge : f.mb ≤ (f.signif t).log2 := (Nat.le_log2 h).mpr (f.le_signif hb)
    omega

/-- R72, R79: a finite magnitude rounds to itself. -/
theorem Fmt.roundMag_signif (f : Fmt) (rm : Rm) (sat neg : Bool) (g : Nat) {t : Nat} (h : f.signif t ≠ 0) (ht : t ≤ f.maxEnc) :
    f.roundMag rm sat neg g (f.signif t) 1 (f.lsbExp + f.binade t) = (t, 0) := by
  have hk := f.roundBinade_signif h
  have hn : f.roundNum (f.signif t) (f.lsbExp + f.binade t) = f.signif t := by simp [Fmt.roundNum, Fmt.roundShift, hk]
  have hd : f.roundDen (f.signif t) (f.lsbExp + f.binade t) = 1 := by simp [Fmt.roundDen, Fmt.roundShift, hk]
  have henc : f.binade t * 2 ^ f.mb + f.signif t = t := Nat.add_sub_cancel' (f.mul_binade_le t)
  rw [f.roundMag_dyadic rm sat neg g _ h, hn, hd, hk, roundQuot_of_dvd _ _ _ (Nat.mod_one _), Nat.div_one]
  simp only [henc]
  rw [if_neg (by omega)]; rfl

theorem Fmt.eq_zero_of_signif (f : Fmt) {t : Nat} (h : f.signif t = 0) : t = 0 := by
  have hb : f.binade t = 0 := by
    by_contra hb
    have := f.le_signif hb
    have := Nat.two_pow_pos f.mb
    omega
  simpa [Fmt.signif, hb] using h

theorem finiteValuesAreExact : Claim.FiniteValuesAreExact := by
  intro f rm sat g x hf hx hfin
  have hlt : x % f.signBit < f.signBit := Nat.mod_lt _ (Nat.two_pow_pos _)
  have hnum : f.isNan (x % f.signBit) = false ∧ f.inf ≠ some (x % f.signBit) := by
    by_contra hc
    rw [f.dec_not_finite hc] at hfin; cases hfin
  have hle := (Fmt.finite_iff hf hlt).mp hnum
  have hx' := f.withSign_bitAt hx
  rw [f.dec_of_finite hnum.1 hnum.2]
  by_cases h0 : f.signif (x % f.signBit) = 0
  · rw [f.eq_zero_of_signif h0] at hx'
    simp [Fmt.round, h0, hx']
  · rw [Fmt.round_num h0, f.roundMag_signif rm sat _ g h0 hle, hx']

/-- Settles O15: what a rounded value is in quanta of its binade gives its direction, and a value of the format is a whole number of them. -/
theorem rounding : Obligations.Rounding := ⟨roundingIsCorrect, finiteValuesAreExact⟩

end Sys2Proof.Machine
end

section
/-! SUPPORT and O16. Results of NaNs, infinities, zeros and invalid operands, and the approximate functions where R220 lists their results (R83, R212 to R216, R220, R221). -/

namespace Sys2Proof.Machine

/-! ## Arithmetic of NaNs, infinities and zeros (R83, R212 to R216) -/

/-- The formats of the vector units. -/
theorem mem_laneFormats {f : Fmt} (h : f ∈ [fmtF32, fmtBF16, fmtF16]) : f = fmtF32 ∨ f = fmtBF16 ∨ f = fmtF16 := by simpa using h

/-- An encoding's bits above the format's width are ignored (R72). -/
theorem Fmt.dec_mod (f : Fmt) (x : Nat) : f.dec (x % 2 ^ f.width) = f.dec x := by
  have hmod : x % 2 ^ f.width % f.signBit = x % f.signBit :=
    Nat.mod_mod_of_dvd x (pow_dvd_pow 2 (by unfold Fmt.width; omega))
  have hbit : bitAt (x % 2 ^ f.width) (f.eb + f.mb) = bitAt x (f.eb + f.mb) := by
    rw [bitAt_eq_testBit, bitAt_eq_testBit, Nat.testBit_mod_two_pow, decide_eq_true (by unfold Fmt.width; omega), Bool.true_and]
  unfold Fmt.dec
  rw [hmod, hbit]

section
variable {f : Fmt} {rm : Rm} {g a b : Nat}

/-- A NaN rounds to the canonical NaN, without a flag where the format has one (R83). -/
theorem Fmt.round_nan (hf : f ∈ [fmtF32, fmtBF16, fmtF16]) (sat : Bool) : f.round rm sat g .nan = (f.cnan, 0) := by
  rcases mem_laneFormats hf with rfl | rfl | rfl <;> rfl

/-- An operation whose exact result is a NaN gives the canonical NaN with the operation's own flags. -/
theorem Fmt.binary_of_nan (hf : f ∈ [fmtF32, fmtBF16, fmtF16]) {op : FVal → FVal → FVal × Flags} {fl : Flags} (h : op (f.dec a) (f.dec b) = (.nan, fl)) :
    f.binary rm g op a b = (f.cnan, fl) := by
  simp [Fmt.binary, h, Fmt.round_nan hf]

theorem FVal.add_nan_left (rm : Rm) (y : FVal) : FVal.add rm .nan y = (.nan, 0) := by cases y <;> rfl
theorem FVal.add_nan_right (rm : Rm) (x : FVal) : FVal.add rm x .nan = (.nan, 0) := by cases x <;> rfl
theorem FVal.mul_nan_left (y : FVal) : FVal.mul .nan y = (.nan, 0) := by cases y <;> rfl
theorem FVal.mul_nan_right (x : FVal) : FVal.mul x .nan = (.nan, 0) := by cases x <;> rfl

/-- R83, R212, R214: a NaN operand. -/
theorem Fmt.arith_of_nan (hf : f ∈ [fmtF32, fmtBF16, fmtF16]) (h : f.dec a = .nan ∨ f.dec b = .nan) :
    f.fadd rm g a b = (f.cnan, 0) ∧ f.fsub rm g a b = (f.cnan, 0) ∧ f.fmul rm g a b = (f.cnan, 0) ∧ f.fdiv rm g a b = (f.cnan, 0) := by
  rcases h with h | h
  · refine ⟨Fmt.binary_of_nan hf ?_, Fmt.binary_of_nan hf ?_, Fmt.binary_of_nan hf ?_, ?_⟩
    · rw [h, FVal.add_nan_left]
    · rw [h, FVal.add_nan_left]
    · rw [h, FVal.mul_nan_left]
    · unfold Fmt.fdiv; rw [h]
  · refine ⟨Fmt.binary_of_nan hf ?_, Fmt.binary_of_nan hf ?_, Fmt.binary_of_nan hf ?_, ?_⟩
    · rw [h, FVal.add_nan_right]
    · rw [h]; exact FVal.add_nan_right rm _
    · rw [h, FVal.mul_nan_right]
    · unfold Fmt.fdiv; rw [h]; cases f.dec a <;> rfl

/-- R215: `min` and `max` of two encodings of which one at least is a NaN. -/
theorem Fmt.minMax_of_nan (f : Fmt) (greater : Bool) (a b : Nat) :
    (f.dec a = .nan → f.dec b ≠ .nan → f.minMax greater a b = b % 2 ^ f.width) ∧
    (f.dec a ≠ .nan → f.dec b = .nan → f.minMax greater a b = a % 2 ^ f.width) ∧
    (f.dec a = .nan → f.dec b = .nan → f.minMax greater a b = f.cnan) := by
  unfold Fmt.minMax
  simp only [Fmt.dec_mod]
  exact ⟨fun ha hb => by rw [if_pos ha, if_neg hb], fun ha hb => by rw [if_neg ha, if_pos hb], fun ha hb => by rw [if_pos ha, if_pos hb]⟩

/-- R83, R212, R214: ∞ / ∞, and the sums of infinities of both signs. -/
theorem Fmt.arith_of_inf (hf : f ∈ [fmtF32, fmtBF16, fmtF16]) {n k : Bool} (ha : f.dec a = .inf n) (hb : f.dec b = .inf k) :
    f.fdiv rm g a b = (f.cnan, fINV) ∧ (n = k → f.fsub rm g a b = (f.cnan, fINV)) ∧ (n ≠ k → f.fadd rm g a b = (f.cnan, fINV)) := by
  refine ⟨?_, fun h => Fmt.binary_of_nan hf ?_, fun h => Fmt.binary_of_nan hf ?_⟩
  · unfold Fmt.fdiv; rw [ha, hb]
  · rw [ha, hb, h]; simp [FVal.negate, FVal.add]
  · rw [ha, hb]; simp [FVal.add, h]

/-- R83, R212: 0 × ∞. -/
theorem Fmt.fmul_zero_inf (hf : f ∈ [fmtF32, fmtBF16, fmtF16]) {n p : Bool} {k : Int} (ha : f.dec a = .inf n) (hb : f.dec b = .num p 0 k) :
    f.fmul rm g a b = (f.cnan, fINV) ∧ f.fmul rm g b a = (f.cnan, fINV) := by
  refine ⟨Fmt.binary_of_nan hf ?_, Fmt.binary_of_nan hf ?_⟩
  · rw [ha, hb]; rfl
  · rw [ha, hb]; rfl

end

theorem nanResults : Claim.NanResults := by
  intro f rm g a b hf
  refine ⟨Fmt.arith_of_nan hf, fun h => ?_, fun greater => f.minMax_of_nan greater a b, fun n k => Fmt.arith_of_inf hf, fun n p k => Fmt.fmul_zero_inf hf,
    fun n k p q ha hb => ?_, fun m k ha hm => ?_⟩
  · refine ⟨?_, ?_, ?_⟩
    · unfold Fmt.fsqrt; rw [h]
    · unfold Fmt.absNeg; simp only [Fmt.dec_mod, h, if_true]
    · unfold Fmt.absNeg; simp only [Fmt.dec_mod, h, if_true]
  · unfold Fmt.fdiv; rw [ha, hb]; rfl
  · unfold Fmt.fsqrt; rw [ha]; simp only [if_neg hm, if_true]

/-! ## The listed results of the approximate functions (R220, R221) -/

theorem fmtF32_signBit : fmtF32.signBit = 2 ^ 31 := rfl
theorem fmtF32_mb : fmtF32.mb = 23 := rfl
theorem fmtF32_bias : fmtF32.bias = 127 := rfl
theorem fmtF32_maxEnc : fmtF32.maxEnc = 0x7F7FFFFF := rfl

/-- A canonical NaN for a NaN operand, with no flag. -/
theorem approx_of_nan (fn : ApproxFn) {x : Nat} (h : fmtF32.dec x = .nan) : fmtF32.approx fn x = (0x7FC00000, 0) := by
  have hr : approx32 fn 0x7FC00000 = ⟨0x7FC00000, true, false⟩ := by cases fn <;> rfl
  unfold Fmt.approx
  rw [h, show (fmtF32.round .rne false 0 .nan).1 = 0x7FC00000 from rfl, hr]
  rfl

/-- An F32 encoding of a finite value rounds to itself. -/
theorem round_dec_f32 {x : Nat} (hx : x < 2 ^ 32) (hm : x % 2 ^ 31 ≤ 0x7F7FFFFF) : fmtF32.round .rne false 0 (fmtF32.dec x) = (x, 0) := by
  have hf : fmtF32 ∈ floatFormats := by decide
  have hfin := (Fmt.finite_iff hf (m := x % fmtF32.signBit) (Nat.mod_lt _ (by decide))).mpr hm
  refine finiteValuesAreExact fmtF32 .rne false 0 x hf hx ?_
  rw [fmtF32.dec_of_finite hfin.1 hfin.2]; rfl

/-- A listed result that is zero or normal sets no flag. -/
theorem approx_of_listed {fn : ApproxFn} {x v : Nat} (hx : x < 2 ^ 32) (hxm : x % 2 ^ 31 ≤ 0x7F7FFFFF) (h : approx32 fn x = ⟨v, true, false⟩)
    (hv : v < 2 ^ 32) (hvm : v % 2 ^ 31 = 0 ∨ (2 ^ 23 ≤ v % 2 ^ 31 ∧ v % 2 ^ 31 ≤ 0x7F7FFFFF)) : fmtF32.approx fn x = (v, 0) := by
  have hround := round_dec_f32 hv (by omega)
  have hinf : (fmtF32.inf == some (v % 2 ^ 31)) = false := by
    rw [beq_eq_false_iff_ne]
    intro he
    have hi : 0x7F800000 = v % 2 ^ 31 := Option.some.inj he
    omega
  have hsmall : (decide (v % 2 ^ 31 < 2 ^ 23) && !(true && decide (v % 2 ^ 31 = 0))) = false := by
    rcases hvm with h0 | ⟨h1, _⟩
    · rw [h0]; simp
    · rw [decide_eq_false (show ¬ v % 2 ^ 31 < 2 ^ 23 by omega), Bool.false_and]
  unfold Fmt.approx
  rw [round_dec_f32 hx hxm, h]
  simp only [hround, fmtF32_signBit, fmtF32_mb, hinf, Bool.and_assoc, hsmall, Bool.and_false]
  rfl

section
variable {k : Nat}

theorem pow2_f32_lt (hk : k ≤ 254) : k * 2 ^ 23 < 2 ^ 32 := by omega

theorem pow2_f32_mod (hk : k ≤ 254) : k * 2 ^ 23 % 2 ^ 31 ≤ 0x7F7FFFFF := by omega

/-- The F32 encoding of a normal power of two. -/
theorem dec_pow2_f32 (h1 : 1 ≤ k) (hk : k ≤ 254) : fmtF32.dec (k * 2 ^ 23) = .num false (2 ^ 23) (k - 150) := by
  have hsign : k * 2 ^ 23 < fmtF32.signBit := by rw [fmtF32_signBit]; omega
  have hlt : k * 2 ^ 23 % fmtF32.signBit = k * 2 ^ 23 := Nat.mod_eq_of_lt hsign
  have hb : fmtF32.binade (k * 2 ^ 23) = k - 1 := by
    rw [Fmt.binade, fmtF32_mb, Nat.mul_div_cancel _ (Nat.two_pow_pos _)]
  have hsig : fmtF32.signif (k * 2 ^ 23) = 2 ^ 23 := by
    rw [Fmt.signif, hb, fmtF32_mb]; omega
  have hfin := (Fmt.finite_iff (f := fmtF32) (by decide) hsign).mpr (by rw [fmtF32_maxEnc]; omega)
  have hbit : bitAt (k * 2 ^ 23) (fmtF32.eb + fmtF32.mb) = false := bitAt_withSign fmtF32 false hsign
  rw [← hlt] at hfin
  rw [fmtF32.dec_of_finite hfin.1 hfin.2, hlt, hsig, hb, hbit]
  simp only [Fmt.lsbExp, fmtF32_bias, fmtF32_mb, FVal.num.injEq, true_and]
  omega

/-- A significand of at most 24 bits, its leading bit moved to bit 23. -/
theorem mul_two_pow_lt (m : Nat) (h : m.log2 ≤ 23) : m * 2 ^ (23 - m.log2) < 2 ^ 24 :=
  calc m * 2 ^ (23 - m.log2) < 2 ^ (m.log2 + 1) * 2 ^ (23 - m.log2) := (Nat.mul_lt_mul_right (Nat.two_pow_pos _)).mpr Nat.lt_log2_self
    _ = 2 ^ 24 := by rw [← pow_add]; congr 1; omega

/-- A dyadic value of at most 24 bits, rounded to F32: its binade and its bits, exactly. -/
theorem roundMag_f32_exact (neg : Bool) {m : Nat} {e : Int} (hm : m ≠ 0) (hlog : m.log2 ≤ 23) (hlo : -126 ≤ (m.log2 : Int) + e) (hhi : (m.log2 : Int) + e ≤ 126) :
    fmtF32.roundMag .rne false neg 0 m 1 e = (((m.log2 : Int) + e + 126).toNat * 2 ^ 23 + m * 2 ^ (23 - m.log2), 0) := by
  have hb : fmtF32.roundBinade m e = ((m.log2 : Int) + e + 126).toNat := by
    unfold Fmt.roundBinade; rw [fmtF32_bias]; congr 1
  have hsh : fmtF32.roundShift m e = ((23 - m.log2 : Nat) : Int) := by
    unfold Fmt.roundShift Fmt.lsbExp
    rw [hb, fmtF32_bias, fmtF32_mb]
    omega
  have hn : fmtF32.roundNum m e = m * 2 ^ (23 - m.log2) := by rw [Fmt.roundNum, hsh, Int.toNat_natCast]
  have hd : fmtF32.roundDen m e = 1 := by rw [Fmt.roundDen, hsh, show (-((23 - m.log2 : Nat) : Int)).toNat = 0 by omega, pow_zero]
  have hlt := mul_two_pow_lt m hlog
  rw [fmtF32.roundMag_dyadic _ _ _ _ _ hm, hn, hd, hb, roundQuot_of_dvd _ _ _ (Nat.mod_one _), Nat.div_one]
  have hle : ¬ fmtF32.maxEnc < ((m.log2 : Int) + e + 126).toNat * 2 ^ fmtF32.mb + m * 2 ^ (23 - m.log2) := by
    rw [fmtF32_mb, fmtF32_maxEnc]; omega
  simp only [if_neg hle]
  rfl

theorem pow2Exp_pow2_f32 (e : Int) : pow2Exp (2 ^ 23) e = some (23 + e) := rfl

/-- The reciprocal of a power of two, where F32 holds it. -/
theorem approx32_rcp {x m v : Nat} {e j : Int} {s : Bool} (hd : fmtF32.dec x = .num s m e) (hm : m ≠ 0) (hp : pow2Exp m e = some j)
    (hv : fmtF32.round .rne false 0 (.num s 1 (-j)) = (v, 0)) : approx32 .rcp x = ⟨v, true, false⟩ := by
  simp only [approx32, hd, if_neg hm, rcpRes, hp, listedIf, hv, if_true]

/-- The logarithm of a positive power of two. -/
theorem approx32_log2 {x m : Nat} {e j : Int} (hd : fmtF32.dec x = .num false m e) (hm : m ≠ 0) (hp : pow2Exp m e = some j) :
    approx32 .log2 x = ⟨(fmtF32.round .rne false 0 (FVal.ofInt j)).1, true, false⟩ := by
  simp only [approx32, hd, if_neg hm, hp, Bool.false_eq_true, if_false]

/-- R220: the reciprocal of a power of two, where that is normal. -/
theorem approx_rcp_pow2 (h1 : 1 ≤ k) (hk : k ≤ 253) : fmtF32.approx .rcp (k * 2 ^ 23) = ((254 - k) * 2 ^ 23, 0) := by
  have hlog : Nat.log2 1 = 0 := by decide
  have hround : fmtF32.round .rne false 0 (.num false 1 (-(23 + ((k : Int) - 150)))) = ((254 - k) * 2 ^ 23, 0) := by
    rw [Fmt.round_num one_ne_zero, roundMag_f32_exact false one_ne_zero (by omega) (by omega) (by omega), hlog]
    simp only [Fmt.withSign, Bool.false_eq_true, if_false, Prod.mk.injEq, and_true]
    omega
  have happrox : approx32 .rcp (k * 2 ^ 23) = ⟨(254 - k) * 2 ^ 23, true, false⟩ :=
    approx32_rcp (dec_pow2_f32 h1 (hk.trans (by decide))) (by decide) (pow2Exp_pow2_f32 _) hround
  exact approx_of_listed (pow2_f32_lt (by omega)) (pow2_f32_mod (by omega)) happrox (pow2_f32_lt (by omega)) (by omega)

/-- A whole number below 128 in magnitude is zero or normal in F32. -/
theorem round_ofInt_f32 {j : Int} (hj : j.natAbs < 128) : ∃ mag, (fmtF32.round .rne false 0 (FVal.ofInt j)).1 = fmtF32.withSign (decide (j < 0)) mag ∧
    (mag = 0 ∨ (2 ^ 23 ≤ mag ∧ mag ≤ 0x7F7FFFFF)) := by
  by_cases h0 : j.natAbs = 0
  · exact ⟨0, by simp [FVal.ofInt, Fmt.round, h0], .inl rfl⟩
  · have hlog : j.natAbs.log2 < 7 := (Nat.log2_lt h0).mpr hj
    have hexact := roundMag_f32_exact (decide (j < 0)) (e := 0) h0 (by omega) (by omega) (by omega)
    have hlt := mul_two_pow_lt j.natAbs (show j.natAbs.log2 ≤ 23 by omega)
    refine ⟨_, by rw [FVal.ofInt, Fmt.round_num h0, hexact], .inr ⟨by omega, by omega⟩⟩

/-- R220: the logarithm of a normal power of two. -/
theorem approx_log2_pow2 (h1 : 1 ≤ k) (hk : k ≤ 254) :
    fmtF32.approx .log2 (k * 2 ^ 23) = ((fmtF32.round .rne false 0 (FVal.ofInt ((k : Int) - 127))).1, 0) := by
  have happrox : approx32 .log2 (k * 2 ^ 23) = ⟨(fmtF32.round .rne false 0 (FVal.ofInt ((k : Int) - 127))).1, true, false⟩ := by
    rw [approx32_log2 (dec_pow2_f32 h1 hk) (by decide) (pow2Exp_pow2_f32 _), show (23 : Int) + (k - 150) = k - 127 by ring]
  obtain ⟨mag, hv, hmag⟩ := round_ofInt_f32 (j := (k : Int) - 127) (by omega)
  have hlt : mag < fmtF32.signBit := by rw [fmtF32_signBit]; omega
  have hmod := withSign_mod fmtF32 (decide ((k : Int) - 127 < 0)) hlt
  refine approx_of_listed (pow2_f32_lt (by omega)) (pow2_f32_mod (by omega)) happrox ?_ ?_
  · rw [hv, Fmt.withSign, fmtF32_signBit]; split <;> omega
  · rw [hv, ← fmtF32_signBit, hmod]; exact hmag

end

theorem approximateSpecialCases : Claim.ApproximateSpecialCases := by
  unfold Claim.ApproximateSpecialCases
  refine ⟨fun fn x => approx_of_nan fn, ?_, ?_, ?_, ?_, fun k => approx_rcp_pow2, ?_⟩
  iterate 4 decide
  refine ⟨?_, ?_, ?_, ?_, ?_, ?_, ?_, ?_, ?_, ?_, ?_, ?_, ?_, fun k => approx_log2_pow2, ?_⟩
  iterate 13 decide
  decide

/-- Settles O16: exact results that are NaNs are rounded to the canonical NaN, and a listed result that is zero or normal sets no flag; the listed results of
fixed operands are computed. -/
theorem specialFloatResults : Obligations.SpecialFloatResults := ⟨nanResults, approximateSpecialCases⟩

end Sys2Proof.Machine
end

section
/-! SUPPORT of O42. A read that is no write leaves the waves, cores, contexts and crews alone: it changes caches, the count of free values, and what is kept of errors (R103, R330, R335, R350). -/

open Sys2Proof
namespace Sys2Proof.Machine

/-- Nothing differs but the caches, the count of free values, and the errors recorded and counted. -/
def memRead (s t : State) : Prop :=
  t = { s with caches := t.caches, fresh := t.fresh, out := { s.out with errors := t.out.errors, errCount := t.out.errCount } }

namespace memRead
variable {s t u : State}

theorem refl (s : State) : memRead s s := rfl

theorem trans (h : memRead s t) (k : memRead t u) : memRead s u := by
  unfold memRead at *
  rw [k, h]

theorem foldl {α : Type} {f : State → α → State} (hf : ∀ s a, memRead s (f s a)) (l : List α) (s : State) : memRead s (l.foldl f s) := by
  induction l generalizing s with
  | nil => exact refl s
  | cons a r ih => exact (hf s a).trans (ih _)

theorem of_tlbWalked (h : tlbWalked s t) : memRead s t := by
  unfold tlbWalked at h
  unfold memRead
  rw [h]

theorem waves (h : memRead s u) : u.waves = s.waves := by rw [h]; rfl

theorem wave? (h : memRead s u) (g : Nat) : u.wave? g = s.wave? g := State.wave?_congr h.waves g

theorem core (h : memRead s u) (n : Nat) : u.core n = s.core n := by rw [h]; rfl

theorem ctx? (h : memRead s u) (c : Nat) : u.ctx? c = s.ctx? c := by rw [h]; rfl

theorem store (h : memRead s u) : u.store = s.store := by rw [h]

theorem dies (h : memRead s u) : u.dies = s.dies := by rw [h]; rfl

theorem partOfCtx (h : memRead s u) (c : Nat) : u.partOfCtx c = s.partOfCtx c := by rw [h]; rfl

theorem recordAll (s : State) (a : Nat) (r : List ErrNote) : memRead s (s.recordAll a r) := by
  refine foldl (fun t n => ?_) r s
  cases n with
  | counted => rfl
  | recorded v => rfl

theorem recordIdle (s : State) (sp : List Span) : memRead s (s.recordIdle sp) := of_tlbWalked (tlbWalked.recordIdle s sp)

/-- The errors that a read meets in a copy are recorded as those at home are: the rest of the copy's view is not kept. -/
theorem recordFrom (s : State) (die : Nat) (ts : List (Target × Nat)) (spans : State → Target × Nat → List Span) : memRead s (s.recordFrom die ts spans) := by
  unfold State.recordFrom
  extract_lets near home
  have hhome : memRead s home := recordIdle ..
  split
  · exact hhome
  · extract_lets v
    refine hhome.trans ?_
    have hview := recordIdle { v with out := home.out } ((‹Target × Nat› :: ‹List (Target × Nat)›).flatMap (spans v))
    unfold memRead at hview ⊢
    rw [hview]

theorem noteReplica (s : State) (die : Nat) (t : Target) : memRead s (s.noteReplica die t) := by
  unfold State.noteReplica
  split <;> exact refl _

theorem dropCopies (s : State) (unit size : Nat) (t : Target) : memRead s (s.dropCopies unit size t) := by
  unfold State.dropCopies
  split
  · exact foldl (fun t l => (rfl : memRead t (t.dropL1 unit l))) _ s
  · exact refl s

theorem readAt (s : State) (unit crew : Nat) (nan many : Bool) (t : Target) (size : Nat) : memRead s (s.readAt unit crew nan many t size).1 := by
  unfold State.readAt
  split
  · exact refl s
  · split
    · exact (recordAll s _ _).trans (noteReplica ..)
    · extract_lets r s'
      have hs : memRead s s' := by
        dsimp only [s']
        split <;> rfl
      exact hs.trans (recordAll ..)
    · exact refl s
    · exact refl s
    · exact refl s

theorem readWhole (s : State) (unit crew : Nat) (t : Target) (size : Nat) : memRead s (s.readWhole unit crew t size).1 :=
  ((recordFrom ..).trans (readAt ..)).trans (dropCopies ..)

end memRead
end Sys2Proof.Machine
end

section
/-! SUPPORT and O42. Code tables and charts as their loads complete (R75, R271, R274, R275, R294, R355). -/

open Sys2Proof
namespace Sys2Proof.Machine

/-! ## Runs of cells -/

/-- What consecutive writes leave at a key. -/
theorem Cells.get_setRange {w : Nat} (l : List (BitVec w)) (c : Cells w) (k i : Nat) (h : Cells.wf c = true) :
    Cells.get (Cells.setRange c k l) i = if k ≤ i then (l[i - k]?).getD (Cells.get c i) else Cells.get c i := by
  induction l generalizing c k with
  | nil => simp [Cells.setRange]
  | cons v r ih =>
    rw [Cells.setRange, ih _ _ (Cells.wf_set c k v h), Cells.get_set c k v i h]
    obtain hlt | rfl | hgt : i < k ∨ k = i ∨ k < i := by omega
    · rw [if_neg (by omega), if_neg (by omega), if_neg (by omega)]
    · simp
    · rw [if_pos (by omega), if_neg (by omega), if_pos (by omega), show i - k = i - (k + 1) + 1 by omega, List.getElem?_cons_succ]

/-! ## The end of an operation in flight (R17, R118) -/

section
variable {s : State} {g : Nat} {w : Wave}

/-- The wave of an operation that ends is found with it gone. -/
theorem State.wave?_endFlight (hw : s.wave? g = some w) (f : Flight) :
    (s.endFlight g f id).wave? g = some (({ w with flights := w.flights.filter (·.id != f.id) } : Wave).slotDown f.slot) := by
  rw [State.endFlight, State.wave?_modWave_same s fun w => by rw [Wave.slotDown_gwn]; rfl, hw]
  rfl

/-- An operation that ends in a fault of a wave: the operation is gone, and the wave's task faults (R118). -/
theorem State.flightFault_eq (hw : s.wave? g = some w) (hg : isHm g = false) (f : Flight) (cause sev : Nat) (detail : Word) :
    s.flightFault g f cause sev detail = (s.endFlight g f id).failTask w.crew ⟨cause, sev, f.pc, detail⟩ := by
  simp only [State.flightFault, s.wave?_endFlight hw f, hg, Bool.false_eq_true, if_false, Wave.slotDown_crew]

/-- A step that ends an operation in a fault of a wave, as the claims say it. -/
theorem landed_of_flightFault {i : Instr} {t : State} (hw : s.wave? g = some w) (hg : isHm g = false) {f : Flight} {cause sev : Nat}
    (h : exec i t = .next (s.flightFault g f cause sev 0)) : ∃ v, landed s v g f (fun y => y) ∧ exec i t = .next (v.failTask w.crew ⟨cause, sev, f.pc, 0⟩) :=
  ⟨_, s.landed_endFlight g f id, by rw [h, State.flightFault_eq hw hg]⟩

variable {id : Nat} {x : Flight}

/-- An operation of class `ld` that nothing holds back is performed as its kind says. -/
theorem exec_slotCompletion_ld (hw : s.wave? g = some w) (hx : w.flight? id = some x) (hc : x.cls = .ld) (hb : s.blocked w x = false) :
    exec (.slotCompletion g id) s = .next (s.doFlight w x) := by
  refine Result.next_congr ?_
  simp only [State.withFlight, hw, hx, hb, hc, OrdClass.coreOnly, Bool.false_eq_true, if_false]

theorem State.doFlight_ctld {n bank tm : Nat} {sorted : Bool} {t : Target} (h : x.body = .ctld n bank sorted t tm) : s.doFlight w x = s.doCtld w x n bank sorted t := by
  rw [State.doFlight, h]

theorem State.doFlight_chartld {n : Nat} {a : Target} (h : x.body = .chartld n a) : s.doFlight w x = s.doChartld w x n a := by
  rw [State.doFlight, h]

theorem State.core_endFlight (f : Flight) (upd : Wave → Wave) (n : Nat) : (s.endFlight g f upd).core n = s.core n := by
  rw [State.core, State.core, State.endFlight, State.modWave_cores]

theorem State.ctx?_endFlight (f : Flight) (upd : Wave → Wave) (c : Nat) : (s.endFlight g f upd).ctx? c = s.ctx? c :=
  State.ctx?_congr (State.modWave_ctxs ..) c

end

/-! ## Code tables (R75, R271, R355) -/

/-- The entries of a table as they are read. -/
def tableEntries (x : Nat) : List (BitVec 16) := (List.range 16).map fun i => BitVec.ofNat 16 (x / 2 ^ (16 * i))

/-- The far core whose bank a `ctld` has written. -/
def FarCore.withTable (k : FarCore) (n bank : Nat) (sorted : Bool) (es : List (BitVec 16)) : FarCore :=
  let bit : BitVec 16 := BitVec.ofNat 16 (2 ^ (2 * n + bank))
  { k with
    tables := Cells.setRange k.tables (32 * n + 16 * bank) es
    badTables := k.badTables.filter fun i => i / 16 != 2 * n + bank
    sorted := if sorted then k.sorted ||| bit else k.sorted &&& ~~~bit }

@[simp] theorem FarCore.withTable_banks (k : FarCore) (n bank : Nat) (sorted : Bool) (es : List (BitVec 16)) :
    (k.withTable n bank sorted es).banks = k.banks := rfl
@[simp] theorem FarCore.withTable_active (k : FarCore) (n bank : Nat) (sorted : Bool) (es : List (BitVec 16)) :
    (k.withTable n bank sorted es).active = k.active := rfl

/-- What a `ctld` whose read does not fault does. -/
theorem State.doCtld_of_read {s f : State} {w : Wave} {x : Flight} {n bank : Nat} {sorted : Bool} {t : Target} {r : ReadRes}
    (hr : s.readWhole (unitOf w.gwn) w.crew t 32 = (f, r)) (hf : r.fault = none) :
    s.doCtld w x n bank sorted t =
      if sorted && !cbSorted (tableEntries r.val) then f.flightFault w.gwn x 0x09 0 0
      else (f.setCore ((f.core (unitOf w.gwn)).withTable n bank sorted (tableEntries r.val))).endFlight w.gwn x id := by
  simp only [State.doCtld, hr, hf, Nat.shiftRight_eq_div_pow]
  rfl

theorem FarCore.get_tables_withTable {k : FarCore} (hk : Cells.wf k.tables = true) (n bank : Nat) (sorted : Bool) (x i : Nat) :
    Cells.get (k.withTable n bank sorted (tableEntries x)).tables i =
      if 32 * n + 16 * bank ≤ i ∧ i < 32 * n + 16 * bank + 16 then BitVec.ofNat 16 (x / 2 ^ (16 * (i - (32 * n + 16 * bank)))) else Cells.get k.tables i := by
  rw [FarCore.withTable, Cells.get_setRange _ _ _ _ hk]
  by_cases hlo : 32 * n + 16 * bank ≤ i
  · by_cases hhi : i < 32 * n + 16 * bank + 16
    · rw [if_pos hlo, if_pos ⟨hlo, hhi⟩, tableEntries, List.getElem?_map, List.getElem?_range (by omega)]
      rfl
    · rw [if_pos hlo, if_neg (by omega), List.getElem?_eq_none (by simp [tableEntries]; omega)]
      rfl
  · rw [if_neg hlo, if_neg (by omega)]

theorem FarCore.mem_badTables_withTable (k : FarCore) (n bank : Nat) (sorted : Bool) (es : List (BitVec 16)) (i : Nat) :
    i ∈ (k.withTable n bank sorted es).badTables ↔ i ∈ k.badTables ∧ (i < 32 * n + 16 * bank ∨ 32 * n + 16 * bank + 16 ≤ i) := by
  simp only [FarCore.withTable, List.mem_filter, bne_iff_ne]
  exact and_congr_right fun _ => by omega

theorem FarCore.sorted_withTable (k : FarCore) (n bank : Nat) (sorted : Bool) (es : List (BitVec 16)) {i : Nat} (hi : i < 16) :
    (k.withTable n bank sorted es).sorted.getLsbD i = if i = 2 * n + bank then sorted else k.sorted.getLsbD i := by
  have hbit : (BitVec.ofNat 16 (2 ^ (2 * n + bank))).getLsbD i = decide (i = 2 * n + bank) := by
    rw [BitVec.getLsbD_ofNat, Nat.testBit_two_pow, decide_eq_true hi, Bool.true_and, decide_eq_decide]
    exact eq_comm
  unfold FarCore.withTable
  generalize BitVec.ofNat 16 (2 ^ (2 * n + bank)) = bit at hbit ⊢
  cases sorted with
  | false =>
    simp only [Bool.false_eq_true, if_false]
    rw [BitVec.getLsbD_and, BitVec.getLsbD_not, hbit, decide_eq_true hi]
    split <;> simp [*]
  | true =>
    simp only [if_true]
    rw [BitVec.getLsbD_or, hbit]
    split <;> simp [*]

/-! ## Charts (R274, R275, R355) -/

/-- The words of a chart record as they are read. -/
def chartWords (x : Nat) : List Word := (List.range 8).map fun i => BitVec.ofNat 64 (x / 2 ^ (64 * i))

/-- The context with another record for a chart. -/
def Context.newChart (c : Context) (n : Nat) (ws : List Word) : Context := { c.dropChart n with charts := (n, ws) :: (c.dropChart n).charts }

/-- To find and read a chart record is a read. -/
theorem memRead_of_chartRead {s m f : State} {w : Wave} {a t : Target} {r : ReadRes} (ht : s.translate hostTlb w.ctx a.va .r = (m, .ok t))
    (hr : m.readWhole (m.hmUnit w.ctx) w.crew t 64 = (f, r)) : memRead s f := by
  have hwalk := memRead.of_tlbWalked (tlbWalked.translate s hostTlb w.ctx a.va .r)
  have hread := memRead.readWhole m (m.hmUnit w.ctx) w.crew t 64
  rw [ht] at hwalk
  rw [hr] at hread
  exact hwalk.trans hread

/-- What a `chartld` of a partition with a running harbourmaster core does whose record is read without a fault. -/
theorem State.doChartld_of_read {s m f : State} {w : Wave} {x : Flight} {n : Nat} {a t : Target} {r : ReadRes} {c : Context}
    (ha : s.hmAlive (s.partOfCtx w.ctx) = true) (hva : a.va < 0xFFFFFFFF0000) (ht : s.translate hostTlb w.ctx a.va .r = (m, .ok t)) (hd : t.space = .dev)
    (hr : m.readWhole (m.hmUnit w.ctx) w.crew t 64 = (f, r)) (hf : r.fault = none) (hc : s.ctx? w.ctx = some c) (hn : n ∉ c.badCharts) :
    s.doChartld w x n a =
      if (chartWords r.val).all (· == 0) then (f.modCtx w.ctx (Context.dropChart n)).endFlight w.gwn x id
      else if chartBad (chartWords r.val) (64 * s.dies * s.partOfCtx w.ctx) (64 * s.dies * s.partOfCtx w.ctx + 64 * s.dies) then f.flightFault w.gwn x 0x09 0 0
      else (f.modCtx w.ctx fun c => c.newChart n (chartWords r.val)).endFlight w.gwn x id := by
  have hplace : s.hmPlace w.ctx a.va .r = (m, .ok t) := by
    simp only [State.hmPlace, unwalkedBase, if_neg (not_le.mpr hva), ht, hd, true_or, if_true]
  have hread := memRead_of_chartRead ht hr
  simp only [State.doChartld, ha, hc, hplace, hr, hf, hread.dies, hread.partOfCtx, Nat.shiftRight_eq_div_pow]
  simp only [List.contains_eq_mem, hn, decide_false, Option.any_some, Bool.not_true, Bool.false_eq_true, if_false]
  rfl

theorem Context.chart?_dropChart (c : Context) (n m : Nat) : (c.dropChart n).chart? m = if m = n then none else c.chart? m := by
  unfold Context.chart? Context.dropChart
  rw [List.find?_filter]
  by_cases h : m = n
  · rw [if_pos h, Option.map_eq_none_iff, List.find?_eq_none]
    simp [h]
  · rw [if_neg h]
    congr 2
    funext p
    by_cases hp : p.1 = m <;> simp [hp, h]

theorem Context.chart?_newChart (c : Context) (n : Nat) (ws : List Word) (m : Nat) : (c.newChart n ws).chart? m = if m = n then some ws else c.chart? m := by
  by_cases h : m = n
  · simp [Context.chart?, Context.newChart, h]
  · rw [if_neg h, ← (c.chart?_dropChart n m).trans (if_neg h)]
    simp [Context.chart?, Context.newChart, Ne.symm h]

theorem Context.not_mem_badCharts_dropChart (c : Context) (n : Nat) : n ∉ (c.dropChart n).badCharts := by
  simp [Context.dropChart]

/-- A context whose chart a `chartld` changes is found changed when the operation has ended. -/
theorem State.ctx?_chartLanded {f : State} {g n : Nat} {c : Context} (x : Flight) {h : Context → Context} (hh : ∀ y, (h y).slot = y.slot)
    (hc : f.ctx? n = some c) : ((f.modCtx n h).endFlight g x id).ctx? n = some (h c) := by
  rw [State.ctx?_endFlight, State.ctx?_modCtx_same f hh, hc]
  rfl

/-- Settles O42: each load is performed as its kind says, and what its read changes is nothing that it writes. -/
theorem tablesAndCharts : Obligations.TablesAndCharts := by
  intro s f g id n w x t r hw hx hcls hb hfault hg alive faulted
  obtain rfl : w.gwn = g := State.wave?_gwn hw
  have hexec := exec_slotCompletion_ld hw hx hcls hb
  refine ⟨?_, ?_, ?_, ?_⟩
  · intro bank sorted tm hbody hr k es
    have hread : memRead s f := by
      have h := memRead.readWhole s (unitOf w.gwn) w.crew t 32
      rwa [hr] at h
    have hwf : f.wave? w.gwn = some w := (hread.wave? _).trans hw
    have hdo := State.doCtld_of_read (x := x) (n := n) (bank := bank) (sorted := sorted) hr hfault
    rw [hread.core] at hdo
    refine ⟨fun hs hun => landed_of_flightFault hwf hg ?_, fun hk hs => ?_⟩
    · have hbad : (sorted && !cbSorted (tableEntries r.val)) = true := by rw [hs, show cbSorted (tableEntries r.val) = false from hun]; rfl
      rw [hexec, State.doFlight_ctld hbody, hdo, if_pos hbad]
    · have hgood : ¬ (sorted && !cbSorted (tableEntries r.val)) = true := by
        cases sorted with
        | false => exact Bool.false_ne_true
        | true => rw [show cbSorted (tableEntries r.val) = true from hs rfl]; exact Bool.false_ne_true
      rw [if_neg hgood] at hdo
      refine ⟨_, by rw [hexec, State.doFlight_ctld hbody, hdo], ?_⟩
      dsimp only
      rw [State.core_endFlight, State.core_setCore_same f (k := (s.core _).withTable ..) (s.core_core _)]
      exact ⟨k.get_tables_withTable hk n bank sorted r.val, k.mem_badTables_withTable n bank sorted _, fun i => k.sorted_withTable n bank sorted _,
        FarCore.withTable_banks .., FarCore.withTable_active ..⟩
  · intro a hbody ha
    rw [hexec, State.doFlight_chartld hbody, State.doChartld, if_pos (by rw [show s.hmAlive (s.partOfCtx w.ctx) = false from ha]; rfl)]
  · intro a c m hbody ha hva ht hd hr hc hn ws low
    have hread := memRead_of_chartRead ht hr
    have hwf : f.wave? w.gwn = some w := (hread.wave? _).trans hw
    have hcf : f.ctx? w.ctx = some c := (hread.ctx? _).trans hc
    have hstep : exec (.slotCompletion w.gwn id) s = .next (s.doChartld w x n a) := by rw [hexec, State.doFlight_chartld hbody]
    rw [State.doChartld_of_read ha hva ht hd hr hfault hc hn] at hstep
    have hzero : (chartWords r.val).all (· == 0) = true ↔ ∀ v ∈ ws, v = 0 := by simp only [List.all_eq_true, beq_iff_eq]; rfl
    have hsome (h : ∃ v ∈ ws, v ≠ 0) : ¬ (chartWords r.val).all (· == 0) = true := by
      obtain ⟨v, hv, h0⟩ := h
      exact fun hz => h0 (hzero.mp hz v hv)
    refine ⟨fun h => ?_, fun h hbad => landed_of_flightFault hwf hg ?_, fun h hgood => ?_⟩
    · rw [if_pos (hzero.mpr h)] at hstep
      refine ⟨_, _, hstep, State.ctx?_chartLanded x (fun _ => rfl) hcf, ?_, c.not_mem_badCharts_dropChart n, fun m hm => ?_⟩
      · rw [Context.chart?_dropChart, if_pos rfl]
      · rw [Context.chart?_dropChart, if_neg hm]
    · change chartBad (chartWords r.val) (64 * s.dies * s.partOfCtx w.ctx) _ = true at hbad
      rw [hstep, if_neg (hsome h), if_pos hbad]
    · change chartBad (chartWords r.val) (64 * s.dies * s.partOfCtx w.ctx) _ = false at hgood
      rw [if_neg (hsome h), if_neg (Bool.eq_false_iff.mp hgood)] at hstep
      refine ⟨_, _, hstep, State.ctx?_chartLanded x (fun _ => rfl) hcf, ?_, c.not_mem_badCharts_dropChart n, fun m hm => ?_⟩
      · exact (c.chart?_newChart n _ n).trans (if_pos rfl)
      · rw [Context.chart?_newChart, if_neg hm]
  · intro a c hbody ha hc hn
    refine landed_of_flightFault hw hg ?_
    rw [hexec, State.doFlight_chartld hbody]
    have halive : ¬ (!s.hmAlive (s.partOfCtx w.ctx)) = true := by rw [show s.hmAlive (s.partOfCtx w.ctx) = true from ha]; exact Bool.false_ne_true
    have hbad : ((s.ctx? w.ctx).any fun c => c.badCharts.contains n) = true := by simp [hc, hn]
    rw [State.doChartld, if_neg halive, if_pos hbad]

end Sys2Proof.Machine
end

section
/-! SUPPORT of O43. Exact sums of products (R78, R93). -/

open Sys2Proof
namespace Sys2Proof.Machine

theorem ratOf_num (neg : Bool) (m : Nat) (e : Int) : ratOf (.num neg m e) = some (signOf neg * m * 2 ^ e) := rfl

theorem exists_num_of_ratOf {x : FVal} {q : ℚ} (h : ratOf x = some q) : ∃ neg m e, x = .num neg m e ∧ q = signOf neg * m * 2 ^ e := by
  cases x with
  | nan => cases h
  | inf _ => cases h
  | num neg m e => exact ⟨neg, m, e, rfl, (Option.some.inj h).symm⟩

/-- An aligned mantissa stands for the value that it is aligned from. -/
theorem alignTo_mul {e0 e : Int} (h : e0 ≤ e) (neg : Bool) (m : Nat) : (alignTo e0 neg m e : ℚ) * 2 ^ e0 = signOf neg * m * 2 ^ e := by
  have hpow : (2 : ℚ) ^ (e - e0).toNat * 2 ^ e0 = 2 ^ e := by
    rw [← zpow_natCast, ← zpow_add₀ (by norm_num)]
    congr 1
    omega
  unfold alignTo signOf
  cases neg
  · simp only [Bool.false_eq_true, if_false]; push_cast; rw [mul_assoc, hpow]; ring
  · simp only [if_true]; push_cast; rw [← hpow]; ring

/-- The sum of finite values is finite and exact. -/
theorem ratOf_add {x y : FVal} {p q : ℚ} (rm : Rm) (hx : ratOf x = some p) (hy : ratOf y = some q) : ratOf (FVal.add rm x y).1 = some (p + q) := by
  obtain ⟨s, m, e, rfl, rfl⟩ := exists_num_of_ratOf hx
  obtain ⟨t, n, k, rfl, rfl⟩ := exists_num_of_ratOf hy
  simp only [FVal.add]
  set e0 : Int := if e ≤ k then e else k with he0
  have hsum : ((alignTo e0 s m e + alignTo e0 t n k : Int) : ℚ) * 2 ^ e0 = signOf s * m * 2 ^ e + signOf t * n * 2 ^ k := by
    push_cast
    rw [add_mul, alignTo_mul (by omega), alignTo_mul (by omega)]
  rw [← hsum]
  generalize alignTo e0 s m e + alignTo e0 t n k = z
  by_cases hz : z = 0
  · simp [hz, ratOf]
  · have habs : signOf (decide (z < 0)) * (z.natAbs : ℚ) = z := by
      rw [signOf, Nat.cast_natAbs]
      by_cases hneg : z < 0
      · simp [hneg, abs_of_neg hneg]
      · simp [hneg, abs_of_nonneg (not_lt.mp hneg)]
    rw [if_neg hz, ratOf_num, habs]

/-- The product of finite values is finite and exact. -/
theorem ratOf_mul {x y : FVal} {p q : ℚ} (hx : ratOf x = some p) (hy : ratOf y = some q) : ratOf (FVal.mul x y).1 = some (p * q) := by
  obtain ⟨s, m, e, rfl, rfl⟩ := exists_num_of_ratOf hx
  obtain ⟨t, n, k, rfl, rfl⟩ := exists_num_of_ratOf hy
  have hsign : signOf (s != t) = signOf s * signOf t := by cases s <;> cases t <;> simp [signOf]
  rw [FVal.mul, ratOf_num, hsign, Option.some.injEq, zpow_add₀ (by norm_num)]
  push_cast
  ring

theorem ratOf_foldl_add (l : List FVal) {v : FVal} {p : ℚ} (hv : ratOf v = some p) (hl : ∀ x ∈ l, (ratOf x).isSome = true) :
    ratOf (l.foldl (fun x y => (FVal.add .rne x y).1) v) = some (p + (l.map fun x => (ratOf x).getD 0).sum) := by
  induction l generalizing v p with
  | nil => simpa using hv
  | cons x r ih =>
    obtain ⟨q, hq⟩ := Option.isSome_iff_exists.mp (hl x List.mem_cons_self)
    rw [List.foldl_cons, ih (ratOf_add .rne hv hq) fun y hy => hl y (List.mem_cons_of_mem _ hy), List.map_cons, List.sum_cons, hq, add_assoc]
    rfl

/-- A list of finite values holds no infinity. -/
theorem not_contains_inf {l : List FVal} (hl : ∀ x ∈ l, (ratOf x).isSome = true) (neg : Bool) : l.contains (.inf neg) = false := by
  rw [List.contains_eq_mem, decide_eq_false]
  exact fun h => Bool.false_ne_true (hl _ h)

/-- R93: the exact sum of the products of finite values. -/
theorem ratOf_kSum {a b : List FVal} (h : ∀ x ∈ a ++ b, (ratOf x).isSome = true) :
    ratOf (kSum a b).1 = some ((a.zip b).map fun p => (ratOf p.1).getD 0 * (ratOf p.2).getD 0).sum := by
  have hprod : ∀ p ∈ a.zip b, ratOf (FVal.mul p.1 p.2).1 = some ((ratOf p.1).getD 0 * (ratOf p.2).getD 0) := by
    intro p hp
    obtain ⟨ha, hb⟩ := List.of_mem_zip (show (p.1, p.2) ∈ a.zip b from hp)
    obtain ⟨x, hx⟩ := Option.isSome_iff_exists.mp (h p.1 (List.mem_append_left _ ha))
    obtain ⟨y, hy⟩ := Option.isSome_iff_exists.mp (h p.2 (List.mem_append_right _ hb))
    rw [ratOf_mul hx hy, hx, hy]
    rfl
  have hfin : ∀ x ∈ ((a.zip b).map fun p => FVal.mul p.1 p.2).map (·.1), (ratOf x).isSome = true := by
    intro x hx
    rw [List.map_map] at hx
    obtain ⟨p, hp, rfl⟩ := List.mem_map.mp hx
    rw [Function.comp_apply, hprod p hp]
    rfl
  have hterms : (((a.zip b).map fun p => FVal.mul p.1 p.2).map (·.1)).map (fun x => (ratOf x).getD 0) =
      (a.zip b).map fun p => (ratOf p.1).getD 0 * (ratOf p.2).getD 0 := by
    rw [List.map_map, List.map_map]
    refine List.map_congr_left fun p hp => ?_
    rw [Function.comp_apply, Function.comp_apply, hprod p hp]
    rfl
  simp only [kSum, ← hterms]
  generalize ((a.zip b).map fun p => FVal.mul p.1 p.2).map (·.1) = vs at hfin ⊢
  simp only [not_contains_inf hfin, Bool.and_false, Bool.false_eq_true, if_false]
  cases vs with
  | nil => simp [ratOf]
  | cons v r =>
    obtain ⟨p, hp⟩ := Option.isSome_iff_exists.mp (hfin v List.mem_cons_self)
    simp only [ratOf_foldl_add r hp fun y hy => hfin y (List.mem_cons_of_mem _ hy), List.map_cons, List.sum_cons, hp]
    rfl

end Sys2Proof.Machine
end

section
/-! SUPPORT of O43. Whole banks: what is read of one in row order, and what replacing one leaves (R258, R260). -/

open Sys2Proof
namespace Sys2Proof.Machine

/-! ## Runs of cells read and written in one pass -/

/-- A filter on keys keeps what it selects and drops the rest. -/
theorem Cells.get_filter {w : Nat} (c : Cells w) (p : Nat → Bool) (k : Nat) : Cells.get (c.filter fun q => p q.1) k = if p k then Cells.get c k else 0 := by
  induction c with
  | nil => simp [Cells.get]
  | cons q r ih =>
    obtain ⟨a, b⟩ := q
    by_cases ha : p a = true
    · rw [List.filter_cons_of_pos (by simpa using ha), Cells.get, Cells.get, ih]
      by_cases hk : a = k
      · rw [if_pos hk, if_pos hk, if_pos (hk ▸ ha)]
      · rw [if_neg hk, if_neg hk]
    · rw [List.filter_cons_of_neg (by simpa using ha), ih, Cells.get]
      by_cases hk : a = k
      · rw [if_neg (hk ▸ ha), if_neg (hk ▸ ha)]
      · rw [if_neg hk]

/-- What is read of n keys in one pass is what is read of each. -/
theorem Cells.dense_eq {w : Nat} (n : Nat) (c : Cells w) (k : Nat) (h : Cells.okFrom k c = true) :
    Cells.dense c k n = (List.range n).map fun i => Cells.get c (k + i) := by
  induction n generalizing c k with
  | zero => rw [Cells.dense]; rfl
  | succ n ih =>
    rw [List.range_succ_eq_map, List.map_cons, List.map_map]
    cases c with
    | nil =>
      rw [Cells.dense, ih [] (k + 1) rfl]
      rfl
    | cons p r =>
      obtain ⟨a, b⟩ := p
      obtain ⟨hka, hb, hr⟩ := (Cells.okFrom_iff ..).mp h
      rw [Cells.dense]
      by_cases hak : a = k
      · subst hak
        rw [if_pos rfl, ih r (a + 1) hr, Cells.get, if_pos (show a = a + 0 from rfl)]
        congr 1
        refine List.map_congr_left fun i _ => ?_
        rw [Function.comp_apply, Cells.get, if_neg (by omega), show a + i.succ = a + 1 + i by omega]
      · rw [if_neg hak, ih _ (k + 1) ((Cells.okFrom_iff ..).mpr ⟨by omega, hb, hr⟩), Cells.get, if_neg (show ¬ a = k + 0 from hak),
          Cells.get_of_lt r (a + 1) (k + 0) hr (by omega)]
        congr 1
        refine List.map_congr_left fun i _ => ?_
        rw [Function.comp_apply, show k + i.succ = k + 1 + i by omega]

/-- What a run of values before greater keys reads as. -/
theorem Cells.get_ofDense {w : Nat} (vs : List (BitVec w)) (c : Cells w) (k i : Nat) (h : Cells.okFrom (k + vs.length) c = true) :
    Cells.get (Cells.ofDense k vs c) i = if k ≤ i then (vs[i - k]?).getD (Cells.get c i) else 0 := by
  induction vs generalizing k with
  | nil =>
    rw [Cells.ofDense]
    by_cases hk : k ≤ i
    · rw [if_pos hk]; rfl
    · rw [if_neg hk]; exact Cells.get_of_lt c k i (by simpa using h) (by omega)
  | cons v r ih =>
    have hr : Cells.okFrom (k + 1 + r.length) c = true := by rwa [List.length_cons, ← Nat.add_assoc, Nat.add_right_comm] at h
    rw [Cells.ofDense, Cells.get_cons _ _ _ _ (Cells.get_of_lt _ (k + 1) k (Cells.okFrom_ofDense r _ _ c le_rfl hr) (by omega)), ih _ hr]
    obtain hlt | rfl | hgt : i < k ∨ k = i ∨ k < i := by omega
    · rw [if_neg (by omega), if_neg (by omega), if_neg (by omega)]
    · simp
    · rw [if_neg (by omega), if_pos (by omega), if_pos (by omega), show i - k = i - (k + 1) + 1 by omega, List.getElem?_cons_succ]

theorem Cells.get_append_of_lt {w : Nat} {a b : Cells w} {m k : Nat} (hb : Cells.okFrom m b = true) (hk : k < m) : Cells.get (a ++ b) k = Cells.get a k := by
  induction a with
  | nil => exact Cells.get_of_lt b m k hb hk
  | cons p r ih => obtain ⟨x, y⟩ := p; rw [List.cons_append, Cells.get, Cells.get, ih]

theorem Cells.get_append_of_le {w : Nat} {a b : Cells w} {m k : Nat} (ha : ∀ p ∈ a, p.1 < m) (hk : m ≤ k) : Cells.get (a ++ b) k = Cells.get b k := by
  induction a with
  | nil => rfl
  | cons p r ih =>
    obtain ⟨x, y⟩ := p
    have hx : x < m := ha _ List.mem_cons_self
    rw [List.cons_append, Cells.get, if_neg (by omega), ih fun q hq => ha q (List.mem_cons_of_mem _ hq)]

/-- What replacing the values at consecutive keys leaves at a key. -/
theorem Cells.get_putDense {w : Nat} (c : Cells w) (k : Nat) (vs : List (BitVec w)) (i : Nat) (h : Cells.wf c = true) :
    Cells.get (Cells.putDense c k vs) i = if k ≤ i then (vs[i - k]?).getD (Cells.get c i) else Cells.get c i := by
  have hdrop : Cells.okFrom (k + vs.length) (c.filter fun p => decide (k + vs.length ≤ p.1)) = true := Cells.okFrom_drop c 0 _ h
  have hlow : ∀ p ∈ c.filter fun p => decide (p.1 < k), p.1 < k := fun p hp => by simpa using (List.mem_filter.mp hp).2
  have hden := Cells.okFrom_ofDense vs k k _ le_rfl hdrop
  unfold Cells.putDense
  by_cases hk : k ≤ i
  · rw [Cells.get_append_of_le hlow hk, Cells.get_ofDense _ _ _ _ hdrop, if_pos hk, if_pos hk, Cells.get_filter c fun a => decide (k + vs.length ≤ a)]
    by_cases hi : i - k < vs.length
    · rw [List.getElem?_eq_getElem hi]; rfl
    · rw [List.getElem?_eq_none (by omega), if_pos (by simpa using by omega)]
  · rw [Cells.get_append_of_lt hden (by omega), if_neg hk, Cells.get_filter c fun a => decide (a < k), if_pos (by simpa using by omega)]

/-! ## A bank in row order -/

section
variable {k : FarCore} (hk : Cells.wf k.banks = true) (bank : Nat)
include hk

theorem FarCore.bankVals_eq : k.bankVals bank = (List.range 16384).map fun i => Cells.get k.banks (16384 * bank + i) := by
  rw [FarCore.bankVals, Cells.dense_eq _ _ _ (Cells.okFrom_drop k.banks 0 _ hk)]
  refine List.map_congr_left fun i _ => ?_
  rw [Cells.get_filter k.banks fun a => decide (16384 * bank ≤ a), if_pos (by simp)]

theorem FarCore.get_setBank_in {vs : List Lane} {i : Nat} {x : Lane} (hx : vs[i]? = some x) :
    Cells.get (k.setBank bank vs).banks (16384 * bank + i) = x := by
  rw [FarCore.setBank, Cells.get_putDense _ _ _ _ hk, if_pos (by omega), Nat.add_sub_cancel_left, hx]
  rfl

theorem FarCore.get_setBank_out {vs : List Lane} (hl : vs.length = 16384) {i : Nat} (hi : i < 16384 * bank ∨ 16384 * bank + 16384 ≤ i) :
    Cells.get (k.setBank bank vs).banks i = Cells.get k.banks i := by
  rw [FarCore.setBank, Cells.get_putDense _ _ _ _ hk]
  by_cases hlo : 16384 * bank ≤ i
  · rw [if_pos hlo, List.getElem?_eq_none (by omega)]; rfl
  · rw [if_neg hlo]

end

/-! ## The elements of a k-step (R93, R94) -/

theorem kStep_length (fresh : Bool) {rb : List (List FVal)} (hb : rb.length = 128) (ra : List (List FVal)) {vs : List Lane} (hc : vs.length = 128 * ra.length) :
    (kStep fresh rb ra vs).length = 128 * ra.length := by
  induction ra generalizing vs with
  | nil => rw [kStep]; rfl
  | cons a ra ih =>
    rw [List.length_cons] at hc
    rw [kStep, List.length_append, List.length_map, List.length_zip, List.length_take, ih (by rw [List.length_drop]; omega), List.length_cons]
    omega

/-- Element j of row i of a k-step's result. -/
theorem kStep_getElem? (fresh : Bool) {rb : List (List FVal)} (hb : rb.length = 128) (ra : List (List FVal)) {vs : List Lane} (hc : vs.length = 128 * ra.length)
    {i j : Nat} {a b : List FVal} {x : Lane} (hj : j < 128) (ha : ra[i]? = some a) (hbj : rb[j]? = some b) (hx : vs[128 * i + j]? = some x) :
    (kStep fresh rb ra vs)[128 * i + j]? = some (kElem fresh a b x) := by
  induction ra generalizing vs i with
  | nil => cases ha
  | cons a' ra ih =>
    rw [List.length_cons] at hc
    have hrow : (((rb.zip (vs.take 128)).map fun p => kElem fresh a' p.1 p.2)).length = 128 := by
      rw [List.length_map, List.length_zip, List.length_take]; omega
    rw [kStep]
    cases i with
    | zero =>
      obtain rfl : a' = a := by simpa using ha
      rw [Nat.mul_zero, Nat.zero_add] at hx ⊢
      rw [List.getElem?_append_left (by omega), List.getElem?_map, (List.getElem?_zip_eq_some (z := (b, x))).mpr ⟨hbj, by rw [List.getElem?_take_of_lt hj]; exact hx⟩]
      rfl
    | succ i =>
      rw [List.getElem?_append_right (by omega), hrow, show 128 * (i + 1) + j - 128 = 128 * i + j by omega]
      refine ih (by rw [List.length_drop]; omega) (by simpa using ha) ?_
      rw [List.getElem?_drop, ← hx]
      congr 1
      omega

theorem orAll_getLsbD (l : List Flags) (b : Nat) : (orAll l).getLsbD b = true ↔ ∃ x ∈ l, x.getLsbD b = true := by
  have key (l : List Flags) (a : Flags) : (l.foldl (· ||| ·) a).getLsbD b = true ↔ a.getLsbD b = true ∨ ∃ x ∈ l, x.getLsbD b = true := by
    induction l generalizing a with
    | nil => simp
    | cons x r ih => rw [List.foldl_cons, ih, BitVec.getLsbD_or, Bool.or_eq_true, List.exists_mem_cons_iff, or_assoc]
  rw [orAll, key]
  simp

end Sys2Proof.Machine
end

section
/-! SUPPORT of O43. One k-step over scratch operands: what it computes, and what it leaves before the boundary (R93, R260, R263, R355). -/

open Sys2Proof
namespace Sys2Proof.Machine

/-- The test that finds a command in a core's list. -/
def MatCmd.named (m x : MatCmd) : Bool := x.gwn == m.gwn && x.id == m.id

/-- Both operands of a command that multiplies lie in scratch. -/
structure MatFields.inScratch (f : MatFields) : Prop where
  op : f.op < 2
  a : matGlobal f.a = false
  b : matGlobal f.b = false

/-- A command that runs on a core, for a live crew whose scratch and tables are sound; its wave is not being pre-empted. -/
structure MatRuns (s : State) (n : Nat) (m : MatCmd) (c : Crew) (w : Wave) : Prop where
  running : (s.core n).running = some m
  found : (s.core n).mat.find? m.named = some m
  crew : s.crew? m.crew = some c
  live : c.fault = none
  wave : s.wave? m.gwn = some w
  free : s.frozen w = false
  banks : Cells.wf (s.core n).banks = true
  tables : (s.core n).badTables = []
  scratch : c.bad = []

/-! ## The operands (R107, R260, R354) -/

theorem Crew.failAt_of_good {c : Crew} (h : c.bad = []) (ofs n : Nat) : c.failAt ofs n = none := by
  simp [Crew.failAt, Crew.fails, h]

theorem MatSide.scratchBad_of_good {c : Crew} (h : c.bad = []) (d : MatSide) (row k0 n : Nat) : d.scratchBad c row k0 n = none := by
  simp [MatSide.scratchBad, Crew.failAt_of_good h]

/-- The rows of a scratch operand: nothing is read outside the crew's scratch. -/
theorem State.matRows_scratch (s : State) (core : Nat) {c : Crew} {d : MatSide} (hc : c.bad = []) (hd : matGlobal d.addr = false) (many : Bool) (k0 n : Nat)
    (rows : List Nat) : s.matRows core c d many k0 n rows = (s, .ok (rows.map fun row => d.scratchRow c row k0 n, 0, none)) := by
  induction rows with
  | nil => rfl
  | cons row rows ih =>
    rw [State.matRows, if_neg (by rw [hd]; exact Bool.false_ne_true), ih, d.scratchBad_of_good hc]
    rfl

theorem State.matUnread_scratch (s : State) (core ctx : Nat) {a b : MatSide} (ha : matGlobal a.addr = false) (hb : matGlobal b.addr = false) (n : Nat) :
    s.matUnread core ctx a b n = s := by
  have hnil {d : MatSide} (h : matGlobal d.addr = false) : s.matTargets core ctx d 0 n = [] := by simp [State.matTargets, h]
  rw [State.matUnread, hnil ha, hnil hb]
  rfl

/-- A k-step over scratch reaches no line of a store that is performed at core scope only. -/
theorem State.matHeld_scratch {s : State} {n : Nat} {m : MatCmd} (hr : (s.core n).running = some m)
    (h : (matFields m.words).op = 2 ∨ (matFields m.words).inScratch) : s.matHeld n = false := by
  have hside : (matFields m.words).op = 2 ∨ (matGlobal ((s.core n).sideA m).addr = false ∧ matGlobal ((s.core n).sideB m).addr = false) :=
    h.imp_right fun h => ⟨h.a, h.b⟩
  simp only [State.matHeld, hr, Option.any_some]
  rcases hside with h2 | ⟨ha, hb⟩
  · simp [h2]
  · simp [ha, hb]

/-! ## The elements -/

/-- The new value of an element of a command's bank in k-step t, with its flags. -/
def FarCore.newElem (k : FarCore) (m : MatCmd) (c : Crew) (t i j : Nat) (old : Lane) : Lane × Flags :=
  let f := matFields m.words
  kElem (decide (f.op = 1) && decide (t = 0)) ((k.sideA m).scratchRow c i (f.step * t) f.step) ((k.sideB m).scratchRow c j (f.step * t) f.step) old

/-- The new values of the bank of a command in its next k-step, row by row, with their flags. -/
def FarCore.newVals (k : FarCore) (m : MatCmd) (c : Crew) : List (Lane × Flags) :=
  let f := matFields m.words
  kStep (f.op == 1 && m.done == 0) ((List.range 128).map fun row => (k.sideB m).scratchRow c row (f.step * m.done) f.step)
    ((List.range 128).map fun row => (k.sideA m).scratchRow c row (f.step * m.done) f.step) (k.bankVals f.bank)

section
variable {k : FarCore} (hk : Cells.wf k.banks = true) (m : MatCmd) (c : Crew)
include hk

theorem FarCore.newVals_length : (k.newVals m c).length = 16384 := by
  rw [FarCore.newVals, kStep_length]
  · rw [List.length_map, List.length_range]
  · rw [List.length_map, List.length_range]
  · rw [k.bankVals_eq hk, List.length_map, List.length_map, List.length_range, List.length_range]

theorem FarCore.newVals_getElem? {i j : Nat} (hi : i < 128) (hj : j < 128) : (k.newVals m c)[128 * i + j]? =
    some (k.newElem m c m.done i j (Cells.get k.banks (16384 * (matFields m.words).bank + (128 * i + j)))) := by
  have hfresh : ((matFields m.words).op == 1 && m.done == 0) = (decide ((matFields m.words).op = 1) && decide (m.done = 0)) := by
    rw [beq_eq_decide, beq_eq_decide]
  rw [FarCore.newVals, FarCore.newElem, hfresh]
  refine kStep_getElem? _ ?_ _ ?_ hj ?_ ?_ ?_
  · rw [List.length_map, List.length_range]
  · rw [k.bankVals_eq hk, List.length_map, List.length_map, List.length_range, List.length_range]
  · rw [List.getElem?_map, List.getElem?_range hi]; rfl
  · rw [List.getElem?_map, List.getElem?_range hj]; rfl
  · rw [k.bankVals_eq hk, List.getElem?_map, List.getElem?_range (by omega)]; rfl

/-- The flags of a k-step are those of its elements. -/
theorem FarCore.newVals_flags (b : Nat) : (orAll ((k.newVals m c).map (·.2))).getLsbD b = true ↔ ∃ i j, i < 128 ∧ j < 128 ∧
    (k.newElem m c m.done i j (Cells.get k.banks (16384 * (matFields m.words).bank + (128 * i + j)))).2.getLsbD b = true := by
  rw [orAll_getLsbD]
  constructor
  · rintro ⟨x, hx, hb⟩
    obtain ⟨e, he, rfl⟩ := List.mem_map.mp hx
    obtain ⟨p, hp, hpe⟩ := List.mem_iff_getElem.mp he
    rw [k.newVals_length hk] at hp
    have h := k.newVals_getElem? hk m c (i := p / 128) (j := p % 128) (by omega) (by omega)
    rw [Nat.div_add_mod, List.getElem?_eq_getElem (by rwa [k.newVals_length hk]), hpe, Option.some.injEq] at h
    refine ⟨p / 128, p % 128, by omega, by omega, ?_⟩
    rwa [Nat.div_add_mod, ← h]
  · rintro ⟨i, j, hi, hj, hb⟩
    exact ⟨_, List.mem_map.mpr ⟨_, List.mem_of_getElem? (k.newVals_getElem? hk m c hi hj), rfl⟩, hb⟩

end

/-! ## The k-step before its boundary -/

/-- A command of which one k-step more is done. -/
def MatCmd.next (m : MatCmd) : MatCmd := { m with done := m.done + 1 }

/-- The core after a k-step of a command. -/
def FarCore.stepped (k : FarCore) (m : MatCmd) (c : Crew) : FarCore :=
  { k.setBank (matFields m.words).bank ((k.newVals m c).map (·.1)) with mat := mapWhere m.named MatCmd.next k.mat }

/-- The state after a k-step of a command, before what its boundary chooses. -/
def State.stepped (s : State) (n : Nat) (m : MatCmd) (c : Crew) : State :=
  let k := s.core n
  let t := (s.setCore (k.setBank (matFields m.words).bank ((k.newVals m c).map (·.1)))).addFlags m.gwn (orAll ((k.newVals m c).map (·.2)) ||| 0 ||| 0)
  t.modMat n m MatCmd.next

section
variable (s : State) (n : Nat) (m : MatCmd) (c : Crew)

theorem State.core_addFlags (g : Nat) (fl : Flags) (n : Nat) : (s.addFlags g fl).core n = s.core n := by
  rw [State.core, State.core, State.addFlags, State.modWave_cores]

theorem State.core_modMat (f : MatCmd → MatCmd) : (s.modMat n m f).core n = { s.core n with mat := mapWhere m.named f (s.core n).mat } :=
  State.core_setCore_same s (k := { s.core n with mat := mapWhere m.named f (s.core n).mat }) (s.core_core n)

theorem State.core_stepped : (s.stepped n m c).core n = (s.core n).stepped m c := by
  have hset : ((s.setCore ((s.core n).setBank (matFields m.words).bank (((s.core n).newVals m c).map (·.1)))).core n) =
      (s.core n).setBank (matFields m.words).bank (((s.core n).newVals m c).map (·.1)) := State.core_setCore_same s (s.core_core n)
  rw [State.stepped, State.core_modMat, State.core_addFlags, hset]
  rfl

theorem State.stepped_store : (s.stepped n m c).store = s.store := State.modWave_store ..

theorem State.stepped_crew? (i : Nat) : (s.stepped n m c).crew? i = s.crew? i := by
  unfold State.crew?
  rw [show (s.stepped n m c).crews = s.crews from State.modWave_crews ..]

theorem State.stepped_ctx? (i : Nat) : (s.stepped n m c).ctx? i = s.ctx? i := State.ctx?_congr (State.modWave_ctxs ..) i

variable {s m} in
theorem State.stepped_wave? {w : Wave} (hw : s.wave? m.gwn = some w) :
    (s.stepped n m c).wave? m.gwn = some (w.orFlags (orAll (((s.core n).newVals m c).map (·.2)) ||| 0 ||| 0)) := by
  have hset : (s.setCore ((s.core n).setBank (matFields m.words).bank (((s.core n).newVals m c).map (·.1)))).wave? m.gwn = some w := hw
  refine (State.wave?_modWave_same _ ?_).trans (by rw [hset]; rfl)
  exact fun _ => rfl

end

/-- Does a k-step read an accumulator element that fails its parity, where every table is sound? -/
theorem FarCore.stepBad_eq {k : FarCore} (h : k.badTables = []) (m : MatCmd) (fresh : Bool) :
    k.stepBad m fresh = (!fresh && k.badBanks.any fun i => i / 16384 == (matFields m.words).bank) := by
  simp [FarCore.stepBad, FarCore.refBad, h]

section
variable {s : State} {n : Nat} {m : MatCmd} {c : Crew} {w : Wave}

theorem State.frozen_congr {s t : State} {w x : Wave} (hc : ∀ i, t.ctx? i = s.ctx? i) (hg : x.gwn = w.gwn) (hx : x.ctx = w.ctx) : t.frozen x = s.frozen w := by
  rw [State.frozen, State.frozen, hg, hx, hc]

theorem State.stopping_of_free (hw : s.wave? m.gwn = some w) (hf : s.frozen w = false) : s.stopping m.gwn = false := by
  simp [State.stopping, hw, hf]

theorem State.crewDown_of_live (hc : s.crew? m.crew = some c) (hl : c.fault = none) : s.crewDown m.crew = false := by
  simp [State.crewDown, hc, hl]

variable (h : MatRuns s n m c w) (hs : (matFields m.words).inScratch)
include h

theorem MatRuns.stepped_frozen : (s.stepped n m c).frozen (w.orFlags (orAll (((s.core n).newVals m c).map (·.2)) ||| 0 ||| 0)) = false :=
  (State.frozen_congr (s.stepped_ctx? n m c) rfl rfl).trans h.free

include hs

/-- A k-step of a running command over scratch: the elements, then the boundary (R260, R262). -/
theorem MatRuns.kStepOf_eq (hb : (s.core n).stepBad m ((matFields m.words).op == 1 && m.done == 0) = false) :
    s.kStepOf n m = if m.done + 1 = (matFields m.words).total then (s.stepped n m c).finishMat n m.next else (s.stepped n m c).chooseAt n m.next := by
  have ha : matGlobal ((s.core n).sideA m).addr = false := hs.a
  have hb' : matGlobal ((s.core n).sideB m).addr = false := hs.b
  have hop : ¬ (matFields m.words).op = 2 := by have := hs.op; omega
  have hdown : (s.stepped n m c).crewDown m.crew = false := State.crewDown_of_live ((s.stepped_crew? n m c _).trans h.crew) h.live
  have hstop : (s.stepped n m c).stopping m.gwn = false := State.stopping_of_free (State.stepped_wave? n c h.wave) h.stepped_frozen
  rw [State.kStepOf, h.crew]
  simp only [if_neg hop, State.matRows_scratch s n h.scratch ha, State.matRows_scratch s n h.scratch hb', State.matUnread_scratch _ n c.ctx ha hb', hb]
  simp only [worse, Bool.false_eq_true, if_false]
  change (if m.done + 1 = (matFields m.words).total then (s.stepped n m c).finishMat n m.next else
    if (s.stepped n m c).crewDown m.crew = true then _ else if (s.stepped n m c).stopping m.gwn = true then _ else (s.stepped n m c).chooseAt n m.next) = _
  rw [hdown, hstop]
  simp only [Bool.false_eq_true, if_false]

/-- A k-step that reads an element of its bank that fails its parity: the command leaves the unit, and the wave's task faults with severity 5 (R263, R355). -/
theorem MatRuns.kStepOf_bad (hb : (s.core n).stepBad m ((matFields m.words).op == 1 && m.done == 0) = true) :
    s.kStepOf n m = (s.dropMat n m).engineFault m.gwn m.crew 0x15 5 0 m.pc := by
  have ha : matGlobal ((s.core n).sideA m).addr = false := hs.a
  have hb' : matGlobal ((s.core n).sideB m).addr = false := hs.b
  have hop : ¬ (matFields m.words).op = 2 := by have := hs.op; omega
  rw [State.kStepOf, h.crew]
  simp only [if_neg hop, State.matRows_scratch s n h.scratch ha, State.matRows_scratch s n h.scratch hb', State.matUnread_scratch _ n c.ctx ha hb', hb]
  rfl

end

end Sys2Proof.Machine
end

section
/-! SUPPORT of O43. Choices of the matrix unit, and the end of a command (R260 to R263, R283). -/

open Sys2Proof
namespace Sys2Proof.Machine

/-! ## Choices (R262) -/

/-- What a choice point changes: how far commands of one core are, never which there are nor how many k-steps of each are done. -/
structure matChosen (n : Nat) (s u : State) : Prop where
  rest : u = { s with cores := u.cores }
  mat : ∃ h : MatCmd → MatCmd, (∀ x, (h x).gwn = x.gwn ∧ (h x).id = x.id ∧ (h x).done = x.done) ∧ u.core n = { s.core n with mat := (s.core n).mat.map h }

namespace matChosen
variable {n : Nat} {s t u : State}

theorem refl (n : Nat) (s : State) : matChosen n s s := ⟨rfl, id, fun _ => ⟨rfl, rfl, rfl⟩, by rw [List.map_id]⟩

theorem trans (h : matChosen n s t) (k : matChosen n t u) : matChosen n s u := by
  obtain ⟨hr, f, hf, hm⟩ := h
  obtain ⟨kr, g, hg, km⟩ := k
  refine ⟨by rw [kr, hr], g ∘ f, fun x => ?_, ?_⟩
  · obtain ⟨h1, h2, h3⟩ := hf x
    obtain ⟨k1, k2, k3⟩ := hg (f x)
    exact ⟨k1.trans h1, k2.trans h2, k3.trans h3⟩
  · rw [km, hm, List.map_map]

theorem modMat (s : State) (n : Nat) (m : MatCmd) {f : MatCmd → MatCmd} (hf : ∀ x, (f x).gwn = x.gwn ∧ (f x).id = x.id ∧ (f x).done = x.done) :
    matChosen n s (s.modMat n m f) := by
  refine ⟨rfl, _, fun x => ?_, s.core_modMat n m f⟩
  split
  · exact hf x
  · exact ⟨rfl, rfl, rfl⟩

theorem startMat (s : State) (n : Nat) (m : MatCmd) : matChosen n s (s.startMat n m) := modMat s n m fun _ => ⟨rfl, rfl, rfl⟩

theorem chooseIdle (s : State) (n : Nat) : matChosen n s (s.chooseIdle n) := by
  unfold State.chooseIdle
  split
  · exact refl n s
  · exact startMat ..

theorem chooseAt (s : State) (n : Nat) (m : MatCmd) : matChosen n s (s.chooseAt n m) := by
  unfold State.chooseAt
  split
  · exact refl n s
  · split
    · exact (modMat s n m (f := fun x => { x with state := 3 }) fun _ => ⟨rfl, rfl, rfl⟩).trans (startMat ..)
    · exact refl n s

/-- What a turn leaves of the running command's k-step, whatever starts then. -/
theorem matTurn {m : MatCmd} (hr : (s.core n).running = some m) (hh : s.matHeld n = false) : matChosen n (s.kStepOf n m) (s.matTurn n) := by
  rw [State.matTurn, if_neg (by rw [hh]; exact Bool.false_ne_true)]
  simp only [hr]
  split
  · exact chooseIdle ..
  · exact refl ..

theorem store (h : matChosen n s u) : u.store = s.store := by rw [h.rest]

theorem wave? (h : matChosen n s u) (g : Nat) : u.wave? g = s.wave? g := by rw [h.rest]; rfl

theorem banks (h : matChosen n s u) : (u.core n).banks = (s.core n).banks := by
  obtain ⟨f, -, hm⟩ := h.mat
  rw [hm]

/-- A command is found as far as it was. -/
theorem find? (h : matChosen n s u) (m : MatCmd) : ((u.core n).mat.find? m.named).map (·.done) = ((s.core n).mat.find? m.named).map (·.done) := by
  obtain ⟨f, hf, hm⟩ := h.mat
  have hname : m.named ∘ f = m.named := by
    funext x
    obtain ⟨h1, h2, -⟩ := hf x
    rw [Function.comp_apply, MatCmd.named, MatCmd.named, h1, h2]
  rw [hm, List.find?_map, hname, Option.map_map]
  congr 1
  funext x
  exact (hf x).2.2

theorem find?_none (h : matChosen n s u) {m : MatCmd} (hm : (s.core n).mat.find? m.named = none) : (u.core n).mat.find? m.named = none := by
  have hf := h.find? m
  rw [hm] at hf
  exact Option.map_eq_none_iff.mp hf

end matChosen

/-! ## Waves that sleep on granules (R152, R156, R261) -/

/-- A wave that the end of a reservation wakes. -/
def Wave.granuleWoken (w : Wave) : Wave :=
  match w.run with
  | .feAsleep i => { w with run := .feWoken i }
  | .asleep => { w with run := .woken none }
  | _ => w

theorem Wave.granuleWoken_touched (w : Wave) : w.touched w.granuleWoken := by
  unfold Wave.granuleWoken
  split
  · next h => exact ⟨rfl, by simp [h], by simp [h]⟩
  · next h => exact ⟨rfl, by simp [h], by simp [h]⟩
  · exact w.touched_refl

theorem Wave.granuleWoken_running {w : Wave} (h : w.run = .running) : w.granuleWoken = w := by
  rw [Wave.granuleWoken, h]

/-- The end of reservations changes sleeping waves alone. -/
theorem State.wakeGranules_waves (s : State) (unit crew : Nat) (gs : List Nat) : ∃ f : Wave → Wave, (∀ w, w.touched (f w) ∧ (w.run = .running → f w = w)) ∧
    s.wakeGranules unit crew gs = { s with me := f s.me, others := s.others.map f } := by
  induction gs generalizing s with
  | nil => exact ⟨id, fun w => ⟨w.touched_refl, fun _ => rfl⟩, by rw [List.map_id]; rfl⟩
  | cons g r ih =>
    obtain ⟨f, hf, heq⟩ := ih (s.wakeGranule unit crew g)
    let p (w : Wave) : Bool := w.tx.granules.contains (granuleKey crew g) || (w.tx.coarseCore && unitOf w.gwn == unit)
    refine ⟨fun w => f (if p w then w.granuleWoken else w), fun w => ?_, heq.trans ?_⟩
    · dsimp only
      split
      · exact ⟨w.granuleWoken_touched.trans (hf _).1, fun h => by rw [Wave.granuleWoken_running h, (hf w).2 h]⟩
      · exact hf w
    · have hstep : s.wakeGranule unit crew g = s.modWaves p Wave.granuleWoken := rfl
      rw [hstep, State.modWaves_me, State.modWaves_others, mapWhere, List.map_map]
      rfl

theorem wavesTouched_touchGranules (s : State) (writer unit crew : Nat) (gs : List Nat) : ∃ f : Wave → Wave, (∀ w : Wave, w.touched (f w)) ∧
    s.touchGranules writer unit crew gs = { s with me := f s.me, others := s.others.map f } := by
  induction gs generalizing s with
  | nil => exact ⟨id, Wave.touched_refl, by rw [List.map_id]; rfl⟩
  | cons g r ih =>
    obtain ⟨f, hf, heq⟩ := ih (s.touchGranule writer unit crew g)
    let p (w : Wave) : Bool := w.gwn != writer && (w.tx.granules.contains (granuleKey crew g) || (w.tx.coarseCore && unitOf w.gwn == unit))
    refine ⟨fun w => f (if p w then w.hit none else w), fun w => ?_, heq.trans ?_⟩
    · dsimp only
      split
      · exact (w.touched_hit none).trans (hf _)
      · exact hf w
    · have hstep : s.touchGranule writer unit crew g = s.modWaves p (Wave.hit none) := rfl
      rw [hstep, State.modWaves_me, State.modWaves_others, mapWhere, List.map_map]
      rfl

/-! ## A command leaves the unit (R260, R261, R283) -/

/-- What a command that leaves the unit leaves of its core. -/
def FarCore.without (k : FarCore) (m : MatCmd) : FarCore := { k with mat := k.mat.filter fun x => !m.named x }

theorem FarCore.find?_without (k : FarCore) (m : MatCmd) : (k.without m).mat.find? m.named = none := by
  rw [List.find?_eq_none]
  intro x hx
  simpa [FarCore.without] using (List.mem_filter.mp hx).2

theorem FarCore.without_lone {k : FarCore} {m x : MatCmd} (h : k.mat = [x]) (hx : m.named x = true) : (k.without m).mat = [] := by
  simp [FarCore.without, h, hx]

section
variable (s : State) (n : Nat) (m : MatCmd)

/-- The waves after a command has left: those that slept on what it had reserved are woken. -/
theorem State.dropMat_eq : ∃ f : Wave → Wave, (∀ w, w.touched (f w) ∧ (w.run = .running → f w = w)) ∧
    s.dropMat n m = { s.setCore ((s.core n).without m) with me := f s.me, others := s.others.map f } :=
  State.wakeGranules_waves (s.setCore ((s.core n).without m)) n m.crew _

theorem State.core_dropMat : (s.dropMat n m).core n = (s.core n).without m := by
  obtain ⟨f, -, h⟩ := s.dropMat_eq n m
  rw [h]
  exact State.core_setCore_same s (k := (s.core n).without m) (s.core_core n)

theorem State.dropMat_store : (s.dropMat n m).store = s.store := by
  obtain ⟨f, -, h⟩ := s.dropMat_eq n m
  rw [h]; rfl

theorem State.dropMat_wave? (g : Nat) : ∃ f : Wave → Wave, (∀ w, w.touched (f w) ∧ (w.run = .running → f w = w)) ∧ (s.dropMat n m).wave? g = (s.wave? g).map f := by
  obtain ⟨f, hf, h⟩ := s.dropMat_eq n m
  refine ⟨f, hf, ?_⟩
  rw [h]
  exact State.wave?_map (fun w => (hf w).1.gwn) rfl rfl g

/-- The state in which a command has left and the granules of its operands in take mode are empty. -/
def State.matTaken (s : State) (n : Nat) (m : MatCmd) : State :=
  (s.dropMat n m).modCrew m.crew fun c => c.setFulls ((matFields m.words).taken.map fun g => (g, false))

theorem State.finishMat_eq : ∃ f : Wave → Wave, (∀ w : Wave, w.touched (f w)) ∧ s.finishMat n m =
    State.modWave { s.setCore ((s.core n).without m) with me := f s.me, others := s.others.map f, crews := (s.matTaken n m).crews } m.gwn (·.slotDown m.slot) := by
  obtain ⟨f, hf, h⟩ := s.dropMat_eq n m
  obtain ⟨g, hg, k⟩ := wavesTouched_touchGranules (s.matTaken n m) noWave n m.crew (matFields m.words).taken
  refine ⟨g ∘ f, fun w => (hf w).1.trans (hg _), ?_⟩
  change ((s.matTaken n m).touchGranules noWave n m.crew (matFields m.words).taken).modWave m.gwn _ = _
  rw [k, ← List.map_map]
  have hme : (s.matTaken n m).me = f s.me := by rw [State.matTaken, State.modCrew_me, h]
  have hothers : (s.matTaken n m).others = s.others.map f := by rw [State.matTaken, State.modCrew_others, h]
  rw [hme, hothers]
  congr 1
  rw [State.matTaken, h]
  rfl

theorem State.core_finishMat : (s.finishMat n m).core n = (s.core n).without m := by
  obtain ⟨f, -, h⟩ := s.finishMat_eq n m
  rw [h]
  refine (State.core_congr (State.modWave_cores ..) n).trans ?_
  exact State.core_setCore_same s (k := (s.core n).without m) (s.core_core n)

theorem State.finishMat_store : (s.finishMat n m).store = s.store := by
  obtain ⟨f, -, h⟩ := s.finishMat_eq n m
  rw [h, State.modWave_store]
  rfl

/-- The wave of a command that completes keeps its flags. -/
theorem State.finishMat_flags {w : Wave} (hw : s.wave? m.gwn = some w) : ∃ x, (s.finishMat n m).wave? m.gwn = some x ∧ x.flags = w.flags := by
  obtain ⟨f, hf, h⟩ := s.finishMat_eq n m
  rw [h, State.wave?_modWave_same _ fun w => Wave.slotDown_gwn ..]
  rw [State.wave?_map (s := s) (fun w => (hf w).gwn) rfl rfl, hw]
  refine ⟨_, rfl, ?_⟩
  rw [Wave.slotDown_flags, (hf w).1]

end
end Sys2Proof.Machine
end

section
/-! SUPPORT and O43. What turns of the matrix unit leave of a running command over scratch, and of a ZERO (R93, R94, R260, R262, R263, R355). -/

open Sys2Proof
namespace Sys2Proof.Machine

section
variable {s u : State} {n : Nat} {m : MatCmd} {c : Crew} {w : Wave}

/-! ## One turn -/

/-- The bank of a command after a k-step: each element is the new one, and no other bank changes (R260). -/
structure matStepped (s u : State) (n : Nat) (m : MatCmd) (c : Crew) : Prop where
  store : u.store = s.store
  inside : ∀ i j, i < 128 → j < 128 → Cells.get (u.core n).banks (16384 * (matFields m.words).bank + 128 * i + j) =
    ((s.core n).newElem m c m.done i j (Cells.get (s.core n).banks (16384 * (matFields m.words).bank + 128 * i + j))).1
  outside : ∀ i, (i < 16384 * (matFields m.words).bank ∨ 16384 * (matFields m.words).bank + 16384 ≤ i) → Cells.get (u.core n).banks i = Cells.get (s.core n).banks i

theorem matStepped.of_banks {t : State} (h : matStepped s t n m c) (hs : u.store = t.store) (hb : (u.core n).banks = (t.core n).banks) : matStepped s u n m c :=
  ⟨hs.trans h.store, by rw [hb]; exact h.inside, by rw [hb]; exact h.outside⟩

theorem matStepped_stepped (hk : Cells.wf (s.core n).banks = true) (m : MatCmd) (c : Crew) : matStepped s (s.stepped n m c) n m c := by
  refine ⟨s.stepped_store n m c, fun i j hi hj => ?_, fun i hi => ?_⟩
  · rw [s.core_stepped n m c, Nat.add_assoc]
    refine FarCore.get_setBank_in hk _ ?_
    rw [List.getElem?_map, FarCore.newVals_getElem? hk m c hi hj]
    rfl
  · rw [s.core_stepped n m c]
    exact FarCore.get_setBank_out hk _ (by rw [List.length_map, FarCore.newVals_length hk]) hi

theorem MatCmd.named_self (m : MatCmd) : m.named m = true := by simp [MatCmd.named]

/-- The command after its k-step, where it still stands in the list. -/
theorem MatRuns.find?_stepped (h : MatRuns s n m c w) : ((s.stepped n m c).core n).mat.find? m.named = some m.next := by
  rw [s.core_stepped n m c]
  change (mapWhere m.named MatCmd.next (s.core n).mat).find? m.named = _
  rw [find?_mapWhere (f := MatCmd.next) fun _ _ => rfl, h.found, Option.map_some, if_pos m.named_self]

/-- No element of the command's bank fails its parity. -/
def MatCmd.bankGood (m : MatCmd) (k : FarCore) : Prop := ∀ i ∈ k.badBanks, i / 16384 ≠ (matFields m.words).bank

theorem MatRuns.stepBad_of_good (h : MatRuns s n m c w) (hb : m.bankGood (s.core n)) (fresh : Bool) : (s.core n).stepBad m fresh = false := by
  rw [FarCore.stepBad_eq h.tables, Bool.and_eq_false_imp]
  intro _
  rw [List.any_eq_false]
  exact fun i hi => by simpa using hb i hi

/-- A turn of the unit: the k-step, and what its boundary leaves of the command and of its wave's flags. -/
theorem MatRuns.matTurn (h : MatRuns s n m c w) (hs : (matFields m.words).inScratch) (hb : m.bankGood (s.core n)) : matStepped s (s.matTurn n) n m c ∧
    (m.done + 1 < (matFields m.words).total → (((s.matTurn n).core n).mat.find? m.named).map (·.done) = some (m.done + 1)) ∧
    (m.done + 1 = (matFields m.words).total → ((s.matTurn n).core n).mat.find? m.named = none) ∧
    ∃ x, (s.matTurn n).wave? m.gwn = some x ∧ x.flags = w.flags ||| (orAll (((s.core n).newVals m c).map (·.2)) ||| 0 ||| 0) := by
  have hturn := matChosen.matTurn h.running (State.matHeld_scratch h.running (.inr hs))
  have hstep := matStepped_stepped h.banks m c
  have hwave := State.stepped_wave? n c h.wave
  rw [h.kStepOf_eq hs (h.stepBad_of_good hb _)] at hturn
  by_cases hlast : m.done + 1 = (matFields m.words).total
  · rw [if_pos hlast] at hturn
    have hcore := (s.stepped n m c).core_finishMat n m.next
    obtain ⟨x, hx, hxf⟩ := (s.stepped n m c).finishMat_flags n m.next hwave
    refine ⟨hstep.of_banks ?_ ?_, fun hlt => absurd hlast (by omega), fun _ => hturn.find?_none ?_, x, ?_, hxf⟩
    · rw [hturn.store, State.finishMat_store]
    · rw [hturn.banks, hcore]; rfl
    · rw [hcore]; exact FarCore.find?_without _ m.next
    · rw [hturn.wave?]; exact hx
  · rw [if_neg hlast] at hturn
    have hall := (matChosen.chooseAt (s.stepped n m c) n m.next).trans hturn
    refine ⟨hstep.of_banks hall.store hall.banks, fun _ => ?_, fun heq => absurd heq hlast, _, (hall.wave? _).trans hwave, rfl⟩
    rw [hall.find? m, h.find?_stepped]
    rfl

/-! ## A command alone on its unit (log entry 57) -/

theorem State.candidates_lone (hm : (s.core n).mat = [m]) (h2 : m.state = 2) : s.candidates n = [] := by
  simp [State.candidates, hm, h2]

theorem MatRuns.state_eq (h : MatRuns s n m c w) : m.state = 2 := by
  have := List.find?_some h.running
  simpa using this

theorem State.mat_stepped_lone (hm : (s.core n).mat = [m]) (c : Crew) : ((s.stepped n m c).core n).mat = [m.next] := by
  rw [s.core_stepped n m c]
  change mapWhere m.named MatCmd.next (s.core n).mat = _
  rw [hm, mapWhere, List.map_singleton, if_pos m.named_self]

/-- After a k-step the command runs on as it did. -/
theorem MatRuns.next (h : MatRuns s n m c w) (hm : (s.core n).mat = [m]) :
    MatRuns (s.stepped n m c) n m.next c (w.orFlags (orAll (((s.core n).newVals m c).map (·.2)) ||| 0 ||| 0)) where
  running := by
    rw [FarCore.running, State.mat_stepped_lone hm]
    simp [MatCmd.next, h.state_eq]
  found := h.find?_stepped
  crew := (s.stepped_crew? n m c _).trans h.crew
  live := h.live
  wave := State.stepped_wave? n c h.wave
  free := h.stepped_frozen
  banks := by rw [s.core_stepped n m c]; exact Cells.wf_putDense _ _ _ h.banks
  tables := by rw [s.core_stepped n m c]; exact h.tables
  scratch := h.scratch

/-- A turn that is not the last is the k-step alone. -/
theorem MatRuns.matTurn_lone (h : MatRuns s n m c w) (hs : (matFields m.words).inScratch) (hb : m.bankGood (s.core n)) (hm : (s.core n).mat = [m])
    (hlt : m.done + 1 < (matFields m.words).total) : s.matTurn n = s.stepped n m c := by
  have hnext := h.next hm
  have hstep : s.kStepOf n m = s.stepped n m c := by
    rw [h.kStepOf_eq hs (h.stepBad_of_good hb _), if_neg (by omega), State.chooseAt, State.candidates_lone (State.mat_stepped_lone hm c) hnext.state_eq]
    rfl
  rw [State.matTurn, if_neg (by rw [State.matHeld_scratch h.running (.inr hs)]; exact Bool.false_ne_true)]
  simp only [h.running, hstep, hnext.running]
  rfl

/-- The last turn leaves the unit idle. -/
theorem MatRuns.matTurn_last (h : MatRuns s n m c w) (hs : (matFields m.words).inScratch) (hb : m.bankGood (s.core n)) (hm : (s.core n).mat = [m])
    (hlast : m.done + 1 = (matFields m.words).total) : ((s.matTurn n).core n).mat = [] := by
  obtain ⟨-, f, -, hmat⟩ := matChosen.matTurn h.running (State.matHeld_scratch h.running (.inr hs))
  rw [hmat, h.kStepOf_eq hs (h.stepBad_of_good hb _), if_pos hlast, State.core_finishMat]
  change (((s.stepped n m c).core n).without m.next).mat.map f = []
  rw [FarCore.without_lone (State.mat_stepped_lone hm c) m.next.named_self, List.map_nil]

theorem State.matUntil_idle (hm : (s.core n).mat = []) (m : MatCmd) (fuel : Nat) : State.matUntil n m fuel s = s := by
  cases fuel with
  | zero => rfl
  | succ fuel => rw [State.matUntil, hm]; rfl

/-- The new elements of a k-step rest on the operands, which no k-step changes. -/
theorem FarCore.newElem_stepped (k : FarCore) (m : MatCmd) (c : Crew) : (k.stepped m c).newElem m.next c = k.newElem m c := rfl

/-- The bank of a command that runs alone until it ends: every k-step that remains, in order. -/
structure matDone (s u : State) (n : Nat) (m : MatCmd) (c : Crew) : Prop where
  store : u.store = s.store
  mat : (u.core n).mat = []
  inside : ∀ i j, i < 128 → j < 128 → Cells.get (u.core n).banks (16384 * (matFields m.words).bank + 128 * i + j) =
    (List.range ((matFields m.words).total - m.done)).foldl (fun old t => ((s.core n).newElem m c (m.done + t) i j old).1)
      (Cells.get (s.core n).banks (16384 * (matFields m.words).bank + 128 * i + j))
  outside : ∀ i, (i < 16384 * (matFields m.words).bank ∨ 16384 * (matFields m.words).bank + 16384 ≤ i) → Cells.get (u.core n).banks i = Cells.get (s.core n).banks i

/-- One k-step that is the last. -/
theorem matDone_of_last (h : matStepped s u n m c) (hm : (u.core n).mat = []) (hlast : m.done + 1 = (matFields m.words).total) : matDone s u n m c := by
  refine ⟨h.store, hm, fun i j hi hj => ?_, h.outside⟩
  rw [h.inside i j hi hj, show (matFields m.words).total - m.done = 1 by omega]
  rfl

/-- One k-step, and then those that remain. -/
theorem matDone_of_next (hk : Cells.wf (s.core n).banks = true) (h : matDone (s.stepped n m c) u n m.next c) (hlt : m.done < (matFields m.words).total) :
    matDone s u n m c := by
  have hstep := matStepped_stepped hk m c
  refine ⟨h.store.trans hstep.store, h.mat, fun i j hi hj => ?_, fun i hi => (h.outside i hi).trans (hstep.outside i hi)⟩
  have hin := h.inside i j hi hj
  rw [show (matFields m.next.words).bank = (matFields m.words).bank from rfl, hstep.inside i j hi hj, s.core_stepped n m c, FarCore.newElem_stepped,
    show m.next.done = m.done + 1 from rfl, show (matFields m.next.words).total = (matFields m.words).total from rfl] at hin
  rw [hin, show (matFields m.words).total - m.done = (matFields m.words).total - (m.done + 1) + 1 by omega, List.range_succ_eq_map, List.foldl_cons, List.foldl_map]
  congr 1
  funext old t
  rw [show m.done + 1 + t = m.done + t.succ by omega]

/-- R260: a command alone on its unit runs k-step by k-step to its end. -/
theorem MatRuns.matUntil (fuel : Nat) {m₀ : MatCmd} (h : MatRuns s n m c w) (hs : (matFields m.words).inScratch) (hb : m.bankGood (s.core n))
    (hm : (s.core n).mat = [m]) (hlt : m.done < (matFields m.words).total) (hid : m₀.named = m.named) (hfuel : (matFields m.words).total - m.done ≤ fuel) :
    matDone s (State.matUntil n m₀ fuel s) n m c := by
  induction fuel generalizing s m w with
  | zero => omega
  | succ fuel ih =>
    have hfound : (s.core n).mat.find? (fun x => x.gwn == m₀.gwn && x.id == m₀.id) = some m := by
      change (s.core n).mat.find? m₀.named = some m
      rw [hid, h.found]
    have hstep : State.matUntil n m₀ (fuel + 1) s = State.matUntil n m₀ fuel (s.matTurn n) := by
      rw [State.matUntil]
      simp only [hfound, h.state_eq]
      rfl
    rw [hstep]
    by_cases hlast : m.done + 1 = (matFields m.words).total
    · have hidle := h.matTurn_last hs hb hm hlast
      rw [State.matUntil_idle hidle]
      exact matDone_of_last (h.matTurn hs hb).1 hidle hlast
    · rw [h.matTurn_lone hs hb hm (by omega)]
      refine matDone_of_next h.banks (ih (h.next hm) hs ?_ (State.mat_stepped_lone hm c) ?_ hid ?_) hlt
      · rw [s.core_stepped n m c]
        exact fun i hi => hb i (List.mem_filter.mp hi).1
      · exact (show m.done + 1 < (matFields m.words).total by omega)
      · exact (show (matFields m.words).total - (m.done + 1) ≤ fuel by omega)

/-- A command that runs is run on by the instruction of its operation. -/
theorem State.matRun_of_running (hr : (s.core n).running = some m) {op : Nat} (hop : (matFields m.words).op = op) :
    s.matRun n op = State.matUntil n m (((s.core n).mat.map fun x => (matFields x.words).total + 2).foldl (· + ·) 0) s := by
  have hidle : (if (s.core n).running.isNone then s.chooseIdle n else s) = s := by rw [hr]; rfl
  rw [State.matRun]
  simp only [hidle]
  simp only [hr, if_pos hop]

/-! ## ZERO (R260) -/

/-- The instruction of an operation has turns for more than one k-step of each command. -/
theorem le_fuel {l : List MatCmd} (h : m ∈ l) : (matFields m.words).total + 2 ≤ (l.map fun x => (matFields x.words).total + 2).foldl (· + ·) 0 := by
  rw [← List.sum_eq_foldl]
  exact List.le_sum_of_mem (List.mem_map_of_mem h)

theorem State.matUntil_gone (h : (s.core n).mat.find? m.named = none) (fuel : Nat) : State.matUntil n m fuel s = s := by
  cases fuel with
  | zero => rfl
  | succ fuel =>
    have hnone : (s.core n).mat.find? (fun x => x.gwn == m.gwn && x.id == m.id) = none := h
    rw [State.matUntil]
    simp only [hnone]

/-- The instruction of an operation whose command ends with one turn. -/
theorem MatRuns.matRun_of_gone (h : MatRuns s n m c w) {op : Nat} (hop : (matFields m.words).op = op) (hgone : ((s.matTurn n).core n).mat.find? m.named = none) :
    s.matRun n op = s.matTurn n := by
  have hle := le_fuel (List.mem_of_find?_eq_some h.found)
  rw [State.matRun_of_running h.running hop]
  obtain ⟨fuel, hfuel⟩ := Nat.exists_eq_add_of_le' (show 1 ≤ _ from Nat.le_trans (by omega) hle)
  have hfound : (s.core n).mat.find? (fun x => x.gwn == m.gwn && x.id == m.id) = some m := h.found
  rw [hfuel, State.matUntil]
  simp only [hfound, h.state_eq]
  exact State.matUntil_gone hgone fuel

/-- A ZERO that runs: its bank is zero, and the command has left. -/
theorem MatRuns.matZero (h : MatRuns s n m c w) (hop : (matFields m.words).op = 2) : (s.matRun n 2).store = s.store ∧
    (((s.matRun n 2).core n).mat.find? m.named = none) ∧
    ((s.matRun n 2).core n).banks = ((s.core n).setBank (matFields m.words).bank (List.replicate 16384 0)).banks := by
  let t := s.setCore ((s.core n).setBank (matFields m.words).bank (List.replicate 16384 0))
  have hturn := matChosen.matTurn h.running (State.matHeld_scratch h.running (.inl hop))
  have hstep : s.kStepOf n m = t.finishMat n m := by
    rw [State.kStepOf, h.crew]
    exact if_pos hop
  have hcore : t.core n = (s.core n).setBank (matFields m.words).bank (List.replicate 16384 0) := State.core_setCore_same s (s.core_core n)
  rw [hstep] at hturn
  have hgone : ((s.matTurn n).core n).mat.find? m.named = none := hturn.find?_none (by rw [State.core_finishMat]; exact FarCore.find?_without _ m)
  rw [h.matRun_of_gone hop hgone]
  refine ⟨?_, hgone, ?_⟩
  · rw [hturn.store, State.finishMat_store]; rfl
  · rw [hturn.banks, State.core_finishMat, ← hcore]; rfl

/-! ## An element that fails its parity (R263, R355) -/

/-- A k-step that reads such an element: the wave is due to fault, and the command has left. -/
theorem MatRuns.matTurn_bad (h : MatRuns s n m c w) (hs : (matFields m.words).inScratch) (hfresh : ¬ ((matFields m.words).op = 1 ∧ m.done = 0))
    (hbad : ∃ i ∈ (s.core n).badBanks, i / 16384 = (matFields m.words).bank) (hw : w.run = .running) : (s.matTurn n).store = s.store ∧
    ((s.matTurn n).core n).banks = (s.core n).banks ∧ (s.matTurn n).wave? m.gwn = some { w with dueFault := some ⟨0x15, 5, m.pc, 0⟩ } ∧
    ((s.matTurn n).core n).mat.find? m.named = none := by
  have hturn := matChosen.matTurn h.running (State.matHeld_scratch h.running (.inr hs))
  obtain ⟨f, hf, hdrop⟩ := s.dropMat_wave? n m m.gwn
  rw [h.wave, Option.map_some, (hf w).2 hw] at hdrop
  have hstep : s.kStepOf n m = (s.dropMat n m).modWave m.gwn fun w => { w with dueFault := some ⟨0x15, 5, m.pc, 0⟩ } := by
    rw [h.kStepOf_bad hs]
    · simp [State.engineFault, hdrop, hw]
    · rw [FarCore.stepBad_eq h.tables]
      rw [Bool.and_eq_true, List.any_eq_true]
      obtain ⟨i, hi, hbank⟩ := hbad
      refine ⟨by simpa [-not_and, Decidable.not_and_iff_or_not] using hfresh, i, hi, ?_⟩
      rw [hbank, beq_self_eq_true]
  have hcore : ((s.kStepOf n m).core n) = (s.core n).without m := by
    rw [hstep, State.core_congr (State.modWave_cores ..), State.core_dropMat]
  refine ⟨?_, ?_, ?_, hturn.find?_none (by rw [hcore]; exact FarCore.find?_without _ m)⟩
  · rw [hturn.store, hstep, State.modWave_store, State.dropMat_store]
  · rw [hturn.banks, hcore]; rfl
  · refine (hturn.wave? _).trans ?_
    rw [hstep]
    refine (State.wave?_modWave_same _ ?_).trans (by rw [hdrop]; rfl)
    exact fun _ => rfl

end

/-- Settles O43: the exact sum, one turn of the unit, and by induction on the k-steps that remain a command alone on it. -/
theorem matrixUnit : Obligations.MatrixUnit := by
  refine ⟨fun a b => ratOf_kSum, ?_⟩
  intro s n m c w k f hrun hfound hcrew hlive hwave hfree hbanks htables hscratch el sum others
  have h : MatRuns s n m c w := ⟨hrun, hfound, hcrew, hlive, hwave, hfree, hbanks, htables, hscratch⟩
  refine ⟨fun hop => ?_, fun hop hfresh ha hb hbad hrunning => ?_, fun hop ha hb hlt hgood => ?_⟩
  · obtain ⟨hstore, hgone, hel⟩ := h.matZero hop
    refine ⟨_, rfl, fun i hi => ?_, ⟨fun i hi => ?_, hstore⟩, hgone⟩
    · dsimp only [el]
      rw [hel]
      exact FarCore.get_setBank_in hbanks _ (by rw [List.getElem?_replicate, if_pos hi])
    · dsimp only [el]
      rw [hel]
      exact FarCore.get_setBank_out hbanks _ List.length_replicate hi
  · obtain ⟨hstore, hel, hdue, hgone⟩ := h.matTurn_bad ⟨hop, ha, hb⟩ hfresh hbad hrunning
    exact ⟨_, rfl, fun i => by dsimp only [el]; rw [hel], hstore, hdue, hgone⟩
  · have hs : (matFields m.words).inScratch := ⟨hop, ha, hb⟩
    refine ⟨?_, fun hm => ?_⟩
    · obtain ⟨hstep, hmore, hlast, x, hx, hxf⟩ := h.matTurn hs hgood
      refine ⟨_, rfl, ⟨hstep.outside, hstep.store⟩, hstep.inside, hmore, hlast, x, hx, fun b _ => ?_⟩
      rw [hxf, show ∀ v : Flags, v ||| 0 ||| 0 = v from fun v => by simp, BitVec.getLsbD_or, Bool.or_eq_true, FarCore.newVals_flags hbanks m c]
      simp only [Nat.add_assoc]
      exact Iff.rfl
    · have hexec : exec (if f.op = 0 then .matrixMma n else .matrixMmaz n) s = .next (s.matRun n f.op) := by
        split
        · next h0 => rw [h0]; rfl
        · next h0 => rw [show f.op = 1 by omega]; rfl
      have hdone : matDone s (s.matRun n f.op) n m c := by
        rw [State.matRun_of_running hrun rfl]
        exact h.matUntil _ hs hgood hm hlt rfl (Nat.le_trans (by omega) (le_fuel (List.mem_of_find?_eq_some hfound)))
      exact ⟨_, hexec, ⟨hdone.outside, hdone.store⟩, hdone.mat, hdone.inside⟩

end Sys2Proof.Machine
end

section
/-! SUPPORT of O45. Bytes and numbers, and what runs of scratch hold (R4, R98). -/

open Sys2Proof
namespace Sys2Proof.Machine

/-! ## Bytes of a number (R4) -/

theorem toBytes_succ (n x : Nat) : toBytes (n + 1) x = BitVec.ofNat 8 x :: toBytes n (x / 256) := by
  rw [toBytes, List.range_succ_eq_map, List.map_cons, List.map_map, toBytes]
  refine congrArg₂ _ rfl (List.map_congr_left fun i _ => ?_)
  rw [Function.comp_apply, Nat.shiftRight_eq_div_pow, Nat.shiftRight_eq_div_pow, Nat.div_div_eq_div_mul, Nat.mul_succ, Nat.add_comm, Nat.pow_add]

@[simp] theorem length_toBytes (n x : Nat) : (toBytes n x).length = n := by rw [toBytes, List.length_map, List.length_range]

theorem ofBytes_toBytes (n x : Nat) : ofBytes (toBytes n x) = x % 2 ^ (8 * n) := by
  induction n generalizing x with
  | zero => rw [Nat.mul_zero, Nat.pow_zero, Nat.mod_one]; rfl
  | succ n ih =>
    rw [toBytes_succ, ofBytes, ih, BitVec.toNat_ofNat, Nat.mul_succ, Nat.add_comm (8 * n) 8, Nat.pow_add, Nat.mod_mul]

theorem toBytes_ofBytes (l : List Byte) : toBytes l.length (ofBytes l) = l := by
  induction l with
  | nil => rfl
  | cons b l ih =>
    have hb := b.isLt
    rw [List.length_cons, toBytes_succ, ofBytes, show (b.toNat + 256 * ofBytes l) / 256 = ofBytes l by omega, ih]
    congr 1
    apply BitVec.eq_of_toNat_eq
    rw [BitVec.toNat_ofNat]
    omega

theorem ofBytes_drop (l : List Byte) (n : Nat) : ofBytes (l.drop n) = ofBytes l / 2 ^ (8 * n) := by
  induction n generalizing l with
  | zero => simp
  | succ n ih =>
    cases l with
    | nil => simp [ofBytes]
    | cons b l =>
      have hb := b.isLt
      rw [List.drop_succ_cons, ih, ofBytes, Nat.mul_succ, Nat.add_comm (8 * n) 8, Nat.pow_add, ← Nat.div_div_eq_div_mul,
        show (b.toNat + 256 * ofBytes l) / 2 ^ 8 = ofBytes l by omega]

theorem ofBytes_take (l : List Byte) (n : Nat) : ofBytes (l.take n) = ofBytes l % 2 ^ (8 * n) := by
  induction n generalizing l with
  | zero => simp [ofBytes, Nat.mod_one]
  | succ n ih =>
    cases l with
    | nil => simp [ofBytes]
    | cons b l =>
      have hb := b.isLt
      rw [List.take_succ_cons, ofBytes, ih, ofBytes, Nat.mul_succ, Nat.add_comm (8 * n) 8, Nat.pow_add, Nat.mod_mul,
        show (b.toNat + 256 * ofBytes l) % 2 ^ 8 = b.toNat by omega, show (b.toNat + 256 * ofBytes l) / 2 ^ 8 = ofBytes l by omega]

/-- Some bits of a number are those of some of its bytes. -/
theorem bits_ofBytes (l : List Byte) (a b : Nat) : bits (ofBytes l) (8 * a) (8 * b) = ofBytes ((l.drop a).take b) := by
  rw [ofBytes_take, ofBytes_drop, bits, Nat.shiftRight_eq_div_pow]

/-- Pieces of equal length, one after the other. -/
theorem take_drop_flatMap {α β : Type} {g : α → List β} {k : Nat} (hg : ∀ a, (g a).length = k) (l : List α) {j : Nat} {a : α} (hj : l[j]? = some a) :
    ((l.flatMap g).drop (k * j)).take k = g a := by
  induction l generalizing j with
  | nil => simp at hj
  | cons x r ih =>
    cases j with
    | zero =>
      rw [List.getElem?_cons_zero, Option.some.injEq] at hj
      rw [List.flatMap_cons, Nat.mul_zero, List.drop_zero, hj, ← hg a, List.take_left]
    | succ j =>
      rw [List.getElem?_cons_succ] at hj
      rw [List.flatMap_cons, Nat.mul_succ, Nat.add_comm, ← List.drop_drop, ← hg x, List.drop_left, hg x, ih hj]

theorem length_flatMap_const {α β : Type} {g : α → List β} {k : Nat} (hg : ∀ a, (g a).length = k) (l : List α) : (l.flatMap g).length = k * l.length := by
  induction l with
  | nil => rfl
  | cons x r ih => rw [List.flatMap_cons, List.length_append, hg, ih, List.length_cons, Nat.mul_succ, Nat.add_comm]

/-! ## Runs of scratch (R98) -/

@[simp] theorem Cells.length_range {w : Nat} (c : Cells w) (k n : Nat) : (Cells.range c k n).length = n := by rw [Cells.range, List.length_map, List.length_range]

theorem Cells.range_append {w : Nat} (c : Cells w) (k m n : Nat) : Cells.range c k m ++ Cells.range c (k + m) n = Cells.range c k (m + n) := by
  simp only [Cells.range, List.range_add, List.map_append, List.map_map]
  congr 2
  funext i
  rw [Function.comp_apply, Nat.add_assoc]

theorem Cells.take_drop_range {w : Nat} (c : Cells w) (k : Nat) {n a b : Nat} (h : a + b ≤ n) : ((Cells.range c k n).drop a).take b = Cells.range c (k + a) b := by
  obtain ⟨d, rfl⟩ := Nat.exists_eq_add_of_le h
  rw [Nat.add_assoc, ← Cells.range_append, List.drop_left' (Cells.length_range ..), ← Cells.range_append, List.take_left' (Cells.length_range ..)]

theorem Crew.toBytes_read (c : Crew) (ofs n : Nat) : toBytes n (c.read ofs n) = Cells.range c.scratch ofs n := by
  have h := toBytes_ofBytes (Cells.range c.scratch ofs n)
  rwa [Cells.length_range] at h

/-- Some bits of a run of scratch are those of some of its bytes. -/
theorem Crew.bits_range (c : Crew) (ofs : Nat) {n a b : Nat} (h : a + b ≤ n) : bits (ofBytes (Cells.range c.scratch ofs n)) (8 * a) (8 * b) = c.read (ofs + a) b := by
  rw [bits_ofBytes, Cells.take_drop_range _ _ h, Crew.read]

/-- What a read finds where bytes have been written. -/
theorem Crew.read_write {c : Crew} (hc : Cells.wf c.scratch = true) (ofs : Nat) (bs : List Byte) {a b : Nat} (h : a + b ≤ bs.length) :
    (c.write ofs bs.length (ofBytes bs)).read (ofs + a) b = ofBytes ((bs.drop a).take b) := by
  rw [Crew.read, Crew.write]
  congr 1
  apply List.ext_getElem?
  intro i
  rw [toBytes_ofBytes, Cells.range, List.getElem?_map, List.getElem?_take]
  by_cases hi : i < b
  · rw [List.getElem?_range hi, if_pos hi, List.getElem?_drop, Option.map_some, Cells.get_setRange _ _ _ _ hc, if_pos (by omega),
      show ofs + a + i - ofs = a + i by omega, List.getElem?_eq_getElem (by omega)]
    rfl
  · rw [if_neg hi, List.getElem?_eq_none (by simpa using hi)]
    rfl

end Sys2Proof.Machine
end

section
/-! SUPPORT of O45. Blocks of states at whose homes the same is stored, and turns of the lighter where one command alone has started (R97, R269, R316, R350). -/

open Sys2Proof
namespace Sys2Proof.Machine

/-! ## Blocks (R76, R350) -/

namespace sameHomes
variable {s t u : State}

theorem refl (s : State) : sameHomes s s := ⟨rfl, rfl, rfl⟩

theorem trans (h : sameHomes s t) (k : sameHomes t u) : sameHomes s u := by
  obtain ⟨h1, h2, h3⟩ := h
  obtain ⟨k1, k2, k3⟩ := k
  exact ⟨k1.trans h1, k2.trans h2, k3.trans h3⟩

theorem of_memRead (h : memRead s t) : sameHomes s t := ⟨by rw [h], by rw [h], by rw [h]⟩

theorem setCore (s : State) (k : FarCore) : sameHomes s (s.setCore k) := ⟨rfl, rfl, rfl⟩

theorem addFlags (s : State) (g : Nat) (fl : Flags) : sameHomes s (s.addFlags g fl) := ⟨State.modWave_store .., State.modWave_berths .., by rw [State.addFlags, State.modWave_out]⟩

theorem decodeLine (h : sameHomes s t) (line code : Nat) : t.decodeLine line code = s.decodeLine line code := by
  simp only [State.decodeLine, h.codeAt, h.1]

theorem blockGroups (h : sameHomes s t) (at_ code j n : Nat) : t.blockGroups at_ code j n = s.blockGroups at_ code j n := by
  simp only [State.blockGroups, h.decodeLine, h.codeAt]

theorem readBlock (h : sameHomes s t) (many : Bool) (at_ code pol j n : Nat) : t.readBlock many at_ code pol j n = s.readBlock many at_ code pol j n := by
  simp only [State.readBlock, h.decodeLine, h.codeAt]

theorem blockScale (h : sameHomes s t) (at_ code : Nat) : t.blockScale at_ code = s.blockScale at_ code := by
  simp only [State.blockScale, h.decodeLine, h.codeAt]

theorem foldl {α : Type} {f : State → α → State} (hf : ∀ {s t}, sameHomes s t → ∀ a, sameHomes (f s a) (f t a)) (l : List α) (h : sameHomes s t) :
    sameHomes (l.foldl f s) (l.foldl f t) := by
  induction l generalizing s t with
  | nil => exact h
  | cons a r ih => exact ih (hf h a)

theorem homeWrites (h : sameHomes s t) (writer : Nat) (l : List LineWrite) : sameHomes (s.homeWrites writer l) (t.homeWrites writer l) := by
  unfold State.homeWrites
  refine foldl ?_ _ h
  intro s t h a
  exact h.homeWrite _ _ _ _ _ _

theorem writeBlock (h : sameHomes s t) (writer at_ code field scale : Nat) : sameHomes (s.writeBlock writer at_ code field scale) (t.writeBlock writer at_ code field scale) := by
  unfold State.writeBlock
  refine foldl ?_ _ h
  intro s t h a
  exact h.homeWrite _ _ _ _ _ _

theorem viewFrom_setCore (s : State) (k : FarCore) (die : Nat) (x : Target) : sameHomes (s.viewFrom die x) ((s.setCore k).viewFrom die x) := by
  unfold State.viewFrom
  rw [show (s.setCore k).copied die x = s.copied die x from rfl]
  split <;> exact ⟨rfl, rfl, rfl⟩

end sameHomes

theorem homed.writeBlock (s : State) (writer at_ code field scale : Nat) : homed s (s.writeBlock writer at_ code field scale) :=
  homed.foldl (fun _ _ => homed.homeWrite ..) _ s

/-! ## One started command (R269, R316) -/

/-- The test that finds a command in a core's list. -/
def LitCmd.named (l x : LitCmd) : Bool := x.gwn == l.gwn && x.id == l.id

theorem LitCmd.named_self (l : LitCmd) : l.named l = true := by simp [LitCmd.named]

/-- One started command stands alone on a core, and no store performed at core scope only holds a turn back (R120, R121). -/
structure LitLone (s : State) (n : Nat) (l : LitCmd) : Prop where
  listed : l ∈ (s.core n).lit
  started : l.started = true
  only : ∀ x ∈ (s.core n).lit, x.started = true → x = l
  keys : s.coreKeys n = []

/-- The core after a turn has begun: turns pass on (R316). -/
def State.turned (s : State) (n : Nat) (l : LitCmd) : State := s.setCore { s.core n with lastTurn := slotOf l.gwn + 1 }

section
variable {s t : State} {n : Nat} {l : LitCmd}

theorem State.core_turned (s : State) (n : Nat) (l : LitCmd) : (s.turned n l).core n = { s.core n with lastTurn := slotOf l.gwn + 1 } :=
  State.core_setCore_same s (k := { s.core n with lastTurn := slotOf l.gwn + 1 }) (s.core_core n)

namespace LitLone

theorem of_eq (h : LitLone s n l) (hl : (t.core n).lit = (s.core n).lit) (hk : t.coreKeys n = s.coreKeys n) : LitLone t n l :=
  ⟨by rw [hl]; exact h.listed, h.started, by rw [hl]; exact h.only, hk.trans h.keys⟩

theorem turned (h : LitLone s n l) : LitLone (s.turned n l) n l := h.of_eq (by rw [State.core_turned]) rfl

/-- The command takes every turn (R316). -/
theorem nextTurn (h : LitLone s n l) : (s.core n).nextTurn = some l := by
  unfold FarCore.nextTurn
  extract_lets started slots after least
  have hmem : l ∈ started := List.mem_filter.mpr ⟨h.listed, h.started⟩
  have hall : ∀ x ∈ started, x = l := fun x hx => h.only x (List.mem_filter.mp hx).1 (List.mem_filter.mp hx).2
  have hslots : ∀ x ∈ slots, x = slotOf l.gwn := by
    intro x hx
    obtain ⟨y, hy, rfl⟩ := List.mem_map.mp hx
    rw [hall y hy]
  have hleast (q : List Nat) (hq : ∀ x ∈ q, x = slotOf l.gwn) (hne : q ≠ []) : least q = some (slotOf l.gwn) := by
    obtain ⟨k, rfl⟩ : ∃ k, q = List.replicate (k + 1) (slotOf l.gwn) := by
      refine ⟨q.length - 1, ?_⟩
      have := List.length_pos_iff.mpr hne
      rw [Nat.sub_add_cancel this]
      exact List.eq_replicate_iff.mpr ⟨rfl, hq⟩
    induction k with
    | zero => rfl
    | succ k ih =>
      rw [List.replicate_succ']
      dsimp only [least] at ih ⊢
      rw [List.foldl_append, ih (fun x hx => List.eq_of_mem_replicate hx) (by simp)]
      exact congrArg some (Nat.min_self _)
  have hchosen : (if after.isEmpty then least slots else least after) = some (slotOf l.gwn) := by
    split
    · exact hleast slots hslots (List.ne_nil_of_mem (List.mem_map_of_mem hmem))
    · next hne => exact hleast after (fun x hx => hslots x (List.mem_filter.mp hx).1) (by simpa using hne)
  rw [hchosen]
  change (started.find? fun x => slotOf x.gwn == slotOf l.gwn) = some l
  cases hf : started.find? fun x => slotOf x.gwn == slotOf l.gwn with
  | none => exact absurd (List.find?_eq_none.mp hf l hmem) (by simp)
  | some x => exact congrArg some (hall x (List.mem_of_find?_eq_some hf))

theorem litTurn (h : LitLone s n l) : s.litTurn n = (s.turned n l).turnOf n l := by
  simp only [State.litTurn, h.nextTurn, h.keys, List.any_nil, Bool.false_eq_true, if_false]
  rfl

/-- While the command has not left, one turn follows another. -/
theorem litUntil_succ (h : LitLone s n l) {l₀ : LitCmd} (hid : l₀.named = l.named) (k : Nat) : State.litUntil n l₀ (k + 1) s = State.litUntil n l₀ k (s.litTurn n) := by
  have hany : ((s.core n).lit.any fun x => x.gwn == l₀.gwn && x.id == l₀.id && x.started) = true := by
    refine List.any_eq_true.mpr ⟨l, h.listed, ?_⟩
    rw [Bool.and_eq_true]
    refine ⟨?_, h.started⟩
    change l₀.named l = true
    rw [hid, l.named_self]
  rw [State.litUntil, if_pos hany]

end LitLone

theorem State.litUntil_gone (h : (s.core n).lit.find? l.named = none) (k : Nat) : State.litUntil n l k s = s := by
  cases k with
  | zero => rfl
  | succ k =>
    have hany : ¬ ((s.core n).lit.any fun x => x.gwn == l.gwn && x.id == l.id && x.started) = true := by
      rw [List.any_eq_true]
      rintro ⟨x, hx, ht⟩
      exact List.find?_eq_none.mp h x hx (Bool.and_eq_true _ _ ▸ ht).1
    rw [State.litUntil, if_neg hany]

/-! ## What a turn changes of the command -/

theorem State.core_modLit (s : State) (n : Nat) (l : LitCmd) (f : LitCmd → LitCmd) : (s.modLit n l f).core n = { s.core n with lit := mapWhere l.named f (s.core n).lit } :=
  State.core_setCore_same s (k := { s.core n with lit := mapWhere l.named f (s.core n).lit }) (s.core_core n)

/-- The lines of an operation's stores that are performed at core scope only do not depend on what else a wave holds. -/
theorem State.coreKeys_modWave (s : State) (g n : Nat) {f : Wave → Wave} (hf : ∀ w, (f w).gwn = w.gwn ∧ (f w).flights = w.flights) :
    (s.modWave g f).coreKeys n = s.coreKeys n := by
  let keys (w : Wave) : List (Nat × Nat) := if unitOf w.gwn == n then (w.flights.filter (·.core)).flatMap (·.body.keys) else []
  have hkeys (w : Wave) : keys (f w) = keys w := by dsimp only [keys]; rw [(hf w).1, (hf w).2]
  have heq (t : State) : t.coreKeys n = keys t.me ++ t.others.flatMap keys := by
    have hl (q : List Wave) : (q.filter fun x => unitOf x.gwn == n).flatMap (fun x => (x.flights.filter (·.core)).flatMap (·.body.keys)) = q.flatMap keys := by
      induction q with
      | nil => rfl
      | cons w r ih =>
        rw [List.flatMap_cons, ← ih, List.filter_cons]
        dsimp only [keys]
        split <;> rfl
    exact hl t.waves
  rw [heq, heq]
  unfold State.modWave
  split
  · rw [hkeys]
  · rw [mapWhere, List.flatMap_map]
    congr 2
    funext w
    split
    · exact hkeys w
    · rfl

theorem State.coreKeys_addFlags (s : State) (g n : Nat) (fl : Flags) : (s.addFlags g fl).coreKeys n = s.coreKeys n :=
  s.coreKeys_modWave g n fun _ => ⟨rfl, rfl⟩

theorem LitLone.modLit (h : LitLone s n l) {f : LitCmd → LitCmd} (hf : ∀ x, (f x).started = x.started) : LitLone (s.modLit n l f) n (f l) := by
  refine ⟨?_, (hf l).trans h.started, ?_, h.keys⟩
  · rw [s.core_modLit n l f]
    refine List.mem_map.mpr ⟨l, h.listed, if_pos l.named_self⟩
  · rw [s.core_modLit n l f]
    intro x hx hs
    obtain ⟨y, hy, rfl⟩ := List.mem_map.mp hx
    have hl : y = l := h.only y hy (by split at hs; exact (hf y).symm.trans hs; exact hs)
    rw [hl, if_pos l.named_self]

end
end Sys2Proof.Machine
end

section
/-! SUPPORT of O45. The turns of a command that moves one row of one block, and its end (R109, R113, R267, R269, R321). -/

open Sys2Proof
namespace Sys2Proof.Machine

/-! ## One row of one block (R266, R267) -/

/-- A block conversion of one row of one block, without FULL. -/
structure LitCmd.oneBlock (l : LitCmd) : Prop where
  block : (litFields l.words).block = true
  row : l.row = 0
  rows : (litFields l.words).rows = 1
  full : (litFields l.words).full = false
  bytes : (litFields l.words).rowBytes = (convUnits (litFields l.words).conv l.code).1

theorem rowAddr_zero {base : Nat} (h : base < 2 ^ 64) (stride : Int) : rowAddr base stride 0 = base := by
  simp only [rowAddr, ofSigned]
  omega

theorem litFields_src_lt (ws : List Word) : (litFields ws).src < 2 ^ 64 := (ws.getD 1 0).isLt

theorem litFields_dst_lt (ws : List Word) : (litFields ws).dst < 2 ^ 64 := (ws.getD 2 0).isLt

theorem b128Bytes_bounds (code : Nat) : 0 < b128Bytes code ∧ b128Bytes code ≤ 128 := by
  unfold b128Bytes b128Width
  split
  · decide
  · split <;> decide

/-- A unit of 256 bytes or less is moved in one piece. -/
theorem le_litPiece {conv code : Nat} (h0 : 0 < (convUnits conv code).1) (h : (convUnits conv code).1 ≤ 256) : (convUnits conv code).1 ≤ litPiece conv code := by
  rw [litPiece, if_pos h]
  exact Nat.le_mul_of_pos_left _ (Nat.div_pos h h0)

section
variable {s : State} {n : Nat} {l : LitCmd} {c : Crew}

namespace LitCmd.oneBlock
variable (h : l.oneBlock)
include h

theorem srcAt : rowAddr (litFields l.words).src (litFields l.words).fstride l.row = (litFields l.words).src := by
  rw [h.row, rowAddr_zero (litFields_src_lt _)]

theorem dstAt : rowAddr (litFields l.words).dst (litFields l.words).tstride l.row = (litFields l.words).dst := by
  rw [h.row, rowAddr_zero (litFields_dst_lt _)]

theorem targets (va : Nat) : l.targets va (b128Bytes l.code) = [(l.target va, b128Bytes l.code)] := by
  rw [LitCmd.targets, if_pos h.block, Nat.div_self (b128Bytes_bounds _).1]
  rfl

theorem no_targets (va : Nat) : l.targets va 0 = [] := by
  rw [LitCmd.targets, if_pos h.block, Nat.zero_div]
  rfl

theorem granules : (litFields l.words).granules l.code = [] := by
  rw [LitFields.granules, if_neg (by rw [h.full]; exact Bool.false_ne_true)]

end LitCmd.oneBlock

/-! ## Links that have failed (R354) -/

theorem State.litCut_of_reach_none (h : l.reach = none) : s.litCut n l = none := by
  rw [State.litCut, h]
  exact ite_self _

theorem State.litCut_of_targets {va m : Nat} (hr : l.reach = some (va, m)) (h : ∀ p ∈ l.targets va m, ∀ x ∈ p.1.perLine p.2, s.cutOff (s.dieOf n) x.2 x.1 = false) :
    s.litCut n l = none := by
  have hnone : (((l.targets va m).flatMap fun p => p.1.perLine p.2).find? fun p => s.cutOff (s.dieOf n) p.2 p.1) = none := by
    rw [List.find?_eq_none]
    intro x hx
    obtain ⟨p, hp, hxp⟩ := List.mem_flatMap.mp hx
    rw [h p hp x hxp]
    exact Bool.false_ne_true
  rw [State.litCut, hr, Option.bind_some, hnone]
  exact ite_self _

theorem State.turnOf_eq (hc : s.crew? l.crew = some c) (hcut : s.litCut n l = none) :
    s.turnOf n l = if l.writing then s.litWrite n l (litFields l.words) else s.litRead n c l (litFields l.words) := by
  simp only [State.turnOf, hc, hcut]

/-! ## The end of a command (R113, R321) -/

/-- A crew whose task has no signature takes no event into one. -/
theorem State.hash_of_plain (hc : s.crew? l.crew = some c) (hh : s.hashes c = false) (m : List Byte) : s.hash l.crew m = s := by
  simp only [State.hash, hc, hh, Bool.false_eq_true, if_false]

theorem State.hashLit_of_plain (hc : s.crew? l.crew = some c) (hh : s.hashes c = false) : s.hashLit n l = s := by
  unfold State.hashLit
  generalize ((s.core n).lit.filter fun x => x.gwn == l.gwn && x.id == l.id).flatMap (·.wrote) = ms
  induction ms with
  | nil => rfl
  | cons m ms ih => rw [List.foldl_cons, State.hash_of_plain hc hh, ih]

theorem memRead.litUnread (s : State) (l : LitCmd) (n : Nat) : memRead s (s.litUnread l n) := by
  unfold State.litUnread
  extract_lets f
  split
  · exact refl s
  · exact recordFrom ..

/-- What is left where a command has ended: it is gone, no crew and no byte of memory has changed. -/
structure litGone (s u : State) (n : Nat) (l : LitCmd) : Prop where
  gone : (u.core n).lit.find? l.named = none
  crews : u.crews = s.crews
  store : u.store = s.store

theorem litGone_finishLit (h : l.oneBlock) (hc : s.crew? l.crew = some c) (hh : s.hashes c = false) : litGone s (s.finishLit n l) n l := by
  have hread := memRead.litUnread s l (litFields l.words).rowBytes
  unfold State.finishLit
  generalize s.litUnread l (litFields l.words).rowBytes = v at hread ⊢
  have hcv : v.crew? l.crew = some c := by rw [hread]; exact hc
  have hhv : v.hashes c = false := by rw [hread]; exact hh
  rw [State.hashLit_of_plain hcv hhv, State.dropLit, h.granules, ite_self]
  have hcrews : v.crews = s.crews := by rw [hread]
  refine ⟨?_, ?_, ?_⟩
  · rw [State.core_congr (State.modWave_cores ..)]
    change (((v.setCore { v.core n with lit := (v.core n).lit.filter fun x => !l.named x }).core n).lit.find? l.named) = none
    rw [State.core_setCore_same v (k := { v.core n with lit := (v.core n).lit.filter fun x => !l.named x }) (v.core_core n), List.find?_eq_none]
    intro x hx
    simpa using (List.mem_filter.mp hx).2
  · rw [State.modWave_crews, ← hcrews]
    change mapWhere _ id v.crews = v.crews
    simp only [mapWhere, id, ite_self, List.map_id']
  · rw [State.modWave_store]
    exact hread.store

end
end Sys2Proof.Machine
end

section
/-! SUPPORT of O45. What each turn of a command of one block leaves: the read of a block of memory or of bytes of scratch, and the write of scratch or of a block
(R89 to R92, R107, R267, R269). -/

open Sys2Proof
namespace Sys2Proof.Machine

section
variable {s : State} {n : Nat} {l : LitCmd} {c : Crew} (h : l.oneBlock)

/-- A command whose source has been read whole. -/
def LitCmd.filled (bs : List Byte) (x : LitCmd) : LitCmd := { x with buffer := x.buffer ++ bs, pos := 0, writing := true }

/-- The elements of a command's page. -/
def FarCore.litElem (k : FarCore) (l : LitCmd) : Elem := b128Elem l.code (if l.tabBank = 0 then [] else k.refTable l.tabBank)

/-- The block that a command reads. -/
def State.litSource (s : State) (n : Nat) (l : LitCmd) : List ElemRead × Nat × List ErrNote :=
  let f := litFields l.words
  let t := l.target f.src
  (s.viewFrom (s.dieOf n) t).readBlock (s.litMany l f.src f.rowBytes) t.at_ l.code t.pol 0 128

theorem FarCore.refBad_of_sound {k : FarCore} (h : k.badTables = []) (ref : Nat) : k.refBad ref = false := by
  simp [FarCore.refBad, h]

/-- A block that holds no element with an action is read without a fault. -/
theorem State.litBlocks_one (s : State) (n : Nat) (l : LitCmd) (many : Bool) (va : Nat) :
    let t := l.target va
    let r := (s.viewFrom (s.dieOf n) t).readBlock many t.at_ l.code t.pol 0 128
    (∀ e ∈ r.1, e.act = 0) → ∃ v fl, memRead s v ∧
      s.litBlocks n l many va 1 = (v, (litBlockOut (litFields l.words).conv l.code ((s.core n).litElem l) r.1 r.2.1).1, fl, none) := by
  intro t r hact
  have hbad : ((List.range 128).filterMap fun j => let e := r.1.getD j ⟨0, 0, 0⟩
      if e.act = 3 then some (e.sev, if e.sev = 4 then va else va + b128Width l.code * j / 8) else none) = [] := by
    rw [List.filterMap_eq_nil_iff]
    intro j _
    have h0 : (r.1.getD j ⟨0, 0, 0⟩).act = 0 := by
      rw [List.getD_eq_getElem?_getD]
      cases hj : r.1[j]? with
      | none => rfl
      | some e => exact hact e (List.mem_of_getElem? hj)
    exact if_neg (by rw [h0]; decide)
  let v := (t.perLine (b128Bytes l.code)).foldl (fun v p => v.noteReplica (v.dieOf n) p.1) (s.recordAll t.at_ r.2.2)
  have hv : memRead s v := (memRead.recordAll s t.at_ r.2.2).trans (memRead.foldl (fun v (p : Target × Nat) => memRead.noteReplica v (v.dieOf n) p.1) _ _)
  refine ⟨v, (litBlockOut (litFields l.words).conv l.code ((s.core n).litElem l) r.1 r.2.1).2 ||| 0, hv, ?_⟩
  simp only [State.litBlocks]
  rw [hbad, List.append_nil]
  rfl

/-- An image whose granule of the scale is zero beyond its first byte (R107). -/
theorem imageBad_of_zero {q : Cells 8} {ofs w : Nat} (hz : ∀ i, i < 15 → Cells.get q (ofs + 16 * w + 1 + i) = 0) : imageBad (Cells.range q ofs (imageBytes w)) w = false := by
  rw [imageBad, List.any_eq_false]
  intro x hx
  have hdrop : (Cells.range q ofs (imageBytes w)).drop (16 * w + 1) = Cells.range q (ofs + (16 * w + 1)) 15 := by
    have htake := Cells.take_drop_range q ofs (n := imageBytes w) (a := 16 * w + 1) (b := 15) (by rw [imageBytes])
    rwa [List.take_of_length_le (by rw [List.length_drop, Cells.length_range, imageBytes]; omega)] at htake
  rw [hdrop] at hx
  obtain ⟨i, hi, rfl⟩ := List.mem_map.mp hx
  rw [show ofs + (16 * w + 1) + i = ofs + 16 * w + 1 + i by omega, hz i (List.mem_range.mp hi)]
  exact Bool.false_ne_true

include h

/-- The read turn of a command from memory whose block holds no element with an action. -/
theorem State.litRead_global (hsrc : (litFields l.words).srcGlobal = true) (hu : (convUnits (litFields l.words).conv l.code).1 = b128Bytes l.code) (hpos : l.pos = 0)
    (htab : (s.core n).badTables = []) (hact : ∀ e ∈ (s.litSource n l).1, e.act = 0) : ∃ v fl, memRead s v ∧ s.litRead n c l (litFields l.words) =
      (v.addFlags l.gwn fl).modLit n l (LitCmd.filled (litBlockOut (litFields l.words).conv l.code ((s.core n).litElem l) (s.litSource n l).1 (s.litSource n l).2.1).1) := by
  obtain ⟨hb0, hb128⟩ := b128Bytes_bounds l.code
  have hbytes : (litFields l.words).rowBytes = b128Bytes l.code := h.bytes.trans hu
  have hpiece : min (litPiece (litFields l.words).conv l.code) ((litFields l.words).rowBytes - l.pos) = b128Bytes l.code := by
    have hle := le_litPiece (conv := (litFields l.words).conv) (code := l.code) (by omega) (by omega)
    omega
  obtain ⟨v, fl, hv, hblocks⟩ := s.litBlocks_one n l (s.litMany l (litFields l.words).src (litFields l.words).rowBytes) (litFields l.words).src hact
  refine ⟨v, fl, hv, ?_⟩
  rw [State.litRead, hpiece, h.srcAt, FarCore.refBad_of_sound htab]
  simp only [State.litSource, hsrc, h.block, hpos, hbytes, Nat.div_self hb0, Nat.add_zero, Nat.zero_add, Nat.le_refl, Bool.not_true, Bool.false_eq_true, if_false, if_true] at hblocks ⊢
  rw [hblocks]
  rfl

/-- The write turn of a command into scratch: all that it has read, and then it ends. -/
theorem State.litWrite_scratch (hsrc : (litFields l.words).srcGlobal = true) (hpos : l.pos = 0) (hu0 : 0 < (convUnits (litFields l.words).conv l.code).1)
    (hu : (convUnits (litFields l.words).conv l.code).1 ≤ 256) (hlen : l.buffer.length = (convUnits (litFields l.words).conv l.code).2) :
    s.litWrite n l (litFields l.words) = (s.writeScratch noWave l.crew (litFields l.words).dst l.buffer.length (ofBytes l.buffer)).finishLit n l := by
  have hpiece : (litFields l.words).writePiece l.code (rowAddr (litFields l.words).dst (litFields l.words).tstride l.row) l.pos = (litFields l.words).rowBytes := by
    have hle := le_litPiece hu0 hu
    have hmin : min (litPiece (litFields l.words).conv l.code) ((litFields l.words).rowBytes - l.pos) = (litFields l.words).rowBytes := by
      rw [h.bytes, hpos]
      omega
    rw [LitFields.writePiece, hmin, if_pos (by simp)]
  rw [State.litWrite, hpiece, h.dstAt]
  simp only [hsrc, hpos, h.bytes, h.row, h.rows, Nat.zero_div, Nat.zero_mul, Nat.add_zero, Nat.zero_add, Nat.div_self hu0, Nat.one_mul, List.drop_zero,
    Nat.lt_irrefl, if_true, if_false]
  rw [← hlen, List.take_length]

/-- A read turn of a command from scratch: the bytes as they are. -/
theorem State.litRead_scratch (hsrc : (litFields l.words).srcGlobal = false) (htab : (s.core n).badTables = []) (hbad : c.bad = [])
    (himg : (litFields l.words).conv = 0x90 → l.pos = 0 ∧ ∀ i, i < 15 → Cells.get c.scratch ((litFields l.words).src + 16 * b128Width l.code + 1 + i) = 0) {m : Nat}
    (hm : min (litPiece (litFields l.words).conv l.code) ((litFields l.words).rowBytes - l.pos) = m) :
    s.litRead n c l (litFields l.words) = (s.addFlags l.gwn 0).modLit n l fun x =>
      if (litFields l.words).rowBytes ≤ l.pos + m then x.filled (Cells.range c.scratch ((litFields l.words).src + l.pos) m)
      else { x with buffer := x.buffer ++ Cells.range c.scratch ((litFields l.words).src + l.pos) m, pos := l.pos + m } := by
  rw [State.litRead, h.srcAt, FarCore.refBad_of_sound htab]
  simp only [hsrc, Crew.failAt_of_good hbad, Bool.not_false, Bool.false_eq_true, if_false, if_true, Crew.toBytes_read, hm]
  split
  · next hconv =>
    obtain ⟨hpos, hzero⟩ := himg hconv
    have hunit : (convUnits (litFields l.words).conv l.code).1 = imageBytes (b128Width l.code) := by rw [hconv]; rfl
    have hw := (b128Bytes_bounds l.code).2
    have hmu : m = imageBytes (b128Width l.code) := by
      have hle := le_litPiece (conv := (litFields l.words).conv) (code := l.code) (by rw [hunit, imageBytes]; omega)
        (by rw [hunit, imageBytes]; rw [b128Bytes] at hw; omega)
      rw [← hm, h.bytes, hpos, hunit]
      omega
    have hgood : (List.range (m / (convUnits (litFields l.words).conv l.code).1)).find? (fun i => imageBad
        (((Cells.range c.scratch ((litFields l.words).src + l.pos) m).drop ((convUnits (litFields l.words).conv l.code).1 * i)).take
          (convUnits (litFields l.words).conv l.code).1) (b128Width l.code)) = none := by
      rw [hunit, hmu, Nat.div_self (by rw [imageBytes]; omega), hpos, Nat.add_zero, List.find?_eq_none]
      intro i hi
      obtain rfl : i = 0 := by simpa using hi
      rw [Nat.mul_zero, List.drop_zero, List.take_of_length_le (by rw [Cells.length_range]), imageBad_of_zero hzero]
      exact Bool.false_ne_true
    rw [hgood]
    rfl
  · rfl

end

/-! ## The write of a block (R89 to R91, R106, R107) -/

section
variable {s : State} {n : Nat} {l : LitCmd}

/-- The write of one block by a command from the bytes of its row, without the flags and the core's own copies. -/
def State.litPut (s : State) (n : Nat) (l : LitCmd) (va : Nat) (bs : List Byte) : State :=
  let f := litFields l.words
  let at_ := (l.target va).at_
  let w := b128Width l.code
  let el := (s.core n).litElem l
  if f.conv = 0x90 then s.writeBlock noWave at_ l.code (ofBytes (bs.take (16 * w))) ((bs.getD (16 * w) 0).toNat)
  else if f.conv = 0x93 then
    s.homeWrites noWave (blockWrites at_ l.code 0 (128 * w) (packField w ((litValues f.conv bs).map fun v => (el.quantInto (s.blockScale at_ l.code) v).1)))
  else s.writeBlock noWave at_ l.code (packField w (el.quantBlock (litValues f.conv bs)).elems) (el.quantBlock (litValues f.conv bs)).scale

theorem State.crew?_congr {s u : State} (h : u.crews = s.crews) (i : Nat) : u.crew? i = s.crew? i := by rw [State.crew?, State.crew?, h]

theorem State.hashes_congr {s u : State} (h : u.berths = s.berths) (c : Crew) : u.hashes c = s.hashes c := by rw [State.hashes, State.hashes, State.berth, State.berth, h]

/-- A state with some memory, in which no crew and no record of a berth has changed. -/
structure litStored (s u : State) (st : Store) : Prop where
  store : u.store = st
  crews : u.crews = s.crews
  berths : u.berths = s.berths

theorem State.dropLines_eq (s : State) (n : Nat) (ls : List Nat) : ∃ cs, s.dropLines n ls = { s with caches := cs } := by
  induction ls generalizing s with
  | nil => exact ⟨_, rfl⟩
  | cons a r ih =>
    obtain ⟨cs, hcs⟩ := ih (s.dropL1 n a)
    exact ⟨cs, hcs⟩

/-- A write at the homes after some flags have been raised, and then the core's own copies fall (R131). -/
theorem litStored_of_homed {v u : State} (g : Nat) (fl : Flags) (n : Nat) (ls : List Nat) (hw : homed (s.addFlags g fl) v) (hs : sameHomes u v) :
    litStored s (v.dropLines n ls) u.store := by
  obtain ⟨cs, hcs⟩ := v.dropLines_eq n ls
  rw [hcs]
  exact ⟨hs.1, hw.crews.trans (State.modWave_crews ..), hw.berths.trans (State.modWave_berths ..)⟩

theorem State.litBlock_stored (s : State) (n : Nat) (l : LitCmd) (va : Nat) (bs : List Byte) : litStored s (s.litBlock n l false va bs).1 (s.litPut n l va bs).store := by
  simp only [State.litBlock, State.litPut, Bool.false_eq_true, if_false]
  split
  · exact litStored_of_homed l.gwn _ n _ (homed.writeBlock ..) ((sameHomes.addFlags ..).writeBlock ..)
  · split
    · rw [List.map_map]
      exact litStored_of_homed l.gwn _ n _ (homed.homeWrites ..) ((sameHomes.addFlags ..).homeWrites ..)
    · exact litStored_of_homed l.gwn _ n _ (homed.writeBlock ..) ((sameHomes.addFlags ..).writeBlock ..)

/-- The same is written where the homes and the core's tables are the same. -/
theorem State.litPut_congr {t : State} (hs : sameHomes s t) (hel : (t.core n).litElem l = (s.core n).litElem l) (va : Nat) (bs : List Byte) :
    (t.litPut n l va bs).store = (s.litPut n l va bs).store := by
  simp only [State.litPut, hel, hs.blockScale]
  split
  · exact (hs.writeBlock ..).1
  · split
    · exact (hs.homeWrites ..).1
    · exact (hs.writeBlock ..).1

variable {c : Crew} (h : l.oneBlock)

theorem State.litNote_of_plain (hc : s.crew? l.crew = some c) (hh : s.hashes c = false) (va : Nat) (bs : List Byte) : s.litNote n l va bs = s := by
  simp [State.litNote, hc, hh]

/-- A command into memory writes a piece at a time. -/
theorem LitFields.writePiece_global {f : LitFields} (hdst : f.dstGlobal = true) (code dst pos : Nat) :
    f.writePiece code dst pos = min (litPiece f.conv code) (f.rowBytes - pos) := by
  rw [LitFields.writePiece, hdst]
  rfl

theorem LitFields.sides_of_dir {f : LitFields} (h : f.dir = 1) : f.srcGlobal = false ∧ f.dstGlobal = true := by
  simp [LitFields.srcGlobal, LitFields.dstGlobal, h]

include h

/-- A write turn of a command into memory whose piece holds the last byte of its block: the block is written, and the command ends. -/
theorem State.litWrite_block (hdir : (litFields l.words).dir = 1) (hc : s.crew? l.crew = some c) (hsh : c.shadow = false) (hh : s.hashes c = false)
    (hpos : l.pos < (convUnits (litFields l.words).conv l.code).1)
    (hlast : (convUnits (litFields l.words).conv l.code).1 ≤ l.pos + litPiece (litFields l.words).conv l.code) :
    ((s.litWrite n l (litFields l.words)).core n).lit.find? l.named = none ∧ (s.litWrite n l (litFields l.words)).store =
      (s.litPut n l (litFields l.words).dst (l.buffer.take (convUnits (litFields l.words).conv l.code).1)).store := by
  obtain ⟨hsrc, hdst⟩ := LitFields.sides_of_dir hdir
  have hpiece : min (litPiece (litFields l.words).conv l.code) ((litFields l.words).rowBytes - l.pos) = (convUnits (litFields l.words).conv l.code).1 - l.pos := by
    rw [h.bytes]
    omega
  have hend : l.pos + ((convUnits (litFields l.words).conv l.code).1 - l.pos) = (convUnits (litFields l.words).conv l.code).1 := by omega
  have hshadow : s.isShadow l.crew = false := by rw [State.isShadow, hc]; exact hsh
  have hput := s.litBlock_stored n l (litFields l.words).dst (l.buffer.take (convUnits (litFields l.words).conv l.code).1)
  have heq : s.litWrite n l (litFields l.words) =
      (s.litBlock n l false (litFields l.words).dst (l.buffer.take (convUnits (litFields l.words).conv l.code).1)).1.finishLit n l := by
    have hcv := (State.crew?_congr hput.crews l.crew).trans hc
    have hhv := (State.hashes_congr hput.berths c).trans hh
    rw [State.litWrite, LitFields.writePiece_global hdst, hpiece, h.dstAt]
    simp only [hsrc, h.block, hend, h.bytes, hshadow, h.row, h.rows, Nat.div_self (Nat.zero_lt_of_lt hpos), Bool.false_eq_true, if_false, if_true, Nat.lt_irrefl]
    rw [show List.range 1 = [0] from rfl, List.filter_cons_of_pos (by simpa using hpos), List.filter_nil, List.map_singleton, Nat.mul_zero, Nat.mul_zero, Nat.add_zero,
      List.drop_zero, State.litBlocksOut, State.litBlocksOut, State.litNote_of_plain hcv hhv]
  rw [heq]
  have hgone := litGone_finishLit (n := n) h ((State.crew?_congr hput.crews l.crew).trans hc) ((State.hashes_congr hput.berths c).trans hh)
  exact ⟨hgone.gone, hgone.store.trans hput.store⟩

/-- A write turn before it moves on alone. -/
theorem State.litWrite_wait (hdir : (litFields l.words).dir = 1)
    (hmore : l.pos + litPiece (litFields l.words).conv l.code < (convUnits (litFields l.words).conv l.code).1) :
    s.litWrite n l (litFields l.words) = s.modLit n l fun x => { x with pos := l.pos + litPiece (litFields l.words).conv l.code } := by
  obtain ⟨hsrc, hdst⟩ := LitFields.sides_of_dir hdir
  have hpiece : min (litPiece (litFields l.words).conv l.code) ((litFields l.words).rowBytes - l.pos) = litPiece (litFields l.words).conv l.code := by
    rw [h.bytes]
    omega
  rw [State.litWrite, LitFields.writePiece_global hdst, hpiece, h.dstAt]
  simp only [hsrc, h.block, h.bytes, Nat.div_self (Nat.zero_lt_of_lt hmore), Bool.false_eq_true, if_false, if_true, if_pos hmore]
  rw [show List.range 1 = [0] from rfl, List.filter_cons_of_neg (by simpa using fun _ => hmore)]
  rfl

end
end Sys2Proof.Machine
end

section
/-! SUPPORT of O45. A command of one block alone on its core, from its start to its end (R267, R269, R316). -/

open Sys2Proof
namespace Sys2Proof.Machine

/-! ## What turns keep -/

/-- Nothing that the lighter's later turns rest on has changed: the homes, the crews, the core's tables, and what holds a turn back. -/
structure litKept (n : Nat) (s t : State) : Prop where
  homes : sameHomes s t
  crews : t.crews = s.crews
  keys : t.coreKeys n = s.coreKeys n
  sound : (t.core n).badTables = (s.core n).badTables
  elem : ∀ l, (t.core n).litElem l = (s.core n).litElem l
  cut : ∀ d m x, t.cutOff d m x = s.cutOff d m x

namespace litKept
variable {s t u : State} {n : Nat}

theorem trans (h : litKept n s t) (k : litKept n t u) : litKept n s u :=
  ⟨h.homes.trans k.homes, k.crews.trans h.crews, k.keys.trans h.keys, k.sound.trans h.sound, fun l => (k.elem l).trans (h.elem l), fun d m x => (k.cut d m x).trans (h.cut d m x)⟩

theorem turned (s : State) (n : Nat) (l : LitCmd) : litKept n s (s.turned n l) := by
  have hcore := s.core_turned n l
  exact ⟨sameHomes.setCore .., rfl, rfl, by rw [hcore], fun l => by rw [hcore]; rfl, fun _ _ _ => rfl⟩

theorem modLit (s : State) (n : Nat) (l : LitCmd) (f : LitCmd → LitCmd) : litKept n s (s.modLit n l f) := by
  have hcore := s.core_modLit n l f
  exact ⟨sameHomes.setCore .., rfl, rfl, by rw [hcore], fun l => by rw [hcore]; rfl, fun _ _ _ => rfl⟩

theorem addFlags (s : State) (n g : Nat) (fl : Flags) : litKept n s (s.addFlags g fl) := by
  have hcore := s.core_addFlags g fl n
  refine ⟨sameHomes.addFlags .., State.modWave_crews .., s.coreKeys_addFlags g n fl, by rw [hcore], fun l => by rw [hcore], fun d m x => ?_⟩
  unfold State.addFlags State.modWave
  split <;> rfl

theorem crew? (h : litKept n s t) (i : Nat) : t.crew? i = s.crew? i := State.crew?_congr h.crews i

theorem hashes (h : litKept n s t) (c : Crew) : t.hashes c = s.hashes c := State.hashes_congr h.homes.2.1 c

theorem dieOf (h : litKept n s t) (i : Nat) : t.dieOf i = s.dieOf i := by
  simp only [State.dieOf, State.partOfHm, State.dies, h.homes.2.2]

end litKept

section
variable {s : State} {n : Nat} {l : LitCmd} {c : Crew}

theorem LitCmd.oneBlock.of_eq (h : l.oneBlock) {x : LitCmd} (hw : x.words = l.words) (hp : x.pages = l.pages) (hr : x.row = l.row) : x.oneBlock := by
  have hcode : x.code = l.code := by rw [LitCmd.code, LitCmd.code, hp]
  exact ⟨by rw [hw]; exact h.block, hr.trans h.row, by rw [hw]; exact h.rows, by rw [hw]; exact h.full, by rw [hw, hcode]; exact h.bytes⟩

/-- A command that holds its row and is about to write it. -/
def LitCmd.holding (l : LitCmd) (bs : List Byte) : LitCmd := { l with buffer := bs, pos := 0, writing := true }

theorem LitCmd.oneBlock.holding (h : l.oneBlock) (bs : List Byte) : (l.holding bs).oneBlock := h.of_eq rfl rfl rfl

theorem LitCmd.filled_of_empty (h : l.buffer = []) (bs : List Byte) : l.filled bs = l.holding bs := by
  rw [LitCmd.filled, LitCmd.holding, h, List.nil_append]

/-- A turn of a command alone on its core. -/
theorem LitLone.litTurn_eq (hl : LitLone s n l) (hc : s.crew? l.crew = some c) (hcut : (s.turned n l).litCut n l = none) :
    s.litTurn n = if l.writing then (s.turned n l).litWrite n l (litFields l.words) else (s.turned n l).litRead n c l (litFields l.words) := by
  rw [hl.litTurn, State.turnOf_eq (s := s.turned n l) hc hcut]

/-! ## From memory into scratch (R92, R107) -/

theorem State.litSource_turned (h : l.oneBlock) : (s.turned n l).litSource n l = s.litSource n l := by
  have hview (d : Nat) (x : Target) : sameHomes (s.viewFrom d x) ((s.turned n l).viewFrom d x) := sameHomes.viewFrom_setCore ..
  have hgroups (va m : Nat) : (s.turned n l).litGroups l va m = s.litGroups l va m := by
    simp only [State.litGroups, h.block, if_true, (hview _ _).blockGroups]
    rfl
  have hmany (va m : Nat) : (s.turned n l).litMany l va m = s.litMany l va m := by simp only [State.litMany, hgroups]
  simp only [State.litSource, (hview _ _).readBlock, hmany]
  rfl

theorem State.crew?_modCrew_same (s : State) {i : Nat} {f : Crew → Crew} (hf : ∀ x, (f x).id = x.id) : (s.modCrew i f).crew? i = (s.crew? i).map f := by
  rw [State.crew?, State.modCrew_crews, find?_mapWhere fun a _ => by rw [hf a]]
  cases h : s.crews.find? (·.id == i) with
  | none => simp [State.crew?, h]
  | some x => simp [State.crew?, h, show x.id = i by simpa using List.find?_some h]

/-- The crew whose scratch has been written. -/
theorem State.writeScratch_eq (hc : s.crew? l.crew = some c) (ofs m x : Nat) : let u := s.writeScratch noWave l.crew ofs m x
    u.crew? l.crew = some (c.write ofs m x) ∧ u.store = s.store ∧ u.berths = s.berths := by
  obtain ⟨f, -, hf⟩ := wavesTouched_touchGranules (s.modCrew l.crew fun k => k.write ofs m x) noWave c.unit l.crew (granules ofs m)
  simp only [State.writeScratch, hc, hf]
  refine ⟨?_, rfl, rfl⟩
  refine (State.crew?_congr (s := s.modCrew l.crew fun k => k.write ofs m x) rfl l.crew).trans ?_
  rw [State.crew?_modCrew_same s (f := fun k => k.write ofs m x) fun _ => rfl, hc]
  rfl

/-- The destination bytes of a command from memory. -/
def State.litImage (s : State) (n : Nat) (l : LitCmd) : List Byte :=
  (litBlockOut (litFields l.words).conv l.code ((s.core n).litElem l) (s.litSource n l).1 (s.litSource n l).2.1).1

theorem State.litImage_turned (h : l.oneBlock) : (s.turned n l).litImage n l = s.litImage n l := by
  rw [State.litImage, State.litImage, State.litSource_turned h, (litKept.turned s n l).elem]

/-- The first turn of a command of one block from memory: it holds its destination bytes. -/
theorem LitLone.litTurn_readBlock (hl : LitLone s n l) (h : l.oneBlock) (hc : s.crew? l.crew = some c) (htab : (s.core n).badTables = [])
    (hsrc : (litFields l.words).srcGlobal = true) (hu : (convUnits (litFields l.words).conv l.code).1 = b128Bytes l.code)
    (hpos : l.pos = 0) (hw : l.writing = false) (hbuf : l.buffer = []) (hact : ∀ e ∈ (s.litSource n l).1, e.act = 0)
    (hcut : ∀ x ∈ (l.target (litFields l.words).src).perLine (b128Bytes l.code), s.cutOff (s.dieOf n) x.2 x.1 = false) :
    LitLone (s.litTurn n) n (l.holding (s.litImage n l)) ∧ litStored s (s.litTurn n) s.store := by
  obtain ⟨hb0, hb128⟩ := b128Bytes_bounds l.code
  have hreach : l.reach = some ((litFields l.words).src, b128Bytes l.code) := by
    have hle := le_litPiece (conv := (litFields l.words).conv) (code := l.code) (by omega) (by omega)
    have hto : l.readTo = b128Bytes l.code := by
      rw [LitCmd.readTo, h.bytes, hpos]
      omega
    simp only [LitCmd.reach, hw, hsrc, hto, h.srcAt, hpos, Bool.false_eq_true, if_false, if_true, Nat.add_zero, Nat.sub_zero]
  have hcut1 : (s.turned n l).litCut n l = none := by
    refine State.litCut_of_targets hreach ?_
    rw [h.targets]
    intro p hp
    rw [List.mem_singleton.mp hp]
    exact hcut
  obtain ⟨v, fl, hv, hread⟩ := State.litRead_global (s := s.turned n l) (n := n) (c := c) h hsrc hu hpos ((litKept.turned s n l).sound.trans htab)
    (by rw [State.litSource_turned h]; exact hact)
  change _ = (v.addFlags l.gwn fl).modLit n l (LitCmd.filled ((s.turned n l).litImage n l)) at hread
  rw [State.litImage_turned h] at hread
  have hturn : s.litTurn n = (v.addFlags l.gwn fl).modLit n l (LitCmd.filled (s.litImage n l)) := by
    rw [hl.litTurn_eq hc hcut1, hw, ← hread]
    rfl
  have hkept : litKept n v (s.litTurn n) := by
    rw [hturn]
    exact (litKept.addFlags ..).trans (litKept.modLit ..)
  refine ⟨?_, ?_, ?_, ?_⟩
  · rw [hturn, ← LitCmd.filled_of_empty hbuf]
    refine LitLone.modLit (hl.turned.of_eq ?_ ?_) fun _ => rfl
    · rw [State.core_addFlags, hv.core]
    · rw [State.coreKeys_addFlags, State.coreKeys, hv.waves]
      rfl
  · rw [hkept.homes.1, hv.store]
    rfl
  · rw [hkept.crews, hv]
    rfl
  · rw [hkept.homes.2.1, hv]
    rfl

/-- The last turn of a command of one block into scratch: what it holds stands at its destination. -/
theorem LitLone.litTurn_writeScratch (hl : LitLone s n l) (h : l.oneBlock) (hc : s.crew? l.crew = some c) (hh : s.hashes c = false)
    (hsrc : (litFields l.words).srcGlobal = true) (hu : (convUnits (litFields l.words).conv l.code).1 = b128Bytes l.code)
    (hpos : l.pos = 0) (hw : l.writing = true) (hlen : l.buffer.length = (convUnits (litFields l.words).conv l.code).2) :
    ((s.litTurn n).core n).lit.find? l.named = none ∧ (s.litTurn n).store = s.store ∧
      (s.litTurn n).crew? l.crew = some (c.write (litFields l.words).dst l.buffer.length (ofBytes l.buffer)) := by
  obtain ⟨hb0, hb128⟩ := b128Bytes_bounds l.code
  have hdst : (litFields l.words).dstGlobal = false := by
    rw [LitFields.dstGlobal, show (litFields l.words).dir = 0 from beq_iff_eq.mp hsrc]
    rfl
  have hreach : l.reach = none := by simp only [LitCmd.reach, hw, hdst, Bool.false_eq_true, if_false, if_true]
  have hturn := hl.litTurn_eq hc (State.litCut_of_reach_none hreach)
  rw [if_pos hw, State.litWrite_scratch h hsrc hpos (by omega) (by omega) hlen] at hturn
  obtain ⟨hcrew, hstore, hberths⟩ := State.writeScratch_eq (s := s.turned n l) hc (litFields l.words).dst l.buffer.length (ofBytes l.buffer)
  have hgone := litGone_finishLit (n := n) h hcrew ((State.hashes_congr hberths _).trans hh)
  rw [← hturn] at hgone
  exact ⟨hgone.gone, hgone.store.trans hstore, (State.crew?_congr hgone.crews _).trans hcrew⟩

/-! ## From scratch into memory (R89 to R91, R107) -/

/-- A turn of a command from scratch that has not read its row whole. -/
theorem LitLone.litTurn_readScratch (hl : LitLone s n l) (h : l.oneBlock) (hc : s.crew? l.crew = some c) (htab : (s.core n).badTables = []) (hbad : c.bad = [])
    (hsrc : (litFields l.words).srcGlobal = false) (hw : l.writing = false)
    (himg : (litFields l.words).conv = 0x90 → l.pos = 0 ∧ ∀ i, i < 15 → Cells.get c.scratch ((litFields l.words).src + 16 * b128Width l.code + 1 + i) = 0) {m : Nat}
    (hm : min (litPiece (litFields l.words).conv l.code) ((litFields l.words).rowBytes - l.pos) = m) :
    litKept n s (s.litTurn n) ∧ LitLone (s.litTurn n) n (if (litFields l.words).rowBytes ≤ l.pos + m then
      l.filled (Cells.range c.scratch ((litFields l.words).src + l.pos) m)
      else { l with buffer := l.buffer ++ Cells.range c.scratch ((litFields l.words).src + l.pos) m, pos := l.pos + m }) := by
  have hreach : l.reach = none := by simp only [LitCmd.reach, hw, hsrc, Bool.false_eq_true, if_false]
  have hturn := hl.litTurn_eq hc (State.litCut_of_reach_none hreach)
  have hkept := litKept.turned s n l
  rw [hw, if_neg Bool.false_ne_true, State.litRead_scratch h hsrc (hkept.sound.trans htab) hbad himg hm] at hturn
  rw [hturn]
  refine ⟨(hkept.trans (litKept.addFlags ..)).trans (litKept.modLit ..), ?_⟩
  refine LitLone.modLit (f := fun x => if (litFields l.words).rowBytes ≤ l.pos + m then x.filled (Cells.range c.scratch ((litFields l.words).src + l.pos) m)
    else { x with buffer := x.buffer ++ Cells.range c.scratch ((litFields l.words).src + l.pos) m, pos := l.pos + m }) (hl.turned.of_eq ?_ ?_) fun x => ?_
  · rw [State.core_addFlags]
  · exact State.coreKeys_addFlags ..
  · split <;> rfl

/-- A unit that one piece moves, or the one of 512 bytes, which two move. -/
def LitCmd.unitMoves (l : LitCmd) : Prop :=
  (0 < (convUnits (litFields l.words).conv l.code).1 ∧ (convUnits (litFields l.words).conv l.code).1 ≤ 256) ∨ (litFields l.words).conv = 0x92

/-- The turns in which a command of one block reads its row of scratch. -/
theorem LitLone.litUntil_readScratch (hl : LitLone s n l) (h : l.oneBlock) (hc : s.crew? l.crew = some c) (htab : (s.core n).badTables = []) (hbad : c.bad = [])
    (hsrc : (litFields l.words).srcGlobal = false) (hw : l.writing = false) (hpos : l.pos = 0) (hbuf : l.buffer = [])
    (himg : (litFields l.words).conv = 0x90 → ∀ i, i < 15 → Cells.get c.scratch ((litFields l.words).src + 16 * b128Width l.code + 1 + i) = 0) (hunit : l.unitMoves) :
    ∃ t j, j ≤ 2 ∧ litKept n s t ∧ LitLone t n (l.holding (Cells.range c.scratch (litFields l.words).src (convUnits (litFields l.words).conv l.code).1)) ∧
      ∀ k, State.litUntil n l (k + j) s = State.litUntil n l k t := by
  rcases hunit with ⟨hu0, hu⟩ | hconv
  · have hm : min (litPiece (litFields l.words).conv l.code) ((litFields l.words).rowBytes - l.pos) = (convUnits (litFields l.words).conv l.code).1 := by
      have hle := le_litPiece hu0 hu
      rw [h.bytes, hpos]
      omega
    obtain ⟨hkept, hlone⟩ := hl.litTurn_readScratch h hc htab hbad hsrc hw (fun hc => ⟨hpos, himg hc⟩) hm
    rw [if_pos (by rw [h.bytes]; omega), hpos, Nat.add_zero, LitCmd.filled_of_empty hbuf] at hlone
    exact ⟨_, 1, by omega, hkept, hlone, fun k => hl.litUntil_succ rfl k⟩
  · have hunit : (convUnits (litFields l.words).conv l.code).1 = 512 := by rw [hconv]; rfl
    have hpiece : litPiece (litFields l.words).conv l.code = 256 := by rw [litPiece, hunit]; rfl
    have hne : (litFields l.words).conv ≠ 0x90 := by rw [hconv]; decide
    obtain ⟨hkept, hlone⟩ := hl.litTurn_readScratch h hc htab hbad hsrc hw (fun h90 => absurd h90 hne) (m := 256) (by rw [hpiece, h.bytes, hunit, hpos]; rfl)
    rw [if_neg (by rw [h.bytes, hunit, hpos]; omega), hbuf, hpos, Nat.add_zero] at hlone
    obtain ⟨hkept2, hlone2⟩ := hlone.litTurn_readScratch (h.of_eq rfl rfl rfl) ((hkept.crew? _).trans hc) (hkept.sound.trans htab) hbad hsrc hw (fun h90 => absurd h90 hne) (m := 256)
      (by
        change min (litPiece (litFields l.words).conv l.code) ((litFields l.words).rowBytes - (0 + 256)) = 256
        rw [hpiece, h.bytes, hunit]
        rfl)
    rw [if_pos (by
      change (litFields l.words).rowBytes ≤ 0 + 256 + 256
      rw [h.bytes, hunit])] at hlone2
    refine ⟨_, 2, Nat.le_refl 2, hkept.trans hkept2, ?_, fun k => ?_⟩
    · rw [hunit, ← Cells.range_append c.scratch (litFields l.words).src 256 256]
      exact hlone2
    · rw [hl.litUntil_succ rfl (k + 1)]
      exact hlone.litUntil_succ (l₀ := l) rfl k

/-- What a write turn of a command into memory reaches. -/
theorem LitCmd.reach_write (h : l.oneBlock) (hdir : (litFields l.words).dir = 1) (hw : l.writing = true) (hpos : l.pos < (convUnits (litFields l.words).conv l.code).1) :
    l.reach = some ((litFields l.words).dst, (convUnits (litFields l.words).conv l.code).2 *
      ((l.pos + min (litPiece (litFields l.words).conv l.code) ((convUnits (litFields l.words).conv l.code).1 - l.pos)) / (convUnits (litFields l.words).conv l.code).1)) := by
  have hdst := (LitFields.sides_of_dir hdir).2
  simp only [LitCmd.reach, hw, hdst, h.dstAt, LitFields.writePiece_global hdst, h.bytes, Nat.div_eq_of_lt hpos, Nat.mul_zero, Nat.add_zero, Nat.sub_zero, if_true]

/-- The turn of a command into memory that writes its block. -/
theorem LitLone.litTurn_writeBlock (hl : LitLone s n l) (h : l.oneBlock) (hc : s.crew? l.crew = some c) (hsh : c.shadow = false) (hh : s.hashes c = false)
    (hdir : (litFields l.words).dir = 1) (hw : l.writing = true) (hu2 : (convUnits (litFields l.words).conv l.code).2 = b128Bytes l.code)
    (hcut : ∀ x ∈ (l.target (litFields l.words).dst).perLine (b128Bytes l.code), s.cutOff (s.dieOf n) x.2 x.1 = false)
    (hpos : l.pos < (convUnits (litFields l.words).conv l.code).1)
    (hlast : (convUnits (litFields l.words).conv l.code).1 ≤ l.pos + litPiece (litFields l.words).conv l.code) :
    ((s.litTurn n).core n).lit.find? l.named = none ∧
      (s.litTurn n).store = (s.litPut n l (litFields l.words).dst (l.buffer.take (convUnits (litFields l.words).conv l.code).1)).store := by
  have hkept := litKept.turned s n l
  have hreach := LitCmd.reach_write h hdir hw hpos
  rw [show l.pos + min (litPiece (litFields l.words).conv l.code) ((convUnits (litFields l.words).conv l.code).1 - l.pos) =
    (convUnits (litFields l.words).conv l.code).1 by omega, Nat.div_self (by omega), Nat.mul_one, hu2] at hreach
  have hcut1 : (s.turned n l).litCut n l = none := by
    refine State.litCut_of_targets hreach ?_
    rw [h.targets]
    intro p hp
    rw [List.mem_singleton.mp hp]
    exact hcut
  have hturn := hl.litTurn_eq hc hcut1
  rw [if_pos hw] at hturn
  obtain ⟨hgone, hstore⟩ := State.litWrite_block (s := s.turned n l) (n := n) h hdir hc hsh hh hpos hlast
  rw [hturn]
  exact ⟨hgone, hstore.trans (State.litPut_congr hkept.homes (hkept.elem l) _ _)⟩

/-- A turn of a command into memory whose piece ends before its block does. -/
theorem LitLone.litTurn_wait (hl : LitLone s n l) (h : l.oneBlock) (hc : s.crew? l.crew = some c) (hdir : (litFields l.words).dir = 1) (hw : l.writing = true)
    (hmore : l.pos + litPiece (litFields l.words).conv l.code < (convUnits (litFields l.words).conv l.code).1) :
    litKept n s (s.litTurn n) ∧ LitLone (s.litTurn n) n { l with pos := l.pos + litPiece (litFields l.words).conv l.code } := by
  have hreach := LitCmd.reach_write h hdir hw (by omega)
  rw [show l.pos + min (litPiece (litFields l.words).conv l.code) ((convUnits (litFields l.words).conv l.code).1 - l.pos) =
    l.pos + litPiece (litFields l.words).conv l.code by omega, Nat.div_eq_of_lt hmore, Nat.mul_zero] at hreach
  have hcut1 : (s.turned n l).litCut n l = none := by
    refine State.litCut_of_targets hreach ?_
    rw [h.no_targets]
    exact fun p hp => absurd hp List.not_mem_nil
  have hturn := hl.litTurn_eq hc hcut1
  rw [if_pos hw, State.litWrite_wait h hdir hmore] at hturn
  rw [hturn]
  exact ⟨(litKept.turned s n l).trans (litKept.modLit ..),
    hl.turned.modLit (f := fun x => { x with pos := l.pos + litPiece (litFields l.words).conv l.code }) fun _ => rfl⟩

/-- The turns in which a command of one block writes the block; then it has left. -/
theorem LitLone.litUntil_writeBlock (hl : LitLone s n l) (h : l.oneBlock) (hc : s.crew? l.crew = some c) (hsh : c.shadow = false) (hh : s.hashes c = false)
    (hdir : (litFields l.words).dir = 1) (hw : l.writing = true) (hpos : l.pos = 0) (hu2 : (convUnits (litFields l.words).conv l.code).2 = b128Bytes l.code)
    (hcut : ∀ x ∈ (l.target (litFields l.words).dst).perLine (b128Bytes l.code), s.cutOff (s.dieOf n) x.2 x.1 = false) (hunit : l.unitMoves) :
    ∃ u j, j ≤ 2 ∧ (u.core n).lit.find? l.named = none ∧
      u.store = (s.litPut n l (litFields l.words).dst (l.buffer.take (convUnits (litFields l.words).conv l.code).1)).store ∧
      ∀ k, State.litUntil n l (k + j) s = u := by
  rcases hunit with ⟨hu0, hu⟩ | hconv
  · obtain ⟨hgone, hstore⟩ := hl.litTurn_writeBlock h hc hsh hh hdir hw hu2 hcut (by omega) (by have hle := le_litPiece hu0 hu; omega)
    exact ⟨_, 1, by omega, hgone, hstore, fun k => (hl.litUntil_succ rfl k).trans (State.litUntil_gone hgone k)⟩
  · have hunit : (convUnits (litFields l.words).conv l.code).1 = 512 := by rw [hconv]; rfl
    have hpiece : litPiece (litFields l.words).conv l.code = 256 := by rw [litPiece, hunit]; rfl
    obtain ⟨hkept, hlone⟩ := hl.litTurn_wait h hc hdir hw (by rw [hpos, hpiece, hunit]; decide)
    rw [hpos, hpiece] at hlone
    obtain ⟨hgone, hstore⟩ := hlone.litTurn_writeBlock (h.of_eq rfl rfl rfl) ((hkept.crew? _).trans hc) hsh ((hkept.hashes c).trans hh) hdir hw hu2
      (fun x hx => (hkept.cut _ _ _).trans (by rw [hkept.dieOf]; exact hcut x hx))
      (by change 0 + 256 < (convUnits (litFields l.words).conv l.code).1; omega)
      (by change (convUnits (litFields l.words).conv l.code).1 ≤ 0 + 256 + litPiece (litFields l.words).conv l.code; omega)
    refine ⟨_, 2, Nat.le_refl 2, hgone, hstore.trans (State.litPut_congr hkept.homes (hkept.elem l) _ _), fun k => ?_⟩
    rw [hl.litUntil_succ rfl (k + 1), hlone.litUntil_succ (l₀ := l) rfl k]
    exact State.litUntil_gone (l := l) hgone k

end
end Sys2Proof.Machine
end

section
/-! SUPPORT and O45. The block conversions of one block (R89 to R92, R107, R267). -/

open Sys2Proof
namespace Sys2Proof.Machine

/-- A command of one row of one block that has started and moved nothing yet, alone on its core, for a crew whose scratch is sound. -/
structure LitRuns (s : State) (n cmd : Nat) (l : LitCmd) (c : Crew) : Prop where
  at_ : (s.core n).lit[cmd]? = some l
  lone : LitLone s n l
  crew : s.crew? l.crew = some c
  live : c.shadow = false
  plain : s.hashes c = false
  scratch : Cells.wf c.scratch = true
  good : c.bad = []
  tables : (s.core n).badTables = []
  row : l.row = 0
  rows : (litFields l.words).rows = 1
  full : (litFields l.words).full = false
  bytes : (litFields l.words).rowBytes = (convUnits (litFields l.words).conv l.code).1
  pos : l.pos = 0
  writing : l.writing = false
  buffer : l.buffer = []

/-- Turns are taken until a command is gone that is known by its wave and its number. -/
theorem State.litUntil_named {n : Nat} {l₀ l : LitCmd} (hid : l₀.named = l.named) (k : Nat) (s : State) : State.litUntil n l₀ k s = State.litUntil n l k s := by
  have htest (x : LitCmd) : (x.gwn == l₀.gwn && x.id == l₀.id && x.started) = (x.gwn == l.gwn && x.id == l.id && x.started) := by
    change (l₀.named x && x.started) = (l.named x && x.started)
    rw [hid]
  induction k generalizing s with
  | zero => rfl
  | succ k ih => simp only [State.litUntil, htest, ih]

section
variable {s : State} {n cmd : Nat} {l : LitCmd} {c : Crew} (h : LitRuns s n cmd l c)
include h

theorem LitRuns.oneBlock (hb : convBlock (litFields l.words).conv = true) : l.oneBlock := ⟨hb, h.row, h.rows, h.full, h.bytes⟩

/-- The instruction of a command's conversion has turns for all that one block takes. -/
theorem LitRuns.litRun {p : Nat → Bool} (hp : p (litFields l.words).conv = true) : ∃ k, s.litRun n cmd p = State.litUntil n l (k + 4) s := by
  have hfuel : 4 ≤ ((s.core n).lit.map LitCmd.turns).foldl (· + ·) 0 := by
    have hturns : 4 ≤ l.turns := by
      rw [LitCmd.turns, h.rows]
      exact Nat.mul_le_mul_left 2 (Nat.le_add_left 2 _)
    rw [← List.sum_eq_foldl]
    exact hturns.trans (List.le_sum_of_mem (List.mem_map_of_mem (List.mem_of_getElem? h.at_)))
  obtain ⟨k, hk⟩ := Nat.exists_eq_add_of_le' hfuel
  refine ⟨k, ?_⟩
  rw [State.litRun, FarCore.litAt, h.at_]
  dsimp only
  rw [h.lone.started, hp, hk]
  rfl

/-- A command from memory leaves its destination bytes in scratch. -/
theorem LitRuns.into_scratch {p : Nat → Bool} (hp : p (litFields l.words).conv = true) (hb : convBlock (litFields l.words).conv = true)
    (hsrc : (litFields l.words).srcGlobal = true) (hu : (convUnits (litFields l.words).conv l.code).1 = b128Bytes l.code)
    (hact : ∀ e ∈ (s.litSource n l).1, e.act = 0) (hlen : (s.litImage n l).length = (convUnits (litFields l.words).conv l.code).2)
    (hcut : ∀ x ∈ (l.target (litFields l.words).src).perLine (b128Bytes l.code), s.cutOff (s.dieOf n) x.2 x.1 = false) :
    ((s.litRun n cmd p).core n).lit.find? l.named = none ∧ (s.litRun n cmd p).store = s.store ∧
      (s.litRun n cmd p).crew? l.crew = some (c.write (litFields l.words).dst (s.litImage n l).length (ofBytes (s.litImage n l))) := by
  obtain ⟨k, hk⟩ := h.litRun hp
  have hblock := h.oneBlock hb
  obtain ⟨hlone, hstored⟩ := h.lone.litTurn_readBlock hblock h.crew h.tables hsrc hu h.pos h.writing h.buffer hact hcut
  obtain ⟨hgone, hstore, hcrew⟩ := hlone.litTurn_writeScratch (hblock.holding _) ((State.crew?_congr hstored.crews _).trans h.crew)
    ((State.hashes_congr hstored.berths c).trans h.plain) hsrc hu rfl rfl hlen
  rw [hk, h.lone.litUntil_succ rfl (k + 3), hlone.litUntil_succ (l₀ := l) rfl (k + 2), State.litUntil_gone (l := l) hgone]
  exact ⟨hgone, hstore.trans hstored.store, hcrew⟩

/-- A command into memory leaves its block there. -/
theorem LitRuns.into_memory {p : Nat → Bool} (hp : p (litFields l.words).conv = true) (hb : convBlock (litFields l.words).conv = true)
    (hdir : (litFields l.words).dir = 1) (hu2 : (convUnits (litFields l.words).conv l.code).2 = b128Bytes l.code) (hunit : l.unitMoves)
    (himg : (litFields l.words).conv = 0x90 → ∀ i, i < 15 → Cells.get c.scratch ((litFields l.words).src + 16 * b128Width l.code + 1 + i) = 0)
    (hcut : ∀ x ∈ (l.target (litFields l.words).dst).perLine (b128Bytes l.code), s.cutOff (s.dieOf n) x.2 x.1 = false) :
    ((s.litRun n cmd p).core n).lit.find? l.named = none ∧ (s.litRun n cmd p).store =
      (s.litPut n l (litFields l.words).dst (Cells.range c.scratch (litFields l.words).src (convUnits (litFields l.words).conv l.code).1)).store := by
  obtain ⟨k, hk⟩ := h.litRun hp
  have hblock := h.oneBlock hb
  obtain ⟨t, i, hi, hkept, hlone, hread⟩ := h.lone.litUntil_readScratch hblock h.crew h.tables h.good (LitFields.sides_of_dir hdir).1 h.writing h.pos h.buffer himg hunit
  obtain ⟨u, j, hj, hgone, hstore, hwrite⟩ := hlone.litUntil_writeBlock (hblock.holding _) ((hkept.crew? _).trans h.crew) h.live ((hkept.hashes c).trans h.plain) hdir rfl rfl hu2
    (fun x hx => (hkept.cut _ _ _).trans (by rw [hkept.dieOf]; exact hcut x hx)) hunit
  have hrun : s.litRun n cmd p = u := by
    rw [hk, show k + 4 = k + (4 - i - j) + j + i by omega, hread]
    rw [← hwrite (k + (4 - i - j))]
    exact State.litUntil_named (by rfl) _ _
  rw [hrun]
  refine ⟨hgone, hstore.trans ?_⟩
  rw [State.litPut_congr hkept.homes (hkept.elem _)]
  change (s.litPut n l (litFields l.words).dst ((Cells.range c.scratch _ _).take (convUnits (litFields l.words).conv l.code).1)).store = _
  rw [List.take_of_length_le (by rw [Cells.length_range])]

end

/-! ## The values (R92, R107, R224) -/

section
variable {conv code scale : Nat} {el : Elem} {els : List ElemRead} (hact : ∀ e ∈ els, e.act = 0)
include hact

/-- What an expansion makes of elements without an action. -/
theorem litBlockOut_expand (hc : conv ≠ 0x82) : (litBlockOut conv code el els scale).1 =
    els.flatMap fun e => toBytes (if conv = 0x80 then 2 else 4) (if conv = 0x80 then el.toBf16 scale e.val else el.toF32 .rne scale e.val).1 := by
  rw [litBlockOut, if_neg hc]
  dsimp only
  rw [List.flatMap_map]
  refine List.flatMap_congr fun e he => ?_
  have h2 : ¬ e.act = 2 := by rw [hact e he]; decide
  rw [if_neg h2, if_neg h2]

/-- What `pack.in` makes of elements without an action. -/
theorem litBlockOut_pack : (litBlockOut 0x82 code el els scale).1 = toBytes (16 * b128Width code) (packField (b128Width code) (els.map (·.val))) ++ toBytes 16 scale := by
  have h2 (e : ElemRead) (he : e ∈ els) : ¬ e.act = 2 := by rw [hact e he]; decide
  have hany : els.any (·.act == 2) = false := by
    rw [List.any_eq_false]
    exact fun e he => by simpa using h2 e he
  have hvals : (els.map fun e => if e.act = 2 ∧ code = 6 then fmtE4M3.cnan else e.val) = els.map (·.val) :=
    List.map_congr_left fun e he => if_neg fun hh => h2 e he hh.1
  rw [litBlockOut, if_pos rfl]
  dsimp only
  rw [hany, hvals, if_neg (by simp)]

end

theorem State.length_readBlock (s : State) (many : Bool) (at_ code pol j n : Nat) : (s.readBlock many at_ code pol j n).1.length = n := by
  rw [State.readBlock, List.length_map, List.length_range]

/-- BF16 values of scratch. -/
theorem litValues_bf16 {conv : Nat} (hc : conv ≠ 0x92) (c : Crew) (ofs : Nat) :
    litValues conv (Cells.range c.scratch ofs 256) = (List.range 128).map fun j => fmtBF16.dec (c.read (ofs + 2 * j) 2) := by
  rw [litValues]
  refine List.map_congr_left fun j hj => ?_
  rw [if_neg hc, show 16 * j = 8 * (2 * j) by omega]
  exact congrArg _ (c.bits_range ofs (n := 256) (a := 2 * j) (b := 2) (by have := List.mem_range.mp hj; omega))

/-- F32 values of scratch. -/
theorem litValues_f32 (c : Crew) (ofs : Nat) : litValues 0x92 (Cells.range c.scratch ofs 512) = (List.range 128).map fun j => fmtF32.dec (c.read (ofs + 4 * j) 4) := by
  rw [litValues]
  refine List.map_congr_left fun j hj => ?_
  rw [if_pos rfl, show 32 * j = 8 * (4 * j) by omega]
  exact congrArg _ (c.bits_range ofs (n := 512) (a := 4 * j) (b := 4) (by have := List.mem_range.mp hj; omega))

/-- What a fresh quantization writes (R89, R90). -/
theorem State.litPut_quant (s : State) (n : Nat) (l : LitCmd) (va : Nat) (bs : List Byte) (h90 : (litFields l.words).conv ≠ 0x90) (h93 : (litFields l.words).conv ≠ 0x93) :
    s.litPut n l va bs = let q := ((s.core n).litElem l).quantBlock (litValues (litFields l.words).conv bs)
      s.writeBlock noWave (l.target va).at_ l.code (packField (b128Width l.code) q.elems) q.scale := by
  rw [State.litPut, if_neg h90, if_neg h93]

/-- What a rounding into the block's scale writes (R91). -/
theorem State.litPut_requant (s : State) (n : Nat) (l : LitCmd) (va : Nat) (bs : List Byte) (h93 : (litFields l.words).conv = 0x93) :
    s.litPut n l va bs = s.homeWrites noWave (blockWrites (l.target va).at_ l.code 0 (128 * b128Width l.code) (packField (b128Width l.code)
      ((litValues (litFields l.words).conv bs).map fun v => (((s.core n).litElem l).quantInto (s.blockScale (l.target va).at_ l.code) v).1))) := by
  rw [State.litPut, if_neg (by rw [h93]; decide), if_pos h93]

/-- What `pack.out` writes: the elements and the scale of the image (R107). -/
theorem State.litPut_image (s : State) (n : Nat) (l : LitCmd) (va : Nat) (c : Crew) (ofs : Nat) (h90 : (litFields l.words).conv = 0x90) :
    s.litPut n l va (Cells.range c.scratch ofs (imageBytes (b128Width l.code))) =
      s.writeBlock noWave (l.target va).at_ l.code (c.read ofs (16 * b128Width l.code)) (c.read (ofs + 16 * b128Width l.code) 1) := by
  have htake : (Cells.range c.scratch ofs (imageBytes (b128Width l.code))).take (16 * b128Width l.code) = Cells.range c.scratch ofs (16 * b128Width l.code) :=
    Cells.take_drop_range c.scratch ofs (a := 0) (by rw [imageBytes]; omega)
  have hget : ((Cells.range c.scratch ofs (imageBytes (b128Width l.code))).getD (16 * b128Width l.code) 0).toNat = c.read (ofs + 16 * b128Width l.code) 1 := by
    rw [List.getD_eq_getElem?_getD, Cells.range, List.getElem?_map, List.getElem?_range (by rw [imageBytes]; omega)]
    rfl
  rw [State.litPut, if_pos h90, htake, hget]
  rfl

/-- What stands in scratch of pieces of equal length. -/
theorem Crew.read_write_flatMap {α : Type} {c : Crew} (hc : Cells.wf c.scratch = true) (ofs : Nat) {g : α → List Byte} {k : Nat} (hg : ∀ a, (g a).length = k) {l : List α}
    {j : Nat} {a : α} (hj : l[j]? = some a) : (c.write ofs (l.flatMap g).length (ofBytes (l.flatMap g))).read (ofs + k * j) k = ofBytes (g a) := by
  obtain ⟨hlt, -⟩ := List.getElem?_eq_some_iff.mp hj
  rw [Crew.read_write hc, take_drop_flatMap hg l hj]
  rw [length_flatMap_const hg]
  exact Nat.mul_le_mul_left k hlt

/-- The block that a command reads has 128 elements. -/
theorem State.litSource_getElem? (s : State) (n : Nat) (l : LitCmd) {j : Nat} (hj : j < 128) : (s.litSource n l).1[j]? = some ((s.litSource n l).1.getD j ⟨0, 0, 0⟩) := by
  have hlen : (s.litSource n l).1.length = 128 := State.length_readBlock ..
  rw [List.getD_eq_getElem?_getD, List.getElem?_eq_getElem (by rw [hlen]; exact hj)]
  rfl

/-- An expansion by a command from memory: each element stands in scratch as a value of k bytes (R92). -/
theorem LitRuns.expand {s : State} {n cmd : Nat} {l : LitCmd} {c : Crew} (h : LitRuns s n cmd l c) {p : Nat → Bool} (hp : p (litFields l.words).conv = true)
    (hb : convBlock (litFields l.words).conv = true) (hsrc : (litFields l.words).srcGlobal = true) (hact : ∀ e ∈ (s.litSource n l).1, e.act = 0)
    (hcut : ∀ x ∈ (l.target (litFields l.words).src).perLine (b128Bytes l.code), s.cutOff (s.dieOf n) x.2 x.1 = false) {k : Nat} {value : Nat → Nat}
    (hu : convUnits (litFields l.words).conv l.code = (b128Bytes l.code, 128 * k))
    (himage : s.litImage n l = (s.litSource n l).1.flatMap fun e => toBytes k (value e.val)) :
    ∃ c', ((s.litRun n cmd p).core n).lit.find? l.named = none ∧ (s.litRun n cmd p).crew? l.crew = some c' ∧ (s.litRun n cmd p).store = s.store ∧
      ∀ j, j < 128 → c'.read ((litFields l.words).dst + k * j) k = value ((s.litSource n l).1.getD j ⟨0, 0, 0⟩).val % 2 ^ (8 * k) := by
  have hlen : (s.litImage n l).length = (convUnits (litFields l.words).conv l.code).2 := by
    rw [himage, length_flatMap_const (k := k) fun e => length_toBytes .., hu, State.litSource, State.length_readBlock, Nat.mul_comm]
  obtain ⟨hgone, hstore, hcrew⟩ := h.into_scratch hp hb hsrc (by rw [hu]) hact hlen hcut
  refine ⟨_, hgone, hcrew, hstore, fun j hj => ?_⟩
  rw [himage, Crew.read_write_flatMap h.scratch _ (fun e => length_toBytes ..) (s.litSource_getElem? n l hj), ofBytes_toBytes]

/-- Settles O45: a command's turns one by one, the bytes that they leave, and the values that these are. -/
theorem blockConversions : Obligations.BlockConversions := by
  intro s n cmd l c p
  dsimp only
  intro hat hfound hc hsh hh hwf hbad htab hkeys honly hpages hdev hlo hhi hva hst hrow hwr hpos hbuf hrows hfull
  have hcode : p.tgt.code = l.code := by rw [LitCmd.code, hpages]; rfl
  rw [hcode]
  intro hbytes hcut
  have h : LitRuns s n cmd l c := ⟨hat, ⟨List.mem_of_getElem? hat, hst, honly, hkeys⟩, hc, hsh, hh, hwf, hbad, htab, hrow, hrows, hfull, hbytes, hpos, hwr, hbuf⟩
  obtain ⟨hb0, hb128⟩ := b128Bytes_bounds l.code
  refine ⟨fun hsrc => ?_, fun hdir => ?_⟩
  · rw [if_pos hsrc] at hcut ⊢
    intro hact
    change ∀ e ∈ (s.litSource n l).1, e.act = 0 at hact
    refine ⟨fun hconv => ?_, fun hconv => ?_, fun hconv => ?_⟩
    · have himage : s.litImage n l = (s.litSource n l).1.flatMap fun e => toBytes 2 (((s.core n).litElem l).toBf16 (s.litSource n l).2.1 e.val).1 := by
        rw [State.litImage, hconv, litBlockOut_expand hact (by decide)]
        rfl
      obtain ⟨c', hgone, hrest⟩ := h.expand (p := (· == 0x80)) (k := 2) (value := fun x => (((s.core n).litElem l).toBf16 (s.litSource n l).2.1 x).1)
        (by rw [hconv]; rfl) (by rw [hconv]; rfl) hsrc hact hcut (by rw [hconv]; rfl) himage
      exact ⟨_, c', ⟨rfl, hgone⟩, hrest⟩
    · have himage : s.litImage n l = (s.litSource n l).1.flatMap fun e => toBytes 4 (((s.core n).litElem l).toF32 .rne (s.litSource n l).2.1 e.val).1 := by
        rw [State.litImage, hconv, litBlockOut_expand hact (by decide)]
        rfl
      obtain ⟨c', hgone, hrest⟩ := h.expand (p := (· == 0x81)) (k := 4) (value := fun x => (((s.core n).litElem l).toF32 .rne (s.litSource n l).2.1 x).1)
        (by rw [hconv]; rfl) (by rw [hconv]; rfl) hsrc hact hcut (by rw [hconv]; rfl) himage
      exact ⟨_, c', ⟨rfl, hgone⟩, hrest⟩
    · have himage : s.litImage n l = toBytes (16 * b128Width l.code) (packField (b128Width l.code) ((s.litSource n l).1.map (·.val))) ++ toBytes 16 (s.litSource n l).2.1 := by
        rw [State.litImage, hconv, litBlockOut_pack hact]
      have hlen : (s.litImage n l).length = 16 * b128Width l.code + 16 := by rw [himage, List.length_append, length_toBytes, length_toBytes]
      obtain ⟨hgone, hstore, hcrew⟩ := h.into_scratch (p := (· == 0x82)) (by rw [hconv]; rfl) (by rw [hconv]; rfl) hsrc (by rw [hconv]; rfl) hact
        (by rw [hlen, hconv]; rfl) hcut
      refine ⟨_, _, ⟨rfl, hgone⟩, hcrew, hstore, ?_, ?_⟩
      · refine (Crew.read_write hwf _ _ (a := 0) (b := 16 * b128Width l.code) (by omega)).trans ?_
        rw [List.drop_zero, himage, List.take_left' (length_toBytes ..), ofBytes_toBytes, ← Nat.mul_assoc]
        rfl
      · rw [Crew.read_write hwf _ _ (by omega), himage, List.drop_left' (length_toBytes ..), List.take_of_length_le (by rw [length_toBytes]), ofBytes_toBytes]
        rfl
  · obtain ⟨hsrc, -⟩ := LitFields.sides_of_dir hdir
    rw [if_neg (by rw [hsrc]; exact Bool.false_ne_true)] at hcut ⊢
    refine ⟨fun hconv hz => ?_, fun hconv => ?_, fun hconv => ?_, fun hconv => ?_⟩
    · have hunit : (convUnits (litFields l.words).conv l.code).1 = imageBytes (b128Width l.code) := by rw [hconv]; rfl
      obtain ⟨hgone, hstore⟩ := h.into_memory (p := (· == 0x90)) (by rw [hconv]; rfl) (by rw [hconv]; rfl) hdir (by rw [hconv]; rfl)
        (.inl (by rw [hunit, imageBytes]; rw [b128Bytes] at hb128; omega)) (fun _ => hz) hcut
      rw [hunit, State.litPut_image _ _ _ _ _ _ hconv] at hstore
      exact ⟨_, ⟨rfl, hgone⟩, hstore⟩
    · have hunit : (convUnits (litFields l.words).conv l.code).1 = 256 := by rw [hconv]; rfl
      obtain ⟨hgone, hstore⟩ := h.into_memory (p := (· == 0x91)) (by rw [hconv]; rfl) (by rw [hconv]; rfl) hdir (by rw [hconv]; rfl)
        (.inl (by rw [hunit]; decide)) (fun h90 => absurd (hconv.symm.trans h90) (by decide)) hcut
      rw [hunit, State.litPut_quant _ _ _ _ _ (by rw [hconv]; decide) (by rw [hconv]; decide), litValues_bf16 (by rw [hconv]; decide)] at hstore
      exact ⟨_, ⟨rfl, hgone⟩, hstore⟩
    · have hunit : (convUnits (litFields l.words).conv l.code).1 = 512 := by rw [hconv]; rfl
      obtain ⟨hgone, hstore⟩ := h.into_memory (p := (· == 0x92)) (by rw [hconv]; rfl) (by rw [hconv]; rfl) hdir (by rw [hconv]; rfl)
        (.inr hconv) (fun h90 => absurd (hconv.symm.trans h90) (by decide)) hcut
      rw [hunit, State.litPut_quant _ _ _ _ _ (by rw [hconv]; decide) (by rw [hconv]; decide), hconv, litValues_f32] at hstore
      exact ⟨_, ⟨rfl, hgone⟩, hstore⟩
    · have hunit : (convUnits (litFields l.words).conv l.code).1 = 256 := by rw [hconv]; rfl
      obtain ⟨hgone, hstore⟩ := h.into_memory (p := (· == 0x93)) (by rw [hconv]; rfl) (by rw [hconv]; rfl) hdir (by rw [hconv]; rfl)
        (.inl (by rw [hunit]; decide)) (fun h90 => absurd (hconv.symm.trans h90) (by decide)) hcut
      rw [hunit, State.litPut_requant _ _ _ _ _ hconv, litValues_bf16 (by rw [hconv]; decide), List.map_map] at hstore
      rw [List.map_map]
      exact ⟨_, ⟨rfl, hgone⟩, hstore⟩

end Sys2Proof.Machine
end

section
/-! SUPPORT of O58. What else reads memory and writes none of it: translation, checks, fetches, and the reads of loads and engines (R174, R233, R236, R260, R269, R371). -/

open Sys2Proof
namespace Sys2Proof.Machine
namespace memRead
variable {s t u : State}

/-! ## Checks and fetches (R174, R233) -/

theorem translate (s : State) (tlb ctx va : Nat) (n : Need) : memRead s (s.translate tlb ctx va n).1 := of_tlbWalked (tlbWalked.translate ..)

theorem virtRes (s : State) (tlb ctx : Nat) (k : AccKind) (va : Nat) : memRead s (s.virtRes tlb ctx k va).1 := by
  unfold State.virtRes
  split_ifs
  · exact refl s
  · exact refl s
  · exact refl s
  · exact translate ..

theorem laneRes (s : State) (tlb : Nat) (k : AccKind) (va : Nat) : memRead s (s.laneRes tlb k va).1 := by
  unfold State.laneRes
  split
  · exact refl s
  · exact virtRes ..

theorem laneAll (s : State) (tlb : Nat) (k : AccKind) (l : List (Nat × Nat)) : memRead s (s.laneAll tlb k l).1 := by
  induction l generalizing s with
  | nil => exact refl s
  | cons p r ih => exact (laneRes ..).trans (ih _)

theorem checkGlobal (s : State) (k : AccKind) (as : List (Nat × Nat)) : memRead s (s.checkGlobal k as).1 := by
  have hl := laneAll s (unitOf s.me.gwn) k as
  unfold State.checkGlobal
  split
  · exact refl s
  · split
    · exact refl s
    · split
      · exact refl s
      · dsimp only
        split
        · exact hl
        · split
          · exact hl
          · exact hl

theorem fetchAt (s : State) (unit : Nat) (a : Target) : memRead s (s.fetchAt unit a).1 := by
  unfold State.fetchAt
  split
  · exact refl s
  · split
    · exact refl s
    · extract_lets r bad u w
      have hu : memRead s u := (recordAll ..).trans (recordIdle ..)
      split_ifs
      · exact hu
      · exact hu.trans rfl
      · exact hu

theorem fetch (s : State) : memRead s s.fetch.1 := by
  unfold State.fetch
  extract_lets w pc u p r
  have hr : memRead s r.1 := translate ..
  split_ifs
  · exact refl s
  · exact refl s
  · exact fetchAt ..
  · exact refl s
  · exact refl s
  · exact refl s
  · split
    · split
      · exact hr.trans (fetchAt ..)
      · exact hr
      · exact hr
    · exact hr
    · exact hr
    · exact hr
    · exact hr

/-! ## The reads of loads (R103, R236, R239) -/

theorem fillL1 (s : State) (core line code : Nat) : memRead s (s.fillL1 core line code) := by
  unfold State.fillL1
  dsimp only
  split
  · rfl
  · rfl

theorem refreshL1 (s : State) (core line code : Nat) : memRead s (s.refreshL1 core line code) := by
  unfold State.refreshL1
  split
  · exact fillL1 ..
  · exact refl s

theorem fillFrom (s : State) (core : Nat) (a : Target) : memRead s (s.fillFrom core a) := rfl

theorem readLane (s : State) (unit crew : Nat) (plain many : Bool) (a : Target) (size : Nat) : memRead s (s.readLane unit crew plain many a size).1 := by
  unfold State.readLane
  split
  · exact refl s
  · have hr := readAt s unit crew true many a size
    dsimp only
    split
    · exact hr.trans (fillFrom ..)
    · exact hr.trans (dropCopies ..)

theorem readLanes (s : State) (unit crew : Nat) (plain many : Bool) (ty : LdTy) (d : Opnd) (l : List (Nat × Target)) (ws : List RegWrite) (fl : Flags) :
    memRead s (s.readLanes unit crew plain many ty d l ws fl).1 := by
  induction l generalizing s ws fl with
  | nil => exact refl s
  | cons p r ih => exact (readLane ..).trans (ih ..)

theorem recordUnread (s : State) (unit size : Nat) (ts : List Target) : memRead s (s.recordUnread unit size ts) := recordFrom ..

theorem useFree (s : State) (a : Target) : memRead s (s.useFree a) := by
  unfold State.useFree
  split
  · rfl
  · exact refl s

theorem prefetch (s : State) (va : Nat) : memRead s (s.prefetch va) := by
  have hr := laneRes s (unitOf s.me.gwn) ⟨.r, 1, false, false, false⟩ va
  unfold State.prefetch
  extract_lets u r
  split
  · exact refl s
  · split
    · split
      · exact (hr.trans (noteReplica ..)).trans (fillFrom ..)
      · exact hr
    · exact hr

/-! ## The reads of engines (R260, R269) -/

theorem readPiece (s : State) (unit : Nat) (many : Bool) (a : Target) (n : Nat) : memRead s (s.readPiece unit many a n).1 := by
  unfold State.readPiece
  split
  · exact refl s
  · split
    · exact (recordAll ..).trans (noteReplica ..)
    · exact readAt ..

theorem pieceTargets (s : State) (core ctx : Nat) (k : AccKind) (l : List (Nat × Nat)) : memRead s (s.pieceTargets core ctx k l).1 := by
  induction l generalizing s with
  | nil => exact refl s
  | cons p r ih =>
    unfold State.pieceTargets
    extract_lets a b
    have ha : memRead s a.1 := virtRes ..
    split
    · exact refl s
    · split
      · exact ha
      · exact ha
      · exact ha.trans (ih _)

theorem readPieces (s : State) (core : Nat) (many : Bool) (l : List (Target × Nat)) : memRead s (s.readPieces core many l).1 := by
  induction l generalizing s with
  | nil => exact refl s
  | cons p r ih => exact (readPiece ..).trans (ih _)

theorem matRows (s : State) (core : Nat) (c : Crew) (d : MatSide) (many : Bool) (k0 n : Nat) (l : List Nat) : memRead s (s.matRows core c d many k0 n l).1 := by
  induction l generalizing s with
  | nil => exact refl s
  | cons row rs ih =>
    unfold State.matRows
    split
    · dsimp only
      split
      · exact pieceTargets ..
      · exact ((pieceTargets ..).trans (readPieces ..)).trans (ih _)
    · exact ih s

theorem matUnread (s : State) (core ctx : Nat) (a b : MatSide) (n : Nat) : memRead s (s.matUnread core ctx a b n) := recordFrom ..

theorem litPage (s : State) (core ctx : Nat) (need : Need) (block : Bool) (first : Option Nat) (va : Nat) :
    memRead s (s.litPage core ctx need block first va).1 := by
  unfold State.litPage
  split
  · exact refl s
  · extract_lets k a o
    have ha : memRead s a.1 := virtRes ..
    split
    · exact ha
    · exact ha
    · split
      · exact ha
      · exact ha

theorem litPages (s : State) (core ctx : Nat) (need : Need) (block : Bool) (first : Option Nat) (l : List Nat) (ps : List PageTr) :
    memRead s (s.litPages core ctx need block first l ps).1 := by
  induction l generalizing s ps with
  | nil => exact refl s
  | cons va r ih =>
    unfold State.litPages
    split
    · exact ih ..
    · extract_lets a
      have ha : memRead s a.1 := litPage ..
      split
      · exact ha
      · exact ha.trans (ih ..)

theorem litPrepare (s : State) (core : Nat) (c : Crew) (l : LitCmd) : memRead s (s.litPrepare core c l).1 := by
  unfold State.litPrepare
  extract_lets f need rowsOf a b
  have ha : memRead s a.1 := litPage ..
  have hb : memRead s b.1 := litPages ..
  split
  · exact refl s
  · split
    · split
      · exact ha
      · dsimp only
        split
        · exact ha
        · split
          · exact ha.trans (litPages ..)
          · exact ha.trans (litPages ..)
    · split
      · exact hb
      · split
        · exact hb
        · exact hb

theorem copyPiece (s : State) (core : Nat) (many : Bool) (a : Target) (n : Nat) : memRead s (s.copyPiece core many a n).1 := by
  unfold State.copyPiece
  split
  · exact readPiece ..
  · exact (recordAll ..).trans (noteReplica ..)

theorem litLines (s : State) (core : Nat) (l : LitCmd) (copy many : Bool) (ps : List (Nat × Nat)) : memRead s (s.litLines core l copy many ps).1 := by
  induction ps generalizing s with
  | nil => exact refl s
  | cons p r ih =>
    refine trans ?_ (ih _)
    split
    · exact copyPiece ..
    · exact readPiece ..

theorem litBlocks (s : State) (core : Nat) (l : LitCmd) (many : Bool) (va n : Nat) : memRead s (s.litBlocks core l many va n).1 := by
  induction n generalizing s va with
  | zero => exact refl s
  | succ n ih => exact ((recordAll ..).trans (foldl (fun _ _ => noteReplica ..) _ _)).trans (ih ..)

/-! ## The network port's translations (R371) -/

theorem juwinTargets (s : State) (ctx : Nat) (l : List (Nat × Nat)) : memRead s (s.juwinTargets ctx l).1 := by
  induction l generalizing s with
  | nil => exact refl s
  | cons p r ih =>
    unfold State.juwinTargets
    split
    · exact refl s
    · split
      · exact refl s
      · split
        · exact refl s
        · extract_lets a res
          have ha : memRead s a.1 := translate ..
          clear_value res
          split
          · exact ha
          · split
            · exact ha
            · exact ha.trans (ih _)

end memRead
end Sys2Proof.Machine
end

section
/-! SUPPORT of O58. Canonical memory: device memory, and the scratch and full bits of every crew, running or saved in an image; what the shared operations make of it. -/

open Sys2Proof
namespace Sys2Proof.Machine

/-! ## Crews whose scratch is canonical -/

theorem Crew.wf_iff (c : Crew) : c.wf = true ↔ Cells.wf c.scratch = true ∧ Cells.wf c.full = true := by simp [Crew.wf]

/-- A change of a crew that keeps its scratch and its full bits canonical. -/
def Crew.KeepsWf (f : Crew → Crew) : Prop := ∀ c : Crew, c.wf = true → (f c).wf = true

theorem Crew.wf_write {c : Crew} {ofs n x : Nat} (h : c.wf = true) : (c.write ofs n x).wf = true := by
  obtain ⟨hs, hf⟩ := (Crew.wf_iff c).mp h
  exact (Crew.wf_iff _).mpr ⟨Cells.wf_setRange _ _ _ hs, hf⟩

theorem Crew.wf_setFull {c : Crew} {g : Nat} {b : Bool} (h : c.wf = true) : (c.setFull g b).wf = true := by
  obtain ⟨hs, hf⟩ := (Crew.wf_iff c).mp h
  exact (Crew.wf_iff _).mpr ⟨hs, Cells.wf_set _ _ _ hf⟩

theorem Crew.wf_setFulls {c : Crew} {l : List (Nat × Bool)} (h : c.wf = true) : (c.setFulls l).wf = true := by
  induction l generalizing c with
  | nil => exact h
  | cons p r ih => exact ih (Crew.wf_setFull h)

theorem Crew.wf_withBad {c : Crew} {b : List Nat} (h : c.wf = true) : ({ c with bad := b } : Crew).wf = true := h

theorem Crew.wf_applyTx {c : Crew} {w : TxWrite} (h : c.wf = true) : (c.applyTx w).wf = true := by
  unfold Crew.applyTx
  extract_lets old whole
  exact Crew.wf_setFulls (Crew.wf_withBad (Crew.wf_write h))

/-- The scratch and the full bits of every crew of a list are canonical. -/
def crewsOk (l : List Crew) : Prop := ∀ c ∈ l, c.wf = true

theorem crewsOk.filter {l : List Crew} (h : crewsOk l) (p : Crew → Bool) : crewsOk (l.filter p) := fun c hc => h c (List.mem_filter.mp hc).1

theorem crewsOk.append {a b : List Crew} (ha : crewsOk a) (hb : crewsOk b) : crewsOk (a ++ b) :=
  fun c hc => (List.mem_append.mp hc).elim (ha c) (hb c)

theorem crewsOk.map {l : List Crew} {f : Crew → Crew} (h : crewsOk l) (hf : Crew.KeepsWf f) : crewsOk (l.map f) := by
  intro c hc
  obtain ⟨x, hx, rfl⟩ := List.mem_map.mp hc
  exact hf x (h x hx)

/-- Every crew saved in an image of a context is canonical. -/
def Context.savedOk (c : Context) : Prop := ∀ i ∈ c.images, crewsOk i.crews

/-- Every crew saved in an image is canonical. -/
def savedOk (l : List Context) : Prop := ∀ c ∈ l, c.savedOk

theorem Context.savedOk_of_nil {c : Context} (h : c.images = []) : c.savedOk := by simp [Context.savedOk, h]

theorem savedOk.append {a b : List Context} (ha : savedOk a) (hb : savedOk b) : savedOk (a ++ b) :=
  fun c hc => (List.mem_append.mp hc).elim (ha c) (hb c)

theorem savedOk.filter {l : List Context} (h : savedOk l) (p : Context → Bool) : savedOk (l.filter p) :=
  fun c hc => h c (List.mem_filter.mp hc).1

/-! ## Shared operations of the state -/

namespace memOk
variable {s t : State}

theorem store (h : memOk s) : s.store.wf = true := h.1

theorem crews (h : memOk s) : crewsOk s.crews := h.2.1

theorem saved (h : memOk s) : savedOk s.ctxs := h.2.2

/-- The form looks at device memory, crews and contexts alone: an update of anything else keeps it. -/
theorem of_eq (h : memOk s) (hs : t.store = s.store) (hc : t.crews = s.crews) (hx : t.ctxs = s.ctxs) : memOk t := by
  rw [memOk, hs, hc, hx]
  exact h

theorem of_memRead (h : memOk s) (hr : memRead s t) : memOk t := h.of_eq (by rw [hr]) (by rw [hr]) (by rw [hr])

theorem foldl {α : Type} {f : State → α → State} (h : memOk s) (hf : ∀ s a, memOk s → memOk (f s a)) (l : List α) : memOk (l.foldl f s) := by
  induction l generalizing s with
  | nil => exact h
  | cons a r ih => exact ih (hf s a h)

theorem withStore {st : Store} (h : memOk s) (hs : st.wf = true) : memOk { s with store := st } := ⟨hs, h.crews, h.saved⟩

theorem withCrews {l : List Crew} (h : memOk s) (hl : crewsOk l) : memOk { s with crews := l } := ⟨h.store, hl, h.saved⟩

theorem withCtxs {l : List Context} (h : memOk s) (hl : savedOk l) : memOk { s with ctxs := l } := ⟨h.store, h.crews, hl⟩

theorem mapMe {f : Wave → Wave} (h : memOk s) : memOk (s.mapMe f) := h

theorem modWave {g : Nat} {f : Wave → Wave} (h : memOk s) : memOk (s.modWave g f) :=
  h.of_eq (State.modWave_store ..) (State.modWave_crews ..) (State.modWave_ctxs ..)

theorem modWaves {p : Wave → Bool} {f : Wave → Wave} (h : memOk s) : memOk (s.modWaves p f) := h

theorem focus {g : Nat} (h : memOk s) : memOk (s.focus g) := by
  unfold State.focus
  split
  · exact h
  · split <;> exact h

theorem dropWaves {p : Wave → Bool} (h : memOk s) : memOk (s.dropWaves p) := by
  unfold State.dropWaves
  dsimp only
  split
  · split <;> exact h
  · exact h

theorem setBerth {b : Berth} (h : memOk s) : memOk (s.setBerth b) := h

theorem setCore {c : FarCore} (h : memOk s) : memOk (s.setCore c) := h

theorem modPart {p : Nat} {f : Partition → Partition} (h : memOk s) : memOk (s.modPart p f) := h

theorem modHm {n : Nat} {f : HmCore → HmCore} (h : memOk s) : memOk (s.modHm n f) := h

theorem modOut {f : Outside → Outside} (h : memOk s) : memOk (s.modOut f) := h

theorem record {a v : Nat} (h : memOk s) : memOk (s.record a v) := h

theorem modCrew {id : Nat} {f : Crew → Crew} (h : memOk s) (hf : Crew.KeepsWf f) : memOk (s.modCrew id f) := by
  refine h.withCrews fun c hc => ?_
  obtain ⟨x, hx, rfl⟩ := mem_mapWhere hc
  split
  · exact hf x (h.crews x hx)
  · exact h.crews x hx

/-- A change of a context's images that keeps their crews canonical. -/
theorem modCtxImages {n : Nat} {f : Context → Context} (h : memOk s) (hf : ∀ c : Context, c.savedOk → (f c).savedOk) : memOk (s.modCtx n f) := by
  refine h.withCtxs fun c hc => ?_
  obtain ⟨x, hx, rfl⟩ := mem_mapWhere hc
  split
  · exact hf x (h.saved x hx)
  · exact h.saved x hx

/-- A change of a context that leaves its images alone. -/
theorem modCtx {n : Nat} {f : Context → Context} (h : memOk s) (hf : ∀ c, (f c).images = c.images) : memOk (s.modCtx n f) :=
  h.modCtxImages fun c hc => by
    rw [Context.savedOk, hf c]
    exact hc

theorem modLaunch {c l : Nat} {f : Launch → Launch} (h : memOk s) : memOk (s.modLaunch c l f) := h.modCtx fun _ => rfl

theorem report {c l : Nat} {r : Report} (h : memOk s) : memOk (s.report c l r) := h.modLaunch

/-! ## Issue, faults and exceptions (R18, R63, R142, R174, R293) -/

theorem finish {f : Wave → Wave} (h : memOk s) : memOk (s.finish f) := h

theorem jump {a : Word} {f : Wave → Wave} (h : memOk s) : memOk (s.jump a f) := h

theorem stall {i : Instr} (h : memOk s) : memOk (s.stall i) := h

theorem launchFlight {c : Ctl} {cls : OrdClass} {b : Pending} (h : memOk s) : memOk (s.launchFlight c cls b) := h

theorem abortTx {status code cause : Nat} (h : memOk s) : memOk (s.abortTx status code cause) := h

theorem hmException {epc : Word} {cause : Nat} {val : Word} (h : memOk s) : memOk (s.hmException epc cause val) := by
  unfold State.hmException
  extract_lets n
  split_ifs
  · exact h
  · exact modOut h.mapMe
  · exact h.modHm.mapMe

theorem failTask {id : Nat} {info : FaultInfo} (h : memOk s) : memOk (s.failTask id info) := by
  unfold State.failTask
  split
  · exact h
  · split
    · exact h
    · extract_lets s1 s2 s3 b s4
      have h1 : memOk s1 := h.modCrew fun _ hc => hc
      have h4 : memOk s4 := h1
      split
      · exact h4
      · exact h4.report

theorem raise {cause sev : Nat} {d : Word} (h : memOk s) : memOk (s.raise cause sev d) := by
  unfold State.raise
  dsimp only
  split_ifs
  · exact h.abortTx
  · exact h.mapMe.hmException
  · exact h.failTask

theorem parityFault (h : memOk s) : memOk s.parityFault := by
  unfold State.parityFault
  split
  · exact h.mapMe.hmException
  · exact h.failTask

theorem badCommand (h : memOk s) : memOk s.badCommand := h.raise

theorem parkWave {g kind engine : Nat} {addr pc : Word} (h : memOk s) : memOk (s.parkWave g kind engine addr pc) := by
  unfold State.parkWave
  split
  · exact h
  · exact h.modWave.modPart

theorem takeDue (h : memOk s) : memOk s.takeDue := by
  unfold State.takeDue
  split
  · exact h.failTask
  · exact h.mapMe.parkWave
  · exact h

theorem failAccess {f : Fail} (h : memOk s) : memOk (s.failAccess f) := by
  unfold State.failAccess
  split
  · exact h.raise
  · split
    · exact h
    · exact h.mapMe.parkWave

/-- An access that passes its checks goes on in a state of the same form. -/
theorem withChecked {r : State × Checked} {f : State → List (Nat × Target) → State} (h : memOk r.1) (hf : ∀ s ts, memOk s → memOk (f s ts)) :
    memOk (State.withChecked r f) := by
  unfold State.withChecked
  split
  · exact h.failAccess
  · exact h.abortTx
  · exact hf _ _ h

theorem checkGlobal {k : AccKind} {as : List (Nat × Nat)} (h : memOk s) : memOk (s.checkGlobal k as).1 := h.of_memRead (.checkGlobal ..)

/-! ## Dooms, wakes and registrations (R151, R152) -/

theorem touchLine {writer line : Nat} (h : memOk s) : memOk (s.touchLine writer line) :=
  h.of_eq (State.touchLine_store ..) (State.touchLine_crews ..) (State.touchLine_ctxs ..)

theorem touchGranules {writer unit crew : Nat} {gs : List Nat} (h : memOk s) : memOk (s.touchGranules writer unit crew gs) := by
  induction gs generalizing s with
  | nil => exact h
  | cons g r ih => exact ih (s := s.touchGranule writer unit crew g) h

theorem wakeGranules {unit crew : Nat} {gs : List Nat} (h : memOk s) : memOk (s.wakeGranules unit crew gs) := h.foldl (fun _ _ hs => hs.modWaves) gs

theorem registerLine {line : Nat} (h : memOk s) (hu : s.registerLine line = some t) : memOk t := by
  unfold State.registerLine at hu
  dsimp only at hu
  split_ifs at hu <;> cases hu <;> exact h

theorem registerLines {l : List Nat} (h : memOk s) (hu : s.registerLines l = some t) : memOk t := by
  induction l generalizing s with
  | nil => cases hu; exact h
  | cons a r ih =>
    obtain ⟨u, hu1, hu2⟩ := Option.bind_eq_some_iff.mp hu
    exact ih (h.registerLine hu1) hu2

theorem registerGranule {g : Nat} (h : memOk s) : memOk (s.registerGranule g) := by
  unfold State.registerGranule
  dsimp only
  split_ifs <;> exact h

theorem registerGranules {l : List Nat} (h : memOk s) : memOk (s.registerGranules l) := by
  induction l generalizing s with
  | nil => exact h
  | cons g r ih => exact ih h.registerGranule

/-! ## Homes (R97, R106, R115, R336) -/

theorem homeWrite {writer line mask value code : Nat} {scale : Option Nat} (h : memOk s) : memOk (s.homeWrite writer line mask value scale code) :=
  ⟨State.wf_homeWrite _ _ _ _ _ _ _ h.store, by rw [(homed.homeWrite ..).crews]; exact h.crews, by rw [(homed.homeWrite ..).ctxs]; exact h.saved⟩

theorem writePhys {writer a size value : Nat} (h : memOk s) : memOk (s.writePhys writer a size value) := h.homeWrite

theorem homeWrites {writer : Nat} {l : List LineWrite} (h : memOk s) : memOk (s.homeWrites writer l) := h.foldl (fun _ _ hs => hs.homeWrite) _

theorem writeBlock {writer a code field scale : Nat} (h : memOk s) : memOk (s.writeBlock writer a code field scale) :=
  h.foldl (fun _ _ hs => hs.homeWrite) _

theorem discardLine {writer line code : Nat} (h : memOk s) : memOk (s.discardLine writer line code) := by
  refine ⟨State.wf_discardLine _ _ _ _ h.store, ?_⟩
  unfold State.discardLine
  extract_lets code st st2 _ u u2
  have hu : u2.crews = s.crews ∧ u2.ctxs = s.ctxs := ⟨State.touchLine_crews .., State.touchLine_ctxs ..⟩
  split
  · rw [(homed.homeWrite ..).crews, (homed.homeWrite ..).ctxs, hu.1, hu.2]
    exact h.2
  · rw [hu.1, hu.2]
    exact h.2

theorem touchRun {line n : Nat} (h : memOk s) : memOk (s.touchRun line n) := by
  unfold State.touchRun
  extract_lets inside regs _ u
  have hu : memOk u := h
  exact hu.foldl (fun _ _ hs => hs.touchLine) _

/-! ## Accesses (R97, R103, R234, R320) -/

theorem hash {crew : Nat} {m : List Byte} (h : memOk s) : memOk (s.hash crew m) := by
  unfold State.hash
  split
  · exact h
  · split
    · exact h.modCrew fun _ hc => hc
    · exact h

theorem writeScratch {writer crew ofs size x : Nat} (h : memOk s) : memOk (s.writeScratch writer crew ofs size x) := by
  unfold State.writeScratch
  split
  · exact h
  · exact (h.modCrew fun _ => Crew.wf_write).touchGranules

theorem setFulls {writer crew unit id : Nat} {l : List (Nat × Bool)} {gs : List Nat} (h : memOk s) :
    memOk ((s.modCrew id fun c => c.setFulls l).touchGranules writer unit crew gs) :=
  (h.modCrew fun _ => Crew.wf_setFulls).touchGranules

theorem writeLines {g : Nat} {l : List LineWrite} (h : memOk s) : memOk (s.writeLines g l) := by
  unfold State.writeLines
  dsimp only
  split
  · exact h.homeWrites.foldl (fun _ _ hs => hs.of_memRead (.refreshL1 ..)) _
  · exact h.homeWrites

theorem useFree {a : Target} (h : memOk s) : memOk (s.useFree a) := h.of_memRead (.useFree ..)

theorem writeAt {writer size x : Nat} {a : Target} (h : memOk s) : memOk (s.writeAt writer a size x).1 := by
  unfold State.writeAt
  dsimp only
  split
  · exact h
  · exact h.useFree.homeWrites

theorem storeField {g crew size x : Nat} {a : Target} (h : memOk s) : memOk (s.storeField g crew size a x).1 := by
  unfold State.storeField
  extract_lets w u
  have hu : memOk u := by
    apply useFree
    split
    · exact h
    · exact h.hash
  split
  · exact hu.writeScratch
  · dsimp only
    split <;> exact hu
  · exact hu

theorem storeFields {g crew size : Nat} {l : List (Target × Nat)} (h : memOk s) : memOk (s.storeFields g crew size l).1 := by
  induction l generalizing s with
  | nil => exact h
  | cons p r ih => exact ih h.storeField

theorem storeLanes {g crew size : Nat} {l : List (Target × Nat)} (h : memOk s) : memOk (s.storeLanes g crew size l).1 := by
  unfold State.storeLanes
  dsimp only
  split
  · exact h.storeFields
  · exact h.storeFields.writeLines

theorem applyTx {writer crew : Nat} {b : List TxWrite} (h : memOk s) : memOk (s.applyTx writer crew b) :=
  writeLines (h.foldl (fun _ _ hs => hs.modCrew fun _ => Crew.wf_applyTx) _)

/-- What the executing wave's own writes make of memory is canonical too (R141). -/
theorem overlay (h : memOk s) : memOk s.overlay := h.applyTx

/-! ## Accesses inside a transaction (R141, R150, R241) -/

theorem bufferWrite {w : TxWrite} (h : memOk s) (hu : s.bufferWrite w = some t) : memOk t := by
  unfold State.bufferWrite at hu
  dsimp only at hu
  split at hu
  · exact nomatch hu
  · cases hu
    exact h

theorem bufferAll {l : List TxWrite} (h : memOk s) (hu : s.bufferAll l = some t) : memOk t := by
  induction l generalizing s with
  | nil => cases hu; exact h
  | cons w r ih =>
    obtain ⟨u, hu1, hu2⟩ := Option.bind_eq_some_iff.mp hu
    exact ih (h.bufferWrite hu1) hu2

theorem registerTarget {a : Target} {size : Nat} (h : memOk s) (hu : s.registerTarget a size = some t) : memOk t := by
  unfold State.registerTarget at hu
  split at hu
  · cases hu; exact h.registerGranules
  · exact h.registerLines hu

theorem txUnread {size : Nat} {ts : List Target} (h : memOk s) : memOk (s.txUnread size ts) := h

theorem txRead {nan many : Bool} {a : Target} {size : Nat} {r : State × ReadRes} (h : memOk s) (hr : s.txRead nan many a size = some r) : memOk r.1 := by
  obtain ⟨u, hu, rfl⟩ := Option.map_eq_some_iff.mp hr
  refine of_memRead ?_ (memRead.dropCopies ..)
  exact (h.registerTarget hu : memOk u)

theorem txWrite {a : Target} {size x : Nat} {r : State × Flags} (h : memOk s) (hr : s.txWrite a size x = .ok r) : memOk r.1 := by
  have hreg {u : State} (hu : (if a.space = .wide then s.registerLines (a.devLines size) else some s) = some u) : memOk u := by
    split at hu
    · exact h.registerLines hu
    · cases hu; exact h
  unfold State.txWrite at hr
  split at hr
  · exact nomatch hr
  · next u hu =>
    dsimp only at hr
    split at hr
    · exact nomatch hr
    · next v hv =>
      cases hr
      exact ((hreg hu).bufferAll hv).useFree

/-- What an access inside a transaction leaves, whether it goes on or aborts. -/
def ofExcept {α : Type} (r : Except State (State × α)) : Prop :=
  match r with
  | .error s => memOk s
  | .ok x => memOk x.1

theorem txLoad {many : Bool} {ty : LdTy} {d : Opnd} {l : List (Nat × Target)} {ws : List RegWrite} {fl : Flags} (h : memOk s) :
    ofExcept (s.txLoad many ty d l ws fl) := by
  induction l generalizing s ws fl with
  | nil => exact h
  | cons p r ih =>
    unfold State.txLoad
    split
    · exact h.abortTx
    · next hu =>
      have hr := h.txRead hu
      split
      · exact hr.raise
      · exact ih hr

theorem txStore {size : Nat} {l : List (Target × Nat)} {fl : Flags} (h : memOk s) : ofExcept (s.txStore size l fl) := by
  induction l generalizing s fl with
  | nil => exact h
  | cons p r ih =>
    unfold State.txStore
    split
    · exact h.abortTx
    · next hu => exact ih (h.txWrite hu)

theorem txAtomic {many : Bool} {op : AtomOp} {ty : AtTy} {d : Opnd} {l : List (Nat × Target × Nat × Nat)} {ws : List RegWrite} {fl : Flags} (h : memOk s) :
    ofExcept (s.txAtomic many op ty d l ws fl) := by
  induction l generalizing s ws fl with
  | nil => exact h
  | cons p r ih =>
    unfold State.txAtomic
    split
    · exact h.abortTx
    · next hu =>
      have hr := h.txRead hu
      split
      · exact hr.raise
      · dsimp only
        split
        · exact hr.abortTx
        · next hw => exact ih (hr.txWrite hw)

theorem txThen {α : Type} {r : Except State (State × α)} {f : State × α → State} (h : ofExcept r) (hf : ∀ x, memOk x.1 → memOk (f x)) :
    memOk (txThen r f) := by
  cases r with
  | error s => exact h
  | ok x => exact hf x h

end memOk
end Sys2Proof.Machine
end

section
/-! SUPPORT of O58. The effects of the instruction words keep memory canonical. -/

open Sys2Proof
namespace Sys2Proof.Machine

/-- Where a step answers with a state, its memory is canonical. -/
def Result.memOk (r : Result) : Prop := ∀ u, r = .next u → Machine.memOk u

theorem Result.memOk_next {u : State} (h : Machine.memOk u) : Result.memOk (.next u) := fun _ hv => by cases hv; exact h

namespace memOk
variable {s t : State}

/-- Each verdict's one consequence keeps the form, where the instruction's effect does. -/
theorem perform {i : Instr} {e : State → State} (h : memOk s) (he : memOk (e s)) : (s.perform i e).memOk := by
  apply Result.memOk_next
  split
  · exact h
  · exact h.takeDue
  · exact h.mapMe
  · exact h.raise
  · exact h.finish
  · exact h.parityFault
  · exact h.abortTx
  · exact h.stall
  · exact he

/-! ## Loads, stores, atomics and fences (R236 to R243) -/

theorem loadTargets {i : Instr} {c : Ctl} {ty : LdTy} {acq : Bool} {d : Opnd} {ts : List (Nat × Target)} (h : memOk s) :
    memOk (s.loadTargets i c ty acq d ts) := by
  unfold State.loadTargets
  split
  · exact h.launchFlight
  · split
    · exact h.stall
    · dsimp only
      split
      · exact h.txUnread.raise
      · exact txThen h.txUnread.txLoad fun _ hx => hx.launchFlight

theorem storeTargets {i : Instr} {c : Ctl} {ty : LdTy} {o : MemOrd} {d : Opnd} {ts : List (Nat × Target)} (h : memOk s) :
    memOk (s.storeTargets i c ty o d ts) := by
  unfold State.storeTargets
  dsimp only
  split
  · exact h.launchFlight
  · split
    · exact h.stall
    · split
      · exact h.raise
      · exact txThen h.txStore fun _ hx => hx.launchFlight

theorem atom {i : Instr} {op : AtomOp} {c : Ctl} {scr : Bool} {ty : AtTy} {o : MemOrd} {d : Opnd} {m : MemArg} (h : memOk s) :
    memOk (s.atom i op c scr ty o d m) := by
  refine withChecked ?_ fun u ts hu => ?_
  · split
    · exact h
    · exact h.checkGlobal
  · dsimp only
    split
    · exact hu.launchFlight
    · split
      · exact hu.stall
      · split
        · exact hu.txUnread.raise
        · exact txThen hu.txUnread.txAtomic fun _ hx => hx.launchFlight

theorem fenceEffect {k : FenceKind} {sc : Scope} (h : memOk s) : memOk (s.fenceEffect k sc) := by
  unfold State.fenceEffect
  extract_lets u s1 s2
  have h1 : memOk s1 := by
    dsimp only [s1]
    split <;> exact h
  have h2 : memOk s2 := by
    dsimp only [s2]
    split <;> exact h1
  split <;> exact h2

/-! ## The host's page, events and launches (R44, R45, R47, R134, R295) -/

theorem setPageWord {c i : Nat} {x : Word} (h : memOk s) : memOk (s.setPageWord c i x) := h.writePhys

theorem fenceHost (h : memOk s) : memOk s.fenceHost := h

theorem sendMsix {f v : Nat} (h : memOk s) : memOk (s.sendMsix f v) := h

theorem signalPage {c : Nat} (h : memOk s) : memOk (s.signalPage c) := h

theorem sendPending (h : memOk s) : memOk s.sendPending :=
  h.foldl (fun _ _ hs => by
    split
    · exact hs.modOut.sendMsix
    · exact hs) _

theorem mirror {c : Nat} {ev : BitVec 256} (h : memOk s) : memOk (s.mirror c ev) := h.fenceHost.foldl (fun _ _ hs => hs.setPageWord) _

theorem setEvents {c : Nat} {new : BitVec 256} (h : memOk s) : memOk (s.setEvents c new) := by
  unfold State.setEvents
  split
  · exact h
  · split
    · exact h
    · extract_lets u
      have hu : memOk u := mirror (h.modCtx fun _ => rfl)
      split
      · exact hu
      · exact hu.signalPage

theorem flood {ctx launch : Nat} (h : memOk s) : memOk (s.flood ctx launch) := h.foldl (fun _ _ hs => hs.setBerth) _

theorem examine {ctx : Nat} (h : memOk s) : memOk (s.examine ctx) := by
  unfold State.examine
  split
  · exact h
  · split
    · exact h
    · exact h.foldl (fun _ _ hs => hs.modLaunch.flood) _

theorem completeLaunch {ctx launch : Nat} (h : memOk s) : memOk (s.completeLaunch ctx launch) := by
  unfold State.completeLaunch
  split
  · exact h
  · split
    · exact h
    · exact examine (h.setEvents.modCtx fun _ => rfl)

theorem completeOver {ctx : Nat} (h : memOk s) : memOk (s.completeOver ctx) := h.foldl (fun _ _ hs => hs.completeLaunch) _

theorem lowerLive {ctx launch : Nat} (h : memOk s) : memOk (s.lowerLive ctx launch) := by
  unfold State.lowerLive
  split
  · exact h
  · dsimp only
    split
    · exact h.modLaunch.completeLaunch
    · exact h.modLaunch

theorem raiseLive {ctx launch : Nat} (h : memOk s) : memOk (s.raiseLive ctx launch) := h.modLaunch

theorem enqueue {b ctx launch : Nat} {ws : List Word} {primary : Option Nat} {hasShadow : Bool} (h : memOk s) :
    memOk (s.enqueue b ctx launch ws primary hasShadow) := h

theorem modRec {b id : Nat} {f : TaskRec → TaskRec} (h : memOk s) : memOk (s.modRec b id f) := h

theorem freeRec {b id : Nat} (h : memOk s) : memOk (s.freeRec b id) := h

theorem releaseRec {b id : Nat} (h : memOk s) : memOk (s.releaseRec b id) := by
  unfold State.releaseRec
  split <;> exact h

/-! ## The end of waves and tasks (R47, R250) -/

theorem freeCrew {id : Nat} (h : memOk s) : memOk (s.freeCrew id) := by
  have unbind {u : State} {n : Nat} (hu : memOk u) : memOk (u.unbind n) := by
    unfold State.unbind
    split
    · dsimp only
      split <;> exact hu
    · exact hu
  unfold State.freeCrew
  split
  · exact h
  · extract_lets u v k x
    have hu : memOk u := h.dropWaves
    have hv : memOk v := hu.withCrews (hu.crews.filter _)
    apply unbind
    dsimp only [x]
    split
    · split
      · exact hv.setCore
      · exact hv
    · exact hv

theorem retire {id : Nat} (h : memOk s) : memOk (s.retire id) := by
  unfold State.retire
  split
  · exact h
  · extract_lets r paired u v
    have hu : memOk u := h.releaseRec.freeCrew
    split
    · split
      · exact hu.modRec
      · exact hu.modRec.lowerLive
    · exact hu.freeRec.lowerLive

theorem endWave {g crew : Nat} (h : memOk s) : memOk (s.endWave g crew) := by
  unfold State.endWave
  split
  · exact h
  · split
    · exact h.retire
    · exact dropWaves (h.modCrew fun _ hc => hc)

theorem event {c : Ctl} {e : Opnd} {on : Bool} (h : memOk s) : memOk (s.event c e on) := by
  unfold State.event
  dsimp only
  split_ifs
  · exact h.badCommand
  · exact h.launchFlight
  · exact h.launchFlight

/-! ## Transactions and full/empty words (R137 to R156, R244, R245) -/

theorem commitWrites (h : memOk s) : memOk s.commitWrites := (h.foldl (fun _ _ hs => hs.hash) _).applyTx.touchGranules

theorem commit {i : Instr} (h : memOk s) : memOk (s.commit i) := by
  unfold State.commit
  split
  · exact h.raise
  · split_ifs
    · exact h
    · exact h.stall
    · exact h.commitWrites

theorem doRetry (h : memOk s) : memOk s.doRetry := by
  unfold State.doRetry
  dsimp only
  split
  · exact h.mapMe
  · split
    · exact h.mapMe
    · split <;> exact h

theorem feSleep {i : Instr} {c : Ctl} {gs : List Nat} {again : Bool} (h : memOk s) : memOk (s.feSleep i c gs again) := h.registerGranules.mapMe

theorem feAct {k : FeKind} {c : Ctl} {ty : FeTy} {d : Opnd} {ts : List (Nat × Target)} {again : Bool} (h : memOk s) :
    memOk (s.feAct k c ty d ts again) := by
  unfold State.feAct
  extract_lets g crew gs n go bitsTo
  have hgo (u : State) (cls : OrdClass) (ws : List RegWrite) (hu : memOk u) : memOk (go u cls ws) := hu.finish
  have hbits (u : State) (b : Bool) (hu : memOk u) : memOk (bitsTo u b) := hu.setFulls
  split
  · exact hgo _ _ _ h
  · exact hgo _ _ _ (hbits _ _ h)
  · exact hgo _ _ _ (hbits _ _ (h.foldl (fun _ _ hs => hs.writeScratch) _))

theorem feTx {k : FeKind} {c : Ctl} {ty : FeTy} {d : Opnd} {ts : List (Nat × Target)} (h : memOk s) : memOk (s.feTx k c ty d ts) := by
  unfold State.feTx
  extract_lets gs u orAbort n ws
  have hu : memOk u := h.registerGranules
  have hor {l : List TxWrite} {f : State → State} (hf : ∀ v, memOk v → memOk (f v)) : memOk (orAbort (u.bufferAll l) f) := by
    dsimp only [orAbort]
    split
    · exact hu.abortTx
    · next hv => exact hf _ (hu.bufferAll hv)
  split
  · exact hu.launchFlight
  · exact hor fun _ hv => hv.launchFlight
  · exact hor fun _ hv => hv.launchFlight

theorem fe {k : FeKind} {i : Instr} {c : Ctl} {ty : FeTy} {d : Opnd} {m : MemArg} {again : Bool} (h : memOk s) : memOk (s.fe k i c ty d m again) := by
  refine withChecked (r := (s, _)) h fun u ts hu => ?_
  dsimp only
  split_ifs
  · exact hu.stall
  · split
    · exact hu.raise
    · exact hu.feAct
  · split
    · exact hu.raise
    · exact hu.feTx
  · exact hu.feSleep
  · exact hu.registerGranules.doRetry
  · exact hu.stall

theorem feBits {c : Ctl} {a n : Opnd} {full : Bool} (h : memOk s) : memOk (s.feBits c a n full) := by
  unfold State.feBits
  dsimp only
  split_ifs
  · exact h.raise
  · exact h.raise
  · exact h.launchFlight
  · split
    · exact h.abortTx
    · next hu => exact (h.bufferAll hu).launchFlight

/-! ## System words (R293 to R301) -/

/-- A context is loaded without an image (R297, R357). -/
theorem ctxLoad {p slot : Nat} (h : memOk s) (hu : s.ctxLoad p slot = some t) : memOk t := by
  unfold State.ctxLoad at hu
  extract_lets e ws c at hu
  split at hu
  · exact nomatch hu
  · cases hu
    refine mirror (h.withCtxs (h.saved.append fun x hx => ?_))
    rw [List.mem_singleton.mp hx]
    exact Context.savedOk_of_nil rfl

theorem ctxSet {p slot : Nat} (h : memOk s) (hu : s.ctxSet p slot = some t) : memOk t := by
  unfold State.ctxSet at hu
  dsimp only at hu
  split at hu
  · exact nomatch hu
  · cases hu
    exact h.modCtx fun _ => rfl

theorem ctxUnload {p slot : Nat} (h : memOk s) (hu : s.ctxUnload p slot = some t) : memOk t := by
  unfold State.ctxUnload at hu
  split at hu
  · exact nomatch hu
  · split at hu
    · exact nomatch hu
    · cases hu
      exact h.withCtxs (h.saved.filter _)

theorem stealLoad {p core : Nat} (h : memOk s) (hu : s.stealLoad p core = some t) : memOk t := by
  unfold State.stealLoad at hu
  dsimp only at hu
  split at hu
  · exact nomatch hu
  · cases hu
    exact h

theorem hmDone {p : Nat} {r : Option State} (h : memOk s) (hr : ∀ u, r = some u → memOk u) : memOk (s.hmDone p r) := by
  unfold State.hmDone
  split
  · exact h.modPart
  · exact (hr _ rfl).modPart

theorem hmStep {p : Nat} {r : Option State} (h : memOk s) (hr : ∀ u, r = some u → memOk u) : memOk (s.hmStep p r) := by
  unfold State.hmStep
  split
  · exact h.hmDone hr
  · exact h

theorem hmCommand {p : Nat} {x : Word} (h : memOk s) : memOk (s.hmCommand p x) := by
  unfold State.hmCommand
  dsimp only
  split_ifs
  · exact h.modPart
  · exact h.hmDone fun _ => h.ctxLoad
  · exact h.hmDone fun _ => h.ctxSet
  · exact h.hmDone fun _ => h.stealLoad
  · exact h.hmDone fun _ => h.ctxUnload
  · exact h.modPart

theorem unparkCommands {g : Nat} (h : memOk s) : memOk (s.unparkCommands g) := by
  unfold State.unparkCommands
  split <;> exact h

theorem resumeWave {g : Nat} (h : memOk s) : memOk (s.resumeWave g) := by
  unfold State.resumeWave
  split
  · exact h
  · split
    · exact h
    · apply modWave
      split
      · exact h
      · exact h.unparkCommands

theorem faultWave {g cause : Nat} (h : memOk s) : memOk (s.faultWave g cause) := by
  unfold State.faultWave
  split
  · exact h
  · split
    · exact h
    · exact h.failTask

theorem wctl {x : Word} (h : memOk s) (hu : s.wctl x = some t) : memOk t := by
  unfold State.wctl at hu
  split at hu
  · cases hu; exact h
  · dsimp only at hu
    split_ifs at hu <;> cases hu
    · exact h
    · exact h.resumeWave
    · exact h.faultWave

theorem sysregStore {n : Nat} {x : Word} (h : memOk s) : memOk (s.sysregStore n x) := by
  unfold State.sysregStore
  extract_lets k pn low
  split
  case h_1 => exact h.mapMe
  case h_10 =>
    split
    · exact h
    · exact h.modWave
  case h_11 => exact h
  case h_2 | h_3 | h_4 | h_5 => exact h.modHm
  all_goals exact h.modPart

end memOk
end Sys2Proof.Machine
end

section
/-! SUPPORT of O58. What completes later, operations in flight and commands of the engines, keeps memory canonical. -/

open Sys2Proof
namespace Sys2Proof.Machine
namespace memOk
variable {s t : State}

/-! ## Operations in flight (R17, R97, R121) -/

theorem endFlight {g : Nat} {f : Flight} {upd : Wave → Wave} (h : memOk s) : memOk (s.endFlight g f upd) := h.modWave

theorem withOut {o : Outside} (h : memOk s) : memOk { s with out := o } := h

theorem dropL1 {core line : Nat} (h : memOk s) : memOk (s.dropL1 core line) := h

theorem setBody {g id : Nat} {b : Pending} (h : memOk s) : memOk (s.setBody g id b) := h.modWave

theorem flushL1 {unit : Nat} (h : memOk s) : memOk (s.flushL1 unit) := h

theorem flushIc {unit : Nat} (h : memOk s) : memOk (s.flushIc unit) := h

theorem flightFault {g : Nat} {f : Flight} {cause sev : Nat} {detail : Word} (h : memOk s) : memOk (s.flightFault g f cause sev detail) := by
  have hu : memOk (s.endFlight g f id) := h.endFlight
  unfold State.flightFault
  dsimp only
  split
  · exact hu
  · split
    · exact hu.focus.hmException.focus
    · exact hu.failTask

theorem recordUnread {unit size : Nat} {ts : List Target} (h : memOk s) : memOk (s.recordUnread unit size ts) := h.of_memRead (.recordUnread ..)

theorem recordReads {unit crew size : Nat} {nan many : Bool} {ts : List Target} (h : memOk s) : memOk (s.recordReads unit crew nan many size ts) :=
  h.foldl (fun _ _ hs => hs.withOut) _

theorem doLoad {w : Wave} {f : Flight} {d : Opnd} {ty : LdTy} {left now later : List (Nat × Target)} {acq : Bool} {all : List Target}
    {got : List RegWrite} {fl : Flags} (h : memOk s) : memOk (s.doLoad w f d ty left now later acq all got fl) := by
  unfold State.doLoad
  extract_lets u n home many r
  split
  · exact h.recordUnread.recordReads.flightFault
  · have hr : memOk r.1 := by
      refine of_memRead ?_ (memRead.readLanes ..)
      split
      · exact h.recordUnread
      · exact h
    split
    · apply endFlight
      split
      · exact hr.flushL1
      · exact hr
    · exact hr.setBody

theorem showHost {sys : Bool} (h : memOk s) : memOk (s.showHost sys) := by
  unfold State.showHost
  split <;> exact h

theorem doStore {w : Wave} {f : Flight} {size : Nat} {now later : List (Nat × Target × Nat)} {sys : Bool} (h : memOk s) :
    memOk (s.doStore w f size now later sys) := by
  unfold State.doStore
  split
  · exact h.flightFault
  · extract_lets r u
    have hu : memOk u := h.showHost.storeLanes.modWave
    split
    · exact hu.showHost.endFlight
    · exact hu.setBody

theorem atomLanes {g crew : Nat} {many : Bool} {op : AtomOp} {ty : AtTy} {d : Opnd} {l : List (Nat × Target × Nat × Nat)} {ws : List RegWrite}
    {fl : Flags} (h : memOk s) : memOk (s.atomLanes g crew many op ty d l ws fl).1 := by
  induction l generalizing s ws fl with
  | nil => exact h
  | cons p r ih => exact ih ((h.of_memRead (.readAt ..)).storeLanes.of_memRead (.dropCopies ..))

theorem doAtomic {w : Wave} {f : Flight} {op : AtomOp} {ty : AtTy} {d : Opnd} {left now later : List (Nat × Target × Nat × Nat)} {acq sys : Bool}
    {all : List Target} {got : List RegWrite} {fl : Flags} (h : memOk s) :
    memOk (s.doAtomic w f op ty d left now later acq sys all got fl) := by
  unfold State.doAtomic
  extract_lets u n tgs many r v
  split
  · exact h.recordUnread.recordReads.flightFault
  · have hr : memOk r.1 := by
      apply atomLanes
      apply showHost
      split
      · exact h.recordUnread
      · exact h
    have hv : memOk v := hr.showHost
    split
    · apply endFlight
      split
      · exact hv.flushL1
      · exact hv
    · exact hr.setBody

theorem doSetFull {w : Wave} {f : Flight} {ofs len : Nat} {full : Bool} (h : memOk s) : memOk (s.doSetFull w f ofs len full) := by
  unfold State.doSetFull
  split
  · exact h.endFlight
  · exact h.setFulls.endFlight

theorem discardOne {g crew : Nat} {a : Target} (h : memOk s) : memOk (s.discardOne g crew a) := by
  unfold State.discardOne
  dsimp only
  split_ifs
  · exact h.hash
  · exact h.hash.discardLine.dropL1
  · exact h.hash.discardLine

theorem doDiscard {w : Wave} {f : Flight} {now later : List Target} (h : memOk s) : memOk (s.doDiscard w f now later) := by
  unfold State.doDiscard
  split
  · exact h.flightFault
  · have hu := h.foldl (f := fun v a => v.discardOne w.gwn w.crew a) (fun _ _ hs => hs.discardOne) now
    dsimp only
    split
    · exact hu.endFlight
    · exact hu.setBody

theorem doCtld {w : Wave} {f : Flight} {n bank : Nat} {sorted : Bool} {src : Target} (h : memOk s) : memOk (s.doCtld w f n bank sorted src) := by
  unfold State.doCtld
  extract_lets r es k bit
  have hr : memOk r.1 := h.of_memRead (.readWhole ..)
  split
  · exact hr.flightFault
  · split
    · exact hr.flightFault
    · exact hr.setCore.endFlight

theorem doChartld {w : Wave} {f : Flight} {n : Nat} {src : Target} (h : memOk s) : memOk (s.doChartld w f n src) := by
  unfold State.doChartld
  split
  · exact h
  · split
    · exact h.flightFault
    · extract_lets q
      have hq : memOk q.1 := h.of_memRead (.of_tlbWalked (.hmPlace ..))
      split
      · exact hq.flightFault
      · extract_lets r ws m p
        have hr : memOk r.1 := hq.of_memRead (.readWhole ..)
        split
        · exact hr.flightFault
        · split
          · exact endFlight (hr.modCtx fun _ => rfl)
          · split
            · exact hr.flightFault
            · exact endFlight (hr.modCtx fun _ => rfl)

theorem doAccrd {w : Wave} {f : Flight} {d bank : Nat} {els : List (Nat × Nat)} (h : memOk s) : memOk (s.doAccrd w f d bank els) := by
  unfold State.doAccrd
  dsimp only
  split
  · exact h.flightFault
  · exact h.endFlight

theorem doAccwr {w : Wave} {f : Flight} {bank : Nat} {els : List (Nat × Lane)} (h : memOk s) : memOk (s.doAccwr w f bank els) := h.setCore.endFlight

theorem tlbDrop {p : TlbEntry → Bool} (h : memOk s) : memOk (s.tlbDrop p) := h

theorem doTlbi {w : Wave} {f : Flight} {va ctx kind : Nat} (h : memOk s) : memOk (s.doTlbi w f va ctx kind) := h.tlbDrop.endFlight

theorem answer {g d status : Nat} {f : Flight} (h : memOk s) : memOk (s.answer g f d status) := h.endFlight

theorem typeEntry {ctx ty : Nat} (h : memOk s) : memOk (s.typeEntry ctx ty).1 := h.of_memRead (.of_tlbWalked (.typeEntry ..))

theorem doSpawn {w : Wave} {f : Flight} {d : Nat} {ws : List Word} (h : memOk s) : memOk (s.doSpawn w f d ws) := by
  unfold State.doSpawn
  extract_lets launch ty a e
  have ha : memOk a.1 := h.of_memRead (.of_tlbWalked (.anchor ..))
  have he : memOk e.1 := ha.typeEntry
  split
  · exact h.hash.answer
  · split
    · exact h
    · split
      · exact ha.answer
      · dsimp only
        split
        · exact he.answer
        · exact he.setBerth

theorem doEvent {w : Wave} {f : Flight} {e : Nat} {on : Bool} (h : memOk s) : memOk (s.doEvent w f e on) := by
  unfold State.doEvent
  split
  · exact h
  · exact h.setEvents.examine.endFlight

theorem doLaunch {w : Wave} {f : Flight} {ts : List Target} (h : memOk s) : memOk (s.doLaunch w f ts) := by
  unfold State.doLaunch
  extract_lets va r x u
  have hr : memOk r.1 := h.of_memRead (.of_tlbWalked (.readVirtWords ..))
  have hu : memOk u := by
    dsimp only [u]
    split
    · exact hr.record
    · exact hr
  split
  · exact h
  · exact hu.of_eq rfl rfl rfl

theorem doSighost {w : Wave} {f : Flight} {vec : Nat} (h : memOk s) : memOk (s.doSighost w f vec) := h.flushL1.flushIc.sendMsix.endFlight

theorem doFlight {w : Wave} {f : Flight} (h : memOk s) : memOk (s.doFlight w f) := by
  unfold State.doFlight
  split
  · exact h.endFlight
  · exact h.doLoad
  · exact h.doStore
  · exact h.doAtomic
  · exact h.doSetFull
  · exact h.doDiscard
  · exact h.doSpawn
  · exact h.doEvent
  · exact h.doLaunch
  · exact h.doCtld
  · exact h.doChartld
  · exact h.doAccrd
  · exact h.doAccwr
  · exact h.doTlbi
  · exact h.doSighost

theorem withFlight {g id : Nat} {k : State → Wave → Flight → State} (h : memOk s) (hk : ∀ s w f, memOk s → memOk (k s w f)) :
    memOk (s.withFlight g id k) := by
  unfold State.withFlight
  split
  · exact h
  · split
    · exact h
    · split
      · exact h
      · apply hk
        split
        · exact h.modWave
        · exact h

theorem doLane {g id lane : Nat} (h : memOk s) : memOk (s.doLane g id lane) :=
  h.withFlight fun u w f hu => by
    split
    · dsimp only
      split
      · exact hu
      · exact hu.doLoad
    · dsimp only
      split
      · exact hu
      · exact hu.doStore
    · dsimp only
      split
      · exact hu
      · exact hu.doAtomic
    · split
      · exact hu.doDiscard
      · exact hu
    · exact hu

/-! ## Faults and parks of engines (R263, R283) -/

theorem engineFault {g crew cause sev addr : Nat} {pc : Word} (h : memOk s) : memOk (s.engineFault g crew cause sev addr pc) := by
  unfold State.engineFault
  dsimp only
  split
  · exact h
  · split
    case h_5 => exact h.failTask
    all_goals exact h.modWave

theorem enginePark {g kind engine addr : Nat} {pc : Word} (h : memOk s) : memOk (s.enginePark g kind engine addr pc) := by
  unfold State.enginePark
  split
  · exact h
  · split
    · exact h.modWave.parkWave
    · exact h.modWave.parkWave
    · exact h.modWave.parkWave
    · split
      · exact h
      · exact h.modWave

theorem addFlags {g : Nat} {fl : Flags} (h : memOk s) : memOk (s.addFlags g fl) := h.modWave

/-! ## The matrix unit (R258 to R264) -/

theorem modMat {core : Nat} {m : MatCmd} {f : MatCmd → MatCmd} (h : memOk s) : memOk (s.modMat core m f) := h

theorem dropMat {core : Nat} {m : MatCmd} (h : memOk s) : memOk (s.dropMat core m) := h.setCore.wakeGranules

theorem startMat {core : Nat} {m : MatCmd} (h : memOk s) : memOk (s.startMat core m) := h

theorem chooseIdle {core : Nat} (h : memOk s) : memOk (s.chooseIdle core) := by
  unfold State.chooseIdle
  split
  · exact h
  · exact h.startMat

theorem chooseAt {core : Nat} {m : MatCmd} (h : memOk s) : memOk (s.chooseAt core m) := by
  unfold State.chooseAt
  split
  · exact h
  · split
    · exact h.modMat.startMat
    · exact h

theorem finishMat {core : Nat} {m : MatCmd} (h : memOk s) : memOk (s.finishMat core m) := h.dropMat.setFulls.modWave

theorem stopMat {core : Nat} {m : MatCmd} {low : Nat → Nat} {unread : State → State} {f : Fail} (h : memOk s) (hu : ∀ s, memOk s → memOk (unread s)) :
    memOk (s.stopMat core m low unread f) := by
  unfold State.stopMat
  split
  · exact (hu _ h).dropMat.engineFault
  · split
    · exact (hu _ h).dropMat
    · exact h.modMat.enginePark

theorem kStepOf {core : Nat} {m : MatCmd} (h : memOk s) : memOk (s.kStepOf core m) := by
  unfold State.kStepOf
  extract_lets f k n k0 fresh low m'
  split
  · exact h.dropMat
  · next c _ =>
    extract_lets many ra unread rb u k2
    have hun (n : Nat) (v : State) (hv : memOk v) : memOk (unread n v) := hv.of_memRead (.matUnread ..)
    have ha : memOk ra.1 := h.of_memRead (.matRows ..)
    have hb : memOk rb.1 := ha.of_memRead (.matRows ..)
    split
    · exact h.setCore.finishMat
    · split
      · exact ha.stopMat (hun _)
      · split
        · exact hb.stopMat (hun _)
        · split
          · exact hb.stopMat (hun _)
          · extract_lets new v v2
            have hu : memOk u := hb
            have hv : memOk v2 := hu.setCore.addFlags.modMat
            split_ifs
            · exact (hun _ _ hv).finishMat
            · exact (hun _ _ hv).dropMat
            · exact hv.modMat
            · exact hv.chooseAt

theorem matTurn {core : Nat} (h : memOk s) : memOk (s.matTurn core) := by
  unfold State.matTurn
  extract_lets s1
  have h1 : memOk s1 := by
    dsimp only [s1]
    split
    · exact h
    · exact h.kStepOf
  split_ifs
  · exact h
  · exact h1.chooseIdle
  · exact h1

theorem matUntil {core n : Nat} {m : MatCmd} (h : memOk s) : memOk (State.matUntil core m n s) := by
  induction n generalizing s with
  | zero => exact h
  | succ n ih =>
    unfold State.matUntil
    split
    · exact h
    · split
      · exact h
      · exact ih h.matTurn

theorem matRun {core op : Nat} (h : memOk s) : memOk (s.matRun core op) := by
  unfold State.matRun
  extract_lets u
  have hu : memOk u := by
    dsimp only [u]
    split
    · exact h.chooseIdle
    · exact h
  split
  · exact hu
  · split
    · exact hu.matUntil
    · exact hu

/-! ## The lighter (R266 to R269) -/

theorem modLit {core : Nat} {l : LitCmd} {f : LitCmd → LitCmd} (h : memOk s) : memOk (s.modLit core l f) := h

theorem dropLit {core : Nat} {l : LitCmd} (h : memOk s) : memOk (s.dropLit core l) := h.setCore.wakeGranules

theorem hashLit {core : Nat} {l : LitCmd} (h : memOk s) : memOk (s.hashLit core l) := h.foldl (fun _ _ hs => hs.hash) _

theorem litUnread {l : LitCmd} {n : Nat} (h : memOk s) : memOk (s.litUnread l n) := h.of_memRead (.litUnread ..)

theorem failLit {core : Nat} {l : LitCmd} {f : Fail} (h : memOk s) : memOk (s.failLit core l f) := by
  unfold State.failLit
  split
  · exact h.hashLit.dropLit.engineFault
  · exact h.modLit.enginePark

theorem startLit {core : Nat} {l : LitCmd} (h : memOk s) : memOk (s.startLit core l) := by
  unfold State.startLit
  extract_lets mine
  split
  · exact h
  · split
    · exact h
    · extract_lets p
      have hp : memOk p.1 := h.of_memRead (.litPrepare ..)
      split
      · exact hp.failLit
      · dsimp only
        split
        · exact hp
        · exact hp.modLit

theorem litRead {core : Nat} {c : Crew} {l : LitCmd} {f : LitFields} (h : memOk s) : memOk (s.litRead core c l f) := by
  unfold State.litRead
  extract_lets n at_ take
  have htake (u : State) (bs : List Byte) (fl : Flags) (hu : memOk u) : memOk (take u bs fl) := hu.addFlags.modLit
  split
  · exact h.litUnread.failLit
  · split
    · split
      · exact h.failLit
      · split
        · split
          · exact h.failLit
          · exact htake _ _ _ h
        · exact htake _ _ _ h
    · split
      · split
        · exact (h.of_memRead (.litBlocks ..)).litUnread.failLit
        · exact htake _ _ _ (h.of_memRead (.litBlocks ..))
      · split
        · exact (h.of_memRead (.litLines ..)).litUnread.failLit
        · exact htake _ _ _ (h.of_memRead (.litLines ..))

theorem litNote {core va : Nat} {l : LitCmd} {bs : List Byte} (h : memOk s) : memOk (s.litNote core l va bs) := by
  unfold State.litNote
  split
  · exact h.modLit
  · exact h

theorem dropLines {core : Nat} {ls : List Nat} (h : memOk s) : memOk (s.dropLines core ls) := h.foldl (fun _ _ hs => hs.dropL1) _

theorem litStore {core va : Nat} {l : LitCmd} {shadow : Bool} {bs : List Byte} (h : memOk s) : memOk (s.litStore core l shadow va bs) :=
  h.foldl (fun _ _ hs => by
    dsimp only
    split
    · exact hs.useFree.addFlags
    · exact hs.writeAt.dropLines.addFlags) _

theorem litBlock {core va : Nat} {l : LitCmd} {shadow : Bool} {bs : List Byte} (h : memOk s) : memOk (s.litBlock core l shadow va bs).1 := by
  unfold State.litBlock
  extract_lets f t w el lines put rs field u q
  have hput (field scale : Nat) (fl : Flags) : memOk (put field scale fl).1 := by
    dsimp only [put]
    split
    · exact h.addFlags
    · exact h.addFlags.writeBlock.dropLines
  have hu : memOk u := h.addFlags
  split
  · exact hput _ _ _
  · split
    · dsimp only
      split
      · exact hu
      · exact hu.homeWrites.dropLines
    · exact hput _ _ _

theorem litBlocksOut {core : Nat} {l : LitCmd} {shadow : Bool} {ps : List (Nat × List Byte)} (h : memOk s) : memOk (s.litBlocksOut core l shadow ps) := by
  induction ps generalizing s with
  | nil => exact h
  | cons p r ih => exact ih h.litBlock.litNote

theorem finishLit {core : Nat} {l : LitCmd} (h : memOk s) : memOk (s.finishLit core l) := h.litUnread.hashLit.dropLit.setFulls.modWave

theorem litWrite {core : Nat} {l : LitCmd} {f : LitFields} (h : memOk s) : memOk (s.litWrite core l f) := by
  have last (u : State) (hu : memOk u) (n : Nat) : memOk (
      if l.pos + n < f.rowBytes then u.modLit core l fun x => { x with pos := l.pos + n }
      else if l.row + 1 < f.rows then u.modLit core l fun x => { x with row := l.row + 1, writing := false, pos := 0, buffer := [] }
      else u.finishLit core l) := by
    split_ifs
    · exact hu.modLit
    · exact hu.modLit
    · exact hu.finishLit
  unfold State.litWrite
  refine last _ ?_ _
  split
  · exact h.writeScratch
  · split
    · exact h.litBlocksOut
    · dsimp only
      split
      · exact h.addFlags.litNote.litStore
      · exact h.addFlags.writeScratch

theorem turnOf {core : Nat} {l : LitCmd} (h : memOk s) : memOk (s.turnOf core l) := by
  unfold State.turnOf
  split
  · exact h.dropLit
  · split
    · exact h.litUnread.failLit
    · dsimp only
      split
      · exact h.litWrite
      · exact h.litRead

theorem litTurn {core : Nat} (h : memOk s) : memOk (s.litTurn core) := by
  unfold State.litTurn
  dsimp only
  split
  · exact h
  · split
    · exact h
    · exact h.setCore.turnOf

theorem litUntil {core n : Nat} {l : LitCmd} (h : memOk s) : memOk (State.litUntil core l n s) := by
  induction n generalizing s with
  | zero => exact h
  | succ n ih =>
    unfold State.litUntil
    split
    · exact ih h.litTurn
    · exact h

theorem litRun {core cmd : Nat} {conv : Nat → Bool} (h : memOk s) : memOk (s.litRun core cmd conv) := by
  unfold State.litRun
  split
  · exact h
  · split
    · exact h.litUntil
    · exact h

end memOk
end Sys2Proof.Machine
end

section
/-! SUPPORT of O58. Launches, berths, crews, pre-emption, restore, upkeep and the ports keep memory canonical. -/

open Sys2Proof
namespace Sys2Proof.Machine
/-- A frame is copied into another (R338). -/
theorem Store.wf_copyFrame (st : Store) (src dst : Nat) (h : st.wf = true) : (st.copyFrame src dst).wf = true := by
  obtain ⟨hd, hs, hd2, hs2, hc⟩ := (Store.wf_iff _).mp h
  exact (Store.wf_iff _).mpr
    ⟨Cells.wf_putDense _ _ _ hd, Cells.wf_putDense _ _ _ hs, Cells.wf_putDense _ _ _ hd2, Cells.wf_putDense _ _ _ hs2, Cells.wf_putDense _ _ _ hc⟩

namespace memOk
variable {s t : State}

/-! ## Launches, berths and crews (R43 to R69) -/

theorem submit {ctx : Nat} {ws : List Word} {bad : Bool} (h : memOk s) : memOk (s.submit ctx ws bad).1 := by
  unfold State.submit
  split
  · exact h
  · split
    · exact h
    · extract_lets f e
      have he : memOk e.1 := h.typeEntry
      split
      · exact he
      · split
        · exact he
        · exact examine (he.modCtx fun _ => rfl)

theorem launchCheck {part : Nat} (h : memOk s) : (execLaunchCheck part s).memOk := by
  apply Result.memOk_next
  split
  · exact h
  · split
    · exact h.foldl (fun _ _ hs => hs.completeOver.examine) _
    · extract_lets s1 r
      have h1 : memOk s1 := h
      split
      · exact h1.submit
      · split
        · exact h1.submit.answer
        · exact h1.submit

theorem claimBad {b : Nat} {r : TaskRec} (h : memOk s) : memOk (s.claimBad b r) := by
  unfold State.claimBad
  dsimp only
  split
  · exact h.modRec
  · exact h.modRec.report

theorem bind {core ctx : Nat} (h : memOk s) : memOk (s.bind core ctx) := by
  unfold State.bind
  dsimp only
  split <;> exact h

/-- A crew starts with empty scratch (R62). -/
theorem addCrew {c : Crew} {ws : List Wave} (h : memOk s) (hc : c.wf = true) : memOk { s with crews := s.crews ++ [c], others := s.others ++ ws } :=
  ⟨h.store, h.crews.append (List.forall_mem_singleton.mpr hc), h.saved⟩

theorem claim {u b : Nat} {r : TaskRec} (h : memOk s) : memOk (s.claim u b r) := by
  unfold State.claim
  split
  · exact h
  · split
    · exact h.claimBad
    · extract_lets id near f n slots ws c hl s1 s2 s3 s4
      have hhl : memOk hl.1 := by
        dsimp only [hl]
        split
        · exact h.of_memRead (.of_tlbWalked (.nearLines ..))
        · exact h
      have h2 : memOk s2 := hhl
      have h3 : memOk s3 := h2.addCrew rfl
      have h4 : memOk s4 := by
        dsimp only [s4]
        split
        · exact h3
        · exact h3.bind
      exact h4.flushL1.flushIc

theorem answerOffer {b : Nat} {o : Offer} (h : memOk s) : memOk (s.answerOffer b o) := by
  unfold State.answerOffer
  split
  · exact h
  · split
    · exact h
    · split
      · dsimp only
        split
        · exact h.answer
        · split
          · exact h.answer
          · exact h.raiseLive.enqueue.hash.answer
      · exact h

theorem takeOffers {b : Nat} (h : memOk s) : memOk (s.takeOffers b) := h.setBerth.foldl (fun _ _ hs => hs.answerOffer) _

theorem enumOne {b : Nat} {e : Enum} (h : memOk s) (hu : s.enumOne b e = some t) : memOk t := by
  unfold State.enumOne at hu
  split at hu
  · cases hu; exact h
  · dsimp only at hu
    split at hu
    · cases hu; exact h
    · split at hu
      · cases hu; exact h.setBerth.modLaunch.report
      · split_ifs at hu <;> cases hu
        · exact h.setBerth.modLaunch.report
        · exact h.setBerth.modLaunch.enqueue.raiseLive.enqueue
        · exact h.setBerth.modLaunch.enqueue

theorem enumStep {b : Nat} (h : memOk s) : memOk (s.enumStep b) := by
  unfold State.enumStep
  cases hf : firstSome (s.enumOne b) (s.enumOrder b) with
  | none => exact h
  | some u =>
    obtain ⟨e, -, he⟩ := regsOk.firstSome_mem hf
    exact h.enumOne he

theorem quayClaim {b : Nat} (h : memOk s) : memOk (s.quayClaim b) := by
  unfold State.quayClaim
  dsimp only
  split
  · exact h
  · split
    · exact h
    · split
      · exact h.claim
      · exact h

theorem steal {b : Nat} {q : StealReq} (h : memOk s) : memOk (s.steal b q) := by
  unfold State.steal
  extract_lets s1
  have h1 : memOk s1 := h
  split
  · exact h1
  · exact h1.claim

theorem takeSteals {b : Nat} (h : memOk s) : memOk (s.takeSteals b) := h.setBerth.foldl (fun _ _ hs => hs.steal) _

theorem berthCycle {turn : BerthTurn} (h : memOk s) : (execBerthCycle turn s).memOk := by
  apply Result.memOk_next
  apply takeSteals
  split
  · exact h.takeOffers.enumStep.quayClaim
  · exact h.takeOffers.enumStep

/-! ## Manifests and shadow copies (R63, R64, R283, R322) -/

theorem freeFaulted {c : Crew} (h : memOk s) : memOk (s.freeFaulted c) := by
  unfold State.freeFaulted
  split
  · exact h.releaseRec.modRec.freeCrew
  · exact h

theorem freeSettled {ctx launch : Nat} (h : memOk s) : memOk (s.freeSettled ctx launch) := h.foldl (fun _ _ hs => hs.freeFaulted) _

theorem writeEntry {a : Target} {ws : List Word} (h : memOk s) : memOk (s.writeEntry a ws) := fenceHost (h.fenceHost.foldl (fun _ _ hs => hs.writeAt) _)

theorem noteReport {ctx va : Nat} {l : Launch} {out : Outside} (h : memOk s) : memOk (s.noteReport ctx l va out) := by
  unfold State.noteReport
  split
  · exact h.withOut
  · exact h.record.modLaunch

theorem writeReport {ctx launch : Nat} (h : memOk s) : memOk (s.writeReport ctx launch) := by
  unfold State.writeReport
  split
  · exact h
  · split
    · exact h
    · extract_lets f va tr
      have htr : memOk tr.1 := h.of_memRead (.of_tlbWalked (.hmPlace ..))
      split
      · split
        · apply lowerLive
          split
          · exact htr.writeEntry.modLaunch
          · exact htr.writeEntry.modLaunch.freeRec
        · exact htr.noteReport
      · exact htr.noteReport

theorem manifest {ctx launch : Nat} (h : memOk s) : memOk (s.manifest ctx launch) := by
  unfold State.manifest
  dsimp only
  split
  · exact h.freeSettled.writeReport
  · exact h.freeSettled

theorem shadowEnd {b : Nat} {r p : TaskRec} (h : memOk s) : memOk (s.shadowEnd b r p) := by
  unfold State.shadowEnd
  dsimp only
  split
  · exact h.freeRec.freeRec.lowerLive
  · exact h.freeRec.modRec.report

theorem shadowCompare {b : Nat} {r : TaskRec} (h : memOk s) : memOk (s.shadowCompare b r) := by
  unfold State.shadowCompare
  split
  · split
    · exact h.shadowEnd
    · exact h
  · split
    · exact h
    · exact h.freeRec.lowerLive

/-! ## Time and pilots (R53, R306 to R317) -/

theorem elapse {d : Nat} (h : memOk s) : memOk (s.elapse d) := h

theorem pilotSend {core : Nat} (h : memOk s) : (execPilotSend core s).memOk := by
  apply Result.memOk_next
  split
  · exact h
  · split
    · exact h
    · split <;> exact h

theorem remoteWaitExpiry {core : Nat} (h : memOk s) : (execRemoteWaitExpiry core s).memOk := by
  apply Result.memOk_next
  split
  · exact h
  · dsimp only
    split <;> exact h

theorem taskPriorityAge {b id : Nat} (h : memOk s) : (execTaskPriorityAge b id s).memOk := by
  apply Result.memOk_next
  split
  · exact h
  · split
    · exact h.elapse
    · exact h

theorem wavePriorityAge {g : Nat} (h : memOk s) : (execWavePriorityAge g s).memOk := by
  apply Result.memOk_next
  split
  · exact h
  · split
    · exact h.elapse
    · exact h

/-! ## Core images (R348, R358 to R361) -/

theorem ctx? {n : Nat} {c : Context} (h : memOk s) (hc : s.ctx? n = some c) : c.savedOk := h.saved c (List.mem_of_find?_eq_some hc)

/-- The lines of an image are cleared, in both copies (R348). -/
theorem zeroContext {line n : Nat} (h : memOk s) : memOk (s.zeroContext line n) := by
  obtain ⟨hd, hs, hd2, hs2, hc⟩ := (Store.wf_iff _).mp h.store
  exact touchRun (h.withStore ((Store.wf_iff _).mpr
    ⟨Cells.wf_filter _ _ hd, Cells.wf_filter _ _ hs, Cells.wf_filter _ _ hd2, Cells.wf_filter _ _ hs2, Cells.wf_putDense _ _ _ hc⟩))

theorem putSections {line : Nat} {xs : List Section} (h : memOk s) : memOk (s.putSections line xs) :=
  h.zeroContext.foldl (fun _ _ hs => hs.foldl (fun _ _ ht => ht.homeWrite) _) _

theorem preempt {ctx : Nat} (h : memOk s) : memOk (s.preempt ctx) := by
  unfold State.preempt
  split
  · exact h
  · split
    · exact h
    · exact modWaves (h.modCtx fun _ => rfl)

theorem byHm {ctx : Nat} (h : memOk s) (ht : memOk t) : memOk (s.byHm ctx t) := by
  unfold State.byHm
  split
  · exact ht
  · exact h

theorem loseTask {c : Crew} {info : FaultInfo} (h : memOk s) : memOk (s.loseTask c info) := by
  unfold State.loseTask
  dsimp only
  split
  · exact h.releaseRec.modRec
  · exact h.releaseRec.modRec.report

theorem endHang {ctx : Nat} (h : memOk s) : memOk (s.endHang ctx) := by
  unfold State.endHang
  split
  · exact h
  · split
    · exact h
    · split
      · exact h
      · exact (h.foldl (fun _ _ hs => hs.loseTask) _).modCtxImages fun _ _ => Context.savedOk_of_nil rfl

/-- The image of a unit holds crews that were canonical on it. -/
theorem addImage {ctx : Nat} {img : CoreImage} (h : memOk s) (hi : crewsOk img.crews) :
    memOk (s.modCtx ctx fun c => { c with images := c.images ++ [img], nextImage := c.nextImage + 1 }) :=
  h.modCtxImages fun _ hc i hm => (List.mem_append.mp hm).elim (hc i) fun hl => by
    rw [List.mem_singleton.mp hl]
    exact hi

theorem saveUnit {ctx unit pa : Nat} (h : memOk s) : memOk (s.saveUnit ctx unit pa) := by
  unfold State.saveUnit
  extract_lets u mine crews k engine ws xs lines line
  have hu : memOk u := h.foldl (fun _ _ hs => hs.freeFaulted) _
  split
  · exact hu
  · extract_lets img s1 s2 s3
    have h1 : memOk s1 := hu.putSections.addImage (hu.crews.filter _)
    have h2 : memOk s2 := h1.dropWaves
    have h3 : memOk s3 := h2.withCrews (h2.crews.filter _)
    split
    · exact hu.endHang
    · split
      · exact hu
      · apply endHang
        split
        · exact h3.setCore
        · exact h3

theorem dropLostCharts {ctx : Nat} (h : memOk s) : memOk (s.dropLostCharts ctx) := by
  unfold State.dropLostCharts
  split
  · exact h
  · exact h.foldl (fun _ _ hs => record (by exact hs.modCtx fun _ => rfl)) _

theorem loadImage {ctx unit : Nat} {img : CoreImage} (h : memOk s) (hi : crewsOk img.crews) : memOk (s.loadImage ctx img unit) := by
  unfold State.loadImage
  extract_lets gone s1 live ws names new s2 s3
  have h1 : memOk s1 := h.foldl (fun _ _ hs => hs.loseTask) _
  have h2 : memOk s2 := ⟨h1.store, h1.crews.append ((hi.filter _).map fun _ hc => hc), h1.saved⟩
  have h3 : memOk s3 := by
    dsimp only [s3]
    split
    · exact h2
    · split
      · exact h2
      · exact h2.setCore
  exact h3.flushL1.flushIc

theorem resumeClaims {ctx : Nat} (h : memOk s) : memOk (s.resumeClaims ctx) :=
  h.modCtx fun _ => by
    split
    · rfl
    · rfl

theorem dropImage {ctx image : Nat} (h : memOk s) : memOk (s.modCtx ctx fun c => { c with images := c.images.filter (·.id != image) }) :=
  h.modCtxImages fun _ hc i hi => hc i (List.mem_filter.mp hi).1

theorem restore {ctx image unit : Nat} (h : memOk s) : memOk (s.restore ctx image unit) := by
  unfold State.restore
  split
  · exact h
  · next c hc =>
    split
    · exact h
    · split
      · split
        · exact h.resumeClaims
        · exact h
      · next img hi =>
        split
        · exact (h.dropLostCharts.dropImage.loadImage (h.ctx? hc _ (List.mem_of_find?_eq_some hi))).resumeClaims
        · exact h

theorem hang {g : Nat} (h : memOk s) : memOk (s.hang g) := by
  unfold State.hang
  split
  · exact h
  · split
    · exact h
    · split
      · exact h
      · exact h.byHm (h.preempt.modCtx fun _ => rfl)

/-! ## The fault queue, pages and lines (R300, R338 to R344, R352, R353) -/

theorem fqWrite {p : Nat} (h : memOk s) : memOk (s.fqWrite p) := by
  unfold State.fqWrite
  extract_lets x at_ notes u
  have hu : memOk u := h
  split
  · exact h
  · split
    · extract_lets s1 s2
      have h1 : memOk s1 := h.foldl (fun _ _ hs => hs.writePhys) _
      split
      · exact h1.modPart
      · exact h1.modPart.modWave
    · split
      · exact h
      · exact hu.foldl (fun _ _ hs => hs.record) _

theorem putEntry {place : Nat} {e : Word} (h : memOk s) : memOk (s.putEntry place e) := h.writePhys

theorem dropPage {ctx level va : Nat} (h : memOk s) : memOk (s.dropPage ctx level va) := h.tlbDrop

theorem setMigration {m : Migration} (h : memOk s) : memOk (s.setMigration m) := h

theorem splitLeaf {p ctx va place table : Nat} {e : Word} (h : memOk s) : memOk (s.splitLeaf p ctx va place table e) :=
  dropPage (putEntry (h.foldl (fun _ _ hs => hs.putEntry) _))

theorem resumeWriters {ctx va : Nat} (h : memOk s) : memOk (s.resumeWriters ctx va) := h.foldl (fun _ _ hs => hs.resumeWave) _

theorem collapse {ctx va die place frame : Nat} {e : Word} (h : memOk s) : memOk (s.collapse ctx va die place frame e) := by
  unfold State.collapse
  extract_lets p old new m stay _ m2 _ u e2
  have hu : memOk u := by
    dsimp only [u]
    split
    · exact h
    · exact touchRun (touchRun (h.withStore (Store.wf_copyFrame _ _ _ h.store)))
  split
  · exact h
  · split
    · exact h
    · exact hu.setMigration.putEntry.dropPage.resumeWriters

theorem resolveWrite {g frame table : Nat} (h : memOk s) : memOk (s.resolveWrite g frame table) := by
  unfold State.resolveWrite
  split
  · exact h
  · split
    · exact h
    · dsimp only
      split
      · exact h
      · split
        · exact h.resumeWave
        · split
          · exact h.resumeWriters
          · split
            · exact h.collapse
            · split
              · exact h
              · split
                · exact h.splitLeaf
                · exact h.splitLeaf.collapse

theorem writeProtectCollapse {g frame table : Nat} (h : memOk s) : (execWriteProtectCollapse g frame table s).memOk := by
  apply Result.memOk_next
  split
  · exact h
  · exact h.byHm h.resolveWrite

theorem replicateAgain {ctx va : Nat} (h : memOk s) : memOk (s.replicateAgain ctx va) := by
  unfold State.replicateAgain
  dsimp only
  split
  · split
    · exact h
    · split
      · exact h.setMigration.putEntry.dropPage
      · exact h.setMigration
  · exact h

theorem settlePage {ctx va : Nat} (h : memOk s) : memOk (s.settlePage ctx va) := by
  unfold State.settlePage
  split <;> exact h

theorem startRelayout {ctx level va place code : Nat} {e : Word} (h : memOk s) (hu : s.startRelayout ctx level va place code e = some t) : memOk t := by
  unfold State.startRelayout at hu
  dsimp only at hu
  split at hu
  · cases hu
  · cases hu
    exact dropPage (putEntry (h.foldl (fun _ _ hs => hs.setBerth) _))

theorem reencode {line old new : Nat} (h : memOk s) : memOk (s.reencode line old new) := by
  unfold State.reencode
  extract_lets lo ln d st
  have hst : st.wf = true := by
    dsimp only [st]
    split
    · exact Store.wf_put1 _ _ _ h.store
    · exact h.store
  exact h.withStore (Store.wf_code _ _ _ hst)

theorem endRelayout {line : Nat} (h : memOk s) : memOk (s.endRelayout line) := by
  unfold State.endRelayout
  split <;> exact h

theorem relayoutReencode {b entry : Nat} (h : memOk s) : (execRelayoutReencode b entry s).memOk := by
  apply Result.memOk_next
  split
  · exact h
  · dsimp only
    split
    · exact h.setBerth.endRelayout
    · exact h.reencode.setBerth.endRelayout

theorem put1 {line : Nat} {l : LineBits} (h : memOk s) : memOk { s with store := s.store.put1 line l } := h.withStore (Store.wf_put1 _ _ _ h.store)

theorem sweep {line : Nat} (h : memOk s) : memOk (s.sweep line) := by
  unfold State.sweep
  dsimp only
  split
  · split
    · exact h.withStore (Store.wf_put2 _ _ _ (Store.wf_put1 _ _ _ h.store))
    · split
      · exact h.withStore (Store.wf_put2 _ _ _ (Store.wf_put1 _ _ _ h.store))
      · exact h.record
  · split
    · exact h.put1
    · exact h.record

theorem dropReplicas {line : Nat} (h : memOk s) : memOk (s.dropReplicas line) := h

theorem errorInjection {part pa : Nat} {side : Word} {data : BitVec 512} {first second : Bool} (h : memOk s) :
    (execErrorInjection part pa side data first second s).memOk := by
  apply Result.memOk_next
  extract_lets line refuse st
  have hst : st.wf = true := by
    dsimp only [st]
    split
    · exact Store.wf_put1 _ _ _ h.store
    · exact h.store
  split
  · exact h
  · split
    · split
      · exact h
      · refine dropReplicas (h.withStore ?_)
        split
        · exact Store.wf_put2 _ _ _ hst
        · exact hst
    · split
      · exact h
      · exact h.put1.dropReplicas

/-! ## Launch pages (R367 to R370) -/

theorem takeEntry {c : Nat} (h : memOk s) : memOk (s.takeEntry c) := by
  unfold State.takeEntry
  extract_lets submit taken i rec_ r s1 s2
  have hr : memOk r.1 := by
    apply memOk.submit
    split
    · exact h.record
    · exact h
  have h2 : memOk s2 := hr.writePhys.setPageWord
  split
  · exact h
  · split
    · exact h2.signalPage
    · exact h2

theorem ackRequest {c : Nat} {res seq : Word} (h : memOk s) : memOk (s.ackRequest c res seq) := h.fenceHost.setPageWord.setPageWord

theorem preemptRequest {c : Nat} (h : memOk s) : memOk (s.preemptRequest c) := by
  unfold State.preemptRequest
  split
  · exact h
  · split
    · exact h.ackRequest
    · split
      · split
        · exact h.ackRequest
        · apply ackRequest
          split
          · exact h
          · exact h.preempt
      · exact h

theorem restoreAll {c unit : Nat} {l : List Nat} (h : memOk s) (hu : s.restoreAll c unit l = some t) : memOk t := by
  induction l generalizing s with
  | nil => cases hu; exact h
  | cons i r ih =>
    unfold State.restoreAll at hu
    split at hu
    · cases hu
    · obtain ⟨v, -, hv⟩ := Option.bind_eq_some_iff.mp hu
      exact ih h.restore hv

theorem restoreRequest {c unit : Nat} (h : memOk s) : memOk (s.restoreRequest c unit) := by
  unfold State.restoreRequest
  split
  · exact h
  · split
    · exact h.ackRequest
    · split
      · exact h
      · split
        · exact h.ackRequest
        · split
          · exact h
          · split
            · exact h.ackRequest
            · split
              · exact h
              · next hu => exact (h.restoreAll hu).ackRequest

theorem relayoutRequest {c : Nat} (h : memOk s) : memOk (s.relayoutRequest c) := by
  unfold State.relayoutRequest
  split
  · exact h
  · split
    · exact h.ackRequest
    · split
      · exact h
      · split
        · exact h.ackRequest
        · split
          · exact h.ackRequest
          · split
            · exact h
            · next hu => exact (h.startRelayout hu).ackRequest

/-! ## The host port and the boot mailbox (R135, R282, R366, R374) -/

theorem portWrite {place : Nat} {bs : List Byte} (h : memOk s) : memOk (s.portWrite place bs) := h.homeWrites

theorem hostWrite {part pa : Nat} {data : List Byte} (h : memOk s) : memOk (s.hostWrite part pa data) := by
  unfold State.hostWrite
  split
  · exact h
  · exact h.modOut.portWrite

theorem loaderBlock {part pa code : Nat} {data : List Byte} (h : memOk s) : memOk (s.loaderBlock part pa data code) := by
  unfold State.loaderBlock
  split
  · exact h
  · dsimp only
    split
    · exact h
    · exact h.modOut.writeBlock

theorem hostRead {part pa len : Nat} {cached : Bool} (h : memOk s) : memOk (s.hostRead part pa len cached) := by
  unfold State.hostRead
  split
  · exact h
  · exact h.modOut

theorem manage {r : MgmtReport} (h : memOk s) : memOk (s.manage r) := h

theorem bootStat {x : Word} (h : memOk s) : memOk (s.bootStat x) := by
  unfold State.bootStat
  split
  · exact h
  · exact h.modOut.sendMsix

theorem bootRefuse {cause : Nat} (h : memOk s) : memOk (s.bootRefuse cause) := h.bootStat.manage

theorem verifyImage {n : Nat} (h : memOk s) : memOk (s.verifyImage n) := by
  unfold State.verifyImage
  split
  · exact h.bootRefuse
  · exact h.modOut.bootStat

theorem bootGo (h : memOk s) : memOk s.bootGo := by
  unfold State.bootGo
  split
  · exact h
  · exact h.verifyImage

theorem putBar0 {f k : Nat} {x : Word} (h : memOk s) : memOk (s.putBar0 f k x) := by
  unfold State.putBar0
  split
  · exact h.modOut.sendPending
  · split
    · exact h
    · split
      · exact h.modOut
      · dsimp only
        split
        · exact h.modOut.bootGo
        · exact h.modOut
      · exact h.modOut
      · exact h

theorem bar0Write {f place : Nat} {bs : List Byte} (h : memOk s) : memOk (s.bar0Write f place bs) := by
  unfold State.bar0Write
  split
  · exact h
  · exact h.foldl (fun _ _ hs => by
      dsimp only
      split
      · exact hs
      · exact hs.putBar0) _

theorem msixEnable {f : Nat} {on : Bool} (h : memOk s) : memOk (s.msixEnable f on) := by
  unfold State.msixEnable
  split
  · exact h.modOut.sendPending
  · exact h

theorem execHostWrite {part pa : Nat} {data : List Byte} {form : HostForm} (h : memOk s) : (execHostWrite part pa data form s).memOk := by
  apply Result.memOk_next
  cases form with
  | bar0 => exact h.bar0Write
  | msixEnable on => exact h.msixEnable
  | plain => exact h.hostWrite
  | loaderBlock c => exact h.loaderBlock

theorem execHostRead {part pa len : Nat} {how : HostRead} (h : memOk s) : (execHostRead part pa len how s).memOk := by
  apply Result.memOk_next
  cases how with
  | bar0 => exact h.modOut
  | plain => exact h.hostRead
  | cached => exact h.hostRead

/-! ## The network port (R337, R371, R372) -/

theorem juwinFault {conn cause : Nat} (h : memOk s) : memOk (s.juwinFault conn cause) := h

theorem juwinWrite {c : Conn} {addr : Nat} {data : List Byte} (h : memOk s) : memOk (s.juwinWrite c addr data) := by
  unfold State.juwinWrite
  split
  · exact h.juwinFault
  · extract_lets r
    have hr : memOk r.1 := h.of_memRead (.juwinTargets ..)
    split
    · exact hr.juwinFault
    · exact hr.foldl (fun _ _ hs => hs.writeAt) _

theorem juwinPacket {p : Packet} (h : memOk s) : (execJuwinPacket p s).memOk := by
  apply Result.memOk_next
  split
  · exact h
  · split
    · exact h
    · exact h.modOut.juwinWrite

/-! ## Links, boot and power (R354, R373 to R377) -/

theorem linkRetrain {link : Nat} {ok : Bool} (h : memOk s) : (execLinkRetrain link ok s).memOk := by
  apply Result.memOk_next
  split
  · exact h.modOut
  · exact h.modOut.manage

theorem reset : memOk State.reset := ⟨rfl, List.forall_mem_nil _, List.forall_mem_nil _⟩

theorem execReset : (execReset s).memOk := Result.memOk_next (reset.of_eq rfl rfl rfl)

theorem bootcmdGo {length : Word} (h : memOk s) : (execBootcmdGo length s).memOk := by
  apply Result.memOk_next
  split
  · exact h
  · exact h.modOut.bootGo

theorem mgmtFetch {image : List Byte} (h : memOk s) : memOk (s.mgmtFetch image) := by
  unfold State.mgmtFetch
  split
  · exact h
  · exact h.portWrite.verifyImage

theorem bootVerifyDone {key : List Byte} (h : memOk s) : (execBootVerifyDone key s).memOk := by
  apply Result.memOk_next
  extract_lets image m u signed
  have hu : memOk u := h
  split
  · exact h
  · split
    · exact hu.bootRefuse
    · split
      · exact hu.bootRefuse
      · exact hu.bootStat.modOut.modWave

theorem thermalShutdown (h : memOk s) : (execThermalShutdown s).memOk := by
  apply Result.memOk_next
  extract_lets s1 s2
  have h1 : memOk s1 := h.dropWaves
  exact ⟨h1.store, List.forall_mem_nil _, List.forall_mem_nil _⟩

end memOk
end Sys2Proof.Machine
end

section
/-! SUPPORT of O58, and O58. Every instruction, every device step and so every step of the device keeps memory canonical. -/

open Sys2Proof
namespace Sys2Proof.Machine
namespace memOk
variable {s t : State}

/-! ## Instruction words -/

theorem br {c : Ctl} {cond : BrCond} {off : BitVec 24} (h : memOk s) : (execBr c cond off s).memOk := by
  apply h.perform
  split
  · exact h.jump
  · exact h.finish

theorem jr {c : Ctl} {a : BitVec 6} (h : memOk s) : (execJr c a s).memOk := by
  apply h.perform
  dsimp only
  split
  · exact h.raise
  · exact h.jump

theorem jalr {c : Ctl} {d a : BitVec 6} (h : memOk s) : (execJalr c d a s).memOk := by
  apply h.perform
  dsimp only
  split
  · exact h.raise
  · exact h.jump

theorem loop {c : Ctl} {lc1 : Bool} {count : Opnd} {off : BitVec 24} (h : memOk s) : (execLoop c lc1 count off s).memOk := by
  apply h.perform
  dsimp only
  split
  · exact h.raise
  · exact h.mapMe

theorem gaddr {c : Ctl} {d a b : Opnd} {x : Option Opnd} (h : memOk s) : (execGaddr c d a b x s).memOk := by
  apply h.perform
  extract_lets n chart
  cases chart with
  | none => exact h.badCommand
  | some r =>
    dsimp only
    split
    · exact h.badCommand
    · split
      · exact h.parityFault
      · exact h.finish

theorem bdq {c : Ctl} {ty et : Ty} {rm : Rm} {d : BitVec 7} {a b : Opnd} (h : memOk s) : (execBdq c ty et rm d a b s).memOk := by
  apply h.perform
  dsimp only
  split
  · exact h.parityFault
  · exact h.finish

theorem cbq {c : Ctl} {tab : BitVec 3} {d : BitVec 7} {a b : Opnd} (h : memOk s) : (execCbq c tab d a b s).memOk := by
  apply h.perform
  dsimp only
  split
  · exact h.parityFault
  · exact h.finish

theorem cbl {c : Ctl} {tab : BitVec 3} {d : BitVec 7} {a b : Opnd} (h : memOk s) : (execCbl c tab d a b s).memOk := by
  apply h.perform
  dsimp only
  split
  · exact h.parityFault
  · exact h.finish

theorem pfG {c : Ctl} {m : MemArg} (h : memOk s) : (execPfG c m s).memOk := by
  apply h.perform
  apply finish
  split
  · exact h.foldl (fun _ _ hs => hs.of_memRead (.prefetch ..)) _
  · exact h

theorem fence {c : Ctl} {k : FenceKind} {sc : Scope} (h : memOk s) : (execFence c k sc s).memOk := by
  apply h.perform
  split
  · split
    · exact h.mapMe.fenceEffect.finish
    · exact h.stall
  · exact h.fenceEffect.finish

theorem discard {c : Ctl} {a : BitVec 6} {n : Opnd} (h : memOk s) : (execDiscard c a n s).memOk := by
  apply h.perform
  dsimp only
  split
  · exact h.raise
  · split
    · exact h.badCommand
    · exact withChecked h.checkGlobal fun _ _ => launchFlight

theorem xbegin {c : Ctl} {off : BitVec 24} (h : memOk s) : (execXbegin c off s).memOk := by
  apply h.perform
  split
  · exact h.finish
  · split
    · exact h.finish
    · exact h.abortTx

theorem xend {c : Ctl} (h : memOk s) : (execXend c s).memOk := by
  apply h.perform
  split
  · exact h.commit
  · exact h.finish

theorem otherwise {c : Ctl} {off : BitVec 24} (h : memOk s) : (execOtherwise c off s).memOk := by
  apply h.perform
  split
  · exact h.abortTx
  · exact h.finish

theorem spawn {c : Ctl} {d q : BitVec 6} (h : memOk s) : (execSpawn c d q s).memOk := by
  apply h.perform
  dsimp only
  split
  · exact h.typeEntry.badCommand
  · exact h.typeEntry.launchFlight

theorem launch {c : Ctl} {d a : BitVec 6} (h : memOk s) : (execLaunch c d a s).memOk := by
  apply h.perform
  dsimp only
  split
  · exact h.raise
  · refine withChecked h.checkGlobal fun u _ hu => ?_
    split <;> exact hu.launchFlight

theorem mxc {c : Ctl} {q : BitVec 6} (h : memOk s) : (execMxc c q s).memOk := by
  apply h.perform
  dsimp only
  split
  · exact h.raise
  · exact h.setCore.finish

theorem cpc {c : Ctl} {q : BitVec 6} (h : memOk s) : (execCpc c q s).memOk := by
  apply h.perform
  dsimp only
  split
  · exact h.raise
  · exact h.setCore.finish

theorem ctld {c : Ctl} {a : BitVec 6} {sorted : Bool} {n : BitVec 3} (h : memOk s) : (execCtld c a sorted n s).memOk := by
  apply h.perform
  dsimp only
  split
  · exact h.raise
  · refine withChecked h.checkGlobal fun u _ hu => ?_
    split
    · exact hu.mapMe.launchFlight
    · exact hu

theorem chartld {c : Ctl} {a : BitVec 6} {n : BitVec 4} (h : memOk s) : (execChartld c a n s).memOk := by
  refine h.perform (withChecked h.checkGlobal fun u _ hu => ?_)
  split
  · exact hu.launchFlight
  · exact hu

theorem accrd {c : Ctl} {d : BitVec 7} {index : Opnd} {bank : BitVec 2} (h : memOk s) : (execAccrd c d index bank s).memOk := by
  apply h.perform
  dsimp only
  split
  · exact h.mapMe.launchFlight
  · split
    · exact h.stall
    · split
      · exact h.parityFault
      · exact h.finish

theorem accwr {c : Ctl} {index : Opnd} {bank : BitVec 2} {data : Opnd} (h : memOk s) : (execAccwr c index bank data s).memOk := by
  apply h.perform
  dsimp only
  split
  · exact h.mapMe.launchFlight
  · split
    · exact h.stall
    · exact h.setCore.finish

theorem trap {c : Ctl} {imm : BitVec 16} (h : memOk s) : (execTrap c imm s).memOk := by
  apply h.perform
  dsimp only
  split
  · exact h.mapMe.hmException
  · exact h.mapMe.parkWave

theorem srw {c : Ctl} {reg : BitVec 16} {a : BitVec 6} (h : memOk s) : (execSrw c reg a s).memOk := by
  apply h.perform
  dsimp only
  split
  · exact h.hmCommand.finish
  · split
    · split
      · exact h.badCommand
      · next hu => exact (h.wctl hu).finish
    · exact h.sysregStore.finish

theorem tlbi {c : Ctl} {a b : BitVec 6} (h : memOk s) : (execTlbi c a b s).memOk := by
  apply h.perform
  dsimp only
  split
  · exact h.badCommand
  · exact h.launchFlight

/-! ## Device steps -/

theorem storePerformedAtHome {g id line : Nat} (h : memOk s) : (execStorePerformedAtHome g id line s).memOk :=
  Result.memOk_next (h.withFlight fun u w f hu => by
    split
    · exact hu.doStore
    · exact hu)

theorem atomicAtHome {g id line : Nat} (h : memOk s) : (execAtomicAtHome g id line s).memOk :=
  Result.memOk_next (h.withFlight fun u w f hu => by
    split
    · exact hu.doAtomic
    · exact hu)

theorem wakeRestart {g : Nat} (h : memOk s) : (execWakeRestart g s).memOk := by
  apply Result.memOk_next
  split
  · exact h
  · exact h.modWave

theorem feReexecute {g : Nat} (h : memOk s) : (execFeReexecute g s).memOk := by
  apply Result.memOk_next
  extract_lets back s1
  have h1 : memOk s1 := h.focus
  split
  · split
    · apply focus
      have h2 : memOk (s1.mapMe Wave.unlist) := h1.mapMe
      split
      · exact h2.fe
      · exact h2.fe
      · exact h2.fe
      · exact h2
    · exact h
  · exact h

theorem lighterStart {core cmd : Nat} (h : memOk s) : (execLighterStart core cmd s).memOk := by
  apply Result.memOk_next
  split
  · exact h
  · exact h.startLit

theorem statusLineRewrite {b : Nat} (h : memOk s) : (execStatusLineRewrite b s).memOk := by
  apply Result.memOk_next
  dsimp only
  split
  · exact h
  · exact h.setBerth.touchLine

theorem crewStart {unit crew : Nat} (h : memOk s) : (execCrewStart unit crew s).memOk := by
  apply Result.memOk_next
  split
  · exact h
  · split
    · exact h
    · exact h.modWaves

theorem execShadowCompare {b id : Nat} (h : memOk s) : (execShadowCompare b id s).memOk := by
  apply Result.memOk_next
  split
  · exact h
  · split
    · exact h
    · dsimp only
      split
      · exact h.freeSettled
      · exact h.freeSettled.shadowCompare

theorem execRestore {part slot image unit : Nat} (h : memOk s) : (execRestore part slot image unit s).memOk := by
  apply Result.memOk_next
  split
  · exact h.byHm h.restore
  · exact h

theorem resume {g : Nat} (h : memOk s) : (execResume g s).memOk := by
  apply Result.memOk_next
  split
  · exact h
  · exact h.resumeWave

theorem execFault {g : Nat} {cause : BitVec 8} (h : memOk s) : (execFault g cause s).memOk := by
  apply Result.memOk_next
  split
  · exact h.faultWave
  · exact h

theorem sysregWrite {reg : BitVec 16} {value : Word} (h : memOk s) : (execSysregWrite reg value s).memOk := by
  apply Result.memOk_next
  split
  · exact h.sysregStore
  · exact h

/-! ## Every instruction and every device step -/

/-- Each by the lemma about its one effect; the words of the first case change a wave's registers alone. -/
theorem exec (i : Instr) (h : memOk s) : Result.memOk (Machine.exec i s) := by
  unfold Machine.exec
  cases i with
  | nop | lea | li | lih | mulh | csel | add | addImm | sub | mul | mulImm | mad | mov | and | andImm | or | orImm | xor | xorImm | not | shl | shlImm
  | lsr | lsrImm | asr | asrImm | min | max | cmp | cmpImm | bfx | bfi | popc | clz | perm | red | addFloat | subFloat | mulFloat | fma | fms | minFloat | maxFloat
  | abs | neg | div | sqrt | rcp | rsqrt | exp2 | log2 | sin | cos | tanh | cvt | bq | rnd128 | flget | flclr | fclass | frnd | xstat | progress | srr | tlbsync
  | sighost => exact h.perform h.finish
  | br => exact h.br
  | call => exact h.perform h.jump
  | jr => exact h.jr
  | jalr => exact h.jalr
  | loop => exact h.loop
  | gaddr => exact h.gaddr
  | bdq => exact h.bdq
  | cbq => exact h.cbq
  | cbl => exact h.cbl
  | ldG => exact h.perform (withChecked h.checkGlobal fun _ _ => loadTargets)
  | stG => exact h.perform (withChecked h.checkGlobal fun _ _ => storeTargets)
  | ldS => exact h.perform (withChecked (r := (s, _)) h fun _ _ => loadTargets)
  | stS => exact h.perform (withChecked (r := (s, _)) h fun _ _ => storeTargets)
  | pfG => exact h.pfG
  | atomAdd | atomMin | atomMax | atomAnd | atomOr | atomXor | atomXchg | atomCas => exact h.perform h.atom
  | fence => exact h.fence
  | ldf | ldfc | stf => exact h.perform h.fe
  | feset | feclr => exact h.perform h.feBits
  | discard => exact h.discard
  | xbegin => exact h.xbegin
  | xend => exact h.xend
  | retry => exact h.perform h.doRetry
  | otherwise => exact h.otherwise
  | xabort => exact h.perform h.abortTx
  | spawn => exact h.spawn
  | tret => exact h.perform h.endWave
  | evset | evclr => exact h.perform h.event
  | launch => exact h.launch
  | mxc => exact h.mxc
  | cpc => exact h.cpc
  | ctld => exact h.ctld
  | ctswap => exact h.perform h.setCore.finish
  | chartld => exact h.chartld
  | accrd => exact h.accrd
  | accwr => exact h.accwr
  | trap => exact h.trap
  | eret => exact h.perform h.mapMe
  | halt => exact h.perform h.mapMe.mapMe
  | srw => exact h.srw
  | tlbi => exact h.tlbi
  | illegal => exact h.perform h
  | slotCompletion => exact Result.memOk_next (h.withFlight fun _ _ _ => doFlight)
  | storePerformedAtHome => exact h.storePerformedAtHome
  | atomicAtHome => exact h.atomicAtHome
  | wakeRestart => exact h.wakeRestart
  | backoffExpiry => exact Result.memOk_next h.modWave
  | feReexecute => exact h.feReexecute
  | faultQueueEntryWrite => exact Result.memOk_next h.fqWrite
  | matrixMma | matrixMmaz | matrixZero => exact Result.memOk_next h.matRun
  | matrixKstep => exact Result.memOk_next h.matTurn
  | lighterStart => exact h.lighterStart
  | lighterTurn => exact Result.memOk_next h.litTurn
  | convNone | convElementwise | expandBf16 | expandF32 | packIn | packOut | quantBf16 | quantF32 | requantBf16 => exact Result.memOk_next h.litRun
  | launchCheck => exact h.launchCheck
  | berthCycle => exact h.berthCycle
  | statusLineRewrite => exact h.statusLineRewrite
  | taskPriorityAge => exact h.taskPriorityAge
  | pilotSend => exact h.pilotSend
  | remoteWaitExpiry => exact h.remoteWaitExpiry
  | crewStart => exact h.crewStart
  | wavePriorityAge => exact h.wavePriorityAge
  | manifestWrite | manifestRetry => exact Result.memOk_next h.manifest
  | watchdogHang => exact Result.memOk_next h.hang
  | shadowCompare => exact h.execShadowCompare
  | preempt => exact Result.memOk_next (h.byHm h.preempt)
  | preemptImageWrite => exact Result.memOk_next (h.byHm h.saveUnit)
  | restore => exact h.execRestore
  | ctxload => exact Result.memOk_next (h.hmStep fun _ => h.ctxLoad)
  | ctxset => exact Result.memOk_next (h.hmStep fun _ => h.ctxSet)
  | stealload => exact Result.memOk_next (h.hmStep fun _ => h.stealLoad)
  | ctxunload => exact Result.memOk_next (h.hmStep fun _ => h.ctxUnload)
  | resume => exact h.resume
  | fault => exact h.execFault
  | sysregWrite => exact h.sysregWrite
  | writeProtectCollapse => exact h.writeProtectCollapse
  | reReplicate => exact Result.memOk_next (h.byHm h.replicateAgain)
  | pinExpiry | migrationWindowReset => exact Result.memOk_next h.settlePage
  | relayoutReencode => exact h.relayoutReencode
  | memorySweep | l2Sweep => exact Result.memOk_next h.sweep
  | errorInjection => exact h.errorInjection
  | launchPageTake => exact Result.memOk_next (h.byHm h.takeEntry)
  | preemptRequest => exact Result.memOk_next (h.byHm h.preemptRequest)
  | restoreRequest => exact Result.memOk_next (h.byHm h.restoreRequest)
  | relayoutRequest => exact Result.memOk_next (h.byHm h.relayoutRequest)
  | hostWrite => exact h.execHostWrite
  | hostRead => exact h.execHostRead
  | juwinPacket => exact h.juwinPacket
  | linkRetrain => exact h.linkRetrain
  | reset => exact execReset
  | bootcmdGo => exact h.bootcmdGo
  | bootVerifyDone => exact h.bootVerifyDone
  | attestation | throttle => exact Result.memOk_next h.modOut
  | thermalShutdown => exact h.thermalShutdown
  | msixVectorUnmask => exact Result.memOk_next h.modOut.sendPending
  | tlbEntryDrop => exact Result.memOk_next (h.of_eq rfl rfl rfl)

/-! ## Issue, clocks and the agenda -/

theorem upset {p : Upset} (h : memOk s) : memOk (s.upset p) := by
  unfold State.upset
  cases p with
  | reg g r => exact h.modWave
  | scratch c k => exact h.modCrew fun _ hc => hc
  | bank c k => exact h.setCore
  | table c k => exact h.setCore
  | chart c n =>
    refine h.modCtx fun x => ?_
    split
    · rfl
    · rfl
  | record b i => exact h.modRec
  | line l data side => exact h.put1

theorem fetchFault {cause sev : Nat} (h : memOk s) : memOk (s.fetchFault cause sev) := by
  unfold State.fetchFault
  dsimp only
  split
  · exact h.takeDue
  · split
    · exact h.mapMe
    · split
      · exact h.raise
      · exact h

theorem issue (h : memOk s) : s.issue.memOk := by
  have hr : memOk s.fetch.1 := h.of_memRead (.fetch s)
  unfold State.issue
  dsimp only
  split
  · exact hr.exec _
  · exact Result.memOk_next hr.fetchFault

theorem advance {g : Nat} (h : memOk s) : (s.advance g).memOk := by
  unfold State.advance
  extract_lets s1 w
  have h1 : memOk s1 := h.focus
  split
  · exact Result.memOk_next h
  · split
    · next i _ =>
      have he := exec (s := s1.mapMe fun x => { x with run := .running }) i h1.mapMe
      split
      · next u hu =>
        extract_lets v
        have hv : memOk v := by
          dsimp only [v]
          split
          · exact (he u hu).mapMe
          · exact he u hu
        apply Result.memOk_next
        split
        · exact h
        · exact hv
      · exact he
    · apply Result.memOk_next
      split
      · exact h1.takeDue
      · split
        · exact h1.mapMe
        · exact h
    · exact Result.memOk_next h

theorem clock {unit sched : Nat} (h : memOk s) : (s.clock unit sched).memOk := by
  unfold State.clock
  extract_lets u
  have hu : memOk u := h
  split
  · exact Result.memOk_next h
  · split
    · exact Result.memOk_next hu
    · exact hu.focus.issue

theorem passTime {n : Nat} (h : memOk s) : (s.passTime n).memOk := by
  unfold State.passTime
  extract_lets rest
  have hrest (u : State) (m : Nat) (hu : memOk u) : memOk (rest u m) := by
    dsimp only [rest]
    split <;> exact hu
  split
  · next p _ _ =>
    have hc : (s.clock p.1 p.2).memOk := h.clock
    split
    · next u hu => exact Result.memOk_next (hrest _ _ (hc u hu))
    · exact hc
  · exact Result.memOk_next (hrest _ _ h.elapse)

theorem act {a : Action} (h : memOk s) : (s.act a).memOk := by
  unfold State.act
  cases a with
  | clock u n => exact h.clock
  | event i =>
    dsimp only
    split
    · exact h.exec i
    · exact Result.memOk_next h
  | pass n => exact h.passTime
  | lane g id lane => exact Result.memOk_next h.doLane
  | advance g => exact h.advance
  | dropL1 core line => exact Result.memOk_next h.dropL1
  | dropIc unit place => exact Result.memOk_next (h.of_eq rfl rfl rfl)
  | backInvalidate line => exact Result.memOk_next h.modOut
  | upset p => exact Result.memOk_next h.upset
  | connect conn part ctx => exact Result.memOk_next h.modOut
  | mgmtFetch image => exact Result.memOk_next h.mgmtFetch

/-! ## The default order (log entry 2) -/

theorem firstChange {l : List Instr} (h : memOk s) (hu : s.firstChange l = some t) : memOk t := by
  induction l with
  | nil => cases hu
  | cons i r ih =>
    unfold State.firstChange at hu
    split at hu
    · next u he =>
      split at hu
      · exact ih hu
      · cases hu; exact h.exec i _ he
    · exact ih hu

theorem firstAdvance {l : List Wave} (h : memOk s) (hu : s.firstAdvance l = some t) : memOk t := by
  induction l with
  | nil => cases hu
  | cons w r ih =>
    unfold State.firstAdvance at hu
    split at hu
    · next u he =>
      split at hu
      · exact ih hu
      · cases hu; exact h.advance _ he
    · exact ih hu

theorem ownStep (h : memOk s) : s.ownStep.memOk := by
  unfold State.ownStep
  split
  · exact Result.memOk_next h.modOut
  · next u _ hu =>
    obtain hf | ⟨-, hf⟩ := Option.or_eq_some_iff.mp hu
    · exact Result.memOk_next (h.firstAdvance hf)
    · exact Result.memOk_next (h.firstChange hf)
  · exact h.clock
  · split
    · next u hu =>
      apply Result.memOk_next
      split
      · exact (h.firstChange hu).elapse
      · exact h.firstChange hu
    · exact Result.memOk_next h.elapse

theorem step (h : memOk s) : Result.memOk (Machine.step s) := by
  have ht : memOk s.took := h
  unfold Machine.step
  split
  · exact ht.act
  · exact fun _ hu => by cases hu
  · exact ht.act
  · exact h.ownStep

end memOk

/-- Settles O58: each operation that stores a byte, a bit or a whole line keeps the form, so every instruction and every device step does, and so each action
and the default order. -/
theorem memoryStaysCanonical : Obligations.MemoryStaysCanonical := by
  unfold Obligations.MemoryStaysCanonical
  exact fun _ u h hu => h.step u hu

end Sys2Proof.Machine
end

section
/-! SUPPORT of O25, O32, O44, O55. The BCH codewords (R346): the numbers below 512 as the field GF(2^9), read as values in a field of characteristic 2 that
holds a root of x^9 + x^4 + 1. -/

namespace Sys2Proof.Gf
open Machine (gfMul gfMulFrom gfPow gfInv polyAt)

section
variable {K : Type} [Field K]

/-- The value of a bit polynomial at an element of a field. -/
noncomputable def bitVal (a : K) (n : Nat) : K := if n = 0 then 0 else bitVal a (n / 2) * a + (n % 2 : Nat)

@[simp] theorem bitVal_zero (a : K) : bitVal a 0 = 0 := by rw [bitVal, if_pos rfl]

theorem bitVal_eq (a : K) (n : Nat) : bitVal a n = bitVal a (n / 2) * a + (n % 2 : Nat) := by
  by_cases h : n = 0
  · simp [h]
  · rw [bitVal, if_neg h]

@[simp] theorem bitVal_one (a : K) : bitVal a 1 = 1 := by simp [bitVal_eq a 1]

theorem bitVal_double (a : K) (n : Nat) : bitVal a (2 * n) = bitVal a n * a := by
  rw [bitVal_eq, Nat.mul_div_cancel_left _ (by decide : 0 < 2), Nat.mul_mod_right, Nat.cast_zero, add_zero]

theorem bitVal_two (a : K) : bitVal a 2 = a := by
  rw [show 2 = 2 * 1 from rfl, bitVal_double, bitVal_one, one_mul]

theorem bitVal_pow (a : K) (n : Nat) : bitVal a (2 ^ n) = a ^ n := by
  induction n with
  | zero => rw [pow_zero, bitVal_one, pow_zero]
  | succ n ih => rw [pow_succ, mul_comm, bitVal_double, ih, pow_succ]

theorem bitVal_mod_two (a : K) (n : Nat) : bitVal a (n % 2) = (n % 2 : Nat) := by
  obtain h | h := Nat.mod_two_eq_zero_or_one n <;> simp [h]

variable [CharP K 2]

/-- Exclusive-or is the sum in characteristic 2. -/
theorem bitVal_xor (a : K) (m n : Nat) : bitVal a (m ^^^ n) = bitVal a m + bitVal a n := by
  induction m using Nat.strongRecOn generalizing n with
  | ind m ih =>
    obtain rfl | hm := Nat.eq_zero_or_pos m
    · rw [Nat.zero_xor, bitVal_zero, zero_add]
    · have hbit : ((m ^^^ n) % 2 : Nat) = ((m % 2 : Nat) + (n % 2 : Nat) : K) := by
        rw [Nat.xor_mod_two_eq, ← Nat.cast_add, CharP.cast_eq_mod K 2 (m % 2 + n % 2), Nat.mod_add_mod, Nat.add_mod_mod]
      rw [bitVal_eq a (m ^^^ n), Nat.xor_div_two, ih (m / 2) (by omega), hbit, bitVal_eq a m, bitVal_eq a n]
      ring

/-- Squaring is additive in characteristic 2. -/
theorem bitVal_sq (a : K) (n : Nat) : bitVal (a ^ 2) n = bitVal a n ^ 2 := by
  induction n using Nat.strongRecOn with
  | ind n ih =>
    obtain rfl | hn := Nat.eq_zero_or_pos n
    · simp
    · have hbit : ((n % 2 : Nat) : K) ^ 2 = (n % 2 : Nat) := by obtain h | h := Nat.mod_two_eq_zero_or_one n <;> simp [h]
      rw [bitVal_eq (a ^ 2) n, ih (n / 2) (by omega), bitVal_eq a n, CharTwo.add_sq, mul_pow, hbit]

/-- The element is a root of the field's polynomial (R346). -/
def IsGfRoot (a : K) : Prop := a ^ 9 + a ^ 4 + 1 = 0

variable {a : K} (h : IsGfRoot a)
include h

theorem IsGfRoot.bitVal_modulus : bitVal a 0x211 = 0 := by
  rw [show 0x211 = 2 ^ 9 ^^^ 2 ^ 4 ^^^ 2 ^ 0 by decide, bitVal_xor, bitVal_xor, bitVal_pow, bitVal_pow, bitVal_pow, pow_zero]
  exact h

omit h in
theorem xtime_lt {x : Nat} (hx : x < 512) : (if Machine.bitAt x 8 then (2 * x) ^^^ 0x211 else 2 * x) < 512 := by
  have key : ∀ x < 512, (if Machine.bitAt x 8 then (2 * x) ^^^ 0x211 else 2 * x) < 512 := by decide +kernel
  exact key x hx

theorem IsGfRoot.bitVal_xtime (x : Nat) : bitVal a (if Machine.bitAt x 8 then (2 * x) ^^^ 0x211 else 2 * x) = bitVal a x * a := by
  split
  · rw [bitVal_xor, h.bitVal_modulus, add_zero, bitVal_double]
  · exact bitVal_double a x

theorem IsGfRoot.bitVal_gfMulFrom (n x y r : Nat) (hy : y < 2 ^ n) : bitVal a (gfMulFrom n x y r) = bitVal a r + bitVal a x * bitVal a y := by
  induction n generalizing x y r with
  | zero =>
    obtain rfl : y = 0 := by simpa using hy
    simp [gfMulFrom]
  | succ n ih =>
    rw [gfMulFrom, ih _ _ _ (by omega), h.bitVal_xtime, bitVal_eq a y]
    obtain hb | hb := Nat.mod_two_eq_zero_or_one y
    · simp [hb]; ring
    · simp [hb, bitVal_xor]; ring

theorem IsGfRoot.bitVal_gfMul (x : Nat) {y : Nat} (hy : y < 512) : bitVal a (gfMul x y) = bitVal a x * bitVal a y := by
  rw [gfMul, h.bitVal_gfMulFrom 9 x y 0 hy, bitVal_zero, zero_add]

omit h in
theorem gfMulFrom_lt (n x y r : Nat) (hx : x < 512) (hr : r < 512) : gfMulFrom n x y r < 512 := by
  induction n generalizing x y r with
  | zero => exact hr
  | succ n ih =>
    refine ih _ _ _ (xtime_lt hx) ?_
    split
    · exact Nat.xor_lt_two_pow (n := 9) hr hx
    · exact hr

omit h in
theorem gfMul_lt {x : Nat} (y : Nat) (hx : x < 512) : gfMul x y < 512 := gfMulFrom_lt 9 x y 0 hx (by decide)

omit h in
theorem gfMul_gfInv {x : Nat} (hx : x < 512) (h0 : x ≠ 0) : gfInv x < 512 ∧ gfMul x (gfInv x) = 1 := by
  have key : ∀ x < 512, x ≠ 0 → gfInv x < 512 ∧ gfMul x (gfInv x) = 1 := by decide +kernel
  exact key x hx h0

theorem IsGfRoot.bitVal_ne_zero {x : Nat} (hx : x < 512) (h0 : x ≠ 0) : bitVal a x ≠ 0 := by
  intro hz
  obtain ⟨hlt, hinv⟩ := gfMul_gfInv hx h0
  have := h.bitVal_gfMul x hlt
  rw [hinv, hz, zero_mul, bitVal_one] at this
  exact one_ne_zero this

theorem IsGfRoot.bitVal_eq_zero_iff {x : Nat} (hx : x < 512) : bitVal a x = 0 ↔ x = 0 :=
  ⟨fun hz => by_contra fun h0 => h.bitVal_ne_zero hx h0 hz, fun hz => by rw [hz, bitVal_zero]⟩

theorem IsGfRoot.bitVal_gfInv {x : Nat} (hx : x < 512) (h0 : x ≠ 0) : bitVal a (gfInv x) = (bitVal a x)⁻¹ := by
  obtain ⟨hlt, hinv⟩ := gfMul_gfInv hx h0
  have := h.bitVal_gfMul x hlt
  rw [hinv, bitVal_one] at this
  exact eq_inv_of_mul_eq_one_right this.symm

/-- Different numbers below 512 have different values. -/
theorem IsGfRoot.bitVal_inj {x y : Nat} (hx : x < 512) (hy : y < 512) (hxy : bitVal a x = bitVal a y) : x = y := by
  have : bitVal a (x ^^^ y) = 0 := by rw [bitVal_xor, hxy, CharTwo.add_self_eq_zero]
  rw [h.bitVal_eq_zero_iff (Nat.xor_lt_two_pow (n := 9) hx hy)] at this
  exact Nat.xor_eq_zero_iff.mp this

omit [CharP K 2] in
theorem IsGfRoot.ne_zero : a ≠ 0 := by
  intro ha
  rw [IsGfRoot, ha] at h
  simp at h

omit h in
theorem gfPow_lt {x : Nat} (hx : x < 512) (n : Nat) : gfPow x n < 512 := by
  induction n with
  | zero => exact (by decide : 1 < 512)
  | succ n ih => exact gfMul_lt _ hx

theorem IsGfRoot.bitVal_gfPow {x : Nat} (hx : x < 512) (n : Nat) : bitVal a (gfPow x n) = bitVal a x ^ n := by
  induction n with
  | zero => simp [gfPow]
  | succ n ih => rw [gfPow, h.bitVal_gfMul _ (gfPow_lt hx n), ih, pow_succ']

/-- A bit polynomial's value at a field element. -/
theorem IsGfRoot.bitVal_polyAt {x : Nat} (hx : x < 512) (n p : Nat) (hp : p < 2 ^ n) :
    polyAt x n p < 512 ∧ bitVal a (polyAt x n p) = bitVal (bitVal a x) p := by
  induction n generalizing p with
  | zero =>
    obtain rfl : p = 0 := by simpa using hp
    simp [polyAt]
  | succ n ih =>
    obtain ⟨hlt, hv⟩ := ih (p / 2) (by omega)
    refine ⟨Nat.xor_lt_two_pow (n := 9) (gfMul_lt _ hlt) (by omega), ?_⟩
    rw [polyAt, bitVal_xor, h.bitVal_gfMul _ hx, hv, bitVal_mod_two, ← bitVal_eq]

end

/-- A field of characteristic 2 with such a root. -/
theorem exists_isGfRoot : ∃ a : AlgebraicClosure (ZMod 2), IsGfRoot a := by
  obtain ⟨a, ha⟩ := IsAlgClosed.exists_root (Polynomial.X ^ 9 + Polynomial.X ^ 4 + 1 : Polynomial (AlgebraicClosure (ZMod 2))) (by
    have : (Polynomial.X ^ 9 + Polynomial.X ^ 4 + 1 : Polynomial (AlgebraicClosure (ZMod 2))).degree = 9 := by compute_degree!
    rw [this]
    decide)
  exact ⟨a, by simpa [IsGfRoot] using ha⟩

end Sys2Proof.Gf
end

section
/-! SUPPORT of O25, O32, O44, O55. A remainder of 27 bits is determined by its three syndromes (R346). -/

namespace Sys2Proof.Gf
open Machine (gfMul gfPow)

section
variable {K : Type} [Field K]

/-- The bits of a number below 2^n as a polynomial. -/
noncomputable def bitPoly : Nat → Nat → Polynomial K
  | 0, _ => 0
  | n + 1, x => bitPoly n (x / 2) * Polynomial.X + Polynomial.C ((x % 2 : Nat) : K)

theorem eval_bitPoly (a : K) (n x : Nat) (hx : x < 2 ^ n) : (bitPoly n x).eval a = bitVal a x := by
  induction n generalizing x with
  | zero =>
    obtain rfl : x = 0 := by simpa using hx
    simp [bitPoly]
  | succ n ih => rw [bitPoly, Polynomial.eval_add, Polynomial.eval_mul, ih _ (by omega), Polynomial.eval_X, Polynomial.eval_C, ← bitVal_eq]

theorem degree_bitPoly_lt (n x : Nat) : (bitPoly (K := K) n x).degree < n := by
  induction n generalizing x with
  | zero => simp [bitPoly]
  | succ n ih =>
    refine lt_of_le_of_lt (Polynomial.degree_add_le _ _) (max_lt ?_ (lt_of_le_of_lt Polynomial.degree_C_le (by exact_mod_cast n.succ_pos)))
    rw [Polynomial.degree_mul, Polynomial.degree_X]
    exact_mod_cast WithBot.add_lt_add_right (by simp) (ih (x / 2))

theorem eq_zero_of_bitPoly (n x : Nat) (hx : x < 2 ^ n) [CharP K 2] (h : bitPoly (K := K) n x = 0) : x = 0 := by
  induction n generalizing x with
  | zero => simpa using hx
  | succ n ih =>
    rw [bitPoly] at h
    have h0 := congrArg (Polynomial.coeff · 0) h
    have hlow : x % 2 = 0 := by
      obtain hb | hb := Nat.mod_two_eq_zero_or_one x
      · exact hb
      · simp [hb] at h0
    rw [hlow, Nat.cast_zero, map_zero, add_zero, mul_eq_zero, or_iff_left Polynomial.X_ne_zero] at h
    have := ih (x / 2) (by omega) h
    omega

variable [CharP K 2] {a : K}

/-- The conjugates of α, α³ and α⁵. -/
def conjugates : List Nat := [1, 3, 5].flatMap fun k => (List.range 9).map fun i => gfPow (gfPow 2 k) (2 ^ i)

theorem nodup_conjugates : conjugates.Nodup := by decide +kernel

theorem IsGfRoot.nodup_map_conjugates (h : IsGfRoot a) : (conjugates.map (bitVal a)).Nodup := by
  refine nodup_conjugates.map_on fun x hx y hy hxy => ?_
  have hlt : ∀ x ∈ conjugates, x < 512 := by decide +kernel
  exact h.bitVal_inj (hlt x hx) (hlt y hy) hxy

/-- A zero syndrome is zero at every conjugate. -/
theorem bitVal_pow_two_pow {b : K} {x : Nat} (hx : bitVal b x = 0) (i : Nat) : bitVal (b ^ 2 ^ i) x = 0 := by
  induction i with
  | zero => simpa using hx
  | succ i ih => rw [pow_succ, pow_mul, bitVal_sq, ih, zero_pow two_ne_zero]

theorem IsGfRoot.bitVal_conjugate (h : IsGfRoot a) {x : Nat} (h1 : bitVal a x = 0) (h3 : bitVal (a ^ 3) x = 0) (h5 : bitVal (a ^ 5) x = 0)
    {c : Nat} (hc : c ∈ conjugates) : bitVal (bitVal a c) x = 0 := by
  obtain ⟨k, hk, i, -, rfl⟩ : ∃ k ∈ [1, 3, 5], ∃ i ∈ List.range 9, gfPow (gfPow 2 k) (2 ^ i) = c := by
    simpa only [conjugates, List.mem_flatMap, List.mem_map] using hc
  rw [h.bitVal_gfPow (gfPow_lt (by decide) k), h.bitVal_gfPow (by decide), bitVal_two]
  refine bitVal_pow_two_pow ?_ i
  simp only [List.mem_cons, List.not_mem_nil, or_false] at hk
  obtain rfl | rfl | rfl := hk
  · rwa [pow_one]
  · exact h3
  · exact h5

/-- A number of 27 bits whose three syndromes are zero is zero: its polynomial has 27 roots. -/
theorem IsGfRoot.eq_zero_of_syndromes (h : IsGfRoot a) {x : Nat} (hx : x < 2 ^ 27) (h1 : bitVal a x = 0) (h3 : bitVal (a ^ 3) x = 0)
    (h5 : bitVal (a ^ 5) x = 0) : x = 0 := by
  classical
  refine eq_zero_of_bitPoly 27 x hx (K := K) ?_
  refine Polynomial.eq_zero_of_degree_lt_of_eval_finset_eq_zero (s := (conjugates.map (bitVal a)).toFinset) ?_ ?_
  · rw [List.toFinset_card_of_nodup h.nodup_map_conjugates, List.length_map, show conjugates.length = 27 by decide +kernel]
    exact degree_bitPoly_lt 27 x
  · intro b hb
    obtain ⟨c, hc, rfl⟩ := List.mem_map.mp (List.mem_toFinset.mp hb)
    rw [eval_bitPoly _ _ _ hx, h.bitVal_conjugate h1 h3 h5 hc]

end

end Sys2Proof.Gf
end

section
/-! SUPPORT of O25, O32, O44, O55. The Berlekamp and Massey recursion on the values of its state, and its six rounds for three errors (R346). -/

namespace Sys2Proof.Gf
open Machine (gfMul gfInv gfPow polyAt gfPolyAt gfPolyAdd BmState bmRound)

section
variable {K : Type} [Field K]

/-- Sum of two polynomials, lowest coefficient first. -/
def addCoeffs : List K → List K → List K
  | [], b => b
  | a, [] => a
  | x :: a, y :: b => (x + y) :: addCoeffs a b

/-- Value of a polynomial, lowest coefficient first. -/
def evalCoeffs (x : K) : List K → K
  | [] => 0
  | c :: r => c + x * evalCoeffs x r

variable (a : K)

/-- A list of field elements stands for a list of values. -/
def Stands (l : List Nat) (v : List K) : Prop := (∀ x ∈ l, x < 512) ∧ l.map (bitVal a) = v

variable {a}

theorem Stands.cons {x : Nat} {l : List Nat} {v : List K} (hx : x < 512) (h : Stands a l v) : Stands a (x :: l) (bitVal a x :: v) := by
  refine ⟨?_, by rw [List.map_cons, h.2]⟩
  intro y hy
  obtain rfl | hy := List.mem_cons.mp hy
  · exact hx
  · exact h.1 y hy

theorem Stands.getD {l : List Nat} {v : List K} (hl : Stands a l v) (i : Nat) : l.getD i 0 < 512 ∧ bitVal a (l.getD i 0) = v.getD i 0 := by
  obtain ⟨hl, rfl⟩ := hl
  by_cases hi : i < l.length
  · rw [List.getD_eq_getElem _ _ hi, List.getD_eq_getElem _ _ (by simpa using hi), List.getElem_map]
    exact ⟨hl _ (List.getElem_mem hi), rfl⟩
  · rw [List.getD_eq_default _ _ (by omega), List.getD_eq_default _ _ (by simpa using hi)]
    exact ⟨by decide, bitVal_zero a⟩

variable [CharP K 2]

theorem Stands.addPoly {l m : List Nat} {v w : List K} (hl : Stands a l v) (hm : Stands a m w) : Stands a (gfPolyAdd l m) (addCoeffs v w) := by
  obtain ⟨hl, rfl⟩ := hl
  obtain ⟨hm, rfl⟩ := hm
  induction l generalizing m with
  | nil => rw [gfPolyAdd, List.map_nil, addCoeffs]; exact ⟨hm, rfl⟩
  | cons x l ih =>
    cases m with
    | nil => simp only [gfPolyAdd, List.map_nil, List.map_cons, addCoeffs]; exact ⟨hl, rfl⟩
    | cons y m =>
      simp only [gfPolyAdd, List.map_cons, addCoeffs, ← bitVal_xor]
      exact Stands.cons (Nat.xor_lt_two_pow (n := 9) (hl x (by simp)) (hm y (by simp)))
        (ih (fun x hx => hl x (List.mem_cons_of_mem _ hx)) fun y hy => hm y (List.mem_cons_of_mem _ hy))

theorem Stands.shift (h : IsGfRoot a) {l : List Nat} {v : List K} (hl : Stands a l v) {k : Nat} (hk : k < 512) (m : Nat) :
    Stands a (List.replicate m 0 ++ l.map (gfMul k)) (List.replicate m 0 ++ v.map (bitVal a k * ·)) := by
  obtain ⟨hl, rfl⟩ := hl
  refine ⟨?_, ?_⟩
  · intro x hx
    obtain hx | hx := List.mem_append.mp hx
    · rw [List.eq_of_mem_replicate hx]; decide
    · obtain ⟨y, -, rfl⟩ := List.mem_map.mp hx
      exact gfMul_lt y hk
  · rw [List.map_append, List.map_replicate, bitVal_zero, List.map_map, List.map_map]
    refine congrArg _ (List.map_congr_left fun x hx => ?_)
    exact h.bitVal_gfMul k (hl x hx)

theorem Stands.eval (h : IsGfRoot a) {l : List Nat} {v : List K} (hl : Stands a l v) {x : Nat} (hx : x < 512) :
    gfPolyAt x l < 512 ∧ bitVal a (gfPolyAt x l) = evalCoeffs (bitVal a x) v := by
  obtain ⟨hl, rfl⟩ := hl
  induction l with
  | nil => exact ⟨(by decide : 0 < 512), bitVal_zero a⟩
  | cons c r ih =>
    obtain ⟨hlt, hv⟩ := ih fun x hx => hl x (List.mem_cons_of_mem _ hx)
    refine ⟨Nat.xor_lt_two_pow (n := 9) (hl c (by simp)) (gfMul_lt _ hx), ?_⟩
    rw [gfPolyAt, bitVal_xor, h.bitVal_gfMul _ hlt, hv, List.map_cons, evalCoeffs]

/-- The discrepancy of a round, on values. -/
def discrepancy (S c : List K) (l n : Nat) : K := (List.range (l + 1)).foldl (fun acc i => acc + c.getD i 0 * S.getD (n - i) 0) 0

theorem bitVal_discrepancy (h : IsGfRoot a) {syn c : List Nat} {S v : List K} (hS : Stands a syn S) (hc : Stands a c v) (l n : Nat) :
    let d := (List.range (l + 1)).foldl (fun acc i => acc ^^^ gfMul (c.getD i 0) (syn.getD (n - i) 0)) 0
    d < 512 ∧ bitVal a d = discrepancy S v l n := by
  suffices ∀ (is : List Nat) (x : Nat) (y : K), x < 512 → bitVal a x = y →
      (is.foldl (fun acc i => acc ^^^ gfMul (c.getD i 0) (syn.getD (n - i) 0)) x) < 512 ∧
      bitVal a (is.foldl (fun acc i => acc ^^^ gfMul (c.getD i 0) (syn.getD (n - i) 0)) x) =
        is.foldl (fun acc i => acc + v.getD i 0 * S.getD (n - i) 0) y from this _ 0 0 (by decide) (bitVal_zero a)
  intro is
  induction is with
  | nil => exact fun x y hx hxy => ⟨hx, hxy⟩
  | cons i is ih =>
    intro x y hx hxy
    refine ih _ _ (Nat.xor_lt_two_pow (n := 9) hx (gfMul_lt _ (hc.getD i).1)) ?_
    rw [bitVal_xor, h.bitVal_gfMul _ (hS.getD (n - i)).1, (hc.getD i).2, (hS.getD (n - i)).2, hxy]

variable (a)

/-- The values of a state of the recursion. -/
structure BmVals (s : BmState) (c b : List K) (l m : Nat) (bb : K) : Prop where
  cur : Stands a s.c c
  prev : Stands a s.b b
  len : s.l = l
  gap : s.m = m
  divLt : s.bb < 512
  div : bitVal a s.bb = bb
  divNe : bb ≠ 0

/-- The locator after a correction. -/
def corrected (c b : List K) (m : Nat) (k : K) : List K := addCoeffs c (List.replicate m 0 ++ b.map (k * ·))

variable {a} {syn : List Nat} {S : List K} {s : BmState} {c b : List K} {l m : Nat} {bb : K}

theorem BmVals.round_skip (h : IsGfRoot a) (hS : Stands a syn S) (hs : BmVals a s c b l m bb) (n : Nat) (hd : discrepancy S c l n = 0) :
    BmVals a (bmRound syn s n) c b l (m + 1) bb := by
  obtain ⟨hlt, hv⟩ := bitVal_discrepancy h hS hs.cur s.l n
  rw [hs.len] at hlt hv
  rw [hd, h.bitVal_eq_zero_iff hlt] at hv
  unfold bmRound
  rw [hs.len]
  dsimp only
  rw [if_pos hv]
  exact ⟨hs.cur, hs.prev, rfl, congrArg (· + 1) hs.gap, hs.divLt, hs.div, hs.divNe⟩

/-- The quotient of a discrepancy by the last one that grew the locator, and the locator that it corrects. -/
theorem BmVals.corrects (h : IsGfRoot a) (hs : BmVals a s c b l m bb) {d : Nat} (hd : d < 512) :
    Stands a (gfPolyAdd s.c (List.replicate s.m 0 ++ s.b.map (gfMul (gfMul d (gfInv s.bb))))) (corrected c b m (bitVal a d / bb)) := by
  have h0 : s.bb ≠ 0 := fun hz => hs.divNe (by rw [← hs.div, hz, bitVal_zero])
  have hk : bitVal a (gfMul d (gfInv s.bb)) = bitVal a d / bb := by
    rw [h.bitVal_gfMul _ (gfMul_gfInv hs.divLt h0).1, h.bitVal_gfInv hs.divLt h0, hs.div, div_eq_mul_inv]
  have := hs.cur.addPoly (hs.prev.shift h (gfMul_lt (gfInv s.bb) hd) s.m)
  rw [hk] at this
  rw [hs.gap] at this ⊢
  exact this

theorem BmVals.round_grow (h : IsGfRoot a) (hS : Stands a syn S) (hs : BmVals a s c b l m bb) (n : Nat) (hd : discrepancy S c l n ≠ 0)
    (hl : 2 * l ≤ n) : BmVals a (bmRound syn s n) (corrected c b m (discrepancy S c l n / bb)) c (n + 1 - l) 1 (discrepancy S c l n) := by
  obtain ⟨hlt, hv⟩ := bitVal_discrepancy h hS hs.cur s.l n
  rw [hs.len] at hlt hv
  have hne := hd
  rw [← hv, ne_eq, h.bitVal_eq_zero_iff hlt] at hne
  unfold bmRound
  rw [hs.len]
  dsimp only
  rw [if_neg hne, if_pos hl]
  exact ⟨hv ▸ hs.corrects h hlt, hs.cur, rfl, rfl, hlt, hv, hd⟩

theorem BmVals.round_keep (h : IsGfRoot a) (hS : Stands a syn S) (hs : BmVals a s c b l m bb) (n : Nat) (hd : discrepancy S c l n ≠ 0)
    (hl : ¬ 2 * l ≤ n) : BmVals a (bmRound syn s n) (corrected c b m (discrepancy S c l n / bb)) b l (m + 1) bb := by
  obtain ⟨hlt, hv⟩ := bitVal_discrepancy h hS hs.cur s.l n
  rw [hs.len] at hlt hv
  have hne := hd
  rw [← hv, ne_eq, h.bitVal_eq_zero_iff hlt] at hne
  unfold bmRound
  rw [hs.len]
  dsimp only
  rw [if_neg hne, if_neg hl]
  exact ⟨hv ▸ hs.corrects h hlt, hs.prev, rfl, congrArg (· + 1) hs.gap, hs.divLt, hs.div, hs.divNe⟩

end

end Sys2Proof.Gf
end

section
/-! SUPPORT of O25, O32, O44, O55. The six rounds of the recursion for three errors (R346). -/

namespace Sys2Proof.Gf
open Machine (BmState bmRound)

section
variable {K : Type} [Field K]

/-- A locator of at most three errors, and the power sums of its places. -/
structure Locates (s1 s3 s5 : K) (c : List K) (l : Nat) (e1 e2 e3 : K) : Prop where
  eval : ∀ x, evalCoeffs x c = 1 + e1 * x + e2 * x ^ 2 + e3 * x ^ 3
  third : l < 3 → e3 = 0
  second : l < 2 → e2 = 0
  first : l < 1 → e1 = 0
  sum1 : s1 = e1
  sum3 : s3 = e1 ^ 3 + e1 * e2 + e3
  sum5 : s5 = e1 ^ 5 + e1 ^ 3 * e2 + e1 ^ 2 * e3 + e1 * e2 ^ 2 + e2 * e3

variable {a : K} {syn : List Nat} {s1 s3 s5 : K} {s : BmState}

/-- What the rounds end with. -/
def Ends (a : K) (s1 s3 s5 : K) (s : BmState) : Prop := s.l ≤ 3 → ∃ c e1 e2 e3, Stands a s.c c ∧ Locates s1 s3 s5 c s.l e1 e2 e3

/-- The six syndromes: the even ones are squares. -/
abbrev syndromes (s1 s3 s5 : K) : List K := [s1, s1 ^ 2, s3, s1 ^ 4, s5, s3 ^ 2]

theorem BmVals.ends_of_locates {c b : List K} {l m : Nat} {bb : K} (hs : BmVals a s c b l m bb) {e1 e2 e3 : K}
    (hl : Locates s1 s3 s5 c l e1 e2 e3) : Ends a s1 s3 s5 s :=
  fun _ => ⟨c, e1, e2, e3, hs.cur, hs.len ▸ hl⟩

/-- The length never falls. -/
theorem bmRound_len_le (s : BmState) {n : Nat} : s.l ≤ (bmRound syn s n).l := by
  unfold bmRound
  dsimp only
  split
  · exact le_rfl
  · split
    · dsimp only; omega
    · exact le_rfl

theorem BmVals.ends_round_of_large {c b : List K} {l m : Nat} {bb : K} (hs : BmVals a s c b l m bb) (hl : 3 < l) (n : Nat) :
    Ends a s1 s3 s5 (bmRound syn s n) := by
  intro h
  have := bmRound_len_le s (syn := syn) (n := n)
  rw [hs.len] at this
  omega

section
variable [CharP K 2] (h : IsGfRoot a) (hS : Stands a syn (syndromes s1 s3 s5))
include h hS

/-- No first syndrome: nothing, or three errors, from the third on. -/
theorem ends_of_first_zero {bb : K} (h1 : s1 = 0) (hs : BmVals a s [1] [1] 0 3 bb) (hbb : bb = 1) :
    Ends a s1 s3 s5 (bmRound syn (bmRound syn (bmRound syn (bmRound syn s 2) 3) 4) 5) := by
  subst h1 hbb
  by_cases h3 : s3 = 0
  · have t2 := hs.round_skip h hS 2 (by simp [discrepancy, List.range_succ, h3])
    have t3 := t2.round_skip h hS 3 (by simp [discrepancy, List.range_succ])
    by_cases h5 : s5 = 0
    · have t4 := t3.round_skip h hS 4 (by simp [discrepancy, List.range_succ, h5])
      have t5 := t4.round_skip h hS 5 (by simp [discrepancy, List.range_succ, h3])
      exact t5.ends_of_locates (e1 := 0) (e2 := 0) (e3 := 0) ⟨by simp [evalCoeffs], by simp, by simp, by simp, rfl, by simp [h3], by simp [h5]⟩
    · have t4 := t3.round_grow h hS 4 (by simpa [discrepancy, List.range_succ] using h5) (by decide)
      exact t4.ends_round_of_large (by decide) 5
  · have d2 : discrepancy (syndromes 0 s3 s5) [1] 0 2 = s3 := by simp [discrepancy, List.range_succ]
    have t2 := hs.round_grow h hS 2 (by rwa [d2]) (by decide)
    rw [d2] at t2
    have c2 : corrected [1] [1] 3 (s3 / 1) = [1, 0, 0, s3] := by simp [corrected, addCoeffs, List.replicate]
    rw [c2] at t2
    have t3 := t2.round_skip h hS 3 (by simp [discrepancy, List.range_succ])
    have d4 : discrepancy (syndromes 0 s3 s5) [1, 0, 0, s3] 3 4 = s5 := by simp [discrepancy, List.range_succ]
    by_cases h5 : s5 = 0
    · have t4 := t3.round_skip h hS 4 (d4.trans h5)
      have t5 := t4.round_skip h hS 5 (by simp [discrepancy, List.range_succ]; grind)
      exact t5.ends_of_locates (e1 := 0) (e2 := 0) (e3 := s3) ⟨by simp [evalCoeffs]; grind, by simp, by simp, by simp, rfl, by simp, by simp [h5]⟩
    · have t4 := t3.round_keep h hS 4 (by rwa [d4]) (by decide)
      rw [d4] at t4
      have c4 : corrected [1, 0, 0, s3] [1] 2 (s5 / s3) = [1, 0, s5 / s3, s3] := by simp [corrected, addCoeffs, List.replicate]
      rw [c4] at t4
      have t5 := t4.round_skip h hS 5 (by simp [discrepancy, List.range_succ]; grind)
      exact t5.ends_of_locates (e1 := 0) (e2 := s5 / s3) (e3 := s3)
        ⟨by simp [evalCoeffs]; grind, by simp, by simp, by simp, rfl, by simp, by field_simp; simp⟩

/-- A first syndrome alone: one error, or more from the fifth on. -/
theorem ends_of_one {b : List K} {m : Nat} {bb : K} (h3 : s3 + s1 ^ 3 = 0) (hs : BmVals a s [1, s1] b 1 m bb) :
    Ends a s1 s3 s5 (bmRound syn (bmRound syn (bmRound syn s 3) 4) 5) := by
  have t3 := hs.round_skip h hS 3 (by simp [discrepancy, List.range_succ]; grind)
  have d4 : discrepancy (syndromes s1 s3 s5) [1, s1] 1 4 = s5 + s1 ^ 5 := by simp [discrepancy, List.range_succ]; ring
  by_cases h5 : s5 + s1 ^ 5 = 0
  · have t4 := t3.round_skip h hS 4 (d4.trans h5)
    have t5 := t4.round_skip h hS 5 (by simp [discrepancy, List.range_succ]; grind)
    exact t5.ends_of_locates (e1 := s1) (e2 := 0) (e3 := 0) ⟨by simp [evalCoeffs]; grind, by simp, by simp, by simp, rfl, by grind, by grind⟩
  · have t4 := t3.round_grow h hS 4 (by rwa [d4]) (by decide)
    exact t4.ends_round_of_large (by decide) 5

/-- Two errors after three syndromes: two, or three from the fifth on. -/
theorem ends_of_two {D : K} (h1 : s1 ≠ 0) (hD : D = s3 + s1 ^ 3) (hs : BmVals a s [1, s1, D / s1] [1, s1] 2 1 D) :
    Ends a s1 s3 s5 (bmRound syn (bmRound syn (bmRound syn s 3) 4) 5) := by
  have hD0 := hs.divNe
  have t3 := hs.round_skip h hS 3 (by simp [discrepancy, List.range_succ]; field_simp; grind)
  have d4 : discrepancy (syndromes s1 s3 s5) [1, s1, D / s1] 2 4 = s5 + s1 ^ 5 + D / s1 * s3 := by
    simp [discrepancy, List.range_succ]; ring
  by_cases h5 : s5 + s1 ^ 5 + D / s1 * s3 = 0
  · have t4 := t3.round_skip h hS 4 (d4.trans h5)
    have t5 := t4.round_skip h hS 5 (by simp [discrepancy, List.range_succ]; field_simp; field_simp at h5; grind)
    exact t5.ends_of_locates (e1 := s1) (e2 := D / s1) (e3 := 0)
      ⟨by simp [evalCoeffs]; grind, by simp, by simp, by simp, rfl, by field_simp; grind, by field_simp; field_simp at h5; grind⟩
  · obtain ⟨k, hk⟩ : ∃ k, k = (s5 + s1 ^ 5 + D / s1 * s3) / D := ⟨_, rfl⟩
    have hkD : k * D * s1 = s5 * s1 + s1 ^ 6 + D * s3 := by rw [hk]; field_simp
    have t4 := t3.round_grow h hS 4 (by rwa [d4]) (by decide)
    rw [d4, ← hk] at t4
    have c4 : corrected [1, s1, D / s1] [1, s1] (1 + 1) k = [1, s1, D / s1 + k, k * s1] := by simp [corrected, addCoeffs, List.replicate]
    rw [c4] at t4
    have t5 := t4.round_skip h hS 5 (by simp [discrepancy, List.range_succ]; field_simp; grind)
    exact t5.ends_of_locates (e1 := s1) (e2 := D / s1 + k) (e3 := k * s1)
      ⟨by simp [evalCoeffs]; grind, by simp, by simp, by simp, rfl, by field_simp; grind, by field_simp; grind⟩

/-- The six rounds: where they end with three errors or fewer, the locator's coefficients give the syndromes. -/
theorem ends_of_rounds : Ends a s1 s3 s5 ((List.range 6).foldl (bmRound syn) ⟨[1], [1], 0, 1, 1⟩) := by
  have hone : Stands a [1] [1] := ⟨by simp, by simp⟩
  have t : BmVals a ⟨[1], [1], 0, 1, 1⟩ [1] [1] 0 1 1 := ⟨hone, hone, rfl, rfl, by decide, bitVal_one a, one_ne_zero⟩
  rw [show List.range 6 = [0, 1, 2, 3, 4, 5] by decide]
  simp only [List.foldl_cons, List.foldl_nil]
  by_cases h1 : s1 = 0
  · have t0 := t.round_skip h hS 0 (by simp [discrepancy, List.range_succ, h1])
    have t1 := t0.round_skip h hS 1 (by simp [discrepancy, List.range_succ, h1])
    exact ends_of_first_zero h hS h1 t1 rfl
  · have d0 : discrepancy (syndromes s1 s3 s5) [1] 0 0 = s1 := by simp [discrepancy, List.range_succ]
    have t0 := t.round_grow h hS 0 (by rwa [d0]) (by decide)
    rw [d0, show corrected [1] [1] 1 (s1 / 1) = [1, s1] by simp [corrected, addCoeffs, List.replicate]] at t0
    have t1 := t0.round_skip h hS 1 (by simp [discrepancy, List.range_succ]; grind)
    have d2 : discrepancy (syndromes s1 s3 s5) [1, s1] 1 2 = s3 + s1 ^ 3 := by simp [discrepancy, List.range_succ]; ring
    by_cases h3 : s3 + s1 ^ 3 = 0
    · exact ends_of_one h hS h3 (t1.round_skip h hS 2 (d2.trans h3))
    · have t2 := t1.round_grow h hS 2 (by rwa [d2]) (by decide)
      rw [d2, show corrected [1, s1] [1] (1 + 1) ((s3 + s1 ^ 3) / s1) = [1, s1, (s3 + s1 ^ 3) / s1] by
        simp [corrected, addCoeffs, List.replicate]] at t2
      exact ends_of_two h hS h1 rfl t2

end

end

end Sys2Proof.Gf
end

section
/-! SUPPORT of O25, O32, O44, O55. What the decoder of three errors returns (R346): errors in the check bits alone are the remainder itself. -/

namespace Sys2Proof.Gf
open Machine (gfMul gfPow polyAt gfPolyAt bmRound chien bchErrors)

/-- The number whose bits are the given positions. -/
def bitsOf (ps : List Nat) : Nat := ps.foldl (fun x p => x ^^^ 2 ^ p) 0

theorem foldl_flip (ps : List Nat) (x : Nat) : ps.foldl (fun x p => x ^^^ 2 ^ p) x = x ^^^ bitsOf ps := by
  rw [bitsOf]
  induction ps generalizing x with
  | nil => exact (Nat.xor_zero x).symm
  | cons p ps ih => rw [List.foldl_cons, List.foldl_cons, ih (x ^^^ 2 ^ p), ih (0 ^^^ 2 ^ p), Nat.zero_xor, Nat.xor_assoc]

theorem bitsOf_cons (p : Nat) (ps : List Nat) : bitsOf (p :: ps) = 2 ^ p ^^^ bitsOf ps := by
  rw [bitsOf, List.foldl_cons, Nat.zero_xor, foldl_flip]

theorem bitsOf_lt {ps : List Nat} {n : Nat} (h : ∀ p ∈ ps, p < n) : bitsOf ps < 2 ^ n := by
  induction ps with
  | nil => exact Nat.two_pow_pos n
  | cons p ps ih =>
    rw [bitsOf_cons]
    exact Nat.xor_lt_two_pow (Nat.pow_lt_pow_right (by decide) (h p (by simp))) (ih fun q hq => h q (List.mem_cons_of_mem _ hq))

theorem testBit_bitsOf {ps : List Nat} (h : ps.Nodup) (i : Nat) : (bitsOf ps).testBit i = decide (i ∈ ps) := by
  induction ps with
  | nil => simp [bitsOf]
  | cons p ps ih =>
    obtain ⟨hp, hps⟩ := List.nodup_cons.mp h
    rw [bitsOf_cons, Nat.testBit_xor, ih hps, Nat.testBit_two_pow]
    by_cases hi : p = i
    · subst hi
      simp [hp]
    · simp [hi, Ne.symm hi]

theorem chien_pos {loc : List Nat} {n i x p : Nat} (hp : p ∈ chien loc n i x) : i ≤ p ∧ p < i + n := by
  induction n generalizing i x with
  | zero => simp [chien] at hp
  | succ n ih =>
    rw [chien, List.mem_append] at hp
    obtain hp | hp := hp
    · split at hp
      · obtain rfl := List.mem_singleton.mp hp
        omega
      · simp at hp
    · have := ih hp
      omega

theorem nodup_chien (loc : List Nat) (n i x : Nat) : (chien loc n i x).Nodup := by
  induction n generalizing i x with
  | zero => simp [chien]
  | succ n ih =>
    rw [chien, List.nodup_append']
    refine ⟨by split <;> simp, ih _ _, ?_⟩
    intro p hp hq
    have := (chien_pos hq).1
    split at hp
    · obtain rfl := List.mem_singleton.mp hp
      omega
    · simp at hp

section
variable {K : Type} [Field K] [CharP K 2] {a : K} {s1 s3 s5 : K}

theorem bitVal_bitsOf (b : K) (ps : List Nat) : bitVal b (bitsOf ps) = (ps.map (b ^ ·)).sum := by
  induction ps with
  | nil => simp [bitsOf]
  | cons p ps ih => rw [bitsOf_cons, bitVal_xor, bitVal_pow, ih, List.map_cons, List.sum_cons]

variable (h : IsGfRoot a)
include h

theorem IsGfRoot.bitVal_264 : bitVal a 264 = a⁻¹ := by
  have := h.bitVal_gfMul 264 (y := 2) (by decide)
  rw [show gfMul 264 2 = 1 by decide, bitVal_one, bitVal_two] at this
  exact eq_inv_of_mul_eq_one_left this.symm

/-- A position that the search returns is a root of the locator. -/
theorem IsGfRoot.chien_root {loc : List Nat} {c : List K} (hc : Stands a loc c) {n i x p : Nat} (hx : x < 512) (hv : bitVal a x = (a ^ i)⁻¹)
    (hp : p ∈ chien loc n i x) : evalCoeffs (a ^ p)⁻¹ c = 0 := by
  induction n generalizing i x with
  | zero => simp [chien] at hp
  | succ n ih =>
    rw [chien, List.mem_append] at hp
    obtain hp | hp := hp
    · obtain ⟨hlt, he⟩ := hc.eval h hx
      split at hp
      next hz =>
        obtain rfl := List.mem_singleton.mp hp
        rw [hv, hz, bitVal_zero] at he
        exact he.symm
      next => simp at hp
    · refine ih (gfMul_lt _ hx) ?_ hp
      rw [h.bitVal_gfMul x (by decide), h.bitVal_264, hv, pow_succ, mul_inv]

/-- The places of different positions differ. -/
theorem IsGfRoot.pow_inj {p q : Nat} (hp : p < 27) (hq : q < 27) (hpq : a ^ p = a ^ q) : p = q := by
  have hv (n : Nat) : a ^ n = bitVal a (gfPow 2 n) := by rw [h.bitVal_gfPow (by decide), bitVal_two]
  rw [hv, hv] at hpq
  have hnum := h.bitVal_inj (gfPow_lt (by decide) p) (gfPow_lt (by decide) q) hpq
  have key : ∀ p < 27, ∀ q < 27, gfPow 2 p = gfPow 2 q → p = q := by decide +kernel
  exact key p hp q hq hnum

omit h [CharP K 2] in
theorem Locates.root {c : List K} {l : Nat} {e1 e2 e3 X : K} (hl : Locates s1 s3 s5 c l e1 e2 e3) (hX : X ≠ 0) (hr : evalCoeffs X⁻¹ c = 0) :
    X ^ 3 + e1 * X ^ 2 + e2 * X + e3 = 0 := by
  rw [hl.eval] at hr
  field_simp at hr
  linear_combination hr

omit h in
/-- The power sums of the places are the syndromes: as many different roots as the locator has coefficients. -/
theorem Locates.power_sums {c : List K} {e1 e2 e3 : K} {Xs : List K} (hl : Locates s1 s3 s5 c Xs.length e1 e2 e3) (hlen : Xs.length ≤ 3)
    (hne : ∀ X ∈ Xs, X ≠ 0) (hnd : Xs.Nodup) (hr : ∀ X ∈ Xs, evalCoeffs X⁻¹ c = 0) :
    Xs.sum = s1 ∧ (Xs.map (· ^ 3)).sum = s3 ∧ (Xs.map (· ^ 5)).sum = s5 := by
  have hroot : ∀ X ∈ Xs, X ^ 3 + e1 * X ^ 2 + e2 * X + e3 = 0 := fun X hX => hl.root (hne X hX) (hr X hX)
  rw [hl.sum1, hl.sum3, hl.sum5]
  match Xs, hlen with
  | [], _ => simp [hl.third, hl.second, hl.first]
  | [X], _ =>
    have hX := hroot X (by simp)
    have h0 := hne X (by simp)
    rw [hl.third (by simp), hl.second (by simp)] at hX ⊢
    have : e1 = X := by
      have : X ^ 2 * (X + e1) = 0 := by linear_combination hX
      obtain h2 | h2 := mul_eq_zero.mp this
      · exact absurd h2 (pow_ne_zero 2 h0)
      · exact (CharTwo.add_eq_zero.mp h2).symm
    subst this
    simp
  | [X, Y], _ =>
    have hX := hroot X (by simp)
    have hY := hroot Y (by simp)
    have hX0 := hne X (by simp)
    have hY0 := hne Y (by simp)
    have hXY : X + Y ≠ 0 := fun hz => by simp [CharTwo.add_eq_zero.mp hz] at hnd
    rw [hl.third (by simp)] at hX hY ⊢
    have h1 : e1 = X + Y := by grind
    have h2 : e2 = X * Y := by grind
    subst h1 h2
    simp
    grind
  | [X, Y, Z], _ =>
    have hX := hroot X (by simp)
    have hY := hroot Y (by simp)
    have hZ := hroot Z (by simp)
    have hXY : X + Y ≠ 0 := fun hz => by simp [CharTwo.add_eq_zero.mp hz] at hnd
    have hXZ : X + Z ≠ 0 := fun hz => by simp [CharTwo.add_eq_zero.mp hz] at hnd
    have hYZ : Y + Z ≠ 0 := fun hz => by simp [CharTwo.add_eq_zero.mp hz] at hnd
    have h1 : e1 = X + Y + Z := by grind
    have h2 : e2 = X * Y + X * Z + Y * Z := by grind
    have h3 : e3 = X * Y * Z := by grind
    subst h1 h2 h3
    simp
    grind

/-- The six syndromes of a remainder. -/
theorem IsGfRoot.stands_syndromes {diff : Nat} (hd : diff < 2 ^ 27) :
    Stands a ((List.range (2 * 3)).map fun j => polyAt (gfPow 2 (j + 1)) (9 * 3) diff)
      (syndromes (bitVal a diff) (bitVal (a ^ 3) diff) (bitVal (a ^ 5) diff)) := by
  have hp (j : Nat) := h.bitVal_polyAt (gfPow_lt (by decide : 2 < 512) (j + 1)) (9 * 3) diff hd
  refine ⟨?_, ?_⟩
  · intro x hx
    obtain ⟨j, -, rfl⟩ := List.mem_map.mp hx
    exact (hp j).1
  · have hv (j : Nat) : bitVal a (polyAt (gfPow 2 (j + 1)) (9 * 3) diff) = bitVal (a ^ (j + 1)) diff := by
      rw [(hp j).2, h.bitVal_gfPow (by decide), bitVal_two]
    have h2 : bitVal (a ^ 2) diff = bitVal a diff ^ 2 := bitVal_sq a diff
    have h4 : bitVal (a ^ 4) diff = bitVal a diff ^ 4 := by rw [show a ^ 4 = (a ^ 2) ^ 2 by ring, bitVal_sq, h2]; ring
    have h6 : bitVal (a ^ 6) diff = bitVal (a ^ 3) diff ^ 2 := by rw [show a ^ 6 = (a ^ 3) ^ 2 by ring, bitVal_sq]
    rw [List.map_map, show List.range (2 * 3) = [0, 1, 2, 3, 4, 5] by decide]
    simp only [List.map_cons, List.map_nil, Function.comp_apply, hv, zero_add, pow_one, Nat.reduceAdd, h2, h4, h6]

/-- The positions of a locator, all in the check bits, are the bits of the remainder. -/
theorem IsGfRoot.bitsOf_positions {diff n : Nat} (hd : diff < 2 ^ 27) {syn : List Nat}
    (hS : Stands a syn (syndromes (bitVal a diff) (bitVal (a ^ 3) diff) (bitVal (a ^ 5) diff)))
    (hlen : ((List.range 6).foldl (bmRound syn) ⟨[1], [1], 0, 1, 1⟩).l ≤ 3)
    (hps : (chien ((List.range 6).foldl (bmRound syn) ⟨[1], [1], 0, 1, 1⟩).c n 0 1).length =
      ((List.range 6).foldl (bmRound syn) ⟨[1], [1], 0, 1, 1⟩).l)
    (hlow : ∀ p ∈ chien ((List.range 6).foldl (bmRound syn) ⟨[1], [1], 0, 1, 1⟩).c n 0 1, p < 27) :
    bitsOf (chien ((List.range 6).foldl (bmRound syn) ⟨[1], [1], 0, 1, 1⟩).c n 0 1) = diff := by
  obtain ⟨c, e1, e2, e3, hc, hl⟩ := ends_of_rounds h hS hlen
  have hnd := nodup_chien ((List.range 6).foldl (bmRound syn) ⟨[1], [1], 0, 1, 1⟩).c n 0 1
  have hroot : ∀ p ∈ chien ((List.range 6).foldl (bmRound syn) ⟨[1], [1], 0, 1, 1⟩).c n 0 1, evalCoeffs (a ^ p)⁻¹ c = 0 :=
    fun p hp => h.chien_root hc (by decide) (by rw [bitVal_one, pow_zero, inv_one]) hp
  generalize chien ((List.range 6).foldl (bmRound syn) ⟨[1], [1], 0, 1, 1⟩).c n 0 1 = ps at hps hlow hnd hroot ⊢
  rw [← hps] at hl hlen
  obtain ⟨p1, p3, p5⟩ := Locates.power_sums (Xs := ps.map (a ^ ·)) (by rwa [List.length_map]) (by rwa [List.length_map])
    (by
      intro X hX
      obtain ⟨p, -, rfl⟩ := List.mem_map.mp hX
      exact pow_ne_zero p h.ne_zero)
    (hnd.map_on fun p hp q hq hpq => h.pow_inj (hlow p hp) (hlow q hq) hpq)
    (by
      intro X hX
      obtain ⟨p, hp, rfl⟩ := List.mem_map.mp hX
      exact hroot p hp)
  have hsum (k : Nat) : bitVal (a ^ k) (bitsOf ps) = ((ps.map (a ^ ·)).map (· ^ k)).sum := by
    rw [bitVal_bitsOf, List.map_map]
    refine congrArg List.sum (List.map_congr_left fun p _ => ?_)
    rw [Function.comp_apply, ← pow_mul, ← pow_mul, mul_comm]
  have hzero : bitsOf ps ^^^ diff = 0 := by
    refine h.eq_zero_of_syndromes (Nat.xor_lt_two_pow (bitsOf_lt hlow) hd) ?_ ?_ ?_
    · rw [bitVal_xor, bitVal_bitsOf, p1, CharTwo.add_self_eq_zero]
    · rw [bitVal_xor, hsum, p3, CharTwo.add_self_eq_zero]
    · rw [bitVal_xor, hsum, p5, CharTwo.add_self_eq_zero]
  exact Nat.xor_eq_zero_iff.mp hzero

end

/-- What the decoder of three errors returns: different positions, the extension bit by their number, and where all of them are check bits, the remainder. -/
theorem bchErrors_three {n diff : Nat} {odd : Bool} {ps : List Nat} {ext : Bool} (hd : diff < 2 ^ 27) (he : bchErrors 3 n diff odd = some (ps, ext)) :
    ps.Nodup ∧ (∀ p ∈ ps, p < n) ∧ ext = ((ps.length % 2 == 1) != odd) ∧ ((∀ p ∈ ps, p < 27) → bitsOf ps = diff) := by
  obtain ⟨a, ha⟩ := exists_isGfRoot
  unfold bchErrors at he
  dsimp only at he
  split at he
  · cases he
  next ps' hpos =>
    split at he
    · obtain ⟨rfl, rfl⟩ : ps' = ps ∧ ((ps'.length % 2 == 1) != odd) = ext := by simpa using he
      split at hpos
      next h0 =>
        obtain rfl : [] = ps' := Option.some.inj hpos
        exact ⟨List.nodup_nil, by simp, rfl, fun _ => h0.symm⟩
      next h0 =>
        split at hpos
        next hl =>
          obtain ⟨hlen, hps⟩ := hl
          have hp := Option.some.inj hpos
          subst hp
          exact ⟨nodup_chien _ _ _ _, fun p hp => by simpa using (chien_pos hp).2, rfl,
            ha.bitsOf_positions hd (ha.stands_syndromes hd) hlen hps⟩
        next => cases hpos
    · cases he

end Sys2Proof.Gf
end

section
/-! SUPPORT of O25, O32, O44, O55. A line of the layouts RAW and CONTEXT that decodes with its data unchanged decodes so again once its check bits are
corrected (R346, R348, R349). -/

namespace Sys2Proof.Machine
open Gf (bitsOf)

/-! ## Parities -/

theorem popCount_succ (n x : Nat) : popCount (n + 1) x = b2n (x.testBit n) + popCount n x := by
  rw [← bitAt_eq_testBit]
  exact rfl

theorem popCount_xor_mod_two (n x y : Nat) : popCount n (x ^^^ y) % 2 = (popCount n x + popCount n y) % 2 := by
  induction n with
  | zero => rfl
  | succ n ih =>
    have hb : b2n ((x ^^^ y).testBit n) % 2 = (b2n (x.testBit n) + b2n (y.testBit n)) % 2 := by
      rw [Nat.testBit_xor]
      cases x.testBit n <;> cases y.testBit n <;> rfl
    simp only [popCount_succ]
    omega

theorem parityOf_xor (n x y : Nat) : parityOf n (x ^^^ y) = (parityOf n x + parityOf n y) % 2 := by
  simp only [parityOf, popCount_xor_mod_two]
  omega

theorem parityOf_congr {n x y : Nat} (h : ∀ i < n, x.testBit i = y.testBit i) : parityOf n x = parityOf n y := by
  suffices popCount n x = popCount n y by rw [parityOf, parityOf, this]
  induction n with
  | zero => rfl
  | succ n ih => rw [popCount_succ, popCount_succ, ih fun i hi => h i (by omega), h n (by omega)]

theorem parityOf_lt (n x : Nat) : parityOf n x < 2 := Nat.mod_lt _ (by decide)

theorem parityOf_succ (n x : Nat) : parityOf (n + 1) x = (b2n (x.testBit n) + parityOf n x) % 2 := by
  rw [parityOf, popCount_succ, parityOf]
  omega

theorem parityOf_zero (n : Nat) : parityOf n 0 = 0 := by
  induction n with
  | zero => rfl
  | succ n ih => rw [parityOf_succ, ih, Nat.zero_testBit]; rfl

theorem parityOf_two_pow {n p : Nat} (h : p < n) : parityOf n (2 ^ p) = 1 := by
  induction n with
  | zero => omega
  | succ n ih =>
    rw [parityOf_succ, Nat.testBit_two_pow]
    by_cases hp : p = n
    · subst hp
      rw [parityOf_congr (y := 0) fun i hi => by rw [Nat.testBit_two_pow, Nat.zero_testBit]; simp; omega, parityOf_zero]
      simp [b2n]
    · rw [ih (by omega)]
      simp [hp, b2n]

theorem parityOf_bitsOf {n : Nat} {ps : List Nat} (h : ∀ p ∈ ps, p < n) : parityOf n (bitsOf ps) = ps.length % 2 := by
  induction ps with
  | nil => exact parityOf_zero n
  | cons p ps ih =>
    rw [Gf.bitsOf_cons, parityOf_xor, parityOf_two_pow (h p (by simp)), ih fun q hq => h q (List.mem_cons_of_mem _ hq), List.length_cons]
    omega

/-! ## The encoder -/

theorem polyMod_succ (g d n r : Nat) : polyMod g d (n + 1) r = polyMod g d n (if r.testBit (n + d) then r ^^^ (g <<< n) else r) := by
  rw [← bitAt_eq_testBit]
  exact rfl

theorem polyMod_lt {g d : Nat} (hg : g < 2 ^ (d + 1)) (hd : g.testBit d = true) (n r : Nat) (hr : r < 2 ^ (n + d)) : polyMod g d n r < 2 ^ d := by
  induction n generalizing r with
  | zero => exact Nat.zero_add d ▸ hr
  | succ n ih =>
    rw [polyMod_succ]
    refine ih _ (Nat.lt_pow_two_of_testBit _ fun i hi => ?_)
    by_cases hin : i = n + d
    · subst hin
      split
      next hb => simp [hb, hd]
      next hb => simpa using hb
    · have hri : r.testBit i = false := Nat.testBit_lt_two_pow (lt_of_lt_of_le hr (Nat.pow_le_pow_right (by decide) (by omega)))
      have hgi : g.testBit (i - n) = false := Nat.testBit_lt_two_pow (lt_of_lt_of_le hg (Nat.pow_le_pow_right (by decide) (by omega)))
      split <;> simp [hri, hgi]

/-- The check bits of a message under three errors: the remainder below bit 27, the extension bit at 27. -/
theorem bchEncode_three (k m : Nat) (hm : m < 2 ^ k) : ∃ c < 2 ^ 27, bchEncode 3 k m = c + (parityOf k m + parityOf 27 c) % 2 * 2 ^ 27 := by
  unfold bchEncode
  split
  next h0 =>
    subst h0
    exact ⟨0, by decide, by rw [parityOf_zero, parityOf_zero, Nat.zero_mod, Nat.zero_mul]⟩
  next =>
    refine ⟨_, polyMod_lt (by decide) (by decide) k (m <<< 27) ?_, rfl⟩
    rw [Nat.shiftLeft_eq, Nat.pow_add]
    exact Nat.mul_lt_mul_of_pos_right hm (by decide)

end Sys2Proof.Machine
end

section
/-! SUPPORT of O25, O32, O44, O55. One codeword of the layouts RAW and CONTEXT: what its correction flips, and that the corrected codeword is one (R346). -/

namespace Sys2Proof.Machine
open Gf (bitsOf)

/-- The flips of a correction: in the check bits and in the data. -/
theorem foldl_flips (base a : Nat) (ps : List Nat) (l : LineBits) :
    ps.foldl (fun l p => if p < 9 * 3 then { l with side := l.side ^^^ 2 ^ (base + p) } else { l with data := l.data ^^^ 2 ^ (a + (p - 9 * 3)) }) l =
      ⟨l.data ^^^ bitsOf ((ps.filter fun p => decide (27 ≤ p)).map fun p => a + (p - 27)), l.side ^^^ bitsOf ((ps.filter fun p => decide (p < 27)).map (base + ·))⟩ := by
  induction ps generalizing l with
  | nil => simp [bitsOf]
  | cons p ps ih =>
    rw [List.foldl_cons, ih]
    by_cases hp : p < 27
    · have hq : ¬ 27 ≤ p := by omega
      simp only [List.filter_cons, hp, hq, decide_true, decide_false, if_true, Bool.false_eq_true, if_false, List.map_cons, Gf.bitsOf_cons, Nat.xor_assoc]
    · have hq : 27 ≤ p := by omega
      simp only [List.filter_cons, hp, hq, decide_true, decide_false, if_true, Bool.false_eq_true, if_false, List.map_cons, Gf.bitsOf_cons, Nat.xor_assoc]

theorem bitsOf_map_add (base : Nat) (ps : List Nat) : bitsOf (ps.map (base + ·)) = bitsOf ps <<< base := by
  induction ps with
  | nil => exact (Nat.zero_shiftLeft base).symm
  | cons p ps ih => rw [List.map_cons, Gf.bitsOf_cons, Gf.bitsOf_cons, ih, Nat.shiftLeft_xor_distrib, Nat.shiftLeft_eq (2 ^ p), ← Nat.pow_add, Nat.add_comm p]

/-- A codeword of RAW or CONTEXT: 256 bits of data from `a`, check bits from `base`. -/
abbrev rawField (a base : Nat) : Field := ⟨[(a, 256)], 3, base⟩

theorem gather_single (a n x : Nat) : gather [(a, n)] x = bits x a n := by
  change bits x a n + 0 * 2 ^ n = _
  rw [Nat.zero_mul, Nat.add_zero]

theorem Field.encode_three (runs : List (Nat × Nat)) (base data : Nat) : Field.encode ⟨runs, 3, base⟩ data = bchEncode 3 (runsLen runs) (gather runs data) := by
  rw [Field.encode, if_neg (Nat.succ_ne_zero 2)]

theorem rawField_encode (a base data : Nat) : (rawField a base).encode data = bchEncode 3 256 (bits data a 256) := by
  rw [Field.encode_three, gather_single, runsLen, runsLen]

theorem testBit_codeword {c e : Nat} (hc : c < 2 ^ 27) (he : e < 2) (i : Nat) :
    (c + e * 2 ^ 27).testBit i = if i < 27 then c.testBit i else decide (i = 27) && (e == 1) := by
  rw [Nat.add_comm, Nat.mul_comm, Nat.testBit_two_pow_mul_add _ hc]
  split
  · rfl
  next hi =>
    obtain rfl | rfl : e = 0 ∨ e = 1 := by omega
    · simp
    · by_cases h : i = 27
      · subst h; rfl
      · rw [Nat.testBit_lt_two_pow (Nat.one_lt_two_pow (by omega)), decide_eq_false h, Bool.false_and]

/-- The extension bit after a correction. -/
theorem extension_bit (A B C L : Nat) (h27 : Bool) (hA : A < 2) (hB : B < 2) (hC : C < 2) (hL : L = (B + C) % 2) :
    ((A + B) % 2 == 1) = (h27 ^^ ((L == 1) != ((A + (b2n h27 + C) % 2) % 2 == 1))) := by
  subst hL
  have key : ∀ A < 2, ∀ B < 2, ∀ C < 2, ∀ h27, ((A + B) % 2 == 1) = (h27 ^^ (((B + C) % 2 == 1) != ((A + (b2n h27 + C) % 2) % 2 == 1))) := by decide
  exact key A hA B hB C hC h27

/-- Where a correction flips check bits alone, what it leaves is the codeword of the data. -/
theorem codeword_corrected {m have_ : Nat} {n : Nat} {ps : List Nat} {ext : Bool} (hm : m < 2 ^ 256)
    (hh : have_ < 2 ^ 28) (hlow : ∀ p ∈ ps, p < 27)
    (he : bchErrors 3 n ((bchEncode 3 256 m ^^^ have_) % 2 ^ 27) ((parityOf 256 m + parityOf 28 have_) % 2 == 1) = some (ps, ext)) :
    bchEncode 3 256 m = have_ ^^^ (bitsOf ps ^^^ if ext then 2 ^ 27 else 0) := by
  obtain ⟨-, -, hext, hbits⟩ := Gf.bchErrors_three (Nat.mod_lt _ (by decide)) he
  have hps := hbits hlow
  obtain ⟨c, hc, hw⟩ := bchEncode_three 256 m hm
  rw [hw] at hps ⊢
  have hlen : ps.length % 2 = (parityOf 27 c + parityOf 27 have_) % 2 := by
    rw [← parityOf_bitsOf hlow, hps, ← parityOf_xor]
    refine parityOf_congr fun i hi => ?_
    rw [Nat.testBit_mod_two_pow, Nat.testBit_xor, testBit_codeword hc (Nat.mod_lt _ (by decide)), Nat.testBit_xor]
    simp [hi]
  refine Nat.eq_of_testBit_eq fun i => ?_
  rw [hps, Nat.testBit_xor, Nat.testBit_xor, Nat.testBit_mod_two_pow, Nat.testBit_xor, testBit_codeword hc (Nat.mod_lt _ (by decide))]
  by_cases hi : i < 27
  · have : ((if ext then 2 ^ 27 else 0 : Nat)).testBit i = false := by
      cases ext
      · simp
      · rw [if_pos rfl, Nat.testBit_two_pow]; simp; omega
    simp only [hi, if_true, decide_true, Bool.true_and, this, Bool.xor_false]
    cases c.testBit i <;> cases have_.testBit i <;> rfl
  · by_cases h27 : i = 27
    · subst h27
      have : ((if ext then 2 ^ 27 else 0 : Nat)).testBit 27 = ext := by cases ext <;> rfl
      rw [this, hext, parityOf_succ 27 have_]
      simpa using extension_bit _ _ _ _ (have_.testBit 27) (parityOf_lt 256 m) (parityOf_lt 27 c) (parityOf_lt 27 have_) hlen
    · have hb : have_.testBit i = false := Nat.testBit_lt_two_pow (lt_of_lt_of_le hh (Nat.pow_le_pow_right (by decide) (by omega)))
      have : ((if ext then 2 ^ 27 else 0 : Nat)).testBit i = false := by
        cases ext
        · simp
        · rw [if_pos rfl, Nat.testBit_two_pow]; simp; omega
      rw [this, hb, if_neg hi, decide_eq_false h27, decide_eq_false hi]
      rfl

/-- The flips that a decoded codeword of RAW or CONTEXT applies. -/
theorem foldl_flips_runs (base a : Nat) {ps : List Nat} (h : ∀ p ∈ ps, p < 9 * 3 + 256) (l : LineBits) :
    ps.foldl (fun l p => if p < 9 * 3 then { l with side := l.side ^^^ 2 ^ (base + p) } else { l with data := l.data ^^^ 2 ^ runBit [(a, 256)] (p - 9 * 3) }) l =
      ps.foldl (fun l p => if p < 9 * 3 then { l with side := l.side ^^^ 2 ^ (base + p) } else { l with data := l.data ^^^ 2 ^ (a + (p - 9 * 3)) }) l := by
  induction ps generalizing l with
  | nil => rfl
  | cons p ps ih =>
    have hp := h p (by simp)
    have hr : runBit [(a, 256)] (p - 9 * 3) = a + (p - 9 * 3) := if_pos (by omega)
    rw [List.foldl_cons, List.foldl_cons, hr, ih fun q hq => h q (List.mem_cons_of_mem _ hq)]

/-- A correction flips only data bits of the codeword's run. -/
theorem testBit_dataFlips {a : Nat} {ps : List Nat} (hnd : ps.Nodup) (i : Nat) :
    (bitsOf ((ps.filter fun p => decide (27 ≤ p)).map fun p => a + (p - 27))).testBit i = true ↔ ∃ p ∈ ps, 27 ≤ p ∧ i = a + (p - 27) := by
  have hmap : ((ps.filter fun p => decide (27 ≤ p)).map fun p => a + (p - 27)).Nodup := by
    refine (hnd.filter _).map_on fun p hp q hq hpq => ?_
    have := of_decide_eq_true (List.mem_filter.mp hp).2
    have := of_decide_eq_true (List.mem_filter.mp hq).2
    omega
  rw [Gf.testBit_bitsOf hmap, decide_eq_true_iff, List.mem_map]
  constructor
  · rintro ⟨p, hp, rfl⟩
    obtain ⟨hp, h27⟩ := List.mem_filter.mp hp
    exact ⟨p, hp, of_decide_eq_true h27, rfl⟩
  · rintro ⟨p, hp, h27, rfl⟩
    exact ⟨p, List.mem_filter.mpr ⟨hp, decide_eq_true h27⟩, rfl⟩

/-- A codeword that decodes: flips of data bits of its run and of its own check bits; with no data bit flipped, the new check bits are the data's. -/
theorem rawField_decode {a base : Nat} {l l' : LineBits} (h : (rawField a base).decode l = (l', false)) :
    ∃ X E, l' = ⟨l.data ^^^ X, l.side ^^^ (E <<< base)⟩ ∧ E < 2 ^ 28 ∧ (∀ i, X.testBit i = true → a ≤ i ∧ i < a + 256) ∧
      (X = 0 → (rawField a base).encode l.data = bits l.side base 28 ^^^ E) := by
  have hm : bits l.data a 256 < 2 ^ 256 := Nat.mod_lt _ (Nat.two_pow_pos 256)
  unfold Field.decode at h
  dsimp only at h
  split at h
  next hw =>
    obtain rfl := (Prod.mk.inj h).1
    exact ⟨0, 0, by simp, by decide, by simp, fun _ => by rw [Nat.xor_zero]; exact hw⟩
  next hw =>
    rw [if_neg (by decide)] at h
    split at h
    next => simp at h
    next ps ext he =>
      rw [gather_single, rawField_encode] at he
      obtain ⟨hnd, hrun, -, -⟩ := Gf.bchErrors_three (Nat.mod_lt _ (by decide)) he
      have hlt : ∀ p ∈ ps, p < 27 + 256 := hrun
      rw [foldl_flips_runs base a hlt, foldl_flips] at h
      refine ⟨bitsOf ((ps.filter fun p => decide (27 ≤ p)).map fun p => a + (p - 27)),
        bitsOf (ps.filter fun p => decide (p < 27)) ^^^ (if ext then 2 ^ 27 else 0), ?_, ?_, ?_, ?_⟩
      · rw [← (Prod.mk.inj h).1, bitsOf_map_add, Nat.shiftLeft_xor_distrib]
        cases ext
        · simp
        · rw [if_pos rfl, if_pos rfl, Nat.shiftLeft_eq (2 ^ 27), ← Nat.pow_add, Nat.add_comm 27, Nat.xor_assoc]
      · refine Nat.xor_lt_two_pow (lt_of_lt_of_le (Gf.bitsOf_lt (n := 27) fun p hp => of_decide_eq_true (List.mem_filter.mp hp).2) (by decide)) ?_
        cases ext <;> decide
      · intro i hi
        obtain ⟨p, hp, h27, rfl⟩ := (testBit_dataFlips hnd i).mp hi
        have := hlt p hp
        omega
      · intro hX
        have hlow : ∀ p ∈ ps, p < 27 := by
          intro p hp
          by_contra h27
          have := (testBit_dataFlips (a := a) hnd _).mpr ⟨p, hp, by omega, rfl⟩
          rw [hX, Nat.zero_testBit] at this
          cases this
        rw [List.filter_eq_self.mpr fun p hp => decide_eq_true (hlow p hp), rawField_encode]
        exact codeword_corrected hm (Nat.mod_lt _ (by decide)) hlow he

end Sys2Proof.Machine
end

section
/-! SUPPORT of O25, O32, O44, O55. Lines without error: a second decoding changes no data, and a write merges the bits under its mask (R97, R349, R351). -/

namespace Sys2Proof.Machine

theorem testBit_bits (x lo len i : Nat) : (bits x lo len).testBit i = (decide (i < len) && x.testBit (lo + i)) := by
  rw [bits, Nat.testBit_mod_two_pow, Nat.testBit_shiftRight]

theorem bits_xor_same {x E lo len : Nat} (hE : E < 2 ^ len) : bits (x ^^^ (E <<< lo)) lo len = bits x lo len ^^^ E := by
  refine Nat.eq_of_testBit_eq fun i => ?_
  rw [Nat.testBit_xor, testBit_bits, testBit_bits, Nat.testBit_xor, Nat.testBit_shiftLeft]
  by_cases hi : i < len
  · simp [hi]
  · have : E.testBit i = false := Nat.testBit_lt_two_pow (lt_of_lt_of_le hE (Nat.pow_le_pow_right (by decide) (by omega)))
    simp [hi, this]

theorem bits_xor_above {x E lo len top : Nat} (h : lo + len ≤ top) : bits (x ^^^ (E <<< top)) lo len = bits x lo len := by
  refine Nat.eq_of_testBit_eq fun i => ?_
  rw [testBit_bits, testBit_bits, Nat.testBit_xor, Nat.testBit_shiftLeft]
  by_cases hi : i < len
  · simp [show ¬ top ≤ lo + i by omega]
  · simp [hi]

theorem Field.decode_of_eq {f : Field} {l : LineBits} (h : f.encode l.data = bits l.side f.base f.checkLen) : f.decode l = (l, false) := by
  unfold Field.decode
  dsimp only
  rw [if_pos h]

/-- A line is read without error: its data decode unchanged, with no failing S codeword. -/
def LineFmt.reads (lf : LineFmt) (l : LineBits) : Prop := (lf.decode l).bits.data = l.data ∧ (lf.decode l).sFail.all (· == false) = true

theorem LineFmt.raw_decode_zero {l : LineBits} (h : l.data = 0 ∧ l.side = 0) : LineFmt.raw.decode l = ⟨l, [], [], false⟩ := by
  rw [LineFmt.decode, if_pos h]

theorem LineFmt.raw_decode {l : LineBits} (h : ¬ (l.data = 0 ∧ l.side = 0)) :
    LineFmt.raw.decode l = ⟨((rawField 256 28).decode ((rawField 0 0).decode l).1).1,
      [((rawField 0 0).decode l).2, ((rawField 256 28).decode ((rawField 0 0).decode l).1).2], [], false⟩ := by
  rw [LineFmt.decode, if_neg h]
  simp only [LineFmt.sFields, LineFmt.pFields, LineFmt.scaleBase, decodeFields]

/-- A number with bits below `m` and one with bits from `m` up that are equal are zero. -/
theorem eq_zero_of_disjoint {X Y m : Nat} (hX : ∀ i, X.testBit i = true → i < m) (hY : ∀ i, Y.testBit i = true → m ≤ i) (h : X = Y) : X = 0 := by
  refine Nat.eq_of_testBit_eq fun i => ?_
  rw [Nat.zero_testBit]
  by_contra hi
  rw [Bool.not_eq_false] at hi
  have := hX i hi
  have := hY i (h ▸ hi)
  omega

/-- What the decoding of a line of RAW or CONTEXT without error leaves decodes without a change. -/
theorem LineFmt.raw_decode_again {l : LineBits} (h : LineFmt.raw.reads l) : (LineFmt.raw.decode (LineFmt.raw.decode l).bits).bits.data = l.data := by
  obtain ⟨hdata, hfail⟩ := h
  by_cases h0 : l.data = 0 ∧ l.side = 0
  · rw [LineFmt.raw_decode_zero h0, LineFmt.raw_decode_zero h0]
  · rw [LineFmt.raw_decode h0] at hdata hfail ⊢
    rcases h1 : (rawField 0 0).decode l with ⟨l1, b1⟩
    rcases h2 : (rawField 256 28).decode l1 with ⟨l2, b2⟩
    simp only [h1, h2] at hdata hfail ⊢
    obtain ⟨rfl, rfl⟩ : b1 = false ∧ b2 = false := by simpa using hfail
    obtain ⟨X1, E1, rfl, hE1, hX1, hw1⟩ := rawField_decode h1
    obtain ⟨X2, E2, rfl, hE2, hX2, hw2⟩ := rawField_decode h2
    dsimp only at hdata hw2 ⊢
    have hX : X1 = X2 := by
      rw [Nat.xor_assoc] at hdata
      have : X1 ^^^ X2 = 0 := Nat.xor_right_injective (x := l.data) (by simpa using hdata)
      exact Nat.xor_eq_zero_iff.mp this
    obtain rfl : X1 = 0 := eq_zero_of_disjoint (m := 256) (fun i hi => by have := hX1 i hi; omega) (fun i hi => (hX2 i hi).1) hX
    subst hX
    rw [Nat.xor_zero, Nat.xor_zero] at *
    have hw1 := hw1 rfl
    have hw2 := hw2 rfl
    by_cases hz : l.data = 0 ∧ l.side ^^^ E1 <<< 0 ^^^ E2 <<< 28 = 0
    · rw [LineFmt.raw_decode_zero hz]
    · rw [LineFmt.raw_decode hz, Field.decode_of_eq (f := rawField 0 0), Field.decode_of_eq (f := rawField 256 28)]
      · exact hw2.trans (bits_xor_same hE2).symm
      · exact hw1.trans ((bits_xor_above (by decide)).trans (bits_xor_same hE1)).symm

/-! ## Merging -/

theorem LineFmt.write_data (lf : LineFmt) (l : LineBits) (mask value : Nat) (scale : Option Nat) :
    (lf.write l mask value scale).data = (((lf.decode l).bits.data ||| mask) ^^^ mask ||| (value &&& mask)) := rfl

theorem testBit_merge (old mask value i : Nat) :
    ((old ||| mask) ^^^ mask ||| (value &&& mask)).testBit i = if mask.testBit i then value.testBit i else old.testBit i := by
  rw [Nat.testBit_or, Nat.testBit_xor, Nat.testBit_or, Nat.testBit_and]
  cases mask.testBit i <;> cases old.testBit i <;> simp

theorem Decoded.patch_of_sFail {d : Decoded} (h : d.sFail.all (· == false) = true) (e : Decoded) : d.patch e = d := by
  have hk (k : Nat) : d.sFail.getD k false = false := by
    by_cases hk : k < d.sFail.length
    · rw [List.getD_eq_getElem _ _ hk]
      exact beq_iff_eq.mp (List.all_eq_true.mp h _ (List.getElem_mem hk))
    · exact List.getD_eq_default _ _ (by omega)
  unfold Decoded.patch
  rw [show List.range 2 = [0, 1] by decide]
  simp only [List.foldl_cons, List.foldl_nil, hk, Bool.false_and, Bool.false_eq_true, if_false]

/-! ## The data of a line, bit by bit -/

/-- The bits of a sum of bytes at rising places. -/
theorem testBit_foldl_bytes (base : Nat) (c : Memory) (n x : Nat) (hok : Cells.okFrom (base + n) c = true) (hx : x < 2 ^ (8 * n)) (o k : Nat) (hk : k < 8) :
    (c.foldl (fun a p => a + p.2.toNat * 2 ^ (8 * (p.1 - base))) x).testBit (8 * o + k) =
      if o < n then x.testBit (8 * o + k) else (Cells.get c (base + o)).getLsbD k := by
  induction c generalizing n x with
  | nil =>
    split
    · rfl
    next ho =>
      exact (Nat.testBit_lt_two_pow (lt_of_lt_of_le hx (Nat.pow_le_pow_right (by decide) (by omega)))).trans (by simp [Cells.get])
  | cons p c ih =>
    obtain ⟨a, b⟩ := p
    rw [Cells.okFrom_iff] at hok
    obtain ⟨hna, -, hok⟩ := hok
    have hbyte : b.toNat < 2 ^ 8 := b.isLt
    have hle : x < 2 ^ (8 * (a - base)) := lt_of_lt_of_le hx (Nat.pow_le_pow_right (by decide) (by omega))
    have hx' : x + b.toNat * 2 ^ (8 * (a - base)) < 2 ^ (8 * (a - base + 1)) := by
      rw [Nat.mul_add, Nat.pow_add, Nat.mul_one]
      calc x + b.toNat * 2 ^ (8 * (a - base)) < (b.toNat + 1) * 2 ^ (8 * (a - base)) := by rw [Nat.add_mul, Nat.one_mul]; omega
        _ ≤ 2 ^ (8 * (a - base)) * 2 ^ 8 := by rw [Nat.mul_comm]; exact Nat.mul_le_mul_left _ hbyte
    rw [List.foldl_cons, ih (a - base + 1) _ (by rwa [show base + (a - base + 1) = a + 1 by omega]) hx']
    have hbit : (x + b.toNat * 2 ^ (8 * (a - base))).testBit (8 * o + k) =
        if 8 * o + k < 8 * (a - base) then x.testBit (8 * o + k) else b.toNat.testBit (8 * o + k - 8 * (a - base)) := by
      rw [Nat.add_comm, Nat.mul_comm, Nat.testBit_two_pow_mul_add _ hle]
    rw [hbit]
    by_cases h1 : o < n
    · rw [if_pos (by omega), if_pos (by omega), if_pos h1]
    · rw [if_neg h1]
      by_cases h2 : o < a - base
      · rw [if_pos (by omega), if_pos (by omega), Cells.get, if_neg (by omega),
          Cells.get_of_lt c (a + 1) _ hok (by omega), Nat.testBit_lt_two_pow (lt_of_lt_of_le hx (Nat.pow_le_pow_right (by decide) (by omega)))]
        simp
      · by_cases h3 : o = a - base
        · subst h3
          rw [if_pos (by omega), if_neg (by omega), Cells.get, if_pos (by omega), show 8 * (a - base) + k - 8 * (a - base) = k by omega]
          exact rfl
        · rw [if_neg (by omega), Cells.get, if_neg (by omega)]

theorem Cells.okFrom_of_le {w : Nat} {c : Cells w} {m n : Nat} (h : Cells.okFrom m c = true) (hn : ∀ p ∈ c, n ≤ p.1) : Cells.okFrom n c = true := by
  cases c with
  | nil => rfl
  | cons p r =>
    obtain ⟨a, b⟩ := p
    rw [Cells.okFrom_iff] at h ⊢
    exact ⟨hn _ List.mem_cons_self, h.2⟩

/-- The data of a line hold its bytes. -/
theorem testBit_lineData {m : Memory} (h : Memory.wf m = true) {line a k : Nat} (ha : a / 64 = line) (hk : k < 8) :
    (lineData m line).testBit (8 * (a % 64) + k) = (Memory.read m a).getLsbD k := by
  have hok : Cells.okFrom (64 * line + 0) (lineCells m line) = true := by
    refine Cells.okFrom_of_le (Cells.okFrom_filter _ m 0 h) fun p hp => ?_
    have := (List.mem_filter.mp hp).2
    simp only [Bool.and_eq_true, decide_eq_true_eq] at this
    omega
  rw [lineData, testBit_foldl_bytes (64 * line) _ 0 0 hok (by decide) _ _ hk, if_neg (by omega), show 64 * line + a % 64 = a by omega, Memory.read, lineCells,
    Cells.get_filter m (fun q => decide (64 * line ≤ q) && decide (q < 64 * line + 64)), if_pos (by simp; omega)]

end Sys2Proof.Machine
end

section
/-! SUPPORT of O25, O32, O44, O55, and SETTLES O32: a write at a home (R97, R151, R351). -/

open Sys2Proof
namespace Sys2Proof.Machine

variable {s : State}

/-- The number that a write at a home stores as a line's data. -/
def State.writtenData (s : State) (line mask value : Nat) (scale : Option Nat) (code : Nat) : Nat :=
  let lf := lineFmt (s.codeAt line code) (lineInUnit line)
  if s.codeAt line code = 12 then (lf.write ((lf.decode (s.store.bits1 line)).patch (lf.decode (s.store.bits2 line))).bits mask value scale).data
  else (lf.write (s.store.bits1 line) mask value scale).data

/-- The lines that a write at a home stores. -/
def State.storedLine (s : State) (line mask value : Nat) (scale : Option Nat) (code : Nat) : Store :=
  let lf := lineFmt (s.codeAt line code) (lineInUnit line)
  let a := lf.decode (s.store.bits1 line)
  let b := lf.decode (s.store.bits2 line)
  if s.codeAt line code = 12 then
    (s.store.put1 line (lf.write (a.patch b).bits mask value scale)).put2 line (lf.write (b.patch a).bits mask value scale)
  else s.store.put1 line (lf.write (s.store.bits1 line) mask value scale)

theorem State.homeWrite_store (s : State) (writer line mask value : Nat) (scale : Option Nat) (code : Nat) :
    (s.homeWrite writer line mask value scale code).store =
      { s.storedLine line mask value scale code with
        code := Cells.set (s.storedLine line mask value scale code).code line (BitVec.ofNat 4 (s.codeAt line code)) } := by
  simp only [State.homeWrite, State.touchLine_store, State.storedLine]

section
variable (st : Store) (line : Nat) (l : LineBits)

theorem Store.put1_data : (st.put1 line l).data = putLine st.data line l.data := by simp only [Store.put1]
theorem Store.put1_side : (st.put1 line l).side = Cells.set st.side line (BitVec.ofNat 64 l.side) := by simp only [Store.put1]
theorem Store.put1_data2 : (st.put1 line l).data2 = st.data2 := by simp only [Store.put1]
theorem Store.put1_side2 : (st.put1 line l).side2 = st.side2 := by simp only [Store.put1]
theorem Store.put1_code : (st.put1 line l).code = st.code := by simp only [Store.put1]
theorem Store.put2_data : (st.put2 line l).data = st.data := by simp only [Store.put2]
theorem Store.put2_side : (st.put2 line l).side = st.side := by simp only [Store.put2]
theorem Store.put2_data2 : (st.put2 line l).data2 = putLine st.data2 line l.data := by simp only [Store.put2]
theorem Store.put2_side2 : (st.put2 line l).side2 = Cells.set st.side2 line (BitVec.ofNat 64 l.side) := by simp only [Store.put2]
theorem Store.put2_code : (st.put2 line l).code = st.code := by simp only [Store.put2]

end

theorem State.homeWrite_store_data (s : State) (writer line mask value : Nat) (scale : Option Nat) (code : Nat) :
    (s.homeWrite writer line mask value scale code).store.data = putLine s.store.data line (s.writtenData line mask value scale code) := by
  rw [State.homeWrite_store, State.storedLine, State.writtenData]
  by_cases h : s.codeAt line code = 12
  · simp only [if_pos h, Store.put2_data, Store.put1_data]
  · simp only [if_neg h, Store.put1_data]

theorem State.homeWrite_store_data2 (s : State) (writer line mask value : Nat) (scale : Option Nat) (code : Nat) :
    ∃ x, (s.homeWrite writer line mask value scale code).store.data2 = putLine s.store.data2 line x ∨
      (s.homeWrite writer line mask value scale code).store.data2 = s.store.data2 := by
  rw [State.homeWrite_store, State.storedLine]
  by_cases h : s.codeAt line code = 12
  · simp only [if_pos h, Store.put2_data2, Store.put1_data2]
    exact ⟨_, .inl rfl⟩
  · simp only [if_neg h, Store.put1_data2]
    exact ⟨0, .inr trivial⟩

theorem State.homeWrite_store_sides (s : State) (writer line mask value : Nat) (scale : Option Nat) (code : Nat) :
    ∃ x y z, (s.homeWrite writer line mask value scale code).store.side = Cells.set s.store.side line x ∧
      ((s.homeWrite writer line mask value scale code).store.side2 = Cells.set s.store.side2 line y ∨
        (s.homeWrite writer line mask value scale code).store.side2 = s.store.side2) ∧
      (s.homeWrite writer line mask value scale code).store.code = Cells.set s.store.code line z := by
  rw [State.homeWrite_store, State.storedLine]
  by_cases h : s.codeAt line code = 12
  · simp only [if_pos h, Store.put2_side, Store.put1_side, Store.put2_side2, Store.put1_side2, Store.put2_code, Store.put1_code]
    exact ⟨_, _, _, rfl, .inl rfl, rfl⟩
  · simp only [if_neg h, Store.put1_side, Store.put1_side2, Store.put1_code]
    exact ⟨_, 0, _, rfl, .inr trivial, rfl⟩

/-- In a line without error the bits under the mask are merged. -/
theorem State.writtenData_of_reads {line mask value : Nat} {scale : Option Nat} {code : Nat}
    (h : (lineFmt (s.codeAt line code) (lineInUnit line)).reads (s.store.bits1 line)) :
    s.writtenData line mask value scale code = ((lineData s.store.data line ||| mask) ^^^ mask ||| (value &&& mask)) := by
  unfold State.writtenData
  dsimp only
  split
  next h12 =>
    rw [h12] at h ⊢
    rw [Decoded.patch_of_sFail h.2, LineFmt.write_data]
    have := LineFmt.raw_decode_again h
    rw [show lineFmt 12 (lineInUnit line) = LineFmt.raw from rfl, this]
    exact rfl
  next =>
    rw [LineFmt.write_data, h.1]
    exact rfl

/-- What a write at a home leaves in a byte of its line, bit by bit. -/
theorem State.getLsbD_byteAt_homeWrite (hs : s.store.wf = true) (writer : Nat) {line mask value : Nat} {scale : Option Nat} {code a k : Nat}
    (h : (lineFmt (s.codeAt line code) (lineInUnit line)).reads (s.store.bits1 line)) (ha : a / 64 = line) (hk : k < 8) :
    (byteAt (s.homeWrite writer line mask value scale code) a).getLsbD k =
      if mask.testBit (8 * (a % 64) + k) then value.testBit (8 * (a % 64) + k) else (byteAt s a).getLsbD k := by
  have hdata := ((Store.wf_iff _).mp hs).1
  rw [byteAt, State.homeWrite_store_data, Memory.read_putLine _ _ _ _ hdata, if_pos ha, State.writtenData_of_reads h, BitVec.getLsbD_ofNat,
    Nat.testBit_shiftRight, testBit_merge, testBit_lineData hdata ha hk, byteAt]
  simp [hk]

theorem Claim.linesWritten : Claim.LinesWritten := by
  intro s writer line mask value code hok
  obtain ⟨hs, -, -⟩ := hok
  obtain ⟨hdata, hside, hdata2, hside2, hcode⟩ := (Store.wf_iff _).mp hs
  refine ⟨fun a ha => ⟨State.byteAt_homeWrite_ne hs _ _ _ _ _ _ ha, ?_⟩, fun l hl => ?_, fun r hr => ?_, fun hread hfail a k ha hk => ?_⟩
  · obtain ⟨x, h | h⟩ := State.homeWrite_store_data2 s writer line mask value none code
    · rw [h, Memory.read_putLine _ _ _ _ hdata2, if_neg ha]
    · rw [h]
  · obtain ⟨x, y, z, h1, h2, h3⟩ := State.homeWrite_store_sides s writer line mask value none code
    rw [h1, h3, Cells.get_set _ _ _ _ hside, Cells.get_set _ _ _ _ hcode, if_neg (Ne.symm hl), if_neg (Ne.symm hl)]
    refine ⟨rfl, ?_, rfl⟩
    obtain h2 | h2 := h2
    · rw [h2, Cells.get_set _ _ _ _ hside2, if_neg (Ne.symm hl)]
    · rw [h2]
  · rw [State.homeWrite_frame] at hr
    simpa using (List.mem_filter.mp hr).2
  · exact State.getLsbD_byteAt_homeWrite hs writer ⟨hread, hfail⟩ ha hk

/-! ## The waves that a write dooms and wakes -/

theorem State.mem_waves_touchLine {writer line : Nat} {w : Wave} (hw : w ∈ s.waves) :
    (if w.gwn != writer && (w.tx.lines.contains line || w.tx.coarse.contains (s.sliceOf line)) then w.hit (some s.wakes) else w) ∈
      (s.touchLine writer line).waves := by
  have := State.mem_waves_modWaves (p := fun w => w.gwn != writer && (w.tx.lines.contains line || w.tx.coarse.contains (s.sliceOf line)))
    (f := Wave.hit (some s.wakes)) hw
  unfold State.touchLine
  dsimp only
  split <;> exact this

theorem State.touchLine_wakes {writer line : Nat} {w : Wave} (hw : w ∈ s.waves)
    (hhit : (w.gwn != writer && (w.tx.lines.contains line || w.tx.coarse.contains (s.sliceOf line))) = true) (hrun : w.run = .asleep) :
    (s.touchLine writer line).wakes = s.wakes + 1 := by
  have hany : (s.waves.any fun w => (w.gwn != writer && (w.tx.lines.contains line || w.tx.coarse.contains (s.sliceOf line))) && w.run == .asleep) = true :=
    List.any_eq_true.mpr ⟨w, hw, by rw [hhit, hrun]; rfl⟩
  unfold State.touchLine
  dsimp only
  rw [if_pos hany]
  rfl

theorem State.length_waves_touchLine (s : State) (writer line : Nat) : (s.touchLine writer line).waves.length = s.waves.length := by
  have key (p : Wave → Bool) (f : Wave → Wave) : (s.modWaves p f).waves.length = s.waves.length := by
    simp only [State.waves, State.modWaves_others, mapWhere, List.length_cons, List.length_map]
  unfold State.touchLine
  dsimp only
  split <;> exact key _ _

theorem Wave.hit_of_doom {w : Wave} {x : Option Nat} (h1 : w.run ≠ .asleep) (h2 : ∀ i, w.run ≠ .feAsleep i) (h3 : w.tx.depth ≠ 0) :
    w.hit x = { w with tx := { w.tx with doom := true } } := by
  unfold Wave.hit
  split
  · contradiction
  next i hi => exact absurd hi (h2 i)
  · rw [if_neg h3]

theorem Wave.hit_of_asleep {w : Wave} {x : Option Nat} (h : w.run = .asleep) : w.hit x = { w with run := .woken x } := by
  unfold Wave.hit
  rw [h]

theorem Wave.hit_of_feAsleep {w : Wave} {x : Option Nat} {i : Instr} (h : w.run = .feAsleep i) : w.hit x = { w with run := .feWoken i } := by
  unfold Wave.hit
  rw [h]

theorem Claim.writesDoomAndWake : Claim.WritesDoomAndWake := by
  intro s writer line w hw
  have hmem := State.mem_waves_touchLine (writer := writer) (line := line) hw
  refine ⟨fun hhit => ?_, fun hhit h1 h2 h3 => ?_, fun hhit hrun => ⟨?_, State.touchLine_wakes hw hhit hrun⟩, fun i hhit hrun => ?_,
    State.length_waves_touchLine s writer line, State.touchLine_store s writer line, State.touchLine_crews s writer line⟩
  · rwa [if_neg (by rw [hhit]; decide)] at hmem
  · rwa [if_pos hhit, Wave.hit_of_doom h1 h2 h3] at hmem
  · rwa [if_pos hhit, Wave.hit_of_asleep hrun] at hmem
  · rwa [if_pos hhit, Wave.hit_of_feAsleep hrun] at hmem

/-- Settles O32: a write merges into the line as its decoder reads it, and the doom or wake of each wave is one case of `Wave.hit`. -/
theorem homeWrites : Obligations.HomeWrites := ⟨Claim.linesWritten, Claim.writesDoomAndWake⟩

end Sys2Proof.Machine
end

section
/-! SUPPORT of O25, O28, O29, O44. What a wave's own writes at the homes leave alone: the wave itself, which crews are shadow copies, and the codes of the lines. -/

open Sys2Proof
namespace Sys2Proof.Machine

variable {s t u : State} {g : Nat}

/-- A change of the waves that leaves out those of a number is not seen there. -/
theorem State.wave?_modWaves_of_not {p : Wave → Bool} {f : Wave → Wave} (hf : ∀ w, (f w).gwn = w.gwn) (hp : ∀ w : Wave, w.gwn = g → p w = false) (s : State) :
    (s.modWaves p f).wave? g = s.wave? g := by
  rw [State.wave?_map (s := s) (h := fun w => if p w then f w else w) (fun w => by split <;> [exact hf w; rfl]) rfl rfl]
  cases hw : s.wave? g with
  | none => rfl
  | some w => rw [Option.map_some, hp w (State.wave?_gwn hw)]; rfl

/-- A write at a home neither dooms nor wakes its writer (R151). -/
theorem State.wave?_touchLine_own (s : State) (g line : Nat) : (s.touchLine g line).wave? g = s.wave? g := by
  have h := State.wave?_modWaves_of_not (g := g) (p := fun w => w.gwn != g && (w.tx.lines.contains line || w.tx.coarse.contains (s.sliceOf line)))
    (f := Wave.hit (some s.wakes)) (fun w => (Wave.touched_hit _ w).gwn) (fun w hw => by simp [hw]) s
  unfold State.touchLine
  dsimp only
  split <;> exact h

theorem State.wave?_touchGranules_own (s : State) (g unit crew : Nat) (gs : List Nat) : (s.touchGranules g unit crew gs).wave? g = s.wave? g := by
  induction gs generalizing s with
  | nil => rfl
  | cons x gs ih =>
    exact (ih (s.touchGranule g unit crew x)).trans
      (State.wave?_modWaves_of_not (fun w => (Wave.touched_hit _ w).gwn) (fun w hw => by simp [hw]) s)

/-- Crews alike but for their signatures. -/
def sameKinds (a b : List Crew) : Prop := b.map (fun c => (c.id, c.shadow)) = a.map fun c => (c.id, c.shadow)

theorem State.isShadow_of_sameKinds (h : sameKinds s.crews u.crews) (crew : Nat) : u.isShadow crew = s.isShadow crew := by
  have key (l : List Crew) : ((l.find? (·.id == crew)).map (·.shadow)) = ((l.map fun c => (c.id, c.shadow)).find? (·.1 == crew)).map (·.2) := by
    rw [List.find?_map, Option.map_map]
    exact rfl
  rw [State.isShadow, State.isShadow, State.crew?, State.crew?, key, key, h]

/-- What the writes of a wave at the homes leave alone. -/
structure ownWrites (g : Nat) (s u : State) : Prop where
  wave : u.wave? g = s.wave? g
  berths : u.berths = s.berths
  mode : u.out.mode = s.out.mode
  kinds : sameKinds s.crews u.crews
  wf : s.store.wf = true → u.store.wf = true

namespace ownWrites

theorem refl (g : Nat) (s : State) : ownWrites g s s := ⟨rfl, rfl, rfl, rfl, id⟩

theorem trans (h : ownWrites g s t) (k : ownWrites g t u) : ownWrites g s u :=
  ⟨k.wave.trans h.wave, k.berths.trans h.berths, k.mode.trans h.mode, Eq.trans k.kinds h.kinds, fun hs => k.wf (h.wf hs)⟩

theorem foldl {α : Type} {f : State → α → State} (hf : ∀ s a, ownWrites g s (f s a)) (l : List α) (s : State) : ownWrites g s (l.foldl f s) := by
  induction l generalizing s with
  | nil => exact refl g s
  | cons a l ih => exact (hf s a).trans (ih _)

theorem isShadow (h : ownWrites g s u) (crew : Nat) : u.isShadow crew = s.isShadow crew := State.isShadow_of_sameKinds h.kinds crew

theorem codeAt (h : ownWrites g s u) (line code : Nat) : u.codeAt line code = s.codeAt line code := by
  simp only [State.codeAt, State.berth, State.berthOf, State.partSize, State.dies, h.berths, h.mode]

/-- A change of caches and the outside, but for the partitioning. -/
theorem of_eq (h : u = { s with caches := u.caches, fresh := u.fresh, out := u.out }) (hm : u.out.mode = s.out.mode) : ownWrites g s u :=
  ⟨by rw [h]; rfl, by rw [h], hm, by rw [h]; exact rfl, fun hs => by rw [h]; exact hs⟩

theorem homeWrite (s : State) (line mask value : Nat) (scale : Option Nat) (code : Nat) : ownWrites g s (s.homeWrite g line mask value scale code) where
  wave := by
    simp only [State.homeWrite]
    rw [State.wave?_touchLine_own]
    exact rfl
  berths := (homed.homeWrite ..).berths
  mode := (homed.homeWrite ..).mode
  kinds := by rw [(homed.homeWrite ..).crews]; exact rfl
  wf := State.wf_homeWrite _ _ _ _ _ _ _

theorem homeWrites (s : State) (ws : List LineWrite) : ownWrites g s (s.homeWrites g ws) := foldl (fun _ _ => homeWrite ..) _ s

theorem hash (s : State) (crew : Nat) (m : List Byte) : ownWrites g s (s.hash crew m) := by
  refine ⟨by rw [State.hash_eq]; rfl, by rw [State.hash_eq], by rw [State.hash_eq], ?_, fun hs => by rw [State.hash_eq]; exact hs⟩
  unfold State.hash
  split
  · rfl
  · split
    · rw [sameKinds, State.modCrew_crews, mapWhere, List.map_map]
      refine List.map_congr_left fun c _ => ?_
      rw [Function.comp_apply]
      split <;> rfl
    · rfl

theorem dropL1 (s : State) (core line : Nat) : ownWrites g s (s.dropL1 core line) := of_eq rfl rfl

theorem touchLine (s : State) (line : Nat) : ownWrites g s (s.touchLine g line) where
  wave := s.wave?_touchLine_own g line
  berths := (homed.touchLine ..).berths
  mode := (homed.touchLine ..).mode
  kinds := by rw [(homed.touchLine ..).crews]; exact rfl
  wf hs := by rwa [State.touchLine_store]

theorem discardLine (s : State) (line code : Nat) : ownWrites g s (s.discardLine g line code) := by
  have hd (st : Store) (cs : Caches) : ({ s with store := st, caches := cs } : State).wave? g = s.wave? g := rfl
  refine ⟨?_, ?_, ?_, ?_, State.wf_discardLine _ _ _ _⟩
  all_goals
    simp only [State.discardLine]
    split
  · rw [(homeWrite ..).wave, State.wave?_touchLine_own, hd]
  · rw [State.wave?_touchLine_own, hd]
  · rw [(homeWrite (g := g) ..).berths, (touchLine (g := g) ..).berths]
  · rw [(touchLine (g := g) ..).berths]
  · rw [(homeWrite (g := g) ..).mode, (touchLine (g := g) ..).mode]
  · rw [(touchLine (g := g) ..).mode]
  · exact Eq.trans (homeWrite ..).kinds (touchLine (g := g) ..).kinds
  · exact (touchLine ..).kinds

end ownWrites
end Sys2Proof.Machine
end

section
/-! SUPPORT of O28, O29, O44. Full/empty bits of scratch, and the operations in flight whose slots fall (R17, R111, R115, R245, R246). -/

open Sys2Proof
namespace Sys2Proof.Machine

variable {s u : State} {g fid : Nat} {w : Wave} {f : Flight}

/-! ## Full/empty bits -/

theorem Crew.setFulls_cons (c : Crew) (g : Nat) (b : Bool) (r : List (Nat × Bool)) : c.setFulls ((g, b) :: r) = (c.setFull g b).setFulls r := rfl

/-- Setting bits changes the bits alone. -/
theorem Crew.setFulls_eq (c : Crew) (l : List (Nat × Bool)) : c.setFulls l = { c with full := (c.setFulls l).full } := by
  induction l generalizing c with
  | nil => rfl
  | cons p r ih =>
    rw [Crew.setFulls_cons, ih]
    exact rfl

theorem Crew.isFull_setFull {c : Crew} (hc : Cells.wf c.full = true) (g : Nat) (b : Bool) (x : Nat) :
    (c.setFull g b).isFull x = if g = x then b else c.isFull x := by
  rw [Crew.isFull, Crew.setFull, Cells.get_set _ _ _ _ hc, Crew.isFull]
  by_cases h : g = x
  · rw [if_pos h, if_pos h]
    cases b <;> rfl
  · rw [if_neg h, if_neg h]

/-- Every granule of a list is set, and no other. -/
theorem Crew.isFull_setFulls {c : Crew} (hc : Cells.wf c.full = true) (gs : List Nat) (b : Bool) (x : Nat) :
    (c.setFulls (gs.map fun g => (g, b))).isFull x = if x ∈ gs then b else c.isFull x := by
  induction gs generalizing c with
  | nil => rfl
  | cons g gs ih =>
    rw [List.map_cons, Crew.setFulls_cons, ih (Cells.wf_set _ _ _ hc), Crew.isFull_setFull hc]
    by_cases hx : x ∈ gs
    · rw [if_pos hx, if_pos (List.mem_cons_of_mem _ hx)]
    · rw [if_neg hx]
      by_cases hg : g = x
      · rw [if_pos hg, if_pos (by rw [hg]; exact List.mem_cons_self)]
      · rw [if_neg hg, if_neg (by simp [hx, Ne.symm hg])]

theorem mem_granules {ofs n x : Nat} : x ∈ granules ofs n ↔ n ≠ 0 ∧ ofs / 16 ≤ x ∧ x ≤ (ofs + n - 1) / 16 := by
  unfold granules
  split
  next h => simp [h]
  next h =>
    rw [List.mem_map]
    constructor
    · rintro ⟨i, hi, rfl⟩
      rw [List.mem_range] at hi
      omega
    · rintro ⟨-, h1, h2⟩
      exact ⟨x - ofs / 16, List.mem_range.mpr (by omega), by omega⟩

theorem mem_granules_of_aligned {ofs n x : Nat} (ho : ofs % 16 = 0) (hn : n % 16 = 0) : x ∈ granules ofs n ↔ ofs ≤ 16 * x ∧ 16 * x < ofs + n := by
  rw [mem_granules]
  omega

theorem State.crew?_mem {i : Nat} {k : Crew} (h : s.crew? i = some k) : k ∈ s.crews := List.mem_of_find?_eq_some h

theorem State.crew?_id {i : Nat} {k : Crew} (h : s.crew? i = some k) : k.id = i := by simpa using List.find?_some h

theorem memOk.full (h : memOk s) {i : Nat} {k : Crew} (hk : s.crew? i = some k) : Cells.wf k.full = true := by
  have := h.2.1 k (State.crew?_mem hk)
  rw [Crew.wf, Bool.and_eq_true] at this
  exact this.2

theorem memOk.scratch (h : memOk s) {i : Nat} {k : Crew} (hk : s.crew? i = some k) : Cells.wf k.scratch = true := by
  have := h.2.1 k (State.crew?_mem hk)
  rw [Crew.wf, Bool.and_eq_true] at this
  exact this.1

/-! ## Operations in flight -/

/-- A step reaches an operation that nothing holds back; one that releases at core scope marks the earlier ones. -/
theorem State.withFlight_of (hw : s.wave? g = some w) (hf : w.flight? fid = some f) (hb : s.blocked w f = false) (k : State → Wave → Flight → State) :
    s.withFlight g fid k = k (if f.cls.coreOnly then s.modWave g (Wave.markCore f.id) else s) w f := by
  simp only [State.withFlight, hw, hf, hb, Bool.false_eq_true, if_false]

/-- A store, a bit operation or a `discard` whose slot falls is performed as its kind says. -/
theorem exec_slotCompletion_st (hw : s.wave? g = some w) (hf : w.flight? fid = some f) (hb : s.blocked w f = false) (hc : f.cls = .st) :
    exec (.slotCompletion g fid) s = .next (s.doFlight w f) := by
  refine Result.next_congr ?_
  rw [State.withFlight_of hw hf hb, hc]
  exact rfl

theorem State.touchGranules_frame (s : State) (writer unit crew : Nat) (gs : List Nat) : (s.touchGranules writer unit crew gs).crews = s.crews ∧
    (s.touchGranules writer unit crew gs).store = s.store := by
  obtain ⟨f, -, hf⟩ := wavesTouched_touchGranules s writer unit crew gs
  rw [hf]
  exact ⟨rfl, rfl⟩

theorem State.crew?_endFlight (f : Flight) (upd : Wave → Wave) (c : Nat) : (s.endFlight g f upd).crew? c = s.crew? c := State.crew?_congr (State.modWave_crews ..) c

theorem State.endFlight_store (s : State) (g : Nat) (f : Flight) (upd : Wave → Wave) : (s.endFlight g f upd).store = s.store := State.modWave_store ..

/-- What a bit operation leaves when its slot falls. -/
theorem State.doSetFull_complete (hok : memOk s) (hw : s.wave? g = some w) {ofs len : Nat} {full : Bool} {k : Crew} (ho : ofs % 16 = 0) (hn : len % 16 = 0)
    (hk : s.crew? w.crew = some k) : let u := s.doSetFull w f ofs len full
    ∃ k', u.crew? w.crew = some k' ∧ k' = { k with full := k'.full } ∧ u.store = s.store ∧
      (∀ x, k'.isFull x = if ofs ≤ 16 * x ∧ 16 * x < ofs + len then full else k.isFull x) ∧
      u.wave? g = some (Wave.slotDown { w with flights := w.flights.filter (·.id != f.id) } f.slot) := by
  obtain rfl := State.wave?_gwn hw
  let gs := (granules ofs len).filter fun y => k.isFull y != full
  have hdo : s.doSetFull w f ofs len full =
      ((s.modCrew w.crew fun x => x.setFulls (gs.map fun y => (y, full))).touchGranules w.gwn k.unit w.crew gs).endFlight w.gwn f id := by
    rw [State.doSetFull, hk]
  have hid (x : Crew) : (x.setFulls (gs.map fun y => (y, full))).id = x.id := by rw [Crew.setFulls_eq]
  refine ⟨k.setFulls (gs.map fun y => (y, full)), ?_, Crew.setFulls_eq .., ?_, fun x => ?_, ?_⟩
  · rw [hdo, State.crew?_endFlight, State.crew?_congr (State.touchGranules_frame ..).1, State.crew?_modCrew_same _ hid, hk]
    exact rfl
  · rw [hdo, State.endFlight_store, (State.touchGranules_frame ..).2]
    exact rfl
  · have hgs : x ∈ gs ↔ (ofs ≤ 16 * x ∧ 16 * x < ofs + len) ∧ (k.isFull x != full) = true := by
      rw [List.mem_filter, mem_granules_of_aligned ho hn]
    rw [Crew.isFull_setFulls (hok.full hk)]
    by_cases hr : ofs ≤ 16 * x ∧ 16 * x < ofs + len
    · rw [if_pos hr]
      split
      · rfl
      next h =>
        by_contra hne
        exact h (hgs.mpr ⟨hr, bne_iff_ne.mpr hne⟩)
    · rw [if_neg hr, if_neg fun h => hr (hgs.mp h).1]
  · have hw' : (s.modCrew w.crew fun x => x.setFulls (gs.map fun y => (y, full))).wave? w.gwn = some w := hw
    rw [hdo]
    exact State.wave?_endFlight ((State.wave?_touchGranules_own ..).trans hw') f

/-! ## Discarded lines -/

theorem State.byteAt_discardLine (hs : s.store.wf = true) (writer line code : Nat) {a : Nat} (ha : s.codeAt line code = 6 → a / 64 ≠ line ^^^ 1) :
    byteAt (s.discardLine writer line code) a = if a / 64 = line then 0 else byteAt s a := by
  have hzero (c : BitVec 4) (cs : Caches) (st : Store) (hst : st.data = putLine s.store.data line 0) :
      byteAt (({ s with store := { st with code := Cells.set st.code line c }, caches := cs } : State).touchLine writer line) a =
        if a / 64 = line then 0 else byteAt s a := by
    rw [byteAt, State.touchLine_store]
    dsimp only
    rw [hst, Memory.read_putLine _ _ _ _ ((Store.wf_iff _).mp hs).1, Nat.zero_shiftRight]
    exact rfl
  simp only [State.discardLine]
  by_cases h6 : s.codeAt line code = 6
  · rw [if_pos h6]
    have hwf := State.wf_discardLine s writer line code hs
    rw [State.byteAt_homeWrite_ne _ _ _ _ _ _ _ (ha h6)]
    · exact hzero _ _ _ (by rw [if_neg (by rw [h6]; decide), Store.put1_data])
    · rw [State.touchLine_store]
      exact Store.wf_code _ _ _ (by rw [if_neg (by rw [h6]; decide)]; exact Store.wf_put1 _ _ _ hs)
  · rw [if_neg h6]
    refine hzero _ _ _ ?_
    split
    · rw [Store.put2_data, Store.put1_data]
    · rw [Store.put1_data]

theorem ownWrites.discardOne (s : State) (g crew : Nat) (t : Target) : ownWrites g s (s.discardOne g crew t) := by
  unfold State.discardOne
  dsimp only
  split
  · exact ownWrites.hash ..
  · split
    · exact ((ownWrites.hash ..).trans (ownWrites.discardLine ..)).trans (ownWrites.dropL1 ..)
    · exact (ownWrites.hash ..).trans (ownWrites.discardLine ..)

theorem State.hash_store (s : State) (crew : Nat) (m : List Byte) : (s.hash crew m).store = s.store := by rw [State.hash_eq]

/-- A shadow copy drops nothing (R320). -/
theorem State.discardOne_of_shadow {crew : Nat} (h : s.isShadow crew = true) (g : Nat) (t : Target) : (s.discardOne g crew t).store = s.store := by
  unfold State.discardOne
  dsimp only
  rw [(ownWrites.hash (g := g) ..).isShadow, h, if_pos rfl, State.hash_store]

theorem State.byteAt_discardOne (hs : s.store.wf = true) {crew : Nat} (h : s.isShadow crew = false) (g : Nat) (t : Target) {a : Nat}
    (ha : s.codeAt (t.at_ / 64) t.code = 6 → a / 64 ≠ t.at_ / 64 ^^^ 1) :
    byteAt (s.discardOne g crew t) a = if a / 64 = t.at_ / 64 then 0 else byteAt s a := by
  have hh : ownWrites g s (s.hash crew (toBytes 8 t.va ++ List.replicate 64 0)) := ownWrites.hash ..
  have key := State.byteAt_discardLine (hh.wf hs) g (t.at_ / 64) t.code (a := a) (by rwa [hh.codeAt])
  unfold State.discardOne
  dsimp only
  rw [hh.isShadow, h, if_neg Bool.false_ne_true]
  have hbyte : byteAt (s.hash crew (toBytes 8 t.va ++ List.replicate 64 0)) a = byteAt s a := by rw [byteAt, State.hash_store, byteAt]
  rw [hbyte] at key
  split
  · exact key
  · exact key

theorem State.discards_of_shadow {crew : Nat} (h : s.isShadow crew = true) (g : Nat) (ts : List Target) :
    (ts.foldl (fun s t => s.discardOne g crew t) s).store = s.store := by
  induction ts generalizing s with
  | nil => rfl
  | cons t ts ih => rw [List.foldl_cons, ih (by rwa [(ownWrites.discardOne ..).isShadow]), State.discardOne_of_shadow h]

/-- A byte outside the lines of a `discard`, and outside the other line of a block whose scale changes, stays. -/
theorem State.byteAt_discards_ne {crew : Nat} (hs : s.store.wf = true) (h : s.isShadow crew = false) (g : Nat) (ts : List Target) {a : Nat}
    (ha : ∀ t ∈ ts, a / 64 ≠ t.at_ / 64 ∧ (s.codeAt (t.at_ / 64) t.code = 6 → a / 64 ≠ t.at_ / 64 ^^^ 1)) :
    byteAt (ts.foldl (fun s t => s.discardOne g crew t) s) a = byteAt s a := by
  induction ts generalizing s with
  | nil => rfl
  | cons t ts ih =>
    have ho : ownWrites g s (s.discardOne g crew t) := ownWrites.discardOne ..
    obtain ⟨hne, h6⟩ := ha t (by simp)
    rw [List.foldl_cons, ih (ho.wf hs) (by rwa [ho.isShadow]) (fun x hx => by rw [ho.codeAt]; exact ha x (List.mem_cons_of_mem _ hx)),
      State.byteAt_discardOne hs h g t h6, if_neg hne]

/-- A byte that reads as zero is not changed by lines without a scale beside another line. -/
theorem State.byteAt_discards_of_zero {crew : Nat} (hs : s.store.wf = true) (h : s.isShadow crew = false) (g : Nat) (ts : List Target) {a : Nat}
    (hcode : ∀ t ∈ ts, s.codeAt (t.at_ / 64) t.code ≠ 6) (hz : byteAt s a = 0) : byteAt (ts.foldl (fun s t => s.discardOne g crew t) s) a = 0 := by
  induction ts generalizing s with
  | nil => exact hz
  | cons t ts ih =>
    have ho : ownWrites g s (s.discardOne g crew t) := ownWrites.discardOne ..
    refine ih (ho.wf hs) (by rwa [ho.isShadow]) (fun x hx => by rw [ho.codeAt]; exact hcode x (List.mem_cons_of_mem _ hx)) ?_
    rw [State.byteAt_discardOne hs h g t fun h6 => absurd h6 (hcode t (by simp)), hz, ite_self]

theorem State.byteAt_discards_of_plain {crew : Nat} (hs : s.store.wf = true) (h : s.isShadow crew = false) (g : Nat) (ts : List Target) {a : Nat}
    (hcode : ∀ t ∈ ts, s.codeAt (t.at_ / 64) t.code ≠ 6) {t : Target} (ht : t ∈ ts) (ha : a / 64 = t.at_ / 64) :
    byteAt (ts.foldl (fun s t => s.discardOne g crew t) s) a = 0 := by
  induction ts generalizing s with
  | nil => simp at ht
  | cons x ts ih =>
    have ho : ownWrites g s (s.discardOne g crew x) := ownWrites.discardOne ..
    have hs' := ho.wf hs
    have h' : (s.discardOne g crew x).isShadow crew = false := by rwa [ho.isShadow]
    have hcode' : ∀ y ∈ ts, (s.discardOne g crew x).codeAt (y.at_ / 64) y.code ≠ 6 := fun y hy => by
      rw [ho.codeAt]
      exact hcode y (List.mem_cons_of_mem _ hy)
    rw [List.foldl_cons]
    obtain rfl | hmem := List.mem_cons.mp ht
    · exact State.byteAt_discards_of_zero hs' h' g ts hcode' (by rw [State.byteAt_discardOne hs h g t fun h6 => absurd h6 (hcode t ht), if_pos ha])
    · exact ih hs' h' hcode' hmem

/-- Every byte of the lines of a `discard` reads as zero, where no line of it changes a scale beside another. -/
theorem State.byteAt_discards {crew : Nat} (hs : s.store.wf = true) (h : s.isShadow crew = false) (g : Nat) (ts : List Target) {a : Nat}
    (hcode : (∀ t ∈ ts, s.codeAt (t.at_ / 64) t.code ≠ 6) ∨ ts.length = 1) {t : Target} (ht : t ∈ ts) (ha : a / 64 = t.at_ / 64) :
    byteAt (ts.foldl (fun s t => s.discardOne g crew t) s) a = 0 := by
  obtain hc | hl := hcode
  · exact State.byteAt_discards_of_plain hs h g ts hc ht ha
  · obtain ⟨x, rfl⟩ := List.length_eq_one_iff.mp hl
    obtain rfl := List.mem_singleton.mp ht
    have hsib : a / 64 ≠ t.at_ / 64 ^^^ 1 := by
      rw [ha]
      intro he
      have := congrArg (· % 2) he
      simp only [Nat.xor_mod_two_eq] at this
      omega
    rw [List.foldl_cons, List.foldl_nil, State.byteAt_discardOne hs h g t fun _ => hsib, if_pos ha]

/-! ## The claim -/

theorem State.storeCut_iff {n : Nat} {t : Target} : s.storeCut w n t = true ↔ s.isShadow w.crew = false ∧ s.cutOff (s.dieOf (unitOf w.gwn)) n t = true := by
  rw [State.storeCut, Bool.and_eq_true, Bool.not_eq_true']

/-- The first lane of several that a test selects. -/
theorem find?_of_first {α : Type} {p : α → Bool} {pre post : List α} {x : α} (hx : p x = true) (hpre : ∀ y ∈ pre, p y ≠ true) :
    (pre ++ x :: post).find? p = some x :=
  List.find?_eq_some_iff_append.mpr ⟨hx, pre, post, rfl, fun y hy => by simpa using hpre y hy⟩

theorem State.doDiscard_cut {pre post later : List Target} {t : Target} (hx : s.storeCut w 1 t = true) (hpre : ∀ y ∈ pre, s.storeCut w 1 y ≠ true) :
    s.doDiscard w f (pre ++ t :: post) later = s.flightFault w.gwn f 0x15 5 (BitVec.ofNat 64 t.va) := by
  rw [State.doDiscard, find?_of_first hx hpre]

theorem State.doDiscard_all {ts : List Target} (h : ∀ t ∈ ts, s.storeCut w 1 t ≠ true) :
    s.doDiscard w f ts [] = (ts.foldl (fun s t => s.discardOne w.gwn w.crew t) s).endFlight w.gwn f id := by
  rw [State.doDiscard, List.find?_eq_none.mpr h]
  exact rfl

theorem Claim.bitAndDiscardComplete : Claim.BitAndDiscardComplete := by
  intro s g fid w f hok hw hf hb hc
  obtain rfl := State.wave?_gwn hw
  refine ⟨fun ofs len full k hbody ho hn hk => ?_, fun ts hbody hdev => ⟨fun pre t post hts hcut hpre => ?_, fun hcut => ?_⟩⟩
  · obtain ⟨k', h⟩ := State.doSetFull_complete hok hw ho hn hk (f := f) (full := full)
    exact ⟨_, k', (exec_slotCompletion_st hw hf hb hc).trans (by rw [State.doFlight, hbody]), h⟩
  · rw [exec_slotCompletion_st hw hf hb hc, State.doFlight, hbody, hts]
    exact congrArg _ (State.doDiscard_cut (State.storeCut_iff.mpr hcut) fun y hy h => hpre y hy (State.storeCut_iff.mp h))
  · have hdo : s.doFlight w f = (ts.foldl (fun s t => s.discardOne w.gwn w.crew t) s).endFlight w.gwn f id := by
      rw [State.doFlight, hbody]
      exact State.doDiscard_all fun t ht h => hcut t ht (State.storeCut_iff.mp h)
    have hown : ownWrites w.gwn s (ts.foldl (fun s t => s.discardOne w.gwn w.crew t) s) := ownWrites.foldl (fun _ _ => ownWrites.discardOne ..) ts s
    have hbyte (a : Nat) : byteAt (s.doFlight w f) a = byteAt (ts.foldl (fun s t => s.discardOne w.gwn w.crew t) s) a := by
      rw [hdo, byteAt, State.endFlight_store, byteAt]
    refine ⟨_, exec_slotCompletion_st hw hf hb hc, ?_, fun hsh => ?_, fun hsh hcode t ht a ha => ?_, fun a ha => ?_⟩
    · rw [hdo]
      exact State.wave?_endFlight (hown.wave.trans hw) f
    · rw [hdo, State.endFlight_store, State.discards_of_shadow hsh]
    · rw [hbyte]
      exact State.byteAt_discards hok.1 hsh _ ts hcode ht ha
    · rw [hbyte]
      cases hsh : s.isShadow w.crew with
      | true => rw [byteAt, State.discards_of_shadow hsh, byteAt]
      | false => exact State.byteAt_discards_ne hok.1 hsh _ ts ha

end Sys2Proof.Machine
end

section
/-! SUPPORT and SETTLEMENT of O29: the bit operations and `discard` as they issue (R119, R233, R245, R246). -/

open Sys2Proof
namespace Sys2Proof.Machine

variable {s f : State}

/-! ## Faults and checks outside a transaction -/

/-- Outside a transaction a fault of a wave's instruction faults its task. -/
theorem State.raise_of_task (hg : isHm s.me.gwn = false) (ht : s.me.tx.depth = 0) (cause sev : Nat) (detail : Word) :
    s.raise cause sev detail = s.failTask s.me.crew ⟨cause, sev, s.me.pc, detail⟩ := by
  rw [State.raise, if_neg (fun h => h.1 ht), hg, if_neg Bool.false_ne_true]

theorem State.failAccess_trap (hg : isHm s.me.gwn = false) (ht : s.me.tx.depth = 0) (cause sev v : Nat) :
    s.failAccess (.trap cause sev v) = s.failTask s.me.crew ⟨cause, sev, s.me.pc, BitVec.ofNat 64 v⟩ := State.raise_of_task hg ht ..

theorem State.failAccess_park (ht : s.me.tx.depth = 0) (k v : Nat) :
    s.failAccess (.park k v) = (s.mapMe (Wave.stamp s.time)).parkWave s.me.gwn k 0 (BitVec.ofNat 64 v) s.me.pc := by
  rw [State.failAccess, if_neg fun h => h.2 ht]

theorem State.withChecked_fail (s : State) (x : Fail) (k : State → List (Nat × Target) → State) : State.withChecked (s, .fail x) k = s.failAccess x := rfl

theorem State.withChecked_ok (s : State) (ts : List (Nat × Target)) (k : State → List (Nat × Target) → State) : State.withChecked (s, .ok ts) k = k s ts := rfl

theorem memRead.me (h : memRead s f) : f.me = s.me := by rw [h]

/-- The checks leave the wave as it is. -/
theorem State.checkGlobal_me {k : AccKind} {as : List (Nat × Nat)} {r : Checked} (h : s.checkGlobal k as = (f, r)) : f.me = s.me := by
  have := memRead.me (memRead.checkGlobal s k as)
  rwa [h] at this

/-- What checks 5 and 6 make of the answer of a translation. -/
def AccKind.lane (k : AccKind) (va : Nat) : TrRes → LaneRes
  | .ok t => if k.admits t then .ok t else .fail6 (.trap 0x04 0 va)
  | .missing => .fail5 (.park 1 va)
  | .badLayout => .fail5 (.trap 0x0B 0 va)
  | .ue => .fail5 (.trap 0x15 5 va)
  | .access => .fail6 (.trap 0x04 0 va)
  | .writeProtect => .fail6 (.park 2 va)

/-- What the checks of one address answer. -/
def LaneRes.checked : LaneRes → Checked
  | .ok t => .ok [(0, t)]
  | .fail5 f => .fail f
  | .fail6 f => .fail f

/-- What the checks answer for one address of a page table. -/
theorem State.checkGlobal_single {k : AccKind} {va : Nat} {x : TrRes} (hg : isHm s.me.gwn = false) (ht : s.me.tx.depth = 0) (hsize : va % k.size = 0)
    (hva : va < unwalkedBase) (hx : s.translate (unitOf s.me.gwn) s.me.ctx va k.need = (f, x)) :
    s.checkGlobal k [(0, va)] = (f, (k.lane va x).checked) := by
  have hbound : ¬ s.globalBound ≤ va := by
    rw [State.globalBound, hg, if_neg Bool.false_ne_true]
    exact Nat.not_le_of_lt (Nat.lt_trans hva (by decide))
  have hstatus : ¬ statusBase ≤ va := Nat.not_le_of_lt (Nat.lt_trans hva (by decide))
  have hlane : s.laneRes (unitOf s.me.gwn) k va = (f, k.lane va x) := by
    rw [State.laneRes, hg, if_neg Bool.false_ne_true, State.virtRes, if_neg hstatus, if_neg (Nat.not_le_of_lt hva), hx]
    cases x <;> rfl
  have hall : s.laneAll (unitOf s.me.gwn) k [(0, va)] = (f, [(0, k.lane va x)]) := by
    have hone : s.laneAll (unitOf s.me.gwn) k [(0, va)] = ((s.laneRes (unitOf s.me.gwn) k va).1, [(0, (s.laneRes (unitOf s.me.gwn) k va).2)]) := rfl
    rw [hone, hlane]
  have hmod : [(0, va)].find? (fun p => p.2 % k.size != 0) = none := by simp [hsize]
  have hlow : [(0, va)].find? (fun p => decide (s.globalBound ≤ p.2)) = none := by simp [hbound]
  rw [State.checkGlobal, if_neg (fun h => h.1 ht), hmod, hlow]
  dsimp only
  rw [hall]
  cases k.lane va x <;> rfl

/-! ## The claims -/

theorem exec_feset {c : Ctl} {a n : Opnd} (hv : s.verdict (.feset c a n) = .go) : exec (.feset c a n) s = .next (s.feBits c a n true) :=
  State.perform_go s _ (fun s => s.feBits c a n true) hv

theorem exec_feclr {c : Ctl} {a n : Opnd} (hv : s.verdict (.feclr c a n) = .go) : exec (.feclr c a n) s = .next (s.feBits c a n false) :=
  State.perform_go s _ (fun s => s.feBits c a n false) hv

/-- A bit operation outside a transaction of a range inside the allocation is in flight. -/
theorem State.feBits_ok (ht : s.me.tx.depth = 0) {c : Ctl} {a n : Opnd} {full : Bool} (ho : (s.opnd a 0).toNat % 16 = 0) (hn : (s.opnd n 0).toNat % 16 = 0)
    (hr : (s.opnd n 0).toNat = 0 ∨ (s.opnd a 0).toNat + (s.opnd n 0).toNat ≤ s.scrSize) :
    s.feBits c a n full = s.launchFlight c .st (.setFull (s.opnd a 0).toNat (s.opnd n 0).toNat full) := by
  rw [State.feBits, if_neg (by omega), if_neg (by omega), if_pos ht]

theorem State.feBits_misaligned {c : Ctl} {a n : Opnd} {full : Bool} (h : (s.opnd a 0).toNat % 16 ≠ 0 ∨ (s.opnd n 0).toNat % 16 ≠ 0) :
    s.feBits c a n full = s.raise 0x03 0 (s.opnd a 0) := by
  rw [State.feBits, if_pos h]

theorem State.feBits_range {c : Ctl} {a n : Opnd} {full : Bool} (ho : (s.opnd a 0).toNat % 16 = 0) (hn : (s.opnd n 0).toNat % 16 = 0)
    (h0 : (s.opnd n 0).toNat ≠ 0) (hr : s.scrSize < (s.opnd a 0).toNat + (s.opnd n 0).toNat) : s.feBits c a n full = s.raise 0x06 0 (s.opnd a 0) := by
  rw [State.feBits, if_neg (by omega), if_pos ⟨h0, hr⟩]

/-- The effect of a `discard`. -/
def State.discards (s : State) (c : Ctl) (r : BitVec 6) (n : Opnd) : State :=
  let va := (s.me.sreg r.toNat).toNat
  let len := (s.opnd n 0).toNat
  if va % 64 ≠ 0 ∨ len % 64 ≠ 0 then s.raise 0x03 0 (s.me.sreg r.toNat)
  else if 65536 < len then s.badCommand
  else State.withChecked (s.checkGlobal ⟨.w, 1, false, false, false⟩ ((List.range (len / 64)).map fun i => (i, va + 64 * i))) fun s ts =>
    s.launchFlight c .st (.discard (ts.map (·.2)))

theorem exec_discard {c : Ctl} {r : BitVec 6} {n : Opnd} (hv : s.verdict (.discard c r n) = .go) : exec (.discard c r n) s = .next (s.discards c r n) :=
  State.perform_go s _ (fun s => s.discards c r n) hv

theorem State.discards_checked {c : Ctl} {r : BitVec 6} {n : Opnd} (hva : (s.me.sreg r.toNat).toNat % 64 = 0) (hlen : (s.opnd n 0).toNat % 64 = 0)
    (hmax : (s.opnd n 0).toNat ≤ 65536) {x : Checked}
    (hx : s.checkGlobal ⟨.w, 1, false, false, false⟩ ((List.range ((s.opnd n 0).toNat / 64)).map fun i => (i, (s.me.sreg r.toNat).toNat + 64 * i)) = (f, x)) :
    s.discards c r n = State.withChecked (f, x) fun s ts => s.launchFlight c .st (.discard (ts.map (·.2))) := by
  rw [State.discards, if_neg (by omega), if_neg (by omega), hx]

theorem Claim.bitAndDiscardIssue : Claim.BitAndDiscardIssue := by
  intro c a n r s f ts ht hg
  refine ⟨fun ho hn hr => ⟨fun hv => ?_, fun hv => ?_⟩, fun cause hcause => ?_, fun hva hlen hmax hx hv => ?_, fun hmis hv => ?_, fun hva hlen hmax hv => ?_,
    fun hva hlen hmax x hx hv => ?_, fun hva hlen hlow x hx => ?_⟩
  · exact ⟨_, (exec_feset hv).trans (by rw [State.feBits_ok ht ho hn hr]), State.inFlight_launchFlight ..⟩
  · exact ⟨_, (exec_feclr hv).trans (by rw [State.feBits_ok ht ho hn hr]), State.inFlight_launchFlight ..⟩
  · have key (full : Bool) : s.feBits c a n full = s.failTask s.me.crew ⟨cause, 0, s.me.pc, s.opnd a 0⟩ := by
      obtain ⟨hmis, rfl⟩ | ⟨ho, hn, h0, hr, rfl⟩ := hcause
      · rw [State.feBits_misaligned hmis, State.raise_of_task hg ht]
      · rw [State.feBits_range ho hn h0 hr, State.raise_of_task hg ht]
    exact ⟨fun hv => by rw [exec_feset hv, key], fun hv => by rw [exec_feclr hv, key]⟩
  · exact ⟨_, (exec_discard hv).trans (by rw [State.discards_checked hva hlen hmax hx, State.withChecked_ok]), State.inFlight_launchFlight ..⟩
  · rw [exec_discard hv, State.discards, if_pos hmis, State.raise_of_task hg ht]
  · rw [exec_discard hv, State.discards, if_neg (by omega), if_pos hmax, State.badCommand, State.raise_of_task hg ht]
  · have hme := State.checkGlobal_me hx
    rw [exec_discard hv, State.discards_checked hva hlen hmax hx, State.withChecked_fail]
    cases x with
    | trap cause sev v => rw [State.failAccess_trap (by rwa [hme]) (by rwa [hme])]
    | park k v => rw [State.failAccess_park (by rwa [hme])]
  · have hlines : (List.range ((s.opnd n 0).toNat / 64)).map (fun i => (i, (s.me.sreg r.toNat).toNat + 64 * i)) = [(0, (s.me.sreg r.toNat).toNat)] := by
      rw [hlen]
      rfl
    have hck := State.checkGlobal_single (k := ⟨.w, 1, false, false, false⟩) hg ht (Nat.mod_one _) hlow hx
    have hme := State.checkGlobal_me hck
    rw [← hlines] at hck
    have hdo := State.discards_checked (c := c) hva (by rw [hlen]) (by rw [hlen]; decide) hck
    refine ⟨fun hacc hv => ?_, fun hmiss hv => ?_, fun hwp hv => ?_⟩
    · rw [exec_discard hv, hdo]
      obtain rfl | ⟨t, rfl, hspace⟩ := hacc
      · exact congrArg _ (State.failAccess_trap (by rwa [hme]) (by rwa [hme]) ..)
      · have : AccKind.admits ⟨.w, 1, false, false, false⟩ t = false := by
          rw [AccKind.admits]
          obtain h | h := hspace
          · rw [h]
          · rw [h]
            rfl
        rw [AccKind.lane, this]
        exact congrArg _ (State.failAccess_trap (by rwa [hme]) (by rwa [hme]) ..)
    · subst hmiss
      rw [exec_discard hv, hdo]
      exact congrArg _ (State.failAccess_park (s := f) (by rwa [hme]) _ _)
    · subst hwp
      rw [exec_discard hv, hdo]
      exact congrArg _ (State.failAccess_park (s := f) (by rwa [hme]) 2 (s.me.sreg r.toNat).toNat)

/-- Settles O29: the checks decide how the instruction issues, and each granule or line is then changed once, in order. -/
theorem bitAndDiscardForms : Obligations.BitAndDiscardForms := ⟨Claim.bitAndDiscardIssue, Claim.bitAndDiscardComplete⟩

end Sys2Proof.Machine
end

section
/-! SUPPORT of O25, O44, O55. Several writes at the homes (R97, R351): those of one line are one write, in which the later stands, and each leaves the other
lines alone. -/

open Sys2Proof
namespace Sys2Proof.Machine

variable {s : State}

/-! ## A line that is not written -/

theorem testBit_lineData_eq {m : Memory} (h : Memory.wf m = true) (line i : Nat) :
    (lineData m line).testBit i = if i < 512 then (Memory.read m (64 * line + i / 8)).getLsbD (i % 8) else false := by
  by_cases hi : i < 512
  · have := testBit_lineData h (line := line) (a := 64 * line + i / 8) (k := i % 8) (by omega) (by omega)
    rw [show 8 * ((64 * line + i / 8) % 64) + i % 8 = i by omega] at this
    rw [if_pos hi, this]
  · have hok : Cells.okFrom (64 * line + 0) (lineCells m line) = true := by
      refine Cells.okFrom_of_le (Cells.okFrom_filter _ m 0 h) fun p hp => ?_
      have := (List.mem_filter.mp hp).2
      simp only [Bool.and_eq_true, decide_eq_true_eq] at this
      omega
    have hbytes := testBit_foldl_bytes (64 * line) _ 0 0 hok (by decide) (i / 8) (i % 8) (by omega)
    rw [show 8 * (i / 8) + i % 8 = i by omega, if_neg (by omega), lineCells,
      Cells.get_filter m (fun q => decide (64 * line ≤ q) && decide (q < 64 * line + 64)), if_neg (by simp; omega)] at hbytes
    rw [if_neg hi, lineData, lineCells, hbytes]
    simp

theorem lineData_congr {m m' : Memory} (h : Memory.wf m = true) (h' : Memory.wf m' = true) {line : Nat}
    (hread : ∀ a, a / 64 = line → Memory.read m' a = Memory.read m a) : lineData m' line = lineData m line := by
  refine Nat.eq_of_testBit_eq fun i => ?_
  rw [testBit_lineData_eq h, testBit_lineData_eq h']
  split
  · rw [hread _ (by omega)]
  · rfl

theorem State.bits1_homeWrite_ne (hs : s.store.wf = true) (writer : Nat) {line l : Nat} (mask value : Nat) (scale : Option Nat) (code : Nat) (hl : l ≠ line) :
    (s.homeWrite writer line mask value scale code).store.bits1 l = s.store.bits1 l := by
  obtain ⟨x, y, z, hside, -, -⟩ := State.homeWrite_store_sides s writer line mask value scale code
  have hdata := lineData_congr ((Store.wf_iff _).mp hs).1 ((Store.wf_iff _).mp (State.wf_homeWrite s writer line mask value scale code hs)).1
    fun a (ha : a / 64 = l) => State.byteAt_homeWrite_ne hs writer line mask value scale code (by rw [ha]; exact hl)
  rw [Store.bits1, Store.bits1, hdata, hside, Cells.get_set _ _ _ _ ((Store.wf_iff _).mp hs).2.1, if_neg (Ne.symm hl)]

/-! ## Merged writes -/

/-- A bit after a write of lines: the write's own where its mask has it. -/
def LineWrite.bit (line i : Nat) (b : Bool) (w : LineWrite) : Bool := if w.line = line ∧ w.mask.testBit i = true then w.value.testBit i else b

/-- No bit of a write lies outside its mask. -/
def LineWrite.underMask (w : LineWrite) : Prop := ∀ i, w.value.testBit i = true → w.mask.testBit i = true

/-- The lines of merged writes are different. -/
def distinctLines (l : List LineWrite) : Prop := (l.map (·.line)).Nodup

theorem mem_addWrite {l : List LineWrite} {w a : LineWrite} (h : a ∈ addWrite l w) : a.line = w.line ∨ a ∈ l := by
  unfold addWrite at h
  split at h
  · obtain ⟨x, hx, rfl⟩ := List.mem_map.mp h
    split
    next he => exact .inl (by simpa using he)
    · exact .inr hx
  · obtain h | h := List.mem_append.mp h
    · exact .inr h
    · exact .inl (by rw [List.mem_singleton.mp h])

theorem lines_addWrite (l : List LineWrite) (w : LineWrite) : (addWrite l w).map (·.line) = if w.line ∈ l.map (·.line) then l.map (·.line) else l.map (·.line) ++ [w.line] := by
  have hany : (l.any (·.line == w.line) = true) ↔ w.line ∈ l.map (·.line) := by
    rw [List.any_eq_true, List.mem_map]
    exact exists_congr fun a => and_congr_right fun _ => by rw [beq_iff_eq]
  unfold addWrite
  by_cases h : w.line ∈ l.map (·.line)
  · rw [if_pos (hany.mpr h), if_pos h, mapWhere, List.map_map]
    refine List.map_congr_left fun a _ => ?_
    rw [Function.comp_apply]
    split <;> rfl
  · rw [if_neg fun hh => h (hany.mp hh), if_neg h, List.map_append]
    rfl

theorem distinctLines_addWrite {l : List LineWrite} (h : distinctLines l) (w : LineWrite) : distinctLines (addWrite l w) := by
  rw [distinctLines, lines_addWrite]
  split
  · exact h
  next hw => exact List.nodup_append'.mpr ⟨h, List.nodup_singleton _, fun a ha hb => hw (by rwa [List.mem_singleton.mp hb] at ha)⟩

/-- The merged write of two of one line. -/
def LineWrite.merge (a w : LineWrite) : LineWrite := { a with mask := a.mask ||| w.mask, value := (a.value ||| w.mask) ^^^ w.mask ||| w.value }

theorem LineWrite.bit_merge {a w : LineWrite} (ha : a.underMask) (hw : w.underMask) (hl : a.line = w.line) (line i : Nat) (b : Bool) :
    (a.merge w).bit line i b = w.bit line i (a.bit line i b) := by
  have h1 := ha i
  have h2 := hw i
  simp only [LineWrite.bit, LineWrite.merge, ← hl, Nat.testBit_or, Nat.testBit_xor]
  by_cases hline : a.line = line
  · simp only [hline, true_and]
    revert h1 h2
    cases a.mask.testBit i <;> cases a.value.testBit i <;> cases w.mask.testBit i <;> cases w.value.testBit i <;> simp
  · simp [hline]

theorem LineWrite.underMask_merge {a w : LineWrite} (ha : a.underMask) (hw : w.underMask) : (a.merge w).underMask := by
  intro i
  have h1 := ha i
  have h2 := hw i
  simp only [LineWrite.merge, Nat.testBit_or, Nat.testBit_xor]
  revert h1 h2
  cases a.mask.testBit i <;> cases a.value.testBit i <;> cases w.mask.testBit i <;> cases w.value.testBit i <;> simp

/-- Writes of other lines leave a bit. -/
theorem foldl_bit_of_ne {l : List LineWrite} {line : Nat} (h : ∀ w ∈ l, w.line ≠ line) (i : Nat) (b : Bool) : l.foldl (LineWrite.bit line i) b = b := by
  induction l with
  | nil => rfl
  | cons w l ih =>
    rw [List.foldl_cons, LineWrite.bit, if_neg fun hh => h w (by simp) hh.1]
    exact ih fun x hx => h x (List.mem_cons_of_mem _ hx)

theorem LineWrite.bit_of_ne {w : LineWrite} {line : Nat} (h : w.line ≠ line) (i : Nat) (b : Bool) : w.bit line i b = b := if_neg fun hh => h hh.1

/-- A write of one line and writes of others may change places. -/
theorem foldl_bit_comm {l : List LineWrite} {w : LineWrite} (h : ∀ x ∈ l, x.line ≠ w.line) (line i : Nat) (b : Bool) :
    l.foldl (LineWrite.bit line i) (w.bit line i b) = w.bit line i (l.foldl (LineWrite.bit line i) b) := by
  by_cases hw : w.line = line
  · rw [foldl_bit_of_ne (fun x hx => hw ▸ h x hx), foldl_bit_of_ne (fun x hx => hw ▸ h x hx)]
  · rw [LineWrite.bit_of_ne hw, LineWrite.bit_of_ne hw]

theorem foldl_bit_mapWhere {l : List LineWrite} (hl : distinctLines l) (hu : ∀ a ∈ l, a.underMask) {w : LineWrite} (hw : w.underMask) (line i : Nat) (b : Bool)
    (hany : w.line ∈ l.map (·.line)) :
    (mapWhere (·.line == w.line) (·.merge w) l).foldl (LineWrite.bit line i) b = w.bit line i (l.foldl (LineWrite.bit line i) b) := by
  induction l generalizing b with
  | nil => simp at hany
  | cons a l ih =>
    obtain ⟨hal, hl⟩ := List.nodup_cons.mp (show (a.line :: l.map (·.line)).Nodup from hl)
    rw [mapWhere, List.map_cons, List.foldl_cons, List.foldl_cons]
    by_cases haw : a.line = w.line
    · have hne : ∀ x ∈ l, x.line ≠ w.line := fun x hx he => hal (List.mem_map.mpr ⟨x, hx, he.trans haw.symm⟩)
      have hrest : l.map (fun x => if x.line == w.line then x.merge w else x) = l := by
        conv_rhs => rw [← List.map_id l]
        exact List.map_congr_left fun x hx => if_neg (by simpa using hne x hx)
      rw [hrest, if_pos (by simpa using haw), LineWrite.bit_merge (hu a (by simp)) hw haw, foldl_bit_comm hne]
    · rw [if_neg (by simpa using haw)]
      exact ih hl (fun x hx => hu x (List.mem_cons_of_mem _ hx)) _ ((List.mem_cons.mp hany).resolve_left (Ne.symm haw))

/-- Merging keeps what the writes leave of a bit. -/
theorem foldl_bit_addWrite {l : List LineWrite} (hl : distinctLines l) (hu : ∀ a ∈ l, a.underMask) {w : LineWrite} (hw : w.underMask) (line i : Nat) (b : Bool) :
    (addWrite l w).foldl (LineWrite.bit line i) b = w.bit line i (l.foldl (LineWrite.bit line i) b) := by
  unfold addWrite
  split
  next hany =>
    refine foldl_bit_mapWhere hl hu hw line i b ?_
    obtain ⟨a, ha, he⟩ := List.any_eq_true.mp hany
    exact List.mem_map.mpr ⟨a, ha, by simpa using he⟩
  next => rw [List.foldl_append]; rfl

theorem underMask_addWrite {l : List LineWrite} (hu : ∀ a ∈ l, a.underMask) {w : LineWrite} (hw : w.underMask) : ∀ a ∈ addWrite l w, a.underMask := by
  intro a ha
  unfold addWrite at ha
  split at ha
  · obtain ⟨x, hx, rfl⟩ := List.mem_map.mp ha
    split
    · exact LineWrite.underMask_merge (hu x hx) hw
    · exact hu x hx
  · obtain ha | ha := List.mem_append.mp ha
    · exact hu a ha
    · rwa [List.mem_singleton.mp ha]

/-- Every merged write has the code of one of its line. -/
theorem code_addWrite {l : List LineWrite} {w a : LineWrite} (h : a ∈ addWrite l w) : ∃ x, (x = w ∨ x ∈ l) ∧ x.line = a.line ∧ x.code = a.code := by
  unfold addWrite at h
  split at h
  · obtain ⟨x, hx, rfl⟩ := List.mem_map.mp h
    refine ⟨x, .inr hx, ?_⟩
    split <;> exact ⟨rfl, rfl⟩
  · obtain h | h := List.mem_append.mp h
    · exact ⟨a, .inr h, rfl, rfl⟩
    · exact ⟨w, .inl rfl, by rw [List.mem_singleton.mp h], by rw [List.mem_singleton.mp h]⟩

/-- What merging all writes gives: different lines, each of a line and with a code that some write has, and the same bits. -/
theorem foldl_addWrite (ws : List LineWrite) {acc : List LineWrite} (hu : ∀ w ∈ ws, w.underMask) (hacc : distinctLines acc) (hua : ∀ a ∈ acc, a.underMask) :
    let m := ws.foldl addWrite acc
    distinctLines m ∧ (∀ a ∈ m, ∃ x, (x ∈ ws ∨ x ∈ acc) ∧ x.line = a.line ∧ x.code = a.code) ∧
      ∀ line i b, m.foldl (LineWrite.bit line i) b = ws.foldl (LineWrite.bit line i) (acc.foldl (LineWrite.bit line i) b) := by
  induction ws generalizing acc with
  | nil => exact ⟨hacc, fun a ha => ⟨a, .inr ha, rfl, rfl⟩, fun _ _ _ => rfl⟩
  | cons w ws ih =>
    have hw := hu w (by simp)
    obtain ⟨h1, h2, h3⟩ := ih (fun x hx => hu x (List.mem_cons_of_mem _ hx)) (distinctLines_addWrite hacc w) (underMask_addWrite hua hw)
    refine ⟨h1, fun a ha => ?_, fun line i b => ?_⟩
    · obtain ⟨x, hx | hx, hl, hc⟩ := h2 a ha
      · exact ⟨x, .inl (List.mem_cons_of_mem _ hx), hl, hc⟩
      · obtain ⟨y, hy, hyl, hyc⟩ := code_addWrite hx
        refine ⟨y, ?_, hyl.trans hl, hyc.trans hc⟩
        exact hy.imp (fun h : y = w => by rw [h]; exact List.mem_cons_self) id
    · rw [List.foldl_cons, List.foldl_cons, h3, foldl_bit_addWrite hacc hua hw]

/-! ## Writes of different lines -/

/-- The home's decoder reads a line as it stands under its code. -/
def State.lineReads (s : State) (line code : Nat) : Prop := (lineFmt (s.codeAt line code) (lineInUnit line)).reads (s.store.bits1 line)

/-- What writes of different lines leave of a byte: its own line's write, where that line reads without error. -/
theorem State.getLsbD_byteAt_writes {ms : List LineWrite} (hs : s.store.wf = true) (g : Nat) (hd : distinctLines ms) {a k : Nat} (hk : k < 8)
    (hr : ∀ w ∈ ms, w.line = a / 64 → s.lineReads w.line w.code) :
    (byteAt (ms.foldl (fun s w => s.homeWrite g w.line w.mask w.value none w.code) s) a).getLsbD k =
      ms.foldl (LineWrite.bit (a / 64) (8 * (a % 64) + k)) ((byteAt s a).getLsbD k) := by
  induction ms generalizing s with
  | nil => rfl
  | cons w ms ih =>
    obtain ⟨hw, hd⟩ := List.nodup_cons.mp (show (w.line :: ms.map (·.line)).Nodup from hd)
    have hown : ownWrites g s (s.homeWrite g w.line w.mask w.value none w.code) := ownWrites.homeWrite ..
    rw [List.foldl_cons, List.foldl_cons, ih (hown.wf hs) hd]
    · congr 1
      by_cases hline : w.line = a / 64
      · rw [State.getLsbD_byteAt_homeWrite hs g (hr w (by simp) hline) hline.symm hk, LineWrite.bit]
        simp [hline]
      · rw [State.byteAt_homeWrite_ne hs _ _ _ _ _ _ (Ne.symm hline), LineWrite.bit_of_ne hline]
    · intro x hx hline
      have hne : x.line ≠ w.line := fun he => hw (he ▸ List.mem_map.mpr ⟨x, hx, rfl⟩)
      have := hr x (List.mem_cons_of_mem _ hx) hline
      rwa [State.lineReads, hown.codeAt, State.bits1_homeWrite_ne hs _ _ _ _ _ hne]

theorem State.byteAt_homeWrites_ne (hs : s.store.wf = true) (g : Nat) {ws : List LineWrite} {a : Nat} (h : ∀ w ∈ ws, w.line ≠ a / 64) :
    byteAt (s.homeWrites g ws) a = byteAt s a := by
  have key (ms : List LineWrite) (hm : ∀ w ∈ ms, w.line ≠ a / 64) (t : State) (ht : t.store.wf = true) :
      byteAt (ms.foldl (fun s w => s.homeWrite g w.line w.mask w.value none w.code) t) a = byteAt t a := by
    induction ms generalizing t with
    | nil => rfl
    | cons w ms ih =>
      rw [List.foldl_cons, ih (fun x hx => hm x (List.mem_cons_of_mem _ hx)) _ (State.wf_homeWrite _ _ _ _ _ _ _ ht),
        State.byteAt_homeWrite_ne ht _ _ _ _ _ _ (Ne.symm (hm w (by simp)))]
  have hlines (acc : List LineWrite) (hacc : ∀ w ∈ acc, w.line ≠ a / 64) (us : List LineWrite) (hus : ∀ w ∈ us, w.line ≠ a / 64) :
      ∀ w ∈ us.foldl addWrite acc, w.line ≠ a / 64 := by
    induction us generalizing acc with
    | nil => exact hacc
    | cons u us ih =>
      refine ih _ (fun w hw => ?_) fun w hw => hus w (List.mem_cons_of_mem _ hw)
      obtain he | hm := mem_addWrite hw
      · rw [he]
        exact hus u (by simp)
      · exact hacc w hm
  exact key _ (hlines [] (by simp) ws h) s hs

/-- What writes at the homes leave of a byte in a line without error, bit by bit: the last write that has the bit under its mask decides. -/
theorem State.getLsbD_byteAt_homeWrites (hs : s.store.wf = true) (g : Nat) {ws : List LineWrite} (hu : ∀ w ∈ ws, w.underMask) {a k : Nat} (hk : k < 8)
    (hr : ∀ w ∈ ws, w.line = a / 64 → s.lineReads w.line w.code) :
    (byteAt (s.homeWrites g ws) a).getLsbD k = ws.foldl (LineWrite.bit (a / 64) (8 * (a % 64) + k)) ((byteAt s a).getLsbD k) := by
  obtain ⟨hd, hcode, hbit⟩ := foldl_addWrite ws (acc := []) hu List.nodup_nil (by simp)
  rw [State.homeWrites, State.getLsbD_byteAt_writes hs g hd hk, hbit, List.foldl_nil]
  intro w hw hline
  obtain ⟨x, hx, hl, hc⟩ := hcode w hw
  have := hr x (by simpa using hx) (hl.trans hline)
  rwa [hl, hc] at this

end Sys2Proof.Machine
end

section
/-! SUPPORT of O25, O44, O55. Fields of device memory written at their homes, byte by byte (R97, R234). -/

open Sys2Proof
namespace Sys2Proof.Machine

variable {s : State}

theorem testBit_byteMask (o n i : Nat) : (byteMask o n).testBit i = decide (8 * o ≤ i ∧ i < 8 * o + 8 * n) := by
  rw [byteMask, Nat.testBit_shiftLeft, Nat.testBit_two_pow_sub_one, ← Bool.decide_and]
  exact decide_eq_decide.mpr (by omega)

/-- A field of a line: its place, its size and its value. -/
abbrev FieldWrite := Target × Nat × Nat

/-- The write of a field at the home of its line. -/
def FieldWrite.line (p : FieldWrite) : LineWrite := p.1.lineWrite p.2.1 p.2.2

/-- Does a field hold a byte? -/
def FieldWrite.covers (p : FieldWrite) (a : Nat) : Prop := p.1.at_ ≤ a ∧ a < p.1.at_ + p.2.1

/-- A byte after the write of a field. -/
def FieldWrite.byte (a : Nat) (b : Byte) (p : FieldWrite) : Byte :=
  if p.1.at_ ≤ a ∧ a < p.1.at_ + p.2.1 then BitVec.ofNat 8 (p.2.2 / 2 ^ (8 * (a - p.1.at_))) else b

/-- A field that lies in one line. -/
def FieldWrite.inLine (p : FieldWrite) : Prop := p.1.at_ % 64 + p.2.1 ≤ 64

theorem FieldWrite.underMask (p : FieldWrite) : p.line.underMask := by
  intro i hi
  have hi : (((p.2.2 % 2 ^ (8 * p.2.1)) <<< (8 * (p.1.at_ % 64))) : Nat).testBit i = true := hi
  rw [Nat.testBit_shiftLeft, Nat.testBit_mod_two_pow] at hi
  simp only [Bool.and_eq_true, decide_eq_true_eq] at hi
  change (byteMask (p.1.at_ % 64) p.2.1).testBit i = true
  rw [testBit_byteMask, decide_eq_true_eq]
  omega

theorem FieldWrite.bit_line {p : FieldWrite} (hp : p.inLine) {a k : Nat} (hk : k < 8) (b : Byte) :
    p.line.bit (a / 64) (8 * (a % 64) + k) (b.getLsbD k) = (p.byte a b).getLsbD k := by
  have hp : p.1.at_ % 64 + p.2.1 ≤ 64 := hp
  unfold LineWrite.bit FieldWrite.byte
  change (if p.1.at_ / 64 = a / 64 ∧ (byteMask (p.1.at_ % 64) p.2.1).testBit (8 * (a % 64) + k) = true then
    (((p.2.2 % 2 ^ (8 * p.2.1)) <<< (8 * (p.1.at_ % 64))) : Nat).testBit (8 * (a % 64) + k) else _) = _
  by_cases hc : p.1.at_ ≤ a ∧ a < p.1.at_ + p.2.1
  · have h1 : 8 * (a % 64) + k ≥ 8 * (p.1.at_ % 64) := by omega
    have h2 : 8 * (a - p.1.at_) + k < 8 * p.2.1 := by omega
    rw [if_pos ⟨by omega, by rw [testBit_byteMask, decide_eq_true_eq]; omega⟩, if_pos hc, Nat.testBit_shiftLeft, Nat.testBit_mod_two_pow,
      BitVec.getLsbD_ofNat, Nat.testBit_div_two_pow, show 8 * (a % 64) + k - 8 * (p.1.at_ % 64) = 8 * (a - p.1.at_) + k by omega]
    rw [decide_eq_true h1, decide_eq_true h2, decide_eq_true hk, Bool.true_and, Bool.true_and, Bool.true_and, Nat.add_comm (8 * (a - p.1.at_))]
  · rw [if_neg fun h => ?_, if_neg hc]
    obtain ⟨hl, hm⟩ := h
    rw [testBit_byteMask, decide_eq_true_eq] at hm
    omega

theorem FieldWrite.foldl_bit {ps : List FieldWrite} (hp : ∀ p ∈ ps, p.inLine) {a k : Nat} (hk : k < 8) (b : Byte) :
    (ps.map FieldWrite.line).foldl (LineWrite.bit (a / 64) (8 * (a % 64) + k)) (b.getLsbD k) = (ps.foldl (FieldWrite.byte a) b).getLsbD k := by
  induction ps generalizing b with
  | nil => rfl
  | cons p ps ih =>
    rw [List.map_cons, List.foldl_cons, List.foldl_cons, FieldWrite.bit_line (hp p (by simp)) hk]
    exact ih (fun q hq => hp q (List.mem_cons_of_mem _ hq)) _

/-- What the fields of a store leave of a byte in a line without error: the last that holds it decides. -/
theorem State.byteAt_homeWrites_fields (hs : s.store.wf = true) (g : Nat) {ps : List FieldWrite} (hp : ∀ p ∈ ps, p.inLine) {a : Nat}
    (hr : ∀ p ∈ ps, p.1.at_ / 64 = a / 64 → s.lineReads (a / 64) p.1.code) :
    byteAt (s.homeWrites g (ps.map FieldWrite.line)) a = ps.foldl (FieldWrite.byte a) (byteAt s a) := by
  refine BitVec.eq_of_getLsbD_eq fun k hk => ?_
  rw [State.getLsbD_byteAt_homeWrites hs g _ hk, FieldWrite.foldl_bit hp hk]
  · intro w hw hline
    obtain ⟨p, hpm, rfl⟩ := List.mem_map.mp hw
    have := hr p hpm hline
    rw [← show p.1.at_ / 64 = a / 64 from hline] at this
    exact this
  · intro w hw
    obtain ⟨p, -, rfl⟩ := List.mem_map.mp hw
    exact p.underMask

theorem FieldWrite.byte_of_covers {p : FieldWrite} {a : Nat} (h : p.covers a) (b : Byte) : p.byte a b = BitVec.ofNat 8 (p.2.2 / 2 ^ (8 * (a - p.1.at_))) :=
  if_pos h

theorem FieldWrite.byte_of_not {p : FieldWrite} {a : Nat} (h : ¬ p.covers a) (b : Byte) : p.byte a b = b := if_neg h

theorem FieldWrite.foldl_byte_of_not {ps : List FieldWrite} {a : Nat} (h : ∀ p ∈ ps, ¬ p.covers a) (b : Byte) : ps.foldl (FieldWrite.byte a) b = b := by
  induction ps generalizing b with
  | nil => rfl
  | cons p ps ih =>
    rw [List.foldl_cons, FieldWrite.byte_of_not (h p (by simp))]
    exact ih (fun q hq => h q (List.mem_cons_of_mem _ hq)) b

theorem FieldWrite.foldl_byte_last {pre post : List FieldWrite} {p : FieldWrite} {a : Nat} (hp : p.covers a) (h : ∀ q ∈ post, ¬ q.covers a) (b : Byte) :
    (pre ++ p :: post).foldl (FieldWrite.byte a) b = BitVec.ofNat 8 (p.2.2 / 2 ^ (8 * (a - p.1.at_))) := by
  rw [List.foldl_append, List.foldl_cons, FieldWrite.foldl_byte_of_not h, FieldWrite.byte_of_covers hp]

/-! ## Lanes of a store -/

theorem State.writeLines_wf_own (s : State) (g : Nat) (ws : List LineWrite) :
    memRead (s.homeWrites g ws) (s.writeLines g ws) := by
  unfold State.writeLines
  dsimp only
  split
  · exact memRead.foldl (fun _ _ => memRead.refreshL1 ..) ws _
  · exact memRead.refl _

theorem ownWrites.of_memRead {g : Nat} {s u : State} (h : memRead s u) : ownWrites g s u :=
  ⟨h.wave? g, by rw [h], by rw [h], by rw [h]; exact rfl, fun hs => by rw [h]; exact hs⟩

theorem ownWrites.writeLines {g : Nat} (s : State) (ws : List LineWrite) : ownWrites g s (s.writeLines g ws) :=
  (ownWrites.homeWrites s ws).trans (.of_memRead (s.writeLines_wf_own g ws))

/-- The lanes of a store as fields of one size. -/
def laneFields (n : Nat) (ls : List (Target × Nat)) : List FieldWrite := ls.map fun p => (p.1, n, p.2)

/-- The lanes of a store in device memory: hashed each, and their writes beside. -/
theorem State.storeFields_dev {n : Nat} {ls : List (Target × Nat)} (h : ∀ p ∈ ls, p.1.space = .dev) (s : State) (g crew : Nat) :
    ownWrites g s (s.storeFields g crew n ls).1 ∧ (s.storeFields g crew n ls).1.store = s.store ∧
      (s.storeFields g crew n ls).2 = ((laneFields n ls).map FieldWrite.line, 0) := by
  induction ls generalizing s with
  | nil => exact ⟨ownWrites.refl g s, rfl, rfl⟩
  | cons p ls ih =>
    obtain ⟨t, x⟩ := p
    have ht : t.space = .dev := h (t, x) (by simp)
    have hone : s.storeField g crew n t x = (s.hash crew (toBytes 8 t.va ++ toBytes n x), [t.lineWrite n x], 0) := by
      simp only [State.storeField, State.fieldWrites, State.useFree, ht]
      exact rfl
    obtain ⟨h1, h2, h3⟩ := ih (fun q hq => h q (List.mem_cons_of_mem _ hq)) (s.hash crew (toBytes 8 t.va ++ toBytes n x))
    have heq : s.storeFields g crew n ((t, x) :: ls) =
        ((State.storeFields (s.storeField g crew n t x).1 g crew n ls).1,
          (s.storeField g crew n t x).2.1 ++ (State.storeFields (s.storeField g crew n t x).1 g crew n ls).2.1,
          (s.storeField g crew n t x).2.2 ||| (State.storeFields (s.storeField g crew n t x).1 g crew n ls).2.2) := rfl
    rw [heq, hone]
    refine ⟨(ownWrites.hash ..).trans h1, h2.trans (State.hash_store ..), ?_⟩
    dsimp only
    rw [h3]
    exact Prod.ext rfl (by decide : (0 : Flags) ||| 0 = 0)

/-- What lanes of a store in device memory leave: their writes at the homes, or of a shadow copy nothing (R320). -/
theorem State.storeLanes_dev {n : Nat} {ls : List (Target × Nat)} (h : ∀ p ∈ ls, p.1.space = .dev) (s : State) (g crew : Nat) :
    ownWrites g s (s.storeLanes g crew n ls).1 ∧ (s.storeLanes g crew n ls).2 = 0 ∧
      (s.isShadow crew = true → (s.storeLanes g crew n ls).1.store = s.store) ∧
      (s.isShadow crew = false → ∃ t, ownWrites g s t ∧ t.store = s.store ∧
        (s.storeLanes g crew n ls).1.store = (t.homeWrites g ((laneFields n ls).map FieldWrite.line)).store) := by
  obtain ⟨h1, h2, h3⟩ := State.storeFields_dev h s g crew (n := n)
  unfold State.storeLanes
  dsimp only
  rw [h3]
  refine ⟨?_, rfl, fun hsh => by rw [hsh, if_pos rfl, h2], fun hsh => ⟨_, h1, h2, ?_⟩⟩
  · split
    · exact h1
    · exact h1.trans (ownWrites.writeLines ..)
  · rw [hsh, if_neg Bool.false_ne_true]
    exact (State.writeLines_wf_own ..).store

end Sys2Proof.Machine
end

section
/-! SUPPORT and SETTLEMENT of O25: a store is performed at its home, line by line (R97, R121, R234). -/

open Sys2Proof
namespace Sys2Proof.Machine

variable {s : State} {g fid line n : Nat} {w : Wave} {f : Flight} {ls : List (Nat × Target × Nat)} {sys : Bool}

/-! ## The lanes of one line -/

/-- Lanes of a store each in one line of device memory. -/
def lanesInLines (n : Nat) (ls : List (Nat × Target × Nat)) : Prop := ∀ p ∈ ls, p.2.1.space = .dev ∧ p.2.1.at_ % 64 + n ≤ 64

theorem Target.keys_dev {t : Target} (h : t.space = .dev) (n : Nat) : t.keys n = [(0, t.at_ / 64)] := by
  simp only [Target.keys, Target.devLines, h, List.map_cons, List.map_nil]

theorem reaches_dev {t : Target} (h : t.space = .dev) (line n : Nat) : reaches line n t = (t.at_ / 64 == line) := by
  rw [reaches, Target.keys_dev h, Bool.eq_iff_iff, List.contains_iff_mem, List.mem_singleton, beq_iff_eq, Prod.mk.injEq]
  exact ⟨fun h => h.2.symm, fun h => ⟨rfl, h.symm⟩⟩

/-- Lanes of different lines share no byte. -/
theorem meets_of_lines {a b : Target} (ha : a.space = .dev) (hb : b.space = .dev) (ha' : a.at_ % 64 + n ≤ 64) (hb' : b.at_ % 64 + n ≤ 64)
    (h : a.at_ / 64 ≠ b.at_ / 64) : a.meets n b = false := by
  rw [Target.meets, if_pos ⟨by rw [ha, hb], by rw [ha]; decide⟩, Bool.and_eq_false_iff, decide_eq_false_iff_not, decide_eq_false_iff_not]
  omega

/-- The lanes of a line are split off in their order. -/
theorem takeLine_eq (h : lanesInLines n ls) (line : Nat) :
    takeLine n line ls = (ls.filter fun p => p.2.1.at_ / 64 == line, ls.filter fun p => p.2.1.at_ / 64 != line) := by
  suffices key : ∀ (r : List (Nat × Target × Nat) × List (Nat × Target × Nat)), lanesInLines n r.2 → (∀ q ∈ r.2, q.2.1.at_ / 64 ≠ line) →
      ls.foldl (fun r p => if reaches line n p.2.1 && !r.2.any (fun q => q.2.1.meets n p.2.1) then (r.1 ++ [p], r.2) else (r.1, r.2 ++ [p])) r =
        (r.1 ++ ls.filter (fun p => p.2.1.at_ / 64 == line), r.2 ++ ls.filter fun p => p.2.1.at_ / 64 != line) from
    key ([], []) (fun _ hq => by cases hq) fun _ hq => by cases hq
  induction ls with
  | nil => intro r _ _; simp
  | cons p ls ih =>
    intro r hr hne
    obtain ⟨hdev, hin⟩ := h p (by simp)
    have ih := ih fun q hq => h q (List.mem_cons_of_mem _ hq)
    rw [List.foldl_cons, reaches_dev hdev]
    by_cases hl : p.2.1.at_ / 64 = line
    · have hany : r.2.any (fun q => q.2.1.meets n p.2.1) = false := by
        rw [List.any_eq_false]
        intro q hq
        rw [meets_of_lines (hr q hq).1 hdev (hr q hq).2 hin (by rw [hl]; exact hne q hq)]
        exact Bool.false_ne_true
      rw [if_pos (by simp [hl, hany]), ih (r.1 ++ [p], r.2) hr hne]
      simp [hl]
    · rw [if_neg (by simp [hl]), ih (r.1, r.2 ++ [p])]
      · simp [hl]
      · intro q hq
        obtain hq | hq := List.mem_append.mp hq
        · exact hr q hq
        · rw [List.mem_singleton.mp hq]
          exact ⟨hdev, hin⟩
      · intro q hq
        obtain hq | hq := List.mem_append.mp hq
        · exact hne q hq
        · rw [List.mem_singleton.mp hq]
          exact hl

/-! ## The step -/

/-- The state in which a step finds an operation: one that releases at core scope has marked the earlier ones. -/
def State.marked (s : State) (g : Nat) (f : Flight) : State := if f.cls.coreOnly then s.modWave g (Wave.markCore f.id) else s

/-- The wave as that step finds it. -/
def Wave.marked (w : Wave) (f : Flight) : Wave := if f.cls.coreOnly then w.markCore f.id else w

theorem exec_storePerformedAtHome (hw : s.wave? g = some w) (hf : w.flight? fid = some f) (hb : s.blocked w f = false) (hbody : f.body = .store n ls sys)
    (hl : lanesInLines n ls) : exec (.storePerformedAtHome g fid line) s =
      .next ((s.marked g f).doStore w f n (ls.filter fun p => p.2.1.at_ / 64 == line) (ls.filter fun p => p.2.1.at_ / 64 != line) sys) := by
  refine Result.next_congr ?_
  rw [State.withFlight_of hw hf hb, hbody]
  dsimp only
  rw [takeLine_eq hl]
  exact rfl

theorem State.modWave_eq (s : State) (g : Nat) (h : Wave → Wave) : s.modWave g h = { s with me := (s.modWave g h).me, others := (s.modWave g h).others } := by
  unfold State.modWave
  split <;> rfl

theorem State.marked_eq (s : State) (g : Nat) (f : Flight) : s.marked g f = { s with me := (s.marked g f).me, others := (s.marked g f).others } := by
  unfold State.marked
  split
  · exact State.modWave_eq ..
  · rfl

theorem State.wave?_marked (hw : s.wave? g = some w) (f : Flight) : (s.marked g f).wave? g = some (w.marked f) := by
  unfold State.marked Wave.marked
  split
  · rw [State.wave?_modWave_same s (f := Wave.markCore f.id) fun _ => rfl, hw]
    rfl
  · exact hw

theorem State.storeCut_marked (s : State) (g : Nat) (f : Flight) (w : Wave) (n : Nat) (t : Target) : (s.marked g f).storeCut w n t = s.storeCut w n t := by
  rw [State.marked_eq]
  rfl

theorem State.doStore_cut {now pre post later : List (Nat × Target × Nat)} {p : Nat × Target × Nat} (hnow : now = pre ++ p :: post)
    (hp : s.storeCut w n p.2.1 = true) (hpre : ∀ q ∈ pre, s.storeCut w n q.2.1 ≠ true) :
    s.doStore w f n now later sys = s.flightFault w.gwn f 0x15 5 (BitVec.ofNat 64 p.2.1.va) := by
  have hfind : (now.map fun p => p.2.1).find? (s.storeCut w n) = some p.2.1 := by
    rw [hnow, List.map_append, List.map_cons]
    refine find?_of_first hp fun y hy => ?_
    obtain ⟨q, hq, rfl⟩ := List.mem_map.mp hy
    exact hpre q hq
  rw [State.doStore, hfind]

theorem State.doStore_all {now later : List (Nat × Target × Nat)} (h : ∀ p ∈ now, s.storeCut w n p.2.1 ≠ true) :
    s.doStore w f n now later sys =
      let r := (s.showHost sys).storeLanes w.gwn w.crew n (now.map (·.2))
      let t := r.1.modWave w.gwn (·.orFlags r.2)
      if later.isEmpty then (t.showHost sys).endFlight w.gwn f id else t.setBody w.gwn f.id (.store n later sys) := by
  have hfind : (now.map fun p => p.2.1).find? (s.storeCut w n) = none := by
    refine List.find?_eq_none.mpr fun y hy => ?_
    obtain ⟨q, hq, rfl⟩ := List.mem_map.mp hy
    exact h q hq
  rw [State.doStore, hfind]

theorem ownWrites.showHost (s : State) (sys : Bool) : ownWrites g s (s.showHost sys) := by
  unfold State.showHost
  split
  · exact ownWrites.of_eq rfl rfl
  · exact ownWrites.refl g s

theorem State.showHost_store (s : State) (sys : Bool) : (s.showHost sys).store = s.store := by
  unfold State.showHost
  split <;> rfl

/-- The bytes and the wave that lanes performed at one line leave. -/
theorem State.doStore_now {now later : List (Nat × Target × Nat)} (hs : s.store.wf = true) (hw : s.wave? w.gwn = some w) (hl : lanesInLines n now)
    (hline : ∀ p ∈ now, p.2.1.at_ / 64 = line) (hcut : ∀ p ∈ now, s.storeCut w n p.2.1 ≠ true) : let u := s.doStore w f n now later sys
    (∀ a, a / 64 ≠ line → byteAt u a = byteAt s a) ∧ (s.isShadow w.crew = true → u.store = s.store) ∧
      (later = [] → (u.wave? w.gwn).map (fun x => (x.flights, x.sb)) = some (w.flights.filter (·.id != f.id), (w.slotDown f.slot).sb)) ∧
      (later ≠ [] → (u.wave? w.gwn).map (fun x => (x.flights, x.sb)) =
        some (mapWhere (·.id == f.id) (fun x => { x with body := .store n later sys }) w.flights, w.sb)) ∧
      ∀ code, s.isShadow w.crew = false → (∀ p ∈ now, p.2.1.code = code) → s.lineReads line code →
        ∀ a, byteAt u a = (laneFields n (now.map (·.2))).foldl (FieldWrite.byte a) (byteAt s a) := by
  have hdev : ∀ p ∈ now.map (·.2), p.1.space = .dev := by
    intro p hp
    obtain ⟨q, hq, rfl⟩ := List.mem_map.mp hp
    exact (hl q hq).1
  obtain ⟨hown, hfl, hsh, hnsh⟩ := State.storeLanes_dev hdev (s.showHost sys) w.gwn w.crew (n := n)
  have hshow : ownWrites w.gwn s (s.showHost sys) := ownWrites.showHost ..
  obtain ⟨r, hr⟩ : ∃ r, (s.showHost sys).storeLanes w.gwn w.crew n (now.map (·.2)) = r := ⟨_, rfl⟩
  rw [hr] at hown hfl hsh hnsh
  have hwave : (r.1.modWave w.gwn (·.orFlags r.2)).wave? w.gwn = some (w.orFlags r.2) := by
    rw [State.wave?_modWave_same _ (f := (·.orFlags r.2)) fun _ => rfl, hown.wave, hshow.wave, hw]
    rfl
  have hstore : (s.doStore w f n now later sys).store = r.1.store := by
    rw [State.doStore_all hcut, hr]
    dsimp only
    split
    · rw [State.endFlight_store, State.showHost_store, State.modWave_store]
    · rw [State.setBody, State.modWave_store, State.modWave_store]
  have hbyte (t : State) (ht : r.1.store = t.store) (a : Nat) : byteAt (s.doStore w f n now later sys) a = byteAt t a := by
    rw [byteAt, hstore, ht, byteAt]
  have hfields : ∀ p ∈ laneFields n (now.map (·.2)), p.inLine ∧ p.1.at_ / 64 = line ∧ ∃ q ∈ now, q.2.1 = p.1 := by
    intro p hp
    obtain ⟨q, hq, rfl⟩ := List.mem_map.mp hp
    obtain ⟨x, hx, rfl⟩ := List.mem_map.mp hq
    exact ⟨(hl x hx).2, hline x hx, x, hx, rfl⟩
  refine ⟨fun a ha => ?_, fun h => ?_, fun hlater => ?_, fun hlater => ?_, fun code h hcode hread a => ?_⟩
  · cases h : s.isShadow w.crew with
    | true => exact hbyte s ((hsh (by rwa [hshow.isShadow])).trans (s.showHost_store sys)) a
    | false =>
      obtain ⟨t, ht, hts, hrt⟩ := hnsh (by rwa [hshow.isShadow])
      rw [hbyte _ hrt, State.byteAt_homeWrites_ne (by rwa [hts, s.showHost_store]), byteAt, hts, s.showHost_store, byteAt]
      intro x hx
      obtain ⟨p, hp, rfl⟩ := List.mem_map.mp hx
      exact (hfields p hp).2.1.trans_ne (Ne.symm ha)
  · rw [hstore, hsh (by rwa [hshow.isShadow]), s.showHost_store]
  · rw [State.doStore_all hcut, hr]
    dsimp only
    rw [hlater, if_pos List.isEmpty_nil, State.wave?_endFlight ((ownWrites.showHost ..).wave.trans hwave), Option.map_some, Wave.slotDown_flights]
    cases f.slot <;> rfl
  · rw [State.doStore_all hcut, hr]
    dsimp only
    rw [if_neg (by simpa using hlater), State.setBody,
      State.wave?_modWave_same _ (f := fun w => { w with flights := mapWhere (·.id == f.id) (fun x => { x with body := .store n later sys }) w.flights })
        fun _ => rfl, hwave]
    rfl
  · obtain ⟨t, ht, hts, hrt⟩ := hnsh (by rwa [hshow.isShadow])
    have hst : t.store = s.store := hts.trans (s.showHost_store sys)
    have hb : byteAt t a = byteAt s a := by rw [byteAt, hst, byteAt]
    rw [hbyte _ hrt, State.byteAt_homeWrites_fields (by rwa [hst]) w.gwn (fun p hp => (hfields p hp).1), hb]
    intro p hp hpa
    obtain ⟨-, hpl, q, hq, hqp⟩ := hfields p hp
    rw [← hqp, hcode q hq, ← hpa, hpl, State.lineReads, (hshow.trans ht).codeAt, hst]
    exact hread

theorem Wave.marked_gwn (w : Wave) (f : Flight) : (w.marked f).gwn = w.gwn ∧ (w.marked f).crew = w.crew := by
  unfold Wave.marked
  split <;> exact ⟨rfl, rfl⟩

theorem Wave.slotDown_sb_congr {w x : Wave} (h : x.sb = w.sb) (o : Option Nat) : (x.slotDown o).sb = (w.slotDown o).sb := by
  cases o with
  | none => exact h
  | some n =>
    change Cells.set x.sb n (Cells.get x.sb n - 1) = Cells.set w.sb n (Cells.get w.sb n - 1)
    rw [h]

theorem Wave.marked_sb (w : Wave) (f : Flight) : (w.marked f).sb = w.sb := by
  unfold Wave.marked
  split <;> rfl

/-- A store is performed for the wave that its step finds, of which only the numbers of the wave and its crew count. -/
theorem State.doStore_marked (s : State) (w : Wave) (f : Flight) (now later : List (Nat × Target × Nat)) :
    s.doStore w f n now later sys = s.doStore (w.marked f) f n now later sys := by
  have hcut : s.storeCut (w.marked f) n = s.storeCut w n := by
    funext t
    rw [State.storeCut, State.storeCut, (w.marked_gwn f).1, (w.marked_gwn f).2]
  rw [State.doStore, State.doStore, hcut, (w.marked_gwn f).1, (w.marked_gwn f).2]

/-- Settles O25: the lanes of a line are its writes at the home, of which the last that has a byte decides. -/
theorem storesAtHome : Obligations.StoresAtHome := by
  intro s g fid line w f n ls sys hok hw hf hb hbody hl
  obtain rfl := State.wave?_gwn hw
  have hexec := exec_storePerformedAtHome (line := line) hw hf hb hbody hl
  have hcut {p : Nat × Target × Nat} : (s.marked w.gwn f).storeCut w n p.2.1 = true ↔
      s.isShadow w.crew = false ∧ s.cutOff (s.dieOf (unitOf w.gwn)) n p.2.1 = true := by
    rw [State.storeCut_marked, State.storeCut_iff]
  refine ⟨fun pre p post hnow hp hpre => ?_, fun hall => ?_⟩
  · rw [hexec, State.doStore_cut hnow (hcut.mpr hp) fun q hq h => hpre q hq (hcut.mp h)]
    rfl
  · have hcut' : ∀ p ∈ ls.filter (fun p => p.2.1.at_ / 64 == line), (s.marked w.gwn f).storeCut (w.marked f) n p.2.1 ≠ true := by
      intro p hp h
      rw [State.storeCut, (w.marked_gwn f).1, (w.marked_gwn f).2] at h
      exact hall p hp (hcut.mp h)
    have hwave : (s.marked w.gwn f).wave? (w.marked f).gwn = some (w.marked f) := by
      rw [(w.marked_gwn f).1]
      exact State.wave?_marked hw f
    have heq := s.marked_eq w.gwn f
    have hst : (s.marked w.gwn f).store = s.store := by rw [heq]
    have hsh : (s.marked w.gwn f).isShadow w.crew = s.isShadow w.crew := by rw [heq]; rfl
    have hcode (l c : Nat) : (s.marked w.gwn f).lineReads l c = s.lineReads l c := by rw [heq]; rfl
    have hb0 (a : Nat) : byteAt (s.marked w.gwn f) a = byteAt s a := by rw [byteAt, hst, byteAt]
    obtain ⟨h1, h2, h3, h4, h5⟩ := State.doStore_now (s := s.marked w.gwn f) (w := w.marked f) (f := f) (line := line) (sys := sys)
      (later := ls.filter fun p => p.2.1.at_ / 64 != line) (by rw [hst]; exact hok.1) hwave (fun p hp => hl p (List.mem_of_mem_filter hp))
      (fun p hp => by simpa using (List.mem_filter.mp hp).2) hcut'
    rw [← State.doStore_marked] at h1 h2 h3 h4 h5
    rw [(w.marked_gwn f).2, hsh] at h2 h5
    rw [(w.marked_gwn f).1] at h3 h4
    rw [Wave.slotDown_sb_congr (w.marked_sb f)] at h3
    rw [w.marked_sb f] at h4
    refine ⟨_, hexec, fun a ha => (h1 a ha).trans (hb0 a), fun h => (h2 h).trans hst, h3, h4, fun code hns hc hdata hfail => ?_⟩
    have hread : (s.marked w.gwn f).lineReads line code := by
      rw [hcode]
      exact ⟨hdata, hfail⟩
    have hbytes := h5 code hns hc hread
    refine ⟨fun a ha => ?_, fun a pre p post hnow hp hpost => ?_⟩
    · rw [hbytes, FieldWrite.foldl_byte_of_not, hb0]
      intro p hp
      obtain ⟨q, hq, rfl⟩ := List.mem_map.mp hp
      obtain ⟨x, hx, rfl⟩ := List.mem_map.mp hq
      exact ha x hx
    · have hsplit : laneFields n ((ls.filter fun p => p.2.1.at_ / 64 == line).map (·.2)) =
          laneFields n (pre.map (·.2)) ++ (p.2.1, n, p.2.2) :: laneFields n (post.map (·.2)) := by
        rw [hnow, laneFields, List.map_append, List.map_append]
        rfl
      rw [hbytes, hsplit]
      refine FieldWrite.foldl_byte_last (p := (p.2.1, n, p.2.2)) hp (fun q hq => ?_) _
      obtain ⟨y, hy, rfl⟩ := List.mem_map.mp hq
      obtain ⟨x, hx, rfl⟩ := List.mem_map.mp hy
      exact hpost x hx

end Sys2Proof.Machine
end

section
/-! SUPPORT of O28: the lanes and addresses of a memory argument, and the checks of a scratch access (R172, R175, R232, R233). -/

open Sys2Proof
namespace Sys2Proof.Machine

variable {s t : State}

theorem setBits_toNat (x : Lane) : setBits 32 x.toNat = (List.range 32).filter fun l => x.getLsbD l := by
  rw [setBits]
  congr 1
  funext l
  exact bitAt_toNat x l

theorem ofNat_ofSigned (x : Int) : BitVec.ofNat 64 (ofSigned 64 x) = BitVec.ofInt 64 x := by
  apply BitVec.eq_of_toNat_eq
  rw [BitVec.toNat_ofNat, BitVec.toNat_ofInt, ofSigned]
  omega

theorem ofNat_ofSigned_mul (k : BitVec 8) (n : Nat) : BitVec.ofNat 64 (ofSigned 64 (k.toInt * n)) = k.signExtend 64 * BitVec.ofNat 64 n := by
  rw [ofNat_ofSigned, BitVec.ofInt_mul, BitVec.ofInt_natCast]
  rfl

/-- The model's address of a lane is the sum of R232. -/
theorem State.memAddr_eq (s : State) (m : MemArg) (n l : Nat) : s.memAddr m n l = memAt s m n l := by
  have key (i : Word) : ((s.me.sreg m.base.toNat).toNat + i.toNat * n + ofSigned 64 (m.ofs.toInt * n)) % 2 ^ 64 =
      (s.me.sreg m.base.toNat + i * BitVec.ofNat 64 n + m.ofs.signExtend 64 * BitVec.ofNat 64 n).toNat := by
    rw [← ofNat_ofSigned_mul, ← BitVec.toNat_ofNat, BitVec.ofNat_add, BitVec.ofNat_add, BitVec.ofNat_mul, BitVec.ofNat_toNat, BitVec.ofNat_toNat,
      BitVec.setWidth_eq, BitVec.setWidth_eq]
  unfold State.memAddr memAt
  cases m.index with
  | none => simpa using key 0
  | some x => exact key (s.opnd x l)

theorem State.accLanes_eq (s : State) (c : Ctl) (d : Opnd) (m : MemArg) (n : Nat) :
    s.accLanes c d.isV m n = (memLanes s c d m).map fun l => (l, memAt s m n l) := by
  rw [State.accLanes, memLanes, State.lanes, setBits_toNat]
  refine List.map_congr_left fun l _ => ?_
  rw [State.memAddr_eq]

/-- The lanes of an access ascend. -/
theorem pairwise_memLanes (s : State) (c : Ctl) (d : Opnd) (m : MemArg) : (memLanes s c d m).Pairwise (· < ·) := by
  unfold memLanes
  split
  · exact List.pairwise_lt_range.filter _
  · exact List.pairwise_singleton ..

/-- The targets of the lanes of a scratch access. -/
def scrLanes (s : State) (n : Nat) (m : MemArg) (ls : List Nat) : List (Nat × Target) := ls.map fun l => (l, scrTarget (memAt s m n l))

/-- Aligned fields inside the allocation pass the checks. -/
theorem State.checkScratch_ok {n : Nat} {m : MemArg} {ls : List Nat} (h : ∀ l ∈ ls, memAt s m n l % n = 0 ∧ memAt s m n l + n ≤ s.scrSize) :
    s.checkScratch n (ls.map fun l => (l, memAt s m n l)) = .ok (scrLanes s n m ls) := by
  have h1 : (ls.map fun l => (l, memAt s m n l)).find? (fun p => p.2 % n != 0) = none := by
    refine List.find?_eq_none.mpr fun p hp => ?_
    obtain ⟨l, hl, rfl⟩ := List.mem_map.mp hp
    simp [(h l hl).1]
  have h2 : (ls.map fun l => (l, memAt s m n l)).find? (fun p => decide (s.scrSize < p.2 + n)) = none := by
    refine List.find?_eq_none.mpr fun p hp => ?_
    obtain ⟨l, hl, rfl⟩ := List.mem_map.mp hp
    have := (h l hl).2
    simp
    omega
  rw [State.checkScratch, h1]
  dsimp only
  rw [h2]
  dsimp only
  rw [List.map_map, scrLanes]
  rfl

theorem keys_scrLanes (n : Nat) (m : MemArg) (ls : List Nat) :
    ((scrLanes s n m ls).flatMap fun p => p.2.keys n) = ls.flatMap fun l => (scrTarget (memAt s m n l)).keys n := by
  rw [scrLanes, List.flatMap_map]

end Sys2Proof.Machine
end

section
/-! SUPPORT of O28: what a full/empty form does outside a transaction (R112, R156, R244). -/

open Sys2Proof
namespace Sys2Proof.Machine

variable {s t u : State} {q : Crew} {k : FeKind} {c : Ctl} {ty : FeTy} {d : Opnd} {m : MemArg} {ls : List Nat} {again : Bool}

/-! ## Scratch -/

theorem toBytes_getElem? {n x i : Nat} (h : i < n) : (toBytes n x)[i]? = some (BitVec.ofNat 8 (x / 2 ^ (8 * i))) := by
  rw [toBytes, List.getElem?_map, List.getElem?_range h, Option.map_some, Nat.shiftRight_eq_div_pow]

/-- A byte of scratch after the write of a field. -/
theorem Crew.get_write (hq : Cells.wf q.scratch = true) (ofs n x a : Nat) :
    Cells.get (q.write ofs n x).scratch a = FieldWrite.byte a (Cells.get q.scratch a) (scrTarget ofs, n, x % 2 ^ (8 * n)) := by
  change Cells.get (Cells.setRange q.scratch ofs (toBytes n x)) a = _
  have hlen : (toBytes n x).length = n := by rw [toBytes, List.length_map, List.length_range]
  rw [Cells.get_setRange _ _ _ _ hq]
  by_cases hc : ofs ≤ a ∧ a < ofs + n
  · rw [FieldWrite.byte_of_covers (p := (scrTarget ofs, n, x % 2 ^ (8 * n))) (a := a) hc, if_pos hc.1, toBytes_getElem? (by omega), Option.getD_some]
    refine BitVec.eq_of_getLsbD_eq fun j hj => ?_
    change _ = (BitVec.ofNat 8 (x % 2 ^ (8 * n) / 2 ^ (8 * (a - ofs)))).getLsbD j
    rw [BitVec.getLsbD_ofNat, BitVec.getLsbD_ofNat, Nat.testBit_div_two_pow, Nat.testBit_div_two_pow, Nat.testBit_mod_two_pow,
      decide_eq_true (show j + 8 * (a - ofs) < 8 * n by omega), Bool.true_and]
  · rw [FieldWrite.byte_of_not (p := (scrTarget ofs, n, x % 2 ^ (8 * n))) (a := a) hc]
    split
    · rw [List.getElem?_eq_none (by omega), Option.getD_none]
    · rfl

theorem Crew.write_full (q : Crew) (ofs n x : Nat) : (q.write ofs n x).full = q.full := rfl

/-! ## What a change of scratch leaves of the executing wave -/

/-- The granules that a wave changes neither doom nor wake it (R152). -/
theorem State.touchGranules_me (s : State) (unit crew : Nat) (gs : List Nat) : (s.touchGranules s.me.gwn unit crew gs).me = s.me := by
  obtain ⟨x, hx⟩ : ∃ x, s.me.gwn = x := ⟨_, rfl⟩
  rw [hx]
  induction gs generalizing s with
  | nil => rfl
  | cons g gs ih =>
    have hme : (s.touchGranule x unit crew g).me = s.me := if_neg (by simp [hx])
    exact (ih (s.touchGranule x unit crew g) (by rw [hme]; exact hx)).trans hme

/-- A change of the executing wave's scratch: of its crew alone, and of who has registered the granules. -/
structure scratchStep (s u : State) (q q' : Crew) : Prop where
  me : u.me = s.me
  store : u.store = s.store
  time : u.time = s.time
  crew : u.crew? s.me.crew = some q'
  old : s.crew? s.me.crew = some q

theorem scratchStep.refl (hq : s.crew? s.me.crew = some q) : scratchStep s s q q := ⟨rfl, rfl, rfl, hq, hq⟩

theorem scratchStep.trans {q' q'' : Crew} (h : scratchStep s t q q') (k : scratchStep t u q' q'') : scratchStep s u q q'' :=
  ⟨k.me.trans h.me, k.store.trans h.store, k.time.trans h.time, by rw [← h.me]; exact k.crew, h.old⟩

theorem State.touchGranules_time (s : State) (writer unit crew : Nat) (gs : List Nat) : (s.touchGranules writer unit crew gs).time = s.time := by
  obtain ⟨f, -, hf⟩ := wavesTouched_touchGranules s writer unit crew gs
  rw [hf]

/-- A crew's change, and the granules it dooms and wakes. -/
theorem scratchStep.modCrew (hq : s.crew? s.me.crew = some q) {f : Crew → Crew} (hf : ∀ x, (f x).id = x.id) (unit : Nat) (gs : List Nat) :
    scratchStep s ((s.modCrew s.me.crew f).touchGranules s.me.gwn unit s.me.crew gs) q (f q) where
  me := State.touchGranules_me (s.modCrew s.me.crew f) unit s.me.crew gs
  store := (State.touchGranules_frame ..).2
  time := State.touchGranules_time ..
  crew := by rw [State.crew?_congr (State.touchGranules_frame ..).1, State.crew?_modCrew_same s hf, hq]; rfl
  old := hq

theorem scratchStep.writeScratch (hq : s.crew? s.me.crew = some q) (ofs n x : Nat) :
    scratchStep s (s.writeScratch s.me.gwn s.me.crew ofs n x) q (q.write ofs n x) := by
  rw [State.writeScratch, hq]
  exact scratchStep.modCrew hq (f := fun k => k.write ofs n x) (fun _ => rfl) _ _

theorem scratchStep.next {q' : Crew} (h : scratchStep s t q q') : t.crew? t.me.crew = some q' := h.me.symm ▸ h.crew

/-- Several fields written in order. -/
def Crew.writes (q : Crew) (n : Nat) (ps : List (Nat × Nat)) : Crew := ps.foldl (fun q p => q.write p.1 n p.2) q

theorem Crew.writes_full (q : Crew) (n : Nat) (ps : List (Nat × Nat)) : (q.writes n ps).full = q.full := by
  induction ps generalizing q with
  | nil => rfl
  | cons p ps ih => exact (ih (q.write p.1 n p.2)).trans (q.write_full ..)

theorem Crew.get_writes (hq : Cells.wf q.scratch = true) (n : Nat) (ps : List (Nat × Nat)) (a : Nat) :
    Cells.get (q.writes n ps).scratch a =
      (ps.map fun p => ((scrTarget p.1, n, p.2 % 2 ^ (8 * n)) : FieldWrite)).foldl (FieldWrite.byte a) (Cells.get q.scratch a) := by
  induction ps generalizing q with
  | nil => rfl
  | cons p ps ih =>
    rw [List.map_cons, List.foldl_cons, ← Crew.get_write hq]
    exact ih (Cells.wf_setRange _ _ _ hq)

theorem scratchStep.writes (hq : s.crew? s.me.crew = some q) (n : Nat) (ps : List (Nat × Nat)) :
    scratchStep s (ps.foldl (fun v p => v.writeScratch s.me.gwn s.me.crew p.1 n p.2) s) q (q.writes n ps) := by
  suffices ∀ (t : State) (r : Crew), scratchStep s t q r → scratchStep s (ps.foldl (fun v p => v.writeScratch s.me.gwn s.me.crew p.1 n p.2) t) q (r.writes n ps) from
    this s q (.refl hq)
  induction ps with
  | nil => exact fun t r h => h
  | cons p ps ih =>
    intro t r h
    refine ih _ _ (h.trans ?_)
    rw [← h.me]
    exact scratchStep.writeScratch (h.me.symm ▸ h.crew) p.1 n p.2

end Sys2Proof.Machine
end

section
/-! SUPPORT of O28: the full/empty forms outside a transaction (R112, R156, R244). -/

open Sys2Proof
namespace Sys2Proof.Machine

variable {s t u v : State} {q q' : Crew} {k : FeKind} {c : Ctl} {ty : FeTy} {d : Opnd} {m : MemArg} {i : Instr} {again : Bool}

/-- The targets of the lanes of a full/empty form. -/
def feLanes (s : State) (c : Ctl) (ty : FeTy) (d : Opnd) (m : MemArg) : List (Nat × Target) := scrLanes s (ldBytes (feLdTy ty)) m (memLanes s c d m)

/-- A full/empty form names a granule. -/
def feNamed (s : State) (c : Ctl) (ty : FeTy) (d : Opnd) (m : MemArg) (x : Nat) : Prop := ∃ l ∈ memLanes s c d m, memAt s m (ldBytes (feLdTy ty)) l / 16 = x

/-- What a full/empty form has behind it when it tests its granules: aligned fields of the allocation, and no earlier access in the way. The crew is
the one whose bits it reads. -/
structure feChecked (s : State) (q : Crew) (c : Ctl) (ty : FeTy) (d : Opnd) (m : MemArg) : Prop where
  aligned : ∀ l ∈ memLanes s c d m, memAt s m (ldBytes (feLdTy ty)) l % ldBytes (feLdTy ty) = 0 ∧ memAt s m (ldBytes (feLdTy ty)) l + ldBytes (feLdTy ty) ≤ s.scrSize
  free : s.busyWith ((memLanes s c d m).flatMap fun l => (scrTarget (memAt s m (ldBytes (feLdTy ty)) l)).keys (ldBytes (feLdTy ty))) = false
  crew : (if s.me.tx.depth = 0 then s else s.overlay).crew? s.me.crew = some q

theorem mem_feGranules {x : Nat} : x ∈ feGranules (feLanes s c ty d m) ↔ feNamed s c ty d m x := by
  rw [feGranules, List.mem_eraseDups, feLanes, scrLanes, List.map_map, List.mem_map]
  rfl

/-! ## The tests -/

theorem State.fePassAll_iff (hq : (if s.me.tx.depth = 0 then s else s.overlay).crew? s.me.crew = some q) :
    s.fePassAll k (feGranules (feLanes s c ty d m)) = true ↔ ∀ x, feNamed s c ty d m x → s.fePass k (q.isFull x) x = true := by
  rw [State.fePassAll, hq]
  simp only [List.all_eq_true, mem_feGranules]

theorem State.feBad_none (hq : (if s.me.tx.depth = 0 then s else s.overlay).crew? s.me.crew = some q)
    (h : k ≠ .stf → ∀ l ∈ memLanes s c d m, q.fails (memAt s m (ldBytes (feLdTy ty)) l) (ldBytes (feLdTy ty)) = false) :
    s.feBad k (ldBytes (feLdTy ty)) (feLanes s c ty d m) = none := by
  rw [State.feBad]
  split
  · rfl
  next hk =>
    rw [hq, Option.bind_some, List.find?_eq_none.mpr, Option.map_none]
    intro p hp
    obtain ⟨l, hl, rfl⟩ := List.mem_map.mp hp
    change ¬ q.fails (memAt s m _ l) _ = true
    rw [h hk l hl]
    exact Bool.false_ne_true

theorem State.feBad_first (hq : (if s.me.tx.depth = 0 then s else s.overlay).crew? s.me.crew = some q) (hk : k ≠ .stf) {l : Nat} (hl : l ∈ memLanes s c d m)
    (hf : q.fails (memAt s m (ldBytes (feLdTy ty)) l) (ldBytes (feLdTy ty)) = true)
    (hj : ∀ j ∈ memLanes s c d m, j < l → q.fails (memAt s m (ldBytes (feLdTy ty)) j) (ldBytes (feLdTy ty)) = false) :
    s.feBad k (ldBytes (feLdTy ty)) (feLanes s c ty d m) = some (memAt s m (ldBytes (feLdTy ty)) l) := by
  have hfind : (feLanes s c ty d m).find? (fun p => q.fails p.2.at_ (ldBytes (feLdTy ty))) = some (l, scrTarget (memAt s m (ldBytes (feLdTy ty)) l)) := by
    obtain ⟨pre, post, hls⟩ := List.append_of_mem hl
    have hlt : ∀ j ∈ pre, j < l := fun j hjp => by
      have := pairwise_memLanes s c d m
      rw [hls] at this
      exact (List.pairwise_append.mp this).2.2 j hjp l (by simp)
    rw [feLanes, scrLanes, hls, List.map_append, List.map_cons]
    refine find?_of_first (x := (l, scrTarget (memAt s m (ldBytes (feLdTy ty)) l))) hf fun y hy => ?_
    obtain ⟨j, hjp, rfl⟩ := List.mem_map.mp hy
    change ¬ q.fails (memAt s m _ j) _ = true
    rw [hj j (hls ▸ List.mem_append_left _ hjp) (hlt j hjp)]
    exact Bool.false_ne_true
  rw [State.feBad, if_neg hk, hq, Option.bind_some, hfind]
  rfl

/-! ## What a form does -/

/-- A form that an earlier access keeps waiting has issued and waits. -/
theorem State.fe_busy
    (hal : ∀ l ∈ memLanes s c d m, memAt s m (ldBytes (feLdTy ty)) l % ldBytes (feLdTy ty) = 0 ∧ memAt s m (ldBytes (feLdTy ty)) l + ldBytes (feLdTy ty) ≤ s.scrSize)
    (hb : s.busyWith ((memLanes s c d m).flatMap fun l => (scrTarget (memAt s m (ldBytes (feLdTy ty)) l)).keys (ldBytes (feLdTy ty))) = true) :
    s.fe k i c ty d m again = s.stall i := by
  rw [State.fe, State.accLanes_eq, State.checkScratch_ok hal]
  dsimp only
  rw [State.withChecked_ok, keys_scrLanes, if_pos hb]

/-- What a form does that has passed its checks. -/
theorem State.fe_eq (h : feChecked s q c ty d m) : s.fe k i c ty d m again =
    if s.fePassAll k (feGranules (feLanes s c ty d m)) then
      match s.feBad k (ldBytes (feLdTy ty)) (feLanes s c ty d m) with
      | some at_ => s.raise 0x15 5 (BitVec.ofNat 64 at_)
      | none => if s.me.tx.depth = 0 then s.feAct k c ty d (feLanes s c ty d m) again else s.feTx k c ty d (feLanes s c ty d m)
    else if s.me.tx.depth = 0 then s.feSleep i c (feGranules (feLanes s c ty d m)) again
    else if s.me.slotsZero then (s.registerGranules (feGranules (feLanes s c ty d m))).doRetry else s.stall i := by
  rw [State.fe, State.accLanes_eq, State.checkScratch_ok h.aligned]
  dsimp only
  rw [State.withChecked_ok, keys_scrLanes, if_neg (by rw [h.free]; exact Bool.false_ne_true)]
  rfl

section
variable (h : feChecked s q c ty d m)
include h

theorem State.fe_pass (hp : ∀ x, feNamed s c ty d m x → s.fePass k (q.isFull x) x = true)
    (hf : k ≠ .stf → ∀ l ∈ memLanes s c d m, q.fails (memAt s m (ldBytes (feLdTy ty)) l) (ldBytes (feLdTy ty)) = false) :
    s.fe k i c ty d m again = if s.me.tx.depth = 0 then s.feAct k c ty d (feLanes s c ty d m) again else s.feTx k c ty d (feLanes s c ty d m) := by
  rw [State.fe_eq h, if_pos ((State.fePassAll_iff h.crew).mpr hp), State.feBad_none h.crew hf]

theorem State.fe_bad (hp : ∀ x, feNamed s c ty d m x → s.fePass k (q.isFull x) x = true) (hk : k ≠ .stf) {l : Nat} (hl : l ∈ memLanes s c d m)
    (hf : q.fails (memAt s m (ldBytes (feLdTy ty)) l) (ldBytes (feLdTy ty)) = true)
    (hj : ∀ j ∈ memLanes s c d m, j < l → q.fails (memAt s m (ldBytes (feLdTy ty)) j) (ldBytes (feLdTy ty)) = false) :
    s.fe k i c ty d m again = s.raise 0x15 5 (BitVec.ofNat 64 (memAt s m (ldBytes (feLdTy ty)) l)) := by
  rw [State.fe_eq h, if_pos ((State.fePassAll_iff h.crew).mpr hp), State.feBad_first h.crew hk hl hf hj]

theorem State.fe_fail (hp : ¬ ∀ x, feNamed s c ty d m x → s.fePass k (q.isFull x) x = true) : s.fe k i c ty d m again =
    if s.me.tx.depth = 0 then s.feSleep i c (feGranules (feLanes s c ty d m)) again
    else if s.me.slotsZero then (s.registerGranules (feGranules (feLanes s c ty d m))).doRetry else s.stall i := by
  rw [State.fe_eq h, if_neg fun e => hp ((State.fePassAll_iff h.crew).mp e)]

end

/-! ## A form that acts -/

/-- The data that `stf` stores, with the offsets. -/
def feData (s : State) (c : Ctl) (ty : FeTy) (d : Opnd) (m : MemArg) : List (Nat × Nat) :=
  (memLanes s c d m).map fun l => (memAt s m (ldBytes (feLdTy ty)) l, s.storeData (ldWords (feLdTy ty)) d l)

/-- What a form does to its crew. -/
def Crew.feChange (q : Crew) (k : FeKind) (n : Nat) (ps : List (Nat × Nat)) (gs : List Nat) : Crew :=
  match k with
  | .ldf => q
  | .ldfc => q.setFulls (gs.map fun y => (y, false))
  | .stf => (q.writes n ps).setFulls (gs.map fun y => (y, true))

/-- What a form does besides its wave's registers. -/
def State.feChange (s : State) (k : FeKind) (c : Ctl) (ty : FeTy) (d : Opnd) (m : MemArg) : State :=
  let gs := feGranules (feLanes s c ty d m)
  let bitsTo (s' : State) (b : Bool) : State :=
    (s'.modCrew s.me.crew fun x => x.setFulls (gs.map fun y => (y, b))).touchGranules s.me.gwn (unitOf s.me.gwn) s.me.crew gs
  match k with
  | .ldf => s
  | .ldfc => bitsTo s false
  | .stf => bitsTo ((feLanes s c ty d m).foldl (fun s' p =>
      s'.writeScratch s.me.gwn s.me.crew p.2.at_ (ldBytes (feLdTy ty)) (s.storeData (ldWords (feLdTy ty)) d p.1)) s) true

/-- The registers that a form's loads write. -/
def feWrites (s : State) (k : FeKind) (c : Ctl) (ty : FeTy) (d : Opnd) (m : MemArg) (q : Crew) : List RegWrite :=
  if k = .stf then [] else (memLanes s c d m).flatMap fun l => loadWrites (feLdTy ty) d l (q.read (memAt s m (ldBytes (feLdTy ty)) l) (ldBytes (feLdTy ty)))

/-- The class of a form's operation in flight. -/
def feClass (k : FeKind) : OrdClass := if k = .stf then .st else .ldf

theorem State.feLoads_eq (hq : s.crew? s.me.crew = some q) : s.feLoads ty d (feLanes t c ty d m) =
    (memLanes t c d m).flatMap fun l => loadWrites (feLdTy ty) d l (q.read (memAt t m (ldBytes (feLdTy ty)) l) (ldBytes (feLdTy ty))) := by
  rw [State.feLoads, hq]
  exact List.flatMap_map ..

theorem State.feAct_eq (hq : s.crew? s.me.crew = some q) : s.feAct k c ty d (feLanes s c ty d m) again = (s.feChange k c ty d m).finish fun w =>
    ((if again then w.unlist else w.unlist.raiseSlot c).flyRaised c (feClass k) (.regs (feWrites s k c ty d m q) 0)) := by
  have hl := State.feLoads_eq (ty := ty) (d := d) (t := s) (c := c) (m := m) hq
  cases k
  · rw [feWrites, if_neg (by simp), ← hl]; rfl
  · rw [feWrites, if_neg (by simp), ← hl]; rfl
  · rfl

theorem scratchStep.feChange (hq : s.crew? s.me.crew = some q) :
    scratchStep s (s.feChange k c ty d m) q (q.feChange k (ldBytes (feLdTy ty)) (feData s c ty d m) (feGranules (feLanes s c ty d m))) := by
  have hid (gs : List Nat) (b : Bool) (x : Crew) : (x.setFulls (gs.map fun y => (y, b))).id = x.id := by rw [Crew.setFulls_eq]
  cases k
  · exact .refl hq
  · exact scratchStep.modCrew hq (hid _ false) _ _
  · have hw := scratchStep.writes hq (ldBytes (feLdTy ty)) (feData s c ty d m)
    rw [feData, List.foldl_map] at hw
    have hb := scratchStep.modCrew hw.next (hid (feGranules (feLanes s c ty d m)) true) (unitOf s.me.gwn) (feGranules (feLanes s c ty d m))
    rw [hw.me] at hb
    have := hw.trans hb
    rw [State.feChange, feLanes, scrLanes, List.foldl_map]
    exact this

end Sys2Proof.Machine
end

section
/-! SUPPORT of O28: registration and sleep, what a form that acts leaves, and the two claims of forms outside a transaction (R112, R156, R244). -/

open Sys2Proof
namespace Sys2Proof.Machine

variable {s t u v : State} {q q' : Crew} {k : FeKind} {c : Ctl} {ty : FeTy} {d : Opnd} {m : MemArg} {i : Instr} {again : Bool}

/-! ## Registration -/

/-- Nothing but the granules that the executing wave has registered differs. -/
def onlyGranules (s u : State) : Prop :=
  u = { s with me := { s.me with tx := { s.me.tx with granules := u.me.tx.granules, coarseCore := u.me.tx.coarseCore } } }

/-- A granule stands registered, by itself or with its core. -/
def granuleIn (u : State) (crew x : Nat) : Prop := u.me.tx.coarseCore = true ∨ granuleKey crew x ∈ u.me.tx.granules

theorem onlyGranules.trans (h : onlyGranules s t) (j : onlyGranules t u) : onlyGranules s u := by
  rw [onlyGranules] at h
  rw [onlyGranules, j, h]

theorem State.registerGranule_only (s : State) (g : Nat) : onlyGranules s (s.registerGranule g) := by
  rw [State.registerGranule]
  dsimp only
  split
  · rfl
  split <;> rfl

theorem State.granuleIn_registerGranule (s : State) (g : Nat) : granuleIn (s.registerGranule g) s.me.crew g := by
  rw [State.registerGranule]
  dsimp only
  split
  next h => simpa [granuleIn, or_comm] using h
  split
  · exact .inr (List.mem_cons_self ..)
  · exact .inl rfl

theorem granuleIn.registerGranule {crew x : Nat} (h : granuleIn s crew x) (g : Nat) : granuleIn (s.registerGranule g) crew x := by
  rw [State.registerGranule]
  dsimp only
  split
  · exact h
  split
  · exact h.imp_right fun h => List.mem_cons_of_mem _ h
  · exact .inl rfl

theorem granuleIn.registerGranules {crew x : Nat} (h : granuleIn s crew x) (gs : List Nat) : granuleIn (s.registerGranules gs) crew x := by
  induction gs generalizing s with
  | nil => exact h
  | cons g gs ih => exact ih (h.registerGranule g)

theorem State.registerGranules_only (s : State) (gs : List Nat) : onlyGranules s (s.registerGranules gs) := by
  induction gs generalizing s with
  | nil => rfl
  | cons g gs ih => exact (s.registerGranule_only g).trans (ih _)

theorem onlyGranules.crew (h : onlyGranules s u) : u.me.crew = s.me.crew := by rw [h]

theorem State.granuleIn_registerGranules (s : State) {gs : List Nat} {x : Nat} (hx : x ∈ gs) : granuleIn (s.registerGranules gs) s.me.crew x := by
  induction gs generalizing s with
  | nil => exact absurd hx List.not_mem_nil
  | cons g gs ih =>
    change granuleIn ((s.registerGranule g).registerGranules gs) _ _
    obtain rfl | hx := List.mem_cons.mp hx
    · exact (s.granuleIn_registerGranule x).registerGranules gs
    · rw [← (s.registerGranule_only g).crew]
      exact ih _ hx

/-! ## Sleep -/

/-- What a form leaves whose granules do not pass outside a transaction (R156). -/
theorem State.feSleep_leaves (s : State) (i : Instr) (c : Ctl) (gs : List Nat) (again : Bool) : ∃ u, s.feSleep i c gs again = u ∧ onlyMe s u ∧
    u.me.run = .feAsleep i ∧ u.me.pc = s.me.pc ∧ u.me.s = s.me.s ∧ u.me.v = s.me.v ∧ u.me.flags = s.me.flags ∧ u.me.flights = s.me.flights ∧
    u.me.sb = (if again then s.me else s.me.raiseSlot c).sb ∧ u.me.gwn = s.me.gwn ∧ ∀ x ∈ gs, granuleIn u s.me.crew x := by
  have ho := s.registerGranules_only gs
  have hin : ∀ x ∈ gs, granuleIn (s.registerGranules gs) s.me.crew x := fun x hx => s.granuleIn_registerGranules hx
  rw [State.feSleep]
  generalize s.registerGranules gs = r at ho hin
  obtain ⟨tx, htx⟩ : ∃ tx, tx = r.me.tx := ⟨_, rfl⟩
  simp only [granuleIn, ← htx] at hin
  rw [onlyGranules, ← htx] at ho
  subst ho
  unfold Wave.raiseSlot
  cases again <;> cases c.se <;> exact ⟨_, rfl, rfl, rfl, rfl, rfl, rfl, rfl, rfl, rfl, rfl, hin⟩

theorem Wave.slot_raiseSlot {w : Wave} (hw : w.wf = true) (hc : c.se = true) : (w.raiseSlot c).slot c.ss.toNat = w.slot c.ss.toNat + 1 := by
  obtain ⟨-, -, -, hsb, -⟩ := (Wave.wf_iff w).mp hw
  rw [Wave.raiseSlot, if_pos hc, Wave.slot_slotUp _ _ _ hsb, if_pos rfl]

/-! ## What a form that acts leaves -/

theorem Crew.isFull_feChange (hq : Cells.wf q.full = true) (k : FeKind) (n : Nat) (ps : List (Nat × Nat)) (gs : List Nat) (x : Nat) :
    (q.feChange k n ps gs).isFull x = true ↔
      if k = .ldf then q.isFull x = true else if k = .ldfc then q.isFull x = true ∧ ¬ x ∈ gs else q.isFull x = true ∨ x ∈ gs := by
  cases k
  · exact Iff.rfl
  · rw [Crew.feChange, Crew.isFull_setFulls hq]
    by_cases hx : x ∈ gs <;> simp [hx]
  · have hw : Cells.wf (q.writes n ps).full = true := by rwa [Crew.writes_full]
    have hf : (q.writes n ps).isFull x = q.isFull x := by rw [Crew.isFull, Crew.isFull, Crew.writes_full]
    rw [Crew.feChange, Crew.isFull_setFulls hw, hf]
    by_cases hx : x ∈ gs <;> simp [hx]

theorem Crew.scratch_feChange (hk : k ≠ .stf) (n : Nat) (ps : List (Nat × Nat)) (gs : List Nat) : (q.feChange k n ps gs).scratch = q.scratch := by
  cases k
  · rfl
  · rw [Crew.feChange, Crew.setFulls_eq]
  · exact absurd rfl hk

/-- A byte of scratch after `stf`: its lanes' fields, one after another. -/
theorem Crew.get_feChange (hq : Cells.wf q.scratch = true) (gs : List Nat) (a : Nat) :
    Cells.get (q.feChange .stf (ldBytes (feLdTy ty)) (feData s c ty d m) gs).scratch a =
      ((memLanes s c d m).map fun l => ((scrTarget (memAt s m (ldBytes (feLdTy ty)) l), ldBytes (feLdTy ty), dataAt s (feLdTy ty) d l) : FieldWrite)).foldl
        (FieldWrite.byte a) (Cells.get q.scratch a) := by
  have hs : (q.feChange .stf (ldBytes (feLdTy ty)) (feData s c ty d m) gs).scratch = (q.writes (ldBytes (feLdTy ty)) (feData s c ty d m)).scratch := by
    change ((q.writes _ _).setFulls _).scratch = _
    rw [Crew.setFulls_eq]
  rw [hs, Crew.get_writes hq, feData, List.map_map]
  rfl

/-- What a form that acts leaves of its wave before it falls through. -/
theorem Wave.feFly_leaves (again : Bool) (c : Ctl) (cls : OrdClass) (ws : List RegWrite) (w : Wave) :
    let x := (if again then w.unlist else w.unlist.raiseSlot c).flyRaised c cls (.regs ws 0)
    x.flights = w.flights ++ [⟨w.nextOp, cls, if c.se then some c.ss.toNat else none, w.pc, .regs ws 0, false⟩] ∧ x.run = .running ∧ x.pc = w.pc ∧
      x.loops = w.loops ∧ x.s = w.s ∧ x.v = w.v ∧ x.flags = w.flags := by
  unfold Wave.raiseSlot Wave.flyRaised slotOfCtl
  cases again <;> cases c.se <;> exact ⟨rfl, rfl, rfl, rfl, rfl, rfl, rfl⟩

/-- Everything that a form does that acts outside a transaction (R112, R244). -/
theorem State.feAct_acts (hq : s.crew? s.me.crew = some q) (hfull : Cells.wf q.full = true) (hscr : Cells.wf q.scratch = true) :
    Claim.feActed k c ty d m s (s.feAct k c ty d (feLanes s c ty d m) again) q := by
  have hstep := scratchStep.feChange (k := k) (c := c) (ty := ty) (d := d) (m := m) hq
  have hme := hstep.me
  rw [State.feAct_eq hq]
  generalize s.feChange k c ty d m = v at hstep hme
  obtain ⟨hflights, hrun, hpc, hloops, hs, hv, hflags⟩ := Wave.feFly_leaves again c (feClass k) (feWrites s k c ty d m q) (s.me.stamp v.time)
  refine ⟨_, hstep.crew, hstep.store, fun x => ?_, fun hk => Crew.scratch_feChange hk .., fun hk => ?_, ?_, ?_, ?_, ?_, ?_, ?_⟩
  · rw [Crew.isFull_feChange hfull, mem_feGranules]
    rfl
  · subst hk
    refine ⟨fun a ha => ?_, fun a pre l post hls hl hpost => ?_⟩
    · rw [Crew.get_feChange hscr, FieldWrite.foldl_byte_of_not]
      intro p hp
      obtain ⟨l, hl, rfl⟩ := List.mem_map.mp hp
      exact ha l hl
    · rw [Crew.get_feChange hscr, hls, List.map_append, List.map_cons]
      refine FieldWrite.foldl_byte_last (p := (scrTarget (memAt s m (ldBytes (feLdTy ty)) l), ldBytes (feLdTy ty), dataAt s (feLdTy ty) d l)) hl (fun p hp => ?_) _
      obtain ⟨j, hj, rfl⟩ := List.mem_map.mp hp
      exact hpost j hj
  all_goals rw [State.finish_eq, hme]
  · exact hflights
  · exact hrun
  · exact Wave.fallThrough_of s.me _ hpc hloops
  · exact hs
  · exact hv
  · exact hflags

theorem State.feAct_me (hq : s.crew? s.me.crew = some q) :
    (s.feAct k c ty d (feLanes s c ty d m) again).me.sb = (if again then s.me else s.me.raiseSlot c).sb ∧
      (s.feAct k c ty d (feLanes s c ty d m) again).me.tx.granules = [] ∧ (s.feAct k c ty d (feLanes s c ty d m) again).me.gwn = s.me.gwn := by
  have hme := (scratchStep.feChange (k := k) (c := c) (ty := ty) (d := d) (m := m) hq).me
  rw [State.feAct_eq hq, State.finish_eq, hme]
  unfold Wave.raiseSlot
  cases again <;> cases c.se <;> exact ⟨rfl, rfl, rfl⟩

end Sys2Proof.Machine
end

section
/-! SUPPORT of O28: the claims of forms outside a transaction (R112, R156, R244). -/

open Sys2Proof
namespace Sys2Proof.Machine

variable {s t u v : State} {q q' : Crew} {k : FeKind} {c : Ctl} {ty : FeTy} {d : Opnd} {m : MemArg} {i : Instr} {again : Bool}

/-- A harbourmaster core issues only its own instructions. -/
theorem isHm_of_verdict_go (hv : s.verdict i = .go) (hi : hmAllows i = false) : isHm s.me.gwn = false := by
  obtain ⟨-, -, -, -, hgate⟩ := (State.verdict_eq_iff s i .go (.inl rfl)).mp hv
  obtain ⟨hill, -⟩ := (State.gate_eq_iff s i .go (.inl rfl)).mp hgate
  rw [← Bool.not_eq_true]
  intro hm
  rw [State.illegalHere_of_hm s i hm hi] at hill
  exact absurd hill (by simp)

theorem hmAllows_feInstr (k : FeKind) (c : Ctl) (ty : FeTy) (d : Opnd) (m : MemArg) : hmAllows (Claim.feInstr k c ty d m) = false := by
  cases k <;> rfl

theorem exec_feInstr (hv : s.verdict (Claim.feInstr k c ty d m) = .go) :
    exec (Claim.feInstr k c ty d m) s = .next (s.fe k (Claim.feInstr k c ty d m) c ty d m false) := by
  cases k
  · exact State.perform_go s _ (fun s => s.fe .ldf (.ldf c ty d m) c ty d m false) hv
  · exact State.perform_go s _ (fun s => s.fe .ldfc (.ldfc c ty d m) c ty d m false) hv
  · exact State.perform_go s _ (fun s => s.fe .stf (.stf c ty d m) c ty d m false) hv

theorem stalled_stall (s : State) (i : Instr) : stalled s (s.stall i) i := ⟨rfl, rfl, rfl, rfl⟩

theorem Claim.fullEmptyForms : Claim.FullEmptyForms := by
  intro k c ty d m s q ht hwf hq hfull hscr i n ls hv hal
  have hexec : exec i s = .next (s.fe k i c ty d m false) := exec_feInstr hv
  have hslot (u : State) (h : u.me.sb = (s.me.raiseSlot c).sb) (hc : c.se = true) : u.me.slot c.ss.toNat = s.me.slot c.ss.toNat + 1 := by
    rw [← Wave.slot_raiseSlot hwf hc, Wave.slot, Wave.slot, h]
  refine ⟨fun hb => ⟨_, hexec.trans (by rw [State.fe_busy hal hb]), stalled_stall s i⟩, fun hb => ?_⟩
  have hck : feChecked s q c ty d m := ⟨hal, hb, by rwa [if_pos ht]⟩
  refine ⟨fun hp hf => ⟨_, hexec.trans (by rw [State.fe_pass hck hp hf, if_pos ht]), State.feAct_acts hq hfull hscr, hslot _ (State.feAct_me hq).1⟩,
    fun hp hk l hl hf hj => ?_, fun hp => ?_⟩
  · rw [hexec, State.fe_bad hck hp hk hl hf hj, State.raise_of_task (isHm_of_verdict_go hv (hmAllows_feInstr ..)) ht]
  · obtain ⟨u, hu, hme, hrun, hpc, hs, hvr, hfl, hfs, hsb, -, hin⟩ := s.feSleep_leaves i c (feGranules (feLanes s c ty d m)) false
    refine ⟨u, hexec.trans (by rw [State.fe_fail hck hp, if_pos ht, hu]), hme, hrun, hpc, hs, hvr, hfl, hfs, hslot u hsb, fun x hx => hin x (mem_feGranules.mpr hx)⟩

/-! ## A woken form (R156) -/

theorem memAt_unlist (s : State) (m : MemArg) (n l : Nat) : memAt (s.mapMe Wave.unlist) m n l = memAt s m n l := by
  cases m with
  | mk base index ofs => cases index with
    | none => rfl
    | some x => cases x <;> rfl

theorem memLanes_unlist (s : State) (c : Ctl) (d : Opnd) (m : MemArg) : memLanes (s.mapMe Wave.unlist) c d m = memLanes s c d m := rfl

theorem storeData_unlist (s : State) (w : Nat) (d : Opnd) (l : Nat) : (s.mapMe Wave.unlist).storeData w d l = s.storeData w d l := by
  cases d <;> rfl

/-- A woken form executes again with its registrations gone. -/
theorem exec_feReexecute (hr : s.me.run = .feWoken (Claim.feInstr k c ty d m)) : exec (.feReexecute s.me.gwn) s =
    .next (((s.mapMe Wave.unlist).fe k (Claim.feInstr k c ty d m) c ty d m true).focus s.me.gwn) := by
  have hs : s.focus s.me.gwn = s := if_pos rfl
  change execFeReexecute s.me.gwn s = _
  rw [execFeReexecute, hs]
  dsimp only
  rw [hr]
  dsimp only
  rw [if_pos rfl]
  cases k <;> rfl

theorem State.focus_self {g : Nat} (h : s.me.gwn = g) : s.focus g = s := if_pos h

theorem feActed_unlist : Claim.feActed k c ty d m (s.mapMe Wave.unlist) u q ↔ Claim.feActed k c ty d m s u q := by
  simp only [Claim.feActed, dataAt, memAt_unlist, memLanes_unlist, storeData_unlist]
  rfl

theorem Claim.wokenFullEmpty : Claim.WokenFullEmpty := by
  intro k c ty d m s q i hr ht hq hfull hscr n ls hal hb named passes
  have hq' : (s.mapMe Wave.unlist).crew? (s.mapMe Wave.unlist).me.crew = some q := hq
  have hck : feChecked (s.mapMe Wave.unlist) q c ty d m := by
    refine ⟨fun l hl => ?_, ?_, ?_⟩
    · rw [memAt_unlist]
      exact hal l hl
    · simp only [memAt_unlist]
      exact hb
    · rw [if_pos (show (s.mapMe Wave.unlist).me.tx.depth = 0 from ht)]
      exact hq'
  have hnamed (x : Nat) : feNamed (s.mapMe Wave.unlist) c ty d m x ↔ named x := by
    simp only [feNamed, memAt_unlist]
    rfl
  have hpass : (∀ x, feNamed (s.mapMe Wave.unlist) c ty d m x → (s.mapMe Wave.unlist).fePass k (q.isFull x) x = true) ↔ passes :=
    forall_congr' fun x => by rw [hnamed]; rfl
  refine ⟨fun hp hf => ?_, fun hp => ?_⟩
  · have hf' : k ≠ .stf → ∀ l ∈ memLanes (s.mapMe Wave.unlist) c d m,
        q.fails (memAt (s.mapMe Wave.unlist) m (ldBytes (feLdTy ty)) l) (ldBytes (feLdTy ty)) = false := fun hk l hl => by
      rw [memAt_unlist]
      exact hf hk l hl
    have hacts := State.feAct_acts (k := k) (c := c) (ty := ty) (d := d) (m := m) (again := true) hq' hfull hscr
    obtain ⟨hsb, hgr, hgwn⟩ := State.feAct_me (k := k) (c := c) (ty := ty) (d := d) (m := m) (again := true) hq'
    refine ⟨_, (exec_feReexecute hr).trans (by rw [State.fe_pass hck (hpass.mpr hp) hf', if_pos (show (s.mapMe Wave.unlist).me.tx.depth = 0 from ht),
      State.focus_self (g := s.me.gwn) hgwn]), feActed_unlist.mp hacts, hsb, hgr, fun hk => ?_⟩
    subst hk
    rfl
  · obtain ⟨u, hu, hme, hrun, hpc, -, -, -, hfs, hsb, hgwn, hin⟩ :=
      (s.mapMe Wave.unlist).feSleep_leaves i c (feGranules (feLanes (s.mapMe Wave.unlist) c ty d m)) true
    refine ⟨u, (exec_feReexecute hr).trans (by rw [State.fe_fail hck (fun h => hp (hpass.mp h)), if_pos (show (s.mapMe Wave.unlist).me.tx.depth = 0 from ht),
      hu, State.focus_self (g := s.me.gwn) hgwn]), hme, hrun, hpc, hsb, hfs, fun x hx => hin x (mem_feGranules.mpr ((hnamed x).mpr hx))⟩

end Sys2Proof.Machine
end

section
/-! SUPPORT of O28: write buffers, and the crew as a transaction sees it (R141). -/

open Sys2Proof
namespace Sys2Proof.Machine

variable {s t u v : State} {q q' : Crew}

/-! ## Write buffers -/

theorem nodup_eraseDups {α : Type} [BEq α] [LawfulBEq α] (l : List α) : l.eraseDups.Nodup := by
  match l with
  | [] => exact List.nodup_nil
  | a :: as =>
    rw [List.eraseDups_cons, List.nodup_cons]
    refine ⟨fun h => ?_, nodup_eraseDups _⟩
    rw [List.mem_eraseDups, List.mem_filter] at h
    simp at h
  termination_by l.length
  decreasing_by exact Nat.lt_succ_of_le (List.length_filter_le ..)

/-- The distinct elements of lists that hold the same. -/
theorem length_eraseDups_congr {α : Type} [BEq α] [LawfulBEq α] {a b : List α} (h : ∀ x, x ∈ a ↔ x ∈ b) : a.eraseDups.length = b.eraseDups.length :=
  ((List.perm_ext_iff_of_nodup (nodup_eraseDups a) (nodup_eraseDups b)).mpr fun x => by rw [List.mem_eraseDups, List.mem_eraseDups, h]).length_eq

theorem bufLines_length_append (a b : List TxWrite) : (bufLines a).length ≤ (bufLines (a ++ b)).length := by
  have := bufLines_length_take (a ++ b) a.length
  rwa [List.take_left] at this

/-- The state with other writes buffered. -/
def State.withBuf (s : State) (b : List TxWrite) : State := s.mapMe fun x => { x with tx := { x.tx with buf := b } }

theorem State.bufferWrite_eq (s : State) (w : TxWrite) :
    s.bufferWrite w = if 64 < (bufLines (s.me.tx.buf ++ [w])).length then none else some (s.withBuf (s.me.tx.buf ++ [w])) := rfl

theorem State.bufferAll_cons (s : State) (w : TxWrite) (r : List TxWrite) : s.bufferAll (w :: r) = (s.bufferWrite w).bind fun s => s.bufferAll r := rfl

/-- Writes that leave at most 64 lines are buffered. -/
theorem State.bufferAll_some {ws : List TxWrite} (h : (bufLines (s.me.tx.buf ++ ws)).length ≤ 64) : s.bufferAll ws = some (s.withBuf (s.me.tx.buf ++ ws)) := by
  induction ws generalizing s with
  | nil => rw [List.append_nil]; rfl
  | cons w r ih =>
    rw [List.append_cons] at h ⊢
    rw [State.bufferAll_cons, State.bufferWrite_eq, if_neg (Nat.not_lt.mpr ((bufLines_length_append _ _).trans h)), Option.bind_some]
    exact ih h

/-- Writes that would leave more than 64 lines are not. -/
theorem State.bufferAll_none {ws : List TxWrite} (hb : (bufLines s.me.tx.buf).length ≤ 64) (h : 64 < (bufLines (s.me.tx.buf ++ ws)).length) :
    s.bufferAll ws = none := by
  induction ws generalizing s with
  | nil => rw [List.append_nil] at h; omega
  | cons w r ih =>
    rw [List.append_cons] at h
    rw [State.bufferAll_cons, State.bufferWrite_eq]
    split
    · rfl
    next hw => exact ih (s := s.withBuf (s.me.tx.buf ++ [w])) (Nat.not_lt.mp hw) h

theorem Wave.bufLines_le (h : s.me.wf = true) : (bufLines s.me.tx.buf).length ≤ 64 := ((bufOk_iff _).mp (Wave.wf_buf h)).2

/-! ## The crew under the writes of a buffer -/

theorem Crew.write_id (c : Crew) (ofs n x : Nat) : (c.write ofs n x).id = c.id := rfl

theorem Crew.applyTx_eq (c : Crew) (w : TxWrite) : ∃ c' : Crew, c'.id = c.id ∧ c'.full = c.full ∧ c.applyTx w = c'.setFulls w.full := by
  unfold Crew.applyTx
  extract_lets old whole c1
  have hid : c1.id = c.id := c.write_id ..
  have hfull : c1.full = c.full := c.write_full ..
  clear_value c1
  exact ⟨{ c1 with bad := c.bad.filter (!whole ·) }, hid, hfull, rfl⟩

theorem Crew.applyTx_id (c : Crew) (w : TxWrite) : (c.applyTx w).id = c.id := by
  obtain ⟨c', hid, -, h⟩ := c.applyTx_eq w
  rw [h, Crew.setFulls_eq]
  exact hid

theorem State.homed_homeWrites (s : State) (writer : Nat) (ws : List LineWrite) : homed s (s.homeWrites writer ws) :=
  homed.foldl (fun _ _ => homed.homeWrite ..) _ s

/-- A crew as a write buffer leaves it. -/
def Crew.buffered (c : Crew) (b : List TxWrite) : Crew := (b.filter (·.scratch)).foldl Crew.applyTx c

theorem State.crew?_applyTx (s : State) (writer crew : Nat) (b : List TxWrite) : (s.applyTx writer crew b).crew? crew = (s.crew? crew).map (·.buffered b) := by
  have hfold (l : List TxWrite) (s : State) :
      (l.foldl (fun s w => s.modCrew crew fun c => c.applyTx w) s).crew? crew = (s.crew? crew).map fun c => l.foldl Crew.applyTx c := by
    induction l generalizing s with
    | nil => exact (Option.map_id' ..).symm
    | cons w r ih =>
      rw [List.foldl_cons, ih, State.crew?_modCrew_same s fun x => x.applyTx_id w, Option.map_map]
      rfl
  have hlines (s : State) (ws : List LineWrite) : (s.writeLines writer ws).crews = s.crews := by
    have hr := s.writeLines_wf_own writer ws
    rw [memRead] at hr
    rw [hr]
    exact (s.homed_homeWrites writer ws).crews
  rw [State.applyTx, State.crew?_congr (hlines ..)]
  exact hfold ..

/-- The overlay's executing wave belongs to the same crew. -/
theorem State.crew_overlay (s : State) : s.overlay.me.crew = s.me.crew := by
  have hfold (l : List TxWrite) (t : State) (crew : Nat) : (l.foldl (fun s w => s.modCrew crew fun c => c.applyTx w) t).me = t.me := by
    induction l generalizing t with
    | nil => rfl
    | cons w r ih => exact ih _
  have hlines (t : State) (g : Nat) (ws : List LineWrite) : (t.writeLines g ws).me.crew = t.me.crew := by
    rw [memRead.me (t.writeLines_wf_own g ws)]
    obtain ⟨f, hf, hme, -⟩ := (t.homed_homeWrites g ws).waves
    rw [hme, (hf t.me).1]
  rw [State.overlay, State.applyTx, hlines, hfold]

/-- The executing wave's crew as its transaction sees it. -/
theorem State.crew?_overlay (s : State) : s.overlay.crew? s.me.crew = (s.crew? s.me.crew).map (·.buffered s.me.tx.buf) := s.crew?_applyTx ..

theorem Crew.wf_buffered {c : Crew} (h : c.wf = true) (b : List TxWrite) : (c.buffered b).wf = true := by
  rw [Crew.buffered]
  generalize b.filter (·.scratch) = l
  induction l generalizing c with
  | nil => exact h
  | cons w r ih => exact ih (Crew.wf_applyTx h)

theorem Crew.buffered_append (c : Crew) (a b : List TxWrite) : c.buffered (a ++ b) = (c.buffered a).buffered b := by
  rw [Crew.buffered, List.filter_append, List.foldl_append]
  rfl

/-- Writes that carry no bits leave the bits alone. -/
theorem Crew.full_buffered (c : Crew) {b : List TxWrite} (h : ∀ w ∈ b, w.full = []) : (c.buffered b).full = c.full := by
  rw [Crew.buffered]
  have h' : ∀ w ∈ b.filter (·.scratch), w.full = [] := fun w hw => h w (List.mem_of_mem_filter hw)
  generalize b.filter (·.scratch) = l at h'
  induction l generalizing c with
  | nil => rfl
  | cons w r ih =>
    rw [List.foldl_cons, ih _ fun x hx => h' x (List.mem_cons_of_mem _ hx)]
    obtain ⟨c', -, hf, he⟩ := c.applyTx_eq w
    rw [he, h' w List.mem_cons_self]
    exact hf

/-- The buffered bits of granules, as the wave then sees them. -/
theorem Crew.isFull_bitWrites {c : Crew} (hc : c.wf = true) (gs : List Nat) (b : Bool) (x : Nat) :
    (c.buffered (bitWrites gs b)).isFull x = if x ∈ gs then b else c.isFull x := by
  have key (ls : List Nat) : ∀ c : Crew, c.wf = true →
      ((ls.map fun l => (⟨true, l, 0, 0, 0, 0, 0, (gs.filter (· / 4 == l)).map fun g => (g, b)⟩ : TxWrite)).foldl Crew.applyTx c).isFull x =
        if x ∈ gs ∧ x / 4 ∈ ls then b else c.isFull x := by
    induction ls with
    | nil => intro c _; simp
    | cons l r ih =>
      intro c hc
      obtain ⟨c', -, hf, he⟩ := c.applyTx_eq ⟨true, l, 0, 0, 0, 0, 0, (gs.filter (· / 4 == l)).map fun g => (g, b)⟩
      have hc' : Cells.wf c'.full = true := by rw [hf]; exact (Bool.and_eq_true_iff.mp hc).2
      have hfull : c'.isFull x = c.isFull x := by rw [Crew.isFull, Crew.isFull, hf]
      rw [List.map_cons, List.foldl_cons, ih _ (Crew.wf_applyTx hc), he, Crew.isFull_setFulls hc', hfull]
      by_cases hx : x ∈ gs <;> by_cases h1 : x / 4 ∈ r <;> by_cases h2 : x / 4 = l <;> simp [hx, h1, h2]
  have hall : (bitWrites gs b).filter (·.scratch) = bitWrites gs b := List.filter_eq_self.mpr fun w hw => by
    obtain ⟨l, -, rfl⟩ := List.mem_map.mp hw
    rfl
  rw [Crew.buffered, hall, bitWrites, key _ c hc]
  have hin : x ∈ gs → x / 4 ∈ (gs.map (· / 4)).eraseDups := fun hx => List.mem_eraseDups.mpr (List.mem_map_of_mem hx)
  by_cases hx : x ∈ gs
  · rw [if_pos ⟨hx, hin hx⟩, if_pos hx]
  · rw [if_neg fun h => hx h.1, if_neg hx]

/-- The lines that the buffered bits of granules lie in. -/
theorem mem_keys_bitWrites {gs : List Nat} {b : Bool} {x : Bool × Nat} :
    (x ∈ (bitWrites gs b).map fun w => (w.scratch, w.line)) ↔ ∃ g ∈ gs, x = (true, g / 4) := by
  rw [bitWrites, List.map_map, List.mem_map]
  simp only [List.mem_eraseDups, List.mem_map, Function.comp]
  constructor
  · rintro ⟨-, ⟨g, hg, rfl⟩, rfl⟩
    exact ⟨g, hg, rfl⟩
  · rintro ⟨g, hg, rfl⟩
    exact ⟨_, ⟨g, hg, rfl⟩, rfl⟩

end Sys2Proof.Machine
end

section
/-! SUPPORT and SETTLEMENT of O28: the full/empty forms inside a transaction (R141, R147, R152, R244). -/

open Sys2Proof
namespace Sys2Proof.Machine

variable {s t u r : State} {q q' : Crew} {k : FeKind} {c : Ctl} {ty : FeTy} {d : Opnd} {m : MemArg} {i : Instr} {again : Bool}

/-! ## What changes of a wave's transaction alone leave -/

/-- Nothing but the transaction of the executing wave differs. -/
def onlyTx (s r : State) : Prop := r = { s with me := { s.me with tx := r.me.tx } }

theorem onlyGranules.onlyTx (h : onlyGranules s r) : Machine.onlyTx s r := by rw [onlyGranules] at h; rw [Machine.onlyTx, h]

theorem onlyTx.onlyMe (h : onlyTx s r) : Machine.onlyMe s r := by rw [onlyTx] at h; rw [Machine.onlyMe, h]

theorem onlyTx.withBuf (h : onlyTx s r) (b : List TxWrite) : onlyTx s (r.withBuf b) := by
  rw [onlyTx] at h
  rw [h]
  rfl

theorem onlyTx.storeData (h : onlyTx s r) (w : Nat) (d : Opnd) (l : Nat) : r.storeData w d l = s.storeData w d l := by
  rw [onlyTx] at h
  rw [h]
  cases d <;> rfl

/-- What an instruction in flight leaves that follows a change of the transaction. -/
theorem onlyTx.launchFlight (h : onlyTx s r) (c : Ctl) (cls : OrdClass) (body : Pending) : ∃ u, r.launchFlight c cls body = u ∧ Machine.onlyMe s u ∧ fellThrough s u ∧
    u.me.tx = r.me.tx ∧ u.me.flights = s.me.flights ++ [⟨s.me.nextOp, cls, slotOfCtl c, s.me.pc, body, false⟩] ∧ u.me.sb = (s.me.raiseSlot c).sb ∧
    u.me.crew = s.me.crew ∧ u.crews = s.crews := by
  rw [onlyTx] at h
  generalize r.me.tx = tx at h
  subst h
  refine ⟨_, rfl, rfl, State.fellThrough_finish _ _ fun w => ?_, ?_⟩
  · unfold Wave.fly Wave.raiseSlot
    split <;> exact ⟨rfl, rfl⟩
  · rw [State.launchFlight, State.finish_eq]
    unfold Wave.fly Wave.raiseSlot
    cases c.se <;> exact ⟨rfl, rfl, rfl, rfl, rfl⟩

theorem onlyTx.aborted (h : onlyTx s r) (hh : r.me.tx.handler = s.me.tx.handler) (hcp : r.me.tx.cp = s.me.tx.cp) (status code cause : Nat) :
    Machine.aborted s (r.abortTx status code cause) status code cause := by
  rw [onlyTx] at h
  generalize r.me.tx = tx at h hh hcp
  subst h
  refine ⟨rfl, hh, ?_, ?_, ?_, ?_, rfl, rfl, rfl, rfl, rfl, rfl, rfl⟩ <;> rw [← hcp] <;> rfl

/-! ## A form that acts -/

/-- The bits that a form buffers. -/
def feBits (k : FeKind) (gs : List Nat) : List TxWrite :=
  match k with
  | .ldf => []
  | .ldfc => bitWrites gs false
  | .stf => bitWrites gs true

theorem feBits_scratch {k : FeKind} {gs : List Nat} : ∀ w ∈ feBits k gs, w.scratch = true ∧ w.mask = 0 := by
  have key (b : Bool) : ∀ w ∈ bitWrites gs b, w.scratch = true ∧ w.mask = 0 := fun w hw => by
    obtain ⟨l, -, rfl⟩ := List.mem_map.mp hw
    exact ⟨rfl, rfl⟩
  cases k
  · exact fun w hw => absurd hw List.not_mem_nil
  · exact key false
  · exact key true

/-- What a form buffers: the data of `stf`, then the bits. -/
def feBuffer (s : State) (k : FeKind) (c : Ctl) (ty : FeTy) (d : Opnd) (m : MemArg) : List TxWrite :=
  (if k = .stf then (memLanes s c d m).map fun l => Claim.buffered (scrTarget (memAt s m (ldBytes (feLdTy ty)) l)) (ldBytes (feLdTy ty)) (dataAt s (feLdTy ty) d l)
    else []) ++ feBits k (feGranules (feLanes s c ty d m))

theorem State.txWrites_scr (r : State) (ofs n x : Nat) : (r.txWrites (scrTarget ofs) n x).1 = [Claim.buffered (scrTarget ofs) n (x % 2 ^ (8 * n))] := by
  rw [State.txWrites, if_pos (show (scrTarget ofs).space = .scr from rfl), Claim.buffered, Nat.mod_mod]
  rfl

/-- Everything that a form does that acts inside a transaction (R141). -/
theorem State.feTx_eq (hq : s.overlay.crew? s.me.crew = some q) : s.feTx k c ty d (feLanes s c ty d m) =
    match (s.registerGranules (feGranules (feLanes s c ty d m))).bufferAll (feBuffer s k c ty d m) with
    | none => (s.registerGranules (feGranules (feLanes s c ty d m))).abortTx 2 0 0
    | some r => r.launchFlight c (feClass k) (.regs (feWrites s k c ty d m q) 0) := by
  have ho := s.registerGranules_only (feGranules (feLanes s c ty d m))
  unfold State.feTx
  dsimp only
  generalize s.registerGranules (feGranules (feLanes s c ty d m)) = r at ho
  have hl : r.overlay.feLoads ty d (feLanes s c ty d m) = feWrites s .ldf c ty d m q := by
    refine State.feLoads_eq ?_
    rw [State.crew_overlay, State.crew?_overlay, ← hq, State.crew?_overlay]
    rw [onlyGranules] at ho
    rw [ho]
    rfl
  have hd : ((feLanes s c ty d m).flatMap fun p => (r.txWrites p.2 (ldBytes (feLdTy ty)) (r.storeData (ldWords (feLdTy ty)) d p.1)).1) =
      (memLanes s c d m).map fun l => Claim.buffered (scrTarget (memAt s m (ldBytes (feLdTy ty)) l)) (ldBytes (feLdTy ty)) (dataAt s (feLdTy ty) d l) := by
    rw [feLanes, scrLanes, List.flatMap_map]
    simp only [State.txWrites_scr, ho.onlyTx.storeData]
    exact (List.map_eq_flatMap ..).symm
  cases k
  · rw [hl]; rfl
  · rw [hl]; rfl
  · rw [hd]
    rfl

/-- The lines that a form which changes bits needs are those of its targets. -/
theorem length_bufLines_feBuffer (hk : k ≠ .ldf) : (bufLines (s.me.tx.buf ++ feBuffer s k c ty d m)).length =
    Claim.linesWith s (Claim.linesOf ((memLanes s c d m).map fun l => scrTarget (memAt s m (ldBytes (feLdTy ty)) l))) := by
  rw [bufLines, Claim.linesWith, List.map_append]
  refine length_eraseDups_congr fun x => ?_
  rw [List.mem_append, List.mem_append]
  refine or_congr_right ?_
  have hlines : x ∈ Claim.linesOf ((memLanes s c d m).map fun l => scrTarget (memAt s m (ldBytes (feLdTy ty)) l)) ↔
      ∃ l ∈ memLanes s c d m, x = (true, memAt s m (ldBytes (feLdTy ty)) l / 64) := by
    rw [Claim.linesOf, List.map_map, List.mem_map]
    exact exists_congr fun l => and_congr_right fun _ => eq_comm
  have hbits (b : Bool) : (x ∈ (bitWrites (feGranules (feLanes s c ty d m)) b).map fun w => (w.scratch, w.line)) ↔
      ∃ l ∈ memLanes s c d m, x = (true, memAt s m (ldBytes (feLdTy ty)) l / 64) := by
    rw [mem_keys_bitWrites]
    simp only [mem_feGranules, feNamed]
    constructor
    · rintro ⟨-, ⟨l, hl, rfl⟩, rfl⟩
      exact ⟨l, hl, by rw [Nat.div_div_eq_div_mul]⟩
    · rintro ⟨l, hl, rfl⟩
      exact ⟨_, ⟨l, hl, rfl⟩, by rw [Nat.div_div_eq_div_mul]⟩
  rw [hlines, feBuffer, List.map_append, List.mem_append]
  cases k
  · exact absurd rfl hk
  · rw [if_neg (by simp), feBits, hbits]
    simp
  · rw [if_pos rfl, feBits, hbits, List.map_map, List.mem_map]
    refine or_iff_right_of_imp ?_
    rintro ⟨l, hl, rfl⟩
    exact ⟨l, hl, rfl⟩

/-- The bits as the wave sees them after a form has acted. -/
theorem Crew.isFull_feBuffer (hq : q.wf = true) (s : State) (k : FeKind) (x : Nat) : (q.buffered (feBuffer s k c ty d m)).isFull x = true ↔
    if k = .ldf then q.isFull x = true else if k = .ldfc then q.isFull x = true ∧ ¬ feNamed s c ty d m x else q.isFull x = true ∨ feNamed s c ty d m x := by
  rw [← mem_feGranules]
  cases k
  · exact Iff.rfl
  · rw [feBuffer, if_neg (by simp), List.nil_append, feBits, Crew.isFull_bitWrites hq]
    by_cases hx : x ∈ feGranules (feLanes s c ty d m) <;> simp [hx]
  · have hdata : ∀ w ∈ (memLanes s c d m).map fun l => Claim.buffered (scrTarget (memAt s m (ldBytes (feLdTy ty)) l)) (ldBytes (feLdTy ty)) (dataAt s (feLdTy ty) d l),
        w.full = [] := fun w hw => by
      obtain ⟨l, -, rfl⟩ := List.mem_map.mp hw
      rfl
    rw [feBuffer, if_pos rfl, feBits, Crew.buffered_append, Crew.isFull_bitWrites (Crew.wf_buffered hq _), Crew.isFull, Crew.isFull, Crew.full_buffered _ hdata]
    by_cases hx : x ∈ feGranules (feLanes s c ty d m) <;> simp [hx]

/-! ## The claim -/

theorem State.feBad_some (hq : (if s.me.tx.depth = 0 then s else s.overlay).crew? s.me.crew = some q) (hk : k ≠ .stf)
    (hf : ∃ l ∈ memLanes s c d m, q.fails (memAt s m (ldBytes (feLdTy ty)) l) (ldBytes (feLdTy ty)) = true) :
    ∃ a, s.feBad k (ldBytes (feLdTy ty)) (feLanes s c ty d m) = some a := by
  obtain ⟨l, hl, hf⟩ := hf
  rw [State.feBad, if_neg hk, hq, Option.bind_some, ← Option.isSome_iff_exists, Option.isSome_map, List.find?_isSome]
  exact ⟨_, List.mem_map_of_mem hl, hf⟩

theorem State.raise_tx (ht : s.me.tx.depth ≠ 0) {cause : Nat} (hc : hardCause cause = false) (sev : Nat) (detail : Word) :
    s.raise cause sev detail = s.abortTx 6 0 cause := by
  rw [State.raise]
  exact if_pos ⟨ht, hc⟩

section
variable (ht : s.me.tx.depth ≠ 0) (h : feChecked s q c ty d m)
include ht h

/-- A load form of failing scratch aborts (R118, R142). -/
theorem State.fe_bad_tx (hp : ∀ x, feNamed s c ty d m x → s.fePass k (q.isFull x) x = true) (hk : k ≠ .stf)
    (hf : ∃ l ∈ memLanes s c d m, q.fails (memAt s m (ldBytes (feLdTy ty)) l) (ldBytes (feLdTy ty)) = true) :
    s.fe k i c ty d m again = s.abortTx 6 0 0x15 := by
  obtain ⟨a, ha⟩ := State.feBad_some h.crew hk hf
  rw [State.fe_eq h, if_pos ((State.fePassAll_iff h.crew).mpr hp), ha]
  exact State.raise_tx ht rfl ..

/-- A form whose granules do not pass acts as `retry` once the slots read zero (R141, R147). -/
theorem State.fe_retry (hp : ¬ ∀ x, feNamed s c ty d m x → s.fePass k (q.isFull x) x = true) : s.fe k i c ty d m again =
    if s.me.slotsZero then (s.registerGranules (feGranules (feLanes s c ty d m))).doRetry else s.stall i := by
  rw [State.fe_fail h hp, if_neg ht]

end

/-- What a form that acts inside a transaction leaves, its granules registered and its writes buffered. -/
theorem State.feTx_acts (hq : s.overlay.crew? s.me.crew = some q) (hroom : (bufLines (s.me.tx.buf ++ feBuffer s k c ty d m)).length ≤ 64) :
    ∃ u, s.feTx k c ty d (feLanes s c ty d m) = u ∧ onlyMe s u ∧ (∀ x, feNamed s c ty d m x → granuleIn u s.me.crew x) ∧ fellThrough s u ∧
      u.me.tx.depth = s.me.tx.depth ∧ u.me.flights = s.me.flights ++ [⟨s.me.nextOp, feClass k, slotOfCtl c, s.me.pc, .regs (feWrites s k c ty d m q) 0, false⟩] ∧
      u.me.sb = (s.me.raiseSlot c).sb ∧ u.me.tx.buf = s.me.tx.buf ++ feBuffer s k c ty d m ∧
      u.overlay.crew? s.me.crew = some (q.buffered (feBuffer s k c ty d m)) := by
  have ho := s.registerGranules_only (feGranules (feLanes s c ty d m))
  have hin : ∀ x, feNamed s c ty d m x → granuleIn (s.registerGranules (feGranules (feLanes s c ty d m))) s.me.crew x := fun x hx =>
    s.granuleIn_registerGranules (mem_feGranules.mpr hx)
  rw [State.feTx_eq hq]
  generalize s.registerGranules (feGranules (feLanes s c ty d m)) = r at ho hin
  have hbuf : r.me.tx.buf = s.me.tx.buf := by rw [onlyGranules] at ho; rw [ho]
  have hdepth : r.me.tx.depth = s.me.tx.depth := by rw [onlyGranules] at ho; rw [ho]
  rw [State.bufferAll_some (by rwa [hbuf])]
  obtain ⟨u, hu, hme, hfell, htx, hfl, hsb, hcrew, hcrews⟩ :=
    (ho.onlyTx.withBuf (r.me.tx.buf ++ feBuffer s k c ty d m)).launchFlight c (feClass k) (.regs (feWrites s k c ty d m q) 0)
  have hb : u.me.tx.buf = s.me.tx.buf ++ feBuffer s k c ty d m := by rw [htx, ← hbuf]; rfl
  refine ⟨u, hu, hme, fun x hx => ?_, hfell, by rw [htx]; exact hdepth, hfl, hsb, hb, ?_⟩
  · rw [granuleIn, htx]
    exact hin x hx
  · rw [State.crew?_overlay] at hq
    obtain ⟨q0, hq0, rfl⟩ := Option.map_eq_some_iff.mp hq
    rw [← hcrew, State.crew?_overlay, hcrew, State.crew?_congr hcrews, hq0, hb, Option.map_some, Crew.buffered_append]

/-- A form that would need a 65th line aborts (R141). -/
theorem State.feTx_full (hwf : s.me.wf = true) (hq : s.overlay.crew? s.me.crew = some q) (hroom : 64 < (bufLines (s.me.tx.buf ++ feBuffer s k c ty d m)).length) :
    ∃ u, s.feTx k c ty d (feLanes s c ty d m) = u ∧ aborted s u 2 0 0 := by
  have ho := s.registerGranules_only (feGranules (feLanes s c ty d m))
  rw [State.feTx_eq hq]
  generalize s.registerGranules (feGranules (feLanes s c ty d m)) = r at ho
  have hbuf : r.me.tx.buf = s.me.tx.buf := by rw [onlyGranules] at ho; rw [ho]
  rw [State.bufferAll_none (by rw [hbuf]; exact Wave.bufLines_le hwf) (by rwa [hbuf])]
  refine ⟨_, rfl, ho.onlyTx.aborted ?_ ?_ ..⟩ <;> rw [onlyGranules] at ho <;> rw [ho]

theorem State.doRetry_alt {a : Alt} {rest : List Alt} (hd : s.me.tx.doom = false) (ha : s.me.tx.alts = a :: rest) : s.doRetry = s.mapMe fun w =>
    { ((w.stamp s.time).landAll).restore a.cp with
      pc := a.target, ready := clocksOn w.gwn s.time 8, tx := { w.tx with depth := a.depth, alts := rest, buf := w.tx.buf.take a.mark } } := by
  rw [State.doRetry]
  dsimp only
  rw [hd, if_neg Bool.false_ne_true, ha]

theorem State.doRetry_sleep (hd : s.me.tx.doom = false) (ha : s.me.tx.alts = []) (hr : s.me.tx.readsNothing = false) :
    s.doRetry = s.mapMe fun w => (w.stamp s.time).abandon s.me.tx.last true .asleep := by
  rw [State.doRetry]
  dsimp only
  rw [hd, if_neg Bool.false_ne_true, ha]
  dsimp only
  rw [hr, if_neg Bool.false_ne_true]

/-- What `retry` leaves after granules have been registered: the most recent alternative, or sleep on the read set (R147, R148). -/
theorem State.doRetry_registered {gs : List Nat} {g : Nat} (hg : g ∈ gs) (hdoom : s.me.tx.doom = false) :
    (∀ a r, s.me.tx.alts = a :: r → ∃ u, (s.registerGranules gs).doRetry = u ∧ onlyMe s u ∧ u.me.pc = a.target ∧ u.me.s = a.cp.s ∧ u.me.tx.depth = a.depth ∧
      u.me.tx.alts = r ∧ ∀ x ∈ gs, granuleIn u s.me.crew x) ∧
    (s.me.tx.alts = [] → ∃ u, (s.registerGranules gs).doRetry = u ∧ onlyMe s u ∧ u.me.run = .asleep ∧ u.me.pc = s.me.tx.begin_ ∧ u.me.s = s.me.tx.cp.s ∧
      u.me.tx.depth = 0 ∧ u.me.tx.buf = [] ∧ ∀ x ∈ gs, granuleIn u s.me.crew x) := by
  have ho := s.registerGranules_only gs
  have hin : ∀ x ∈ gs, granuleIn (s.registerGranules gs) s.me.crew x := fun x hx => s.granuleIn_registerGranules hx
  generalize s.registerGranules gs = r at ho hin
  have hreads : r.me.tx.readsNothing = false := by
    rw [Tx.readsNothing]
    obtain hc | hm := hin g hg
    · simp [hc]
    · have : r.me.tx.granules.isEmpty = false := by
        rw [List.isEmpty_eq_false_iff]
        exact List.ne_nil_of_mem hm
      simp [this]
  have hd : r.me.tx.doom = false := by rw [onlyGranules] at ho; rw [ho]; exact hdoom
  have halts : r.me.tx.alts = s.me.tx.alts := by rw [onlyGranules] at ho; rw [ho]
  refine ⟨fun a rest ha => ?_, fun ha => ?_⟩
  · rw [State.doRetry_alt hd (halts.trans ha)]
    refine ⟨_, rfl, ?_, rfl, rfl, rfl, rfl, hin⟩
    rw [onlyGranules] at ho
    rw [ho]
    rfl
  · rw [State.doRetry_sleep hd (halts.trans ha) hreads]
    refine ⟨_, rfl, ?_, rfl, ?_, ?_, rfl, rfl, hin⟩ <;> rw [onlyGranules] at ho <;> rw [ho] <;> rfl

theorem Claim.fullEmptyInTransactions : Claim.FullEmptyInTransactions := by
  intro k c ty d m s q ht hdoom hwf hmem hq i n ls hv hal hb named passes registered tgs good
  have hexec : exec i s = .next (s.fe k i c ty d m false) := exec_feInstr hv
  have hck : feChecked s q c ty d m := ⟨hal, hb, by rwa [if_neg ht]⟩
  have hqwf : q.wf = true := hmem.overlay.crews q (State.crew?_mem hq)
  have hact : good → exec i s = .next (s.feTx k c ty d (feLanes s c ty d m)) := fun hg => by
    rw [hexec, State.fe_pass hck hg.1 hg.2, if_neg ht]
  refine ⟨fun hg hroom => ?_, fun hg hk hroom => ?_, fun hp hk hf => ?_, fun hp hs => ?_, fun hp hs _ => ?_⟩
  · have hlen : (bufLines (s.me.tx.buf ++ feBuffer s k c ty d m)).length ≤ 64 := by
      by_cases hk : k = .ldf
      · subst hk
        rw [feBuffer, if_neg (by simp), feBits, List.append_nil, List.append_nil]
        exact Wave.bufLines_le hwf
      · rw [length_bufLines_feBuffer hk]
        exact hroom.resolve_left hk
    obtain ⟨u, hu, hme, hin, hfell, hdepth, hfl, hsb, hbuf, hcrew⟩ := State.feTx_acts hq hlen
    refine ⟨u, (hact hg).trans (by rw [hu]), hme, hin, hfell, hdepth, by rw [hfl, List.length_append]; rfl, fun hc => ?_, fun hk => ?_,
      ⟨feBits k (feGranules (feLanes s c ty d m)), ?_, by rw [hbuf, feBuffer, List.append_assoc]⟩, _, hcrew, fun x => Crew.isFull_feBuffer hqwf s k x⟩
    · rw [← Wave.slot_raiseSlot hwf hc, Wave.slot, Wave.slot, hsb]
    · refine ⟨_, by rw [hfl]; exact List.mem_append_right _ (List.mem_singleton.mpr rfl), rfl, ?_⟩
      dsimp only
      rw [feWrites, if_neg hk]
    · exact feBits_scratch
  · obtain ⟨u, hu, ha⟩ := State.feTx_full hwf hq (by rwa [length_bufLines_feBuffer hk])
    exact ⟨u, (hact hg).trans (by rw [hu]), ha⟩
  · exact ⟨_, hexec.trans (by rw [State.fe_bad_tx ht hck hp hk hf]), onlyTx.aborted (r := s) rfl rfl rfl ..⟩
  · exact ⟨_, hexec.trans (by rw [State.fe_retry ht hck hp, hs, if_neg Bool.false_ne_true]), stalled_stall s i⟩
  · obtain ⟨x, hx⟩ := not_forall.mp hp
    have hn : named x := by by_contra hn; exact hx fun h => absurd h hn
    obtain ⟨halt, hnone⟩ := State.doRetry_registered (mem_feGranules.mpr hn) hdoom
    have hret : exec i s = .next (s.registerGranules (feGranules (feLanes s c ty d m))).doRetry := by
      rw [hexec, State.fe_retry ht hck hp, hs, if_pos rfl]
    refine ⟨fun a r ha => ?_, fun ha => ?_⟩
    · obtain ⟨u, hu, h1, h2, h3, h4, h5, hin⟩ := halt a r ha
      exact ⟨u, hret.trans (by rw [hu]), h1, h2, h3, h4, h5, fun x hx => hin x (mem_feGranules.mpr hx)⟩
    · obtain ⟨u, hu, h1, h2, h3, h4, h5, h6, hin⟩ := hnone ha
      exact ⟨u, hret.trans (by rw [hu]), h1, h2, h3, h4, h5, h6, fun x hx => hin x (mem_feGranules.mpr hx)⟩

/-- Settles O28: a form is its checks and then one act, one sleep or one `retry` (`State.fe_eq`); what an act leaves of bits and bytes is read off the
crew (`Crew.isFull_feChange`, `Crew.get_feChange`), inside a transaction off the crew under the buffer (`State.crew?_overlay`). -/
theorem fullEmpty : Obligations.FullEmpty := ⟨Claim.fullEmptyForms, Claim.fullEmptyInTransactions, Claim.wokenFullEmpty⟩

end Sys2Proof.Machine
end

section
/-! SUPPORT of O55: walks do not read the connections of the network port (R329, R372). -/

open Sys2Proof
namespace Sys2Proof.Machine

variable {s t u : State} {cs : List Conn}

/-- The state with other connections. -/
def State.withConns (s : State) (cs : List Conn) : State := s.modOut fun o => { o with conns := cs }

/-- A step from a state with other connections: the state that the step leaves, with those, and the same outcome. -/
def connsTo {α : Type} (cs : List Conn) (r : State × α) : State × α := (r.1.withConns cs, r.2)

theorem State.codeAt_withConns (s : State) (cs : List Conn) (line code : Nat) : (s.withConns cs).codeAt line code = s.codeAt line code := rfl

theorem State.decodeLine_withConns (s : State) (cs : List Conn) (line code : Nat) : (s.withConns cs).decodeLine line code = s.decodeLine line code := rfl

theorem State.readPhys_withConns (s : State) (cs : List Conn) (a n : Nat) : (s.withConns cs).readPhys a n = s.readPhys a n := rfl

theorem State.fieldSpans_withConns (s : State) (cs : List Conn) (a n code : Nat) : (s.withConns cs).fieldSpans a n code = s.fieldSpans a n code := rfl

theorem State.recordAll_withConns (s : State) (cs : List Conn) (a : Nat) (r : List ErrNote) :
    (s.withConns cs).recordAll a r = (s.recordAll a r).withConns cs := by
  unfold State.recordAll
  induction r generalizing s with
  | nil => rfl
  | cons n r ih =>
    cases n with
    | counted => exact ih (s.modOut fun o => { o with errCount := o.errCount + 1 })
    | recorded v => exact ih (s.record a v)

theorem State.recordIdle_withConns (s : State) (cs : List Conn) (sp : List Span) : (s.withConns cs).recordIdle sp = (s.recordIdle sp).withConns cs := by
  simp only [State.recordIdle, State.codeAt_withConns, State.decodeLine_withConns]
  generalize (sp.map (·.line)).eraseDups = ls
  suffices hall : ∀ t : State, ls.foldl _ (t.withConns cs) = (ls.foldl _ t).withConns cs from hall s
  induction ls with
  | nil => exact fun _ => rfl
  | cons l ls ih =>
    intro t
    rw [List.foldl_cons, List.foldl_cons, ← ih]
    refine congrArg (ls.foldl _) ?_
    split
    next hd => exact if_pos hd
    next hd => exact (if_neg hd).trans (State.recordAll_withConns ..)

theorem State.walkRead_withConns (s : State) (cs : List Conn) (die a : Nat) : (s.withConns cs).walkRead die a = connsTo cs (s.walkRead die a) := by
  have hlink : (s.withConns cs).linkBroken die a = s.linkBroken die a := rfl
  have hown : (s.withConns cs).ownCode (a / 64) = s.ownCode (a / 64) := rfl
  simp only [State.walkRead, hlink, hown, State.readPhys_withConns, State.fieldSpans_withConns, State.recordIdle_withConns]
  split
  · rfl
  · split <;> rfl

theorem State.walkFrom_withConns (tlb ctx va n : Nat) (s : State) (cs : List Conn) (table : Nat) :
    State.walkFrom tlb ctx va n (s.withConns cs) table = connsTo cs (State.walkFrom tlb ctx va n s table) := by
  induction n generalizing s table with
  | zero => rfl
  | succ n ih =>
    have hfind (level : Nat) : (s.withConns cs).tlbFind tlb ctx level va = s.tlbFind tlb ctx level va := rfl
    have hsize (t : State) : (t.withConns cs).partSize = t.partSize := rfl
    have hplace : (s.withConns cs).tlbDie tlb ctx = s.tlbDie tlb ctx ∧ (s.withConns cs).partBase ((s.withConns cs).partOfCtx ctx) = s.partBase (s.partOfCtx ctx) := ⟨rfl, rfl⟩
    have hadd (t : State) (level : Nat) (e : Word) : (t.withConns cs).tlbAdd tlb ctx level va e = (t.tlbAdd tlb ctx level va e).withConns cs := rfl
    unfold State.walkFrom
    dsimp only
    rw [hfind, hsize, hplace.1, hplace.2, State.walkRead_withConns]
    simp only [connsTo, hadd, hsize, ih]
    repeat' split
    all_goals rfl

theorem State.walk_withConns (s : State) (cs : List Conn) (tlb ctx va : Nat) : (s.withConns cs).walk tlb ctx va = connsTo cs (s.walk tlb ctx va) := by
  have hctx : (s.withConns cs).ctx? ctx = s.ctx? ctx := rfl
  unfold State.walk
  rw [hctx]
  split
  · rfl
  · exact State.walkFrom_withConns ..

theorem State.translate_withConns (s : State) (cs : List Conn) (tlb ctx va : Nat) (n : Need) :
    (s.withConns cs).translate tlb ctx va n = connsTo cs (s.translate tlb ctx va n) := by
  have hfor : (s.withConns cs).walkFor tlb ctx va n = connsTo cs (s.walkFor tlb ctx va n) := by
    unfold State.walkFor
    rw [State.walk_withConns]
    dsimp only [connsTo]
    split
    · split
      · rfl
      · exact State.walk_withConns ((s.walk tlb ctx va).1.tlbDrop _) ..
    · rfl
  unfold State.translate
  rw [hfor]
  rfl

/-- A translation gives a target of its own address. -/
theorem State.translate_va {tlb ctx va : Nat} {n : Need} {t : Target} (h : (s.translate tlb ctx va n).2 = .ok t) : t.va = va := by
  unfold State.translate at h
  dsimp only at h
  split at h
  · exact nomatch h
  · exact nomatch h
  · exact nomatch h
  · split at h
    · cases h
      unfold State.leafTarget
      dsimp only
      split
      · rfl
      · split <;> rfl
    · split at h <;> exact nomatch h

end Sys2Proof.Machine
end

section
/-! SUPPORT of O55: the writes and reads of the host at the homes, and its own copies (R97, R135, R366). -/

open Sys2Proof
namespace Sys2Proof.Machine

variable {s t u : State}

/-! ## Pieces of lines -/

theorem linePieces_one {a n : Nat} (hn : 0 < n) (h : a % 64 + n ≤ 64) : linePieces a n = [(a, n)] := by
  rw [linePieces, if_neg (by omega), show (a % 64 + n + 63) / 64 = 1 by omega]
  change [_] = _
  dsimp only
  rw [show max a (64 * (a / 64 + 0)) = a by omega, show min (a + n) (64 * (a / 64 + 0 + 1)) - a = n by omega]

/-- The pieces reach the line of every byte. -/
theorem mem_lines_linePieces {a n i : Nat} (hi : i < n) : (a + i) / 64 ∈ (linePieces a n).map fun p => p.1 / 64 := by
  rw [linePieces, if_neg (by omega), List.map_map]
  refine List.mem_map.mpr ⟨(a + i) / 64 - a / 64, List.mem_range.mpr (by omega), ?_⟩
  change max a (64 * (a / 64 + ((a + i) / 64 - a / 64))) / 64 = (a + i) / 64
  omega

/-! ## Bytes of one line written at its home -/

/-- The bytes that a port writes at a place, as one field. -/
def byteField (t : Target) (data : List Byte) : FieldWrite := (t, data.length, ofBytes data)

theorem ofBytes_lt (l : List Byte) : ofBytes l < 2 ^ (8 * l.length) := by
  rw [← List.take_length (l := l), ofBytes_take, List.take_length]
  exact Nat.mod_lt _ (Nat.two_pow_pos _)

theorem ofNat_ofBytes_div {l : List Byte} {i : Nat} (hi : i < l.length) : BitVec.ofNat 8 (ofBytes l / 2 ^ (8 * i)) = l.getD i 0 := by
  have h := toBytes_getElem? (x := ofBytes l) hi
  rw [toBytes_ofBytes] at h
  rw [List.getD_eq_getElem?_getD, h, Option.getD_some]

/-- Bytes that lie in one line, written at its home: no byte of another line changes, and in a line without error each byte written holds its datum and
every other stays. -/
theorem State.byteAt_homeWrites_byteField (hs : s.store.wf = true) (g : Nat) {at_ : Target} {data : List Byte} (hin : at_.at_ % 64 + data.length ≤ 64) :
    (∀ a, a / 64 ≠ at_.at_ / 64 → byteAt (s.homeWrites g [(byteField at_ data).line]) a = byteAt s a) ∧
    (s.lineReads (at_.at_ / 64) at_.code → ∀ a, byteAt (s.homeWrites g [(byteField at_ data).line]) a =
      if at_.at_ ≤ a ∧ a < at_.at_ + data.length then data.getD (a - at_.at_) 0 else byteAt s a) := by
  have hne : ∀ a, a / 64 ≠ at_.at_ / 64 → byteAt (s.homeWrites g [(byteField at_ data).line]) a = byteAt s a := fun a ha =>
    State.byteAt_homeWrites_ne hs g fun w hw => by
      obtain rfl := List.mem_singleton.mp hw
      exact fun h => ha h.symm
  refine ⟨hne, fun hr a => ?_⟩
  have hf := State.byteAt_homeWrites_fields hs g (ps := [byteField at_ data]) (a := a)
    (fun p hp => by rw [List.mem_singleton.mp hp]; exact hin) (fun p hp hl => by
      obtain rfl := List.mem_singleton.mp hp
      rw [← hl]
      exact hr)
  refine hf.trans ?_
  change (if at_.at_ ≤ a ∧ a < at_.at_ + data.length then BitVec.ofNat 8 (ofBytes data / 2 ^ (8 * (a - at_.at_))) else byteAt s a) = _
  split
  next hc => exact ofNat_ofBytes_div (by omega)
  · rfl

theorem State.homeWrites_out (s : State) (g : Nat) (ws : List LineWrite) : (s.homeWrites g ws).out = s.out := by
  rw [State.homeWrites]
  generalize ws.foldl addWrite [] = l
  induction l generalizing s with
  | nil => rfl
  | cons w r ih =>
    refine (ih (s.homeWrite g w.line w.mask w.value none w.code)).trans ?_
    unfold State.homeWrite
    dsimp only
    rw [State.touchLine_eq]

/-! ## The host's writes -/

/-- A place of device memory as the home itself knows it. -/
def State.ownTarget (s : State) (at_ : Nat) : Target := { scrTarget at_ with code := s.ownCode (at_ / 64) }

/-- Bytes of one line that a port writes by place. -/
theorem State.portWrite_one {at_ : Nat} {data : List Byte} (hn : 0 < data.length) (hin : at_ % 64 + data.length ≤ 64) :
    s.portWrite at_ data = s.homeWrites noWave [(byteField (s.ownTarget at_) data).line] := by
  rw [State.portWrite, linePieces_one hn hin, List.map_singleton]
  dsimp only
  rw [Nat.sub_self, List.drop_zero, List.take_length]
  change s.homeWrites noWave [_] = s.homeWrites noWave [⟨_, _, (ofBytes data % 2 ^ (8 * data.length)) <<< _, _⟩]
  rw [Nat.mod_eq_of_lt (ofBytes_lt data)]
  rfl

theorem State.codeAt_ownCode (s : State) (line : Nat) : s.codeAt line (s.ownCode line) = s.ownCode line := by
  rw [State.ownCode]
  unfold State.codeAt
  generalize firstSome _ s.berths = r
  cases r with
  | none => rfl
  | some r => rfl

/-- A host write of bytes of one line (R135). -/
theorem State.hostWrite_one (hs : s.store.wf = true) {p pa at_ : Nat} {data : List Byte} (hp : s.hostPlace p pa data.length = some at_) (hn : 0 < data.length)
    (hin : at_ % 64 + data.length ≤ 64) :
    let u := s.hostWrite p pa data
    (∀ a, a / 64 ≠ at_ / 64 → byteAt u a = byteAt s a) ∧ (∀ l ∈ u.out.hostLines, l.1 ≠ at_ / 64) ∧
      ((lineFmt (s.ownCode (at_ / 64)) (lineInUnit (at_ / 64))).reads (s.store.bits1 (at_ / 64)) →
        ∀ a, byteAt u a = if at_ ≤ a ∧ a < at_ + data.length then data.getD (a - at_) 0 else byteAt s a) := by
  rw [State.hostWrite, hp]
  dsimp only
  rw [State.portWrite_one hn hin]
  generalize hd : s.dropHostLines (at_ / 64) ((at_ % 64 + data.length + 63) / 64) = d
  have hstore : d.store = s.store := by rw [← hd]; rfl
  have hcode : ∀ line code, d.codeAt line code = s.codeAt line code := fun line code => by rw [← hd]; rfl
  have hown : d.ownCode (at_ / 64) = s.ownCode (at_ / 64) := by rw [State.ownCode, State.ownCode, hcode, hstore]
  have hbyte (a : Nat) : byteAt d a = byteAt s a := by rw [byteAt, byteAt, hstore]
  obtain ⟨hother, hline⟩ := State.byteAt_homeWrites_byteField (s := d) (hstore ▸ hs) noWave (at_ := d.ownTarget at_) (data := data) hin
  refine ⟨fun a ha => (hother a ha).trans (hbyte a), fun l hl => ?_, fun hr a => ?_⟩
  · rw [State.homeWrites_out, ← hd] at hl
    have := (List.mem_filter.mp hl).2
    simp only [Bool.not_eq_true', Bool.and_eq_false_iff, decide_eq_false_iff_not] at this
    omega
  · rw [← hbyte]
    refine hline ?_ a
    change (lineFmt (d.codeAt (at_ / 64) (d.ownCode (at_ / 64))) (lineInUnit (at_ / 64))).reads (d.store.bits1 (at_ / 64))
    rw [State.codeAt_ownCode, hown, hstore]
    exact hr

theorem State.hostPlace_before (hb : s.out.booted = false) {p pa n : Nat} (h : p ≠ 0 ∨ 2 ^ 28 < pa + n) : s.hostPlace p pa n = none := by
  rw [State.hostPlace, hb, if_neg Bool.false_ne_true, if_neg (by omega)]

/-! ## The host's reads -/

/-- A host read leaves everything but its data and its copies (R135). -/
theorem State.hostRead_leaves {p pa n at_ : Nat} (hp : s.hostPlace p pa n = some at_) (cached : Bool) : ∃ u, s.hostRead p pa n cached = u ∧
    u.out.hostData = (List.range n).map (fun i => s.hostByte (at_ + i)) ∧ u.store = s.store ∧ u.waves = s.waves ∧
    u.out.hostLines = s.out.hostLines ++ ((if cached then (linePieces at_ n).map fun p => p.1 / 64 else []).filter fun l => !s.out.hostLines.any (·.1 == l)).map
      fun l => (l, (s.readPhys (64 * l) 64).1) := by
  rw [State.hostRead, hp]
  exact ⟨_, rfl, rfl, rfl, rfl, rfl⟩

theorem State.hostByte_own {a : Nat} {l : Nat × Nat} (h : s.out.hostLines.find? (·.1 == a / 64) = some l) :
    s.hostByte a = BitVec.ofNat 8 (l.2 / 2 ^ (8 * (a % 64))) := by
  rw [State.hostByte, h]
  dsimp only
  rw [Nat.shiftRight_eq_div_pow]

theorem State.hostByte_home {a : Nat} (h : s.out.hostLines.find? (·.1 == a / 64) = none) : s.hostByte a = BitVec.ofNat 8 (s.readPhys a 1).1 := by
  rw [State.hostByte, h]

end Sys2Proof.Machine
end

section
/-! SUPPORT of O55: BAR0, the MSI-X table and what is held pending (R295, R366, R374). -/

open Sys2Proof
namespace Sys2Proof.Machine

variable {s t u : State} {l : List (Nat × Nat)}

/-! ## The MSI-X table and held messages (R295) -/

theorem Outside.msixWord_setMsix {o : Outside} (ho : Cells.wf o.msix = true) (f k : Nat) (x : Word) (j : Nat) :
    (o.setMsix f k x).msixWord f j = if k = j then x else o.msixWord f j := by
  rw [Outside.msixWord, Outside.setMsix, Cells.get_set _ _ _ _ ho]
  by_cases h : k = j
  · subst h
    rw [if_pos rfl, if_pos rfl, BitVec.xor_assoc, BitVec.xor_self, BitVec.xor_zero]
  · rw [if_neg (by omega), if_neg h]
    rfl

/-- What sending held messages leaves: those of a list that may be sent have left the pending ones, and nothing but what is sent, what is held and
the host's copies differs. -/
structure sentHeld (s t : State) (l : List (Nat × Nat)) : Prop where
  rest : t = { s with out := { s.out with sent := t.out.sent, pending := t.out.pending, hostLines := t.out.hostLines } }
  sent : t.out.sent = s.out.sent ++ (l.filter fun p => s.out.msixReady p.1 p.2).map fun p => s.out.msi p.1 p.2
  pending : ∀ p, p ∈ t.out.pending ↔ p ∈ s.out.pending ∧ ¬ (p ∈ l ∧ s.out.msixReady p.1 p.2 = true)

theorem sentHeld.ready (h : sentHeld s t l) (f v : Nat) : t.out.msixReady f v = s.out.msixReady f v := by rw [h.rest]; rfl

theorem sentHeld.msi (h : sentHeld s t l) (f v : Nat) : t.out.msi f v = s.out.msi f v := by rw [h.rest]; rfl

theorem sentHeld.msixWord (h : sentHeld s t l) (f k : Nat) : t.out.msixWord f k = s.out.msixWord f k := by rw [h.rest]; rfl

theorem sentHeld.store (h : sentHeld s t l) : t.store = s.store := by rw [h.rest]

theorem sentHeld.cons {p : Nat × Nat} (h : sentHeld s t [p]) (k : sentHeld t u l) : sentHeld s u (p :: l) where
  rest := by rw [k.rest, h.rest]
  sent := by
    rw [k.sent, h.sent, List.append_assoc]
    simp only [h.ready, h.msi]
    rw [show p :: l = [p] ++ l from rfl, List.filter_append, List.map_append]
  pending q := by
    rw [k.pending, h.pending, h.ready]
    simp only [List.mem_cons, List.not_mem_nil, or_false]
    tauto

/-- One held message: sent where it may be. -/
theorem sentHeld.one (s : State) (p : Nat × Nat) :
    sentHeld s (if s.out.msixReady p.1 p.2 then (s.modOut fun o => { o with pending := o.pending.filter (· != p) }).sendMsix p.1 p.2 else s) [p] := by
  split
  next h =>
    have heq : (s.modOut fun o => { o with pending := o.pending.filter (· != p) }).sendMsix p.1 p.2 = s.modOut fun o =>
        { o with pending := o.pending.filter (· != p), hostLines := [], sent := o.sent ++ [o.msi p.1 p.2] } :=
      congrArg (fun o => ({ s with out := o } : State)) (if_pos h)
    rw [heq]
    refine ⟨rfl, ?_, fun q => ?_⟩
    · rw [List.filter_cons_of_pos (p := fun p : Nat × Nat => s.out.msixReady p.1 p.2) h]
      rfl
    · change q ∈ s.out.pending.filter (· != p) ↔ _
      rw [List.mem_filter, List.mem_singleton, bne_iff_ne]
      refine and_congr_right fun _ => ⟨fun hq hp => hq hp.1, fun hq hp => hq ⟨hp, hp ▸ h⟩⟩
  next h =>
    refine ⟨rfl, ?_, fun q => ?_⟩
    · rw [List.filter_cons_of_neg (p := fun p : Nat × Nat => s.out.msixReady p.1 p.2) h]
      exact (List.append_nil _).symm
    · rw [List.mem_singleton]
      refine (and_iff_left ?_).symm
      rintro ⟨rfl, hr⟩
      exact h hr

theorem sentHeld.sendPending (s : State) : sentHeld s s.sendPending s.out.pending := by
  rw [State.sendPending]
  generalize s.out.pending = l
  induction l generalizing s with
  | nil => exact ⟨rfl, (List.append_nil _).symm, fun p => by simp⟩
  | cons p l ih => exact (sentHeld.one s p).cons (ih _)

/-! ## Doublewords of BAR0 (R366) -/

theorem ofBytes_zeros (n : Nat) : ofBytes ((List.range n).map fun _ => (0 : Byte)) = 0 := by
  rw [List.map_const', List.length_range]
  induction n with
  | zero => rfl
  | succ n ih => rw [List.replicate_succ, ofBytes, ih]; rfl

/-- A doubleword written to BAR0 of a function that the port presents. -/
theorem State.bar0Write_word {f k : Nat} (hf : s.hasFunction f = true) (hk : k < 8192) (x : Word) : s.bar0Write f (8 * k) (toBytes 8 x.toNat) = s.putBar0 f k x := by
  have hskip (v : State) (j : Nat) (hj : 8 * k + 8 ≤ 8 * j) : min (8 * k + 8) (8 * j + 8) ≤ max (8 * k) (8 * j) ∨ (j = 7681 ∧ 8 * j < max (8 * k) (8 * j)) :=
    .inl (by omega)
  have hval (b : Word) : BitVec.ofNat 64 (putBits b.toNat (8 * (8 * k - 8 * k)) (8 * (8 * k + 8 - 8 * k))
      (ofBytes (((toBytes 8 x.toNat).drop (8 * k - 8 * k)).take (8 * k + 8 - 8 * k)))) = x := by
    have hb : b.toNat % 2 ^ 64 = b.toNat := Nat.mod_eq_of_lt b.isLt
    have hx : x.toNat % 2 ^ 64 = x.toNat := Nat.mod_eq_of_lt x.isLt
    have hbits : bits b.toNat 0 64 = b.toNat := by rw [bits, Nat.shiftRight_zero, hb]
    rw [Nat.sub_self, Nat.add_sub_cancel_left, List.drop_zero, ofBytes_take, ofBytes_toBytes, putBits]
    change BitVec.ofNat 64 (b.toNat - bits b.toNat 0 64 <<< 0 + (x.toNat % 2 ^ 64 % 2 ^ 64 % 2 ^ 64) <<< 0) = x
    rw [hbits, hx, hx, hx, Nat.shiftLeft_zero, Nat.shiftLeft_zero, Nat.sub_self, Nat.zero_add, BitVec.ofNat_toNat, BitVec.setWidth_eq]
  rw [State.bar0Write, length_toBytes, hf, if_neg (by simp; omega)]
  change List.foldl _ s [8 * k / 8, 8 * k / 8 + 1, 8 * k / 8 + 2] = _
  rw [show 8 * k / 8 = k by omega, List.foldl_cons, List.foldl_cons, List.foldl_cons, List.foldl_nil]
  dsimp only
  rw [if_pos (hskip s (k + 2) (by omega)), if_pos (hskip s (k + 1) (by omega)), if_neg (by omega), show max (8 * k) (8 * k) = 8 * k by omega,
    show min (8 * k + 8) (8 * k + 8) = 8 * k + 8 by omega, hval]

theorem State.ofBytes_bar0Bytes {f : Nat} (hf : s.hasFunction f = true) (k : Nat) : ofBytes (s.bar0Bytes f (8 * k) 8) = (s.bar0 f k).toNat := by
  have h : s.bar0Bytes f (8 * k) 8 = toBytes 8 (s.bar0 f k).toNat := by
    rw [State.bar0Bytes, toBytes]
    refine List.map_congr_left fun i hi => ?_
    have hi := List.mem_range.mp hi
    rw [if_pos hf, show (8 * k + i) / 8 = k by omega, show (8 * k + i) % 8 = i by omega]
  rw [h, ofBytes_toBytes]
  exact Nat.mod_eq_of_lt (s.bar0 f k).isLt

theorem State.ofBytes_bar0Bytes_absent {f : Nat} (hf : s.hasFunction f = false) (a : Nat) : ofBytes (s.bar0Bytes f a 8) = 0 := by
  rw [State.bar0Bytes, hf]
  exact ofBytes_zeros 8

/-- The pending bits show what is held (R295). -/
theorem State.testBit_bar0_pending {f j i : Nat} (hj : j < 32) (hi : i < 64) : (s.bar0 f (4096 + j)).toNat.testBit i = true ↔ (f, 64 * j + i) ∈ s.out.pending := by
  unfold State.bar0
  rw [if_neg (by omega), if_pos (by omega), BitVec.toNat_ofNat, Nat.testBit_mod_two_pow, testBit_maskOf]
  simp only [hi, decide_true, Bool.true_and, decide_eq_true_eq, List.mem_map, List.mem_filter, Bool.and_eq_true, beq_iff_eq]
  constructor
  · rintro ⟨p, ⟨hp, rfl, hd⟩, hm⟩
    have : p = (p.1, 64 * j + i) := Prod.ext rfl (by omega)
    rwa [← this]
  · exact fun h => ⟨_, ⟨h, rfl, by omega⟩, by omega⟩

/-- The words past the pending bits: the boot function's mailbox (R374). -/
theorem State.bar0_mailbox {f k : Nat} (hk : 4128 ≤ k) : (s.bar0 f k).toNat = if s.out.booted then 0 else if k = 7680 then s.out.bootLen.toNat
    else if k = 7681 then s.out.bootCmd.toNat else if k = 7682 then s.out.bootStat.toNat else if k = 7683 then s.out.bootVec.toNat else 0 := by
  unfold State.bar0
  rw [if_neg (by omega), if_neg (by omega)]
  cases s.out.booted
  · simp only [Bool.false_eq_true, if_false]
    split
    · rfl
    · rw [if_neg (by decide), if_pos rfl, BitVec.toNat_setWidth, Nat.mod_eq_of_lt]
      omega
    · rfl
    · rw [if_neg (by decide), if_neg (by decide), if_neg (by decide), if_pos rfl, BitVec.toNat_setWidth, Nat.mod_eq_of_lt]
      omega
    next h1 h2 h3 h4 => rw [if_neg h1, if_neg h2, if_neg h3, if_neg h4]; rfl
  · rfl

theorem State.putBar0_table {f k : Nat} (hk : k < 4096) (x : Word) : s.putBar0 f k x = (s.modOut fun o => o.setMsix f k x).sendPending := if_pos hk

/-- A word of the boot function's mailbox is written (R374). -/
theorem State.putBar0_mailbox (hb : s.out.booted = false) (f : Nat) (x : Word) :
    s.putBar0 f 7680 x = s.modOut (fun o => { o with bootLen := x }) ∧ s.putBar0 f 7683 x = s.modOut (fun o => { o with bootVec := x.setWidth 11 }) ∧
      s.putBar0 f 7681 x = if x.getLsbD 0 then (s.modOut fun o => { o with bootCmd := x.setWidth 1 }).bootGo else s.modOut fun o => { o with bootCmd := x.setWidth 1 } := by
  unfold State.putBar0
  rw [hb]
  exact ⟨rfl, rfl, rfl⟩

end Sys2Proof.Machine
end

section
/-! SUPPORT and SETTLEMENT of O55: packets of the network port, and the four parts of the host port (R366, R371, R372, R374). -/

open Sys2Proof
namespace Sys2Proof.Machine

variable {s t u f : State}

/-! ## What the writes of a packet leave alone -/

/-- The waves are as many as before, and the connections stand. -/
structure portKept (s u : State) : Prop where
  waves : u.waves.length = s.waves.length
  conns : u.out.conns = s.out.conns

namespace portKept

theorem refl (s : State) : portKept s s := ⟨rfl, rfl⟩

theorem trans (h : portKept s t) (k : portKept t u) : portKept s u := ⟨k.waves.trans h.waves, k.conns.trans h.conns⟩

theorem of_walked (h : tlbWalked s u) : portKept s u := by
  unfold tlbWalked at h
  exact ⟨by rw [h]; rfl, by rw [h]⟩

theorem homeWrites (s : State) (g : Nat) (ws : List LineWrite) : portKept s (s.homeWrites g ws) := by
  refine ⟨?_, by rw [State.homeWrites_out]⟩
  obtain ⟨h, -, hme, ho⟩ := (s.homed_homeWrites g ws).waves
  rw [State.waves, State.waves, ho, List.length_cons, List.length_cons, List.length_map]

theorem writeAt (s : State) (g : Nat) (a : Target) (n x : Nat) : portKept s (s.writeAt g a n x).1 := by
  unfold State.writeAt
  dsimp only
  split
  · exact ⟨rfl, rfl⟩
  · refine trans (t := s.useFree a) ?_ (homeWrites ..)
    unfold State.useFree
    split <;> exact ⟨rfl, rfl⟩

theorem writesAt (l : List α) (a : α → Target) (n x : α → Nat) (s : State) : portKept s (l.foldl (fun s y => (s.writeAt noWave (a y) (n y) (x y)).1) s) := by
  induction l generalizing s with
  | nil => exact refl s
  | cons y l ih => exact (writeAt ..).trans (ih _)

theorem juwinTargets (s : State) (ctx : Nat) (l : List (Nat × Nat)) : portKept s (s.juwinTargets ctx l).1 := by
  induction l generalizing s with
  | nil => exact refl s
  | cons p l ih =>
    unfold State.juwinTargets
    have hw : portKept s (s.translate netTlb ctx p.1 .w).1 := of_walked (tlbWalked.translate ..)
    dsimp only
    split_ifs
    · exact refl s
    · exact refl s
    · exact refl s
    · split
      · exact hw
      · split_ifs
        · exact hw
        · exact hw.trans (ih _)

theorem juwinWrite (s : State) (c : Conn) (a : Nat) (data : List Byte) : portKept s (s.juwinWrite c a data) := by
  unfold State.juwinWrite
  split
  · exact ⟨rfl, rfl⟩
  · have h := juwinTargets s c.ctx (linePieces a data.length)
    dsimp only
    split
    · exact h.trans ⟨rfl, rfl⟩
    · exact h.trans (writesAt ..)

end portKept

/-! ## A packet in sequence -/

/-- The connections after a packet is counted. -/
def State.counted (s : State) (k : Packet) : List Conn := mapWhere (·.conn == k.conn) (fun c => { c with next := k.seq + 1 }) s.out.conns

theorem State.find?_counted (s : State) (k : Packet) (n : Nat) : (s.counted k).find? (·.conn == n) =
    (s.out.conns.find? (·.conn == n)).map fun c => if c.conn == k.conn then { c with next := k.seq + 1 } else c := by
  exact find?_mapWhere (f := fun c : Conn => { c with next := k.seq + 1 }) (fun _ _ => rfl) _

theorem State.find?_counted_same {k : Packet} {c : Conn} (hc : s.out.conns.find? (·.conn == k.conn) = some c) :
    (s.counted k).find? (·.conn == k.conn) = some { c with next := k.seq + 1 } := by
  rw [State.find?_counted, hc, Option.map_some, if_pos (by simpa using List.find?_some hc)]

theorem State.find?_counted_ne (s : State) {k : Packet} {n : Nat} (hn : n ≠ k.conn) : (s.counted k).find? (·.conn == n) = s.out.conns.find? (·.conn == n) := by
  rw [State.find?_counted]
  cases hc : s.out.conns.find? (·.conn == n) with
  | none => rfl
  | some c =>
    have hconn : c.conn = n := by simpa using List.find?_some hc
    rw [Option.map_some, if_neg (by simpa [hconn] using hn)]

/-- A packet in sequence is counted, and its write performed. -/
theorem exec_juwinPacket {k : Packet} {c : Conn} (hc : s.out.conns.find? (·.conn == k.conn) = some c) (hcrc : k.crcOk = true) (hseq : k.seq = c.next) :
    exec (.juwinPacket k) s = .next ((s.withConns (s.counted k)).juwinWrite c k.addr.toNat k.data) := by
  change execJuwinPacket k s = _
  unfold execJuwinPacket
  rw [hc]
  dsimp only
  rw [if_neg (by simp [hcrc, hseq])]
  rfl

/-- A packet whose write is dropped for a cause. -/
def juwinDropped (s u : State) (conn cause : Nat) : Prop :=
  u.store = s.store ∧ u.out.nacks = s.out.nacks ++ [(conn, cause)] ∧ u.out.reports = s.out.reports ++ [MgmtReport.juwinFault conn cause]

theorem juwinDropped.of_walked (h : tlbWalked s t) (cs : List Conn) (conn cause : Nat) : juwinDropped s ((t.withConns cs).juwinFault conn cause) conn cause := by
  unfold tlbWalked at h
  rw [h]
  exact ⟨rfl, rfl, rfl⟩

theorem State.juwinWrite_foreign {c : Conn} (h : 64 ≤ c.ctx ∨ s.partOfCtx c.ctx ≠ c.part) (a : Nat) (data : List Byte) :
    s.juwinWrite c a data = s.juwinFault c.conn 0x04 := by
  unfold State.juwinWrite
  rw [if_pos]
  rw [State.slotIn, Bool.not_eq_true', Bool.and_eq_false_iff, decide_eq_false_iff_not, beq_eq_false_iff_ne]
  exact h.imp_left (by omega)

/-- What a translation answers for a write of the network port. -/
def juwinAnswer (s : State) (ctx n : Nat) : TrRes → Except Nat Target
  | .ok t => if t.space = .wide then .error 0x04 else if s.cutOff (s.hmDie ctx) n t then .error 0x15 else .ok t
  | .missing => .error 0x05
  | .badLayout => .error 0x0B
  | .ue => .error 0x15
  | _ => .error 0x04

theorem State.juwinTargets_one {ctx va n : Nat} {z : TrRes} (hva : va < 0xFFFFFFFF0000) (hz : z ≠ .writeProtect) (ht : s.translate netTlb ctx va .w = (f, z)) :
    s.juwinTargets ctx [(va, n)] = (f, (juwinAnswer f ctx n z).map fun t => [(t, n)]) := by
  unfold State.juwinTargets
  rw [if_neg (by omega), if_neg (by unfold statusBase; omega), if_neg (by unfold unwalkedBase; omega), ht]
  cases z with
  | ok t =>
    dsimp only [juwinAnswer]
    by_cases hw : t.space = .wide
    · rw [if_pos hw, if_pos hw]
      rfl
    · rw [if_neg hw, if_neg hw]
      dsimp only
      split <;> rfl
  | writeProtect => exact absurd rfl hz
  | missing => rfl
  | access => rfl
  | badLayout => rfl
  | ue => rfl

theorem juwinAnswer_of_walked (h : tlbWalked s f) (cs : List Conn) (ctx n : Nat) (z : TrRes) : juwinAnswer (f.withConns cs) ctx n z = juwinAnswer s ctx n z := by
  unfold tlbWalked at h
  rw [h]
  rfl

/-- The write of a packet of one line that its connection may make. -/
theorem State.juwinWrite_one {c : Conn} {va : Nat} {data : List Byte} (hctx : c.ctx < 64) (hpart : s.partOfCtx c.ctx = c.part) (hva : va < 0xFFFFFFFF0000)
    (hn : 0 < data.length) (hin : va % 64 + data.length ≤ 64) {z : TrRes} (ht : s.translate netTlb c.ctx va .w = (f, z)) (hz : z ≠ .writeProtect) (cs : List Conn) :
    (s.withConns cs).juwinWrite c va data = match juwinAnswer s c.ctx data.length z with
      | .error e => (f.withConns cs).juwinFault c.conn e
      | .ok t => ((f.withConns cs).writeAt noWave t data.length (ofBytes ((data.drop (t.va - va)).take data.length))).1 := by
  have hslot : (s.withConns cs).slotIn c.part c.ctx = true := by
    change (decide (c.ctx < 64) && s.partOfCtx c.ctx == c.part) = true
    simp [hctx, hpart]
  have hw : tlbWalked s f := by
    have := tlbWalked.translate s netTlb c.ctx va .w
    rwa [ht] at this
  have ht' : (s.withConns cs).translate netTlb c.ctx va .w = (f.withConns cs, z) := by rw [State.translate_withConns, ht]; rfl
  unfold State.juwinWrite
  rw [hslot, linePieces_one hn hin, State.juwinTargets_one hva hz ht', juwinAnswer_of_walked hw]
  cases juwinAnswer s c.ctx data.length z <;> rfl

/-- A write of the network port in device memory is the write of its bytes at the home. -/
theorem State.writeAt_byteField {t : Target} (hd : t.space = .dev) (s : State) (g : Nat) (data : List Byte) :
    (s.writeAt g t data.length (ofBytes data)).1 = s.homeWrites g [(byteField t data).line] := by
  simp only [State.writeAt, State.fieldWrites, State.useFree, hd]
  rfl

/-- What a write of the network port in device memory leaves that no failed link cuts off. -/
theorem State.juwinWrite_dev {c : Conn} {va : Nat} {data : List Byte} {t : Target} (hs : s.store.wf = true) (hctx : c.ctx < 64) (hpart : s.partOfCtx c.ctx = c.part)
    (hva : va < 0xFFFFFFFF0000) (hn : 0 < data.length) (hin : va % 64 + data.length ≤ 64) (ht : s.translate netTlb c.ctx va .w = (f, .ok t)) (hd : t.space = .dev)
    (hline : t.at_ % 64 + data.length ≤ 64) (hcut : s.cutOff (s.hmDie c.ctx) data.length t = false) (cs : List Conn) :
    let u := (s.withConns cs).juwinWrite c va data
    u.out.nacks = s.out.nacks ∧ (∀ a, a / 64 ≠ t.at_ / 64 → byteAt u a = byteAt s a) ∧
      (s.lineReads (t.at_ / 64) t.code → ∀ a, byteAt u a = if t.at_ ≤ a ∧ a < t.at_ + data.length then data.getD (a - t.at_) 0 else byteAt s a) := by
  have hwalk : tlbWalked s f := by
    have := tlbWalked.translate s netTlb c.ctx va .w
    rwa [ht] at this
  have htva : t.va = va := State.translate_va (by rw [ht])
  have hans : juwinAnswer s c.ctx data.length (.ok t) = .ok t := by
    rw [juwinAnswer, hcut, if_neg (by rw [hd]; simp), if_neg Bool.false_ne_true]
  have heq : (s.withConns cs).juwinWrite c va data = (f.withConns cs).homeWrites noWave [(byteField t data).line] := by
    rw [State.juwinWrite_one hctx hpart hva hn hin ht (by simp), hans]
    dsimp only
    rw [htva, Nat.sub_self, List.drop_zero, List.take_length, State.writeAt_byteField hd]
  rw [heq]
  unfold tlbWalked at hwalk
  have hnacks : (f.withConns cs).out.nacks = s.out.nacks := by rw [hwalk]; rfl
  have hstore : (f.withConns cs).store = s.store := by rw [hwalk]; rfl
  have hreads : (f.withConns cs).lineReads (t.at_ / 64) t.code ↔ s.lineReads (t.at_ / 64) t.code := by rw [hwalk]; rfl
  have hbyte (a : Nat) : byteAt (f.withConns cs) a = byteAt s a := by rw [byteAt, byteAt, hstore]
  obtain ⟨hother, hat⟩ := State.byteAt_homeWrites_byteField (s := f.withConns cs) (hstore ▸ hs) noWave (at_ := t) (data := data) hline
  refine ⟨by rw [State.homeWrites_out]; exact hnacks, fun a ha => (hother a ha).trans (hbyte a), fun hr a => ?_⟩
  rw [← hbyte]
  exact hat (hreads.mpr hr) a

/-! ## The parts of the host port -/

/-- What a doubleword written to the table leaves. -/
theorem State.putBar0_table_leaves (hm : Cells.wf s.out.msix = true) {f k : Nat} (hk : k < 4096) (x : Word) :
    (s.putBar0 f k x).store = s.store ∧ (s.putBar0 f k x).out.msixWord f k = x ∧
      ∀ j, j < 4096 → j ≠ k → (s.putBar0 f k x).out.msixWord f j = s.out.msixWord f j := by
  have hsend := sentHeld.sendPending (s.modOut fun o => o.setMsix f k x)
  rw [State.putBar0_table hk]
  refine ⟨hsend.store, ?_, fun j _ hj => ?_⟩
  · rw [hsend.msixWord]
    exact (Outside.msixWord_setMsix hm f k x k).trans (if_pos rfl)
  · rw [hsend.msixWord]
    exact (Outside.msixWord_setMsix hm f k x j).trans (if_neg (Ne.symm hj))

theorem setWidth_one_of_bit {x : Word} (h : x.getLsbD 0 = true) : x.setWidth 1 = 1 := by
  refine BitVec.eq_of_getLsbD_eq fun i hi => ?_
  obtain rfl : i = 0 := by omega
  rw [BitVec.getLsbD_setWidth, h]
  rfl

theorem setWidth_one_of_not {x : Word} (h : ¬ x.getLsbD 0 = true) : x.setWidth 1 = 0 := by
  refine BitVec.eq_of_getLsbD_eq fun i hi => ?_
  obtain rfl : i = 0 := by omega
  rw [BitVec.getLsbD_setWidth, Bool.eq_false_of_not_eq_true h]
  rfl

theorem word_unmask (w : Word) : (w &&& ~~~0x100000000).getLsbD 32 = false ∧ (w &&& ~~~0x100000000).setWidth 32 = w.setWidth 32 := by
  have hbit (i : Nat) (hi : i < 64) : (~~~(0x100000000 : Word)).getLsbD i = !decide (i = 32) := by
    rw [BitVec.getLsbD_not, show (0x100000000 : Word) = BitVec.twoPow 64 32 by decide, BitVec.getLsbD_twoPow]
    simp [hi, eq_comm]
  refine ⟨by rw [BitVec.getLsbD_and, hbit 32 (by decide)]; simp, BitVec.eq_of_getLsbD_eq fun i hi => ?_⟩
  rw [BitVec.getLsbD_setWidth, BitVec.getLsbD_setWidth, BitVec.getLsbD_and, hbit i (by omega)]
  simp [show i ≠ 32 by omega]

/-- What unmasking a vector leaves (R295). -/
theorem State.unmask_leaves (hm : Cells.wf s.out.msix = true) (fn : Nat) (v : BitVec 11) : ∃ u, exec (.msixVectorUnmask fn v) s = .next u ∧ u.store = s.store ∧
    (∀ j, u.out.msixWord fn j = if 2 * v.toNat + 1 = j then s.out.msixWord fn (2 * v.toNat + 1) &&& ~~~0x100000000 else s.out.msixWord fn j) ∧
    ((fn, v.toNat) ∈ s.out.pending → (fn ∈ s.out.msixOn →
        ⟨fn, v.toNat, s.out.msixWord fn (2 * v.toNat), (s.out.msixWord fn (2 * v.toNat + 1)).setWidth 32⟩ ∈ u.out.sent ∧ (fn, v.toNat) ∉ u.out.pending) ∧
      (fn ∉ s.out.msixOn → (fn, v.toNat) ∈ u.out.pending)) := by
  obtain ⟨hclear, hdata⟩ := word_unmask (s.out.msixWord fn (2 * v.toNat + 1))
  generalize hw : s.out.msixWord fn (2 * v.toNat + 1) &&& ~~~0x100000000 = w at hclear hdata
  obtain ⟨t, ht⟩ : ∃ t, t = s.modOut fun o => o.setMsix fn (2 * v.toNat + 1) w := ⟨_, rfl⟩
  have hword (j : Nat) : t.out.msixWord fn j = if 2 * v.toNat + 1 = j then w else s.out.msixWord fn j := by
    rw [ht]
    exact Outside.msixWord_setMsix hm ..
  have hpend : t.out.pending = s.out.pending := by rw [ht]; rfl
  have hon : t.out.msixOn = s.out.msixOn := by rw [ht]; rfl
  have hready : t.out.msixReady fn v.toNat = s.out.msixOn.contains fn := by
    rw [Outside.msixReady, hword, if_pos rfl, hclear, hon, Bool.not_false, Bool.and_true]
  have hmsi : t.out.msi fn v.toNat = ⟨fn, v.toNat, s.out.msixWord fn (2 * v.toNat), (s.out.msixWord fn (2 * v.toNat + 1)).setWidth 32⟩ := by
    rw [Outside.msi, hword, hword, if_pos rfl, if_neg (by omega), hdata]
  have hsend := sentHeld.sendPending t
  refine ⟨t.sendPending, ?_, ?_, fun j => (hsend.msixWord fn j).trans (hword j), fun hp => ⟨fun hf => ⟨?_, ?_⟩, fun hf => ?_⟩⟩
  · rw [ht, ← hw]
    rfl
  · rw [hsend.store, ht]
    rfl
  · rw [hsend.sent, ← hmsi]
    refine List.mem_append_right _ (List.mem_map.mpr ⟨(fn, v.toNat), List.mem_filter.mpr ⟨hpend ▸ hp, ?_⟩, rfl⟩)
    dsimp only
    rw [hready, List.contains_iff_mem]
    exact hf
  · rw [hsend.pending, hready, List.contains_iff_mem]
    exact fun h => h.2 ⟨hpend ▸ hp, hf⟩
  · rw [hsend.pending, hready, List.contains_iff_mem]
    exact ⟨hpend ▸ hp, fun h => hf h.2⟩

/-- Settles O55: what the host and the network write are bytes at their homes (`State.byteAt_homeWrites_byteField`), BAR0 is read and written a doubleword at
a time (`State.bar0Write_word`, `State.ofBytes_bar0Bytes`), and what is held is sent as `sentHeld` says. -/
theorem hostPort : Obligations.HostPort := by
  refine ⟨fun s p pa data hm => ⟨fun hb h => ?_, fun at_ hp hn hin => ?_, fun at_ n cached hp => ?_, fun line => ?_⟩,
    fun s f k x hm => ⟨fun hf hk => ?_, fun hf => ?_, fun hb hf => ?_, ?_⟩, fun s k hm => ⟨fun hc => ?_, fun c hc => ⟨fun hbad => ?_, fun hcrc hseq => ?_⟩⟩,
    fun s fn v hm => ?_⟩
  · change Host.Outcome.next (s.hostWrite p pa data) = _
    rw [State.hostWrite, State.hostPlace_before hb h]
  · obtain ⟨hother, hlines, hread⟩ := State.hostWrite_one hm.store hp hn hin
    exact ⟨_, rfl, hother, hlines, fun hd hf => hread ⟨hd, hf⟩⟩
  · obtain ⟨u, hu, hdata, hstore, hwaves, hlines⟩ := State.hostRead_leaves hp cached
    have hexec : exec (.hostRead p pa n (if cached then .cached else .plain)) s = .next u := by
      rw [← hu]
      cases cached <;> rfl
    refine ⟨u, hexec, hdata.trans (List.map_congr_left fun i _ => ?_), hstore, hwaves, fun hc => ?_, fun hc => ⟨fun l hl => ?_, fun i hi hnone => ?_⟩⟩
    · cases hfind : s.out.hostLines.find? (·.1 == (at_ + i) / 64) with
      | none => exact State.hostByte_home hfind
      | some l => exact State.hostByte_own hfind
    · rw [hlines, hc]
      exact List.append_nil _
    · rw [hlines]
      exact List.mem_append_left _ hl
    · rw [hlines, hc]
      refine List.mem_append_right _ (List.mem_map.mpr ⟨(at_ + i) / 64, List.mem_filter.mpr ⟨mem_lines_linePieces hi, ?_⟩, rfl⟩)
      rw [Bool.not_eq_true', List.any_eq_false]
      exact fun l hl => by simpa using hnone l hl
  · refine ⟨_, rfl, rfl, rfl, fun l => ?_⟩
    change l ∈ s.out.hostLines.filter _ ↔ _
    rw [List.mem_filter, bne_iff_ne]
  · obtain ⟨hstore, hsame, hother⟩ := State.putBar0_table_leaves hm (f := f) hk x
    exact ⟨_, congrArg Host.Outcome.next (State.bar0Write_word hf (by omega) x), hstore, hsame, hother⟩
  · refine congrArg Host.Outcome.next ?_
    change s.bar0Write f (8 * k) _ = s
    rw [State.bar0Write, hf]
    rfl
  · have hfn : s.hasFunction f = true := by rw [State.hasFunction, hb, hf]; rfl
    obtain ⟨hlen, hvec, hcmd⟩ := State.putBar0_mailbox hb f x
    refine ⟨congrArg Host.Outcome.next ((State.bar0Write_word hfn (by decide) x).trans hlen),
      congrArg Host.Outcome.next ((State.bar0Write_word hfn (by decide) x).trans hvec),
      (congrArg Host.Outcome.next ((State.bar0Write_word hfn (by decide) x).trans hcmd)).trans ?_⟩
    by_cases hx : x.getLsbD 0 = true
    · rw [if_pos hx, if_pos hx, setWidth_one_of_bit hx]
      change _ = Host.Outcome.next (if s.out.booted then s else _)
      rw [hb]
      rfl
    · rw [if_neg hx, if_neg hx, setWidth_one_of_not hx]
      rfl
  · refine ⟨_, rfl, rfl, fun hf => State.ofBytes_bar0Bytes_absent hf _, fun hf => ⟨fun hk => ?_, fun j i hkj hj hi => ?_, fun hk => ?_⟩⟩
    · refine (State.ofBytes_bar0Bytes hf k).trans (congrArg BitVec.toNat ?_)
      unfold State.bar0
      exact if_pos hk
    · subst hkj
      rw [← State.testBit_bar0_pending hj hi, ← State.ofBytes_bar0Bytes hf]
      rfl
    · exact (State.ofBytes_bar0Bytes hf k).trans (State.bar0_mailbox hk)
  · change execJuwinPacket k s = _
    rw [execJuwinPacket, hc]
  · change execJuwinPacket k s = _
    rw [execJuwinPacket, hc]
    refine congrArg Host.Outcome.next (if_pos ?_)
    simpa using hbad
  · have hconn : c.conn = k.conn := by simpa using List.find?_some hc
    have hkept := portKept.juwinWrite (s.withConns (s.counted k)) c k.addr.toNat k.data
    refine ⟨_, exec_juwinPacket hc hcrc hseq, hkept.waves, ?_, fun n hne => ?_, fun hforeign => ?_, fun hctx hpart hva hn hin => ?_⟩
    · rw [hkept.conns]
      exact State.find?_counted_same hc
    · rw [hkept.conns]
      exact State.find?_counted_ne s hne
    · change juwinDropped s ((s.withConns (s.counted k)).juwinWrite c k.addr.toNat k.data) k.conn 0x04
      rw [← hconn, State.juwinWrite_foreign (s := s.withConns (s.counted k)) hforeign]
      exact juwinDropped.of_walked (tlbWalked.refl s) ..
    · obtain ⟨f, z, ht⟩ : ∃ f z, s.translate netTlb c.ctx k.addr.toNat .w = (f, z) := ⟨_, _, rfl⟩
      rw [ht]
      dsimp only
      have hdrop (e : Nat) (hz : z ≠ .writeProtect) (he : juwinAnswer s c.ctx k.data.length z = .error e) :
          juwinDropped s ((s.withConns (s.counted k)).juwinWrite c k.addr.toNat k.data) k.conn e := by
        have hwalk := tlbWalked.translate s netTlb c.ctx k.addr.toNat .w
        rw [ht] at hwalk
        rw [← hconn, State.juwinWrite_one hctx hpart hva hn hin ht hz, he]
        exact juwinDropped.of_walked hwalk ..
      refine ⟨fun hz => hdrop 0x05 (by simp [hz]) (by rw [hz]; rfl), fun hz => hdrop 0x04 (by simp [hz]) (by rw [hz]; rfl), fun t hz hd hline => ⟨fun hcut => ?_, fun hcut => ?_⟩⟩
      · refine hdrop 0x15 (by simp [hz]) ?_
        rw [hz, juwinAnswer, hcut, if_neg (by rw [hd]; simp), if_pos rfl]
      · obtain rfl : z = .ok t := hz
        obtain ⟨hnacks, hother, hread⟩ := State.juwinWrite_dev hm.store hctx hpart hva hn hin ht hd hline hcut (s.counted k)
        exact ⟨hnacks, hother, fun hdata hfail => hread ⟨hdata, hfail⟩⟩
  · obtain ⟨u, hu, hstore, hword, hheld⟩ := State.unmask_leaves hm fn v
    have hmask : (0x100000000 : Word) = 1#64 <<< 32 := by decide
    rw [hmask] at hword
    refine ⟨u, hu, (hword _).trans (if_pos rfl), hstore, fun j _ hj => (hword j).trans (if_neg (Ne.symm hj)), fun hp => ⟨fun hf => ?_, (hheld hp).2⟩⟩
    exact (hheld hp).1 hf

end Sys2Proof.Machine
end

section
/-! SUPPORT and SETTLEMENT of O44: a lighter command over a memory that is not in canonical form, which refutes `LighterMoves` (R97, R266, R335). -/

open Sys2Proof

namespace Sys2Proof.Machine

/-! ## The command and its state

`Claim.LighterIntoScratch` speaks of every memory, not only of one in canonical form (`memOk`). A line's side band can then stand twice in the list, and only the
first entry is read. Reading a replicated line of another die leaves a copy on the reader's die (R335); the view of the next read puts that copy into the list, and
so deletes the first entry of a zero: the second entry is read from then on. -/

/-- Two rows of one byte, both from address 0, to bytes 0 and 1 of scratch, from a replicated page at 0x100000, whose home is another die than core 0's. -/
def twiceRead : LitCmd where
  id := 1
  gwn := 0
  crew := 1
  pc := 0
  slot := none
  words := [0x100000001, 0, 0, 0x100000000]
  tabBank := 0
  started := true
  parked := false
  pages := [⟨0, 65536, ⟨.dev, 0x100000, 0, 0, 0, true, 0, 1⟩⟩]
  row := 0
  writing := false
  pos := 0
  buffer := []
  wrote := []

/-- The wave that issued it. -/
def twiceWave : Wave := { Wave.hmReset 0 with gwn := 0, crew := 1 }

/-- The wave's crew, with one unit of scratch that is zero. -/
def twiceCrew : Crew := { loaderCrew with units := 1 }

/-- A memory of zeros whose line 0x4000 has two entries in the side band: that of a line of zeros, then that of a line whose number is 1. -/
def twiceStore : Store :=
  { Store.reset with side := [(0x4000, 0), (0x4000, BitVec.ofNat 64 ((lineFmt 0 0).fresh 1 none).side)] }

/-- The device in which core 0 runs that command. -/
def twiceState : State :=
  { State.reset with
    me := twiceWave
    crews := [twiceCrew]
    store := twiceStore
    cores := [{ FarCore.empty 0 with lit := [twiceRead] }] }

/-- The memory is not in canonical form: `memOk` does not hold. -/
theorem twiceStore_not_wf : twiceStore.wf = false := by decide +kernel

/-- The command stands as the claim asks. -/
theorem twiceState_fresh : Claim.fresh twiceState 0 0 twiceRead twiceCrew twiceWave :=
  ⟨rfl, by decide +kernel, rfl, rfl, rfl, rfl, rfl, rfl, by decide +kernel, rfl, by decide +kernel, rfl, rfl, rfl, rfl, .inl (by decide +kernel)⟩

/-- Every source byte is served without an error, and over links that have not failed. -/
theorem twiceState_served : ∀ r, r < (litFields twiceRead.words).rows → ∀ i, i < (litFields twiceRead.words).rowBytes →
    let t := twiceRead.target (rowAddr (litFields twiceRead.words).src (litFields twiceRead.words).fstride r + i)
    t.space = .dev ∧ (twiceState.viewFrom (twiceState.dieOf 0) t).cleanAt (t.at_ / 64) t.code = true ∧
      twiceState.cutOff (twiceState.dieOf 0) 1 t = false := by
  decide +kernel

/-! ## What the command leaves -/

/-- A byte of scratch of crew 1 in the state that an instruction answers. -/
def scratchAfter (i : Instr) (s : State) (a : Nat) : Option Byte :=
  match exec i s with
  | .next u => (u.crew? 1).map fun c => Cells.get c.scratch a
  | _ => none

/-- Byte 1 of scratch is the corrected 1 of the second entry. -/
theorem scratchAfter_twiceState : scratchAfter (.convNone 0 0) twiceState 1 = some 1 := by decide +kernel

/-- Refutes O44: the clause for commands into scratch omits that memory is in canonical form, without which the copy that the first row's read leaves on the reader's
die changes what the second row's read of the same line finds. -/
theorem not_lighterMoves : ¬ Obligations.LighterMoves := by
  intro h
  obtain ⟨-, into, -⟩ := h
  obtain ⟨u, c', z, hrun, hcrew, -, -, -, hbytes, -⟩ := into twiceState 0 0 twiceRead twiceCrew twiceWave twiceState_fresh (.inl (by decide +kernel))
    fun _ => ⟨rfl, by decide +kernel, fun r i hr hi => twiceState_served r hr i hi⟩
  rw [if_pos (by decide +kernel)] at hrun
  have hone : Cells.get c'.scratch 1 = 1 := by
    have hscr := scratchAfter_twiceState
    rw [scratchAfter, hrun] at hscr
    simpa [show u.crew? 1 = some c' from hcrew] using hscr
  have hzero := hbytes 1
  rw [hone] at hzero
  exact absurd hzero (by decide +kernel)

end Sys2Proof.Machine
end
